-- ==== Sys2Proof/Word.lean ====
section
/-! DEFINITION. The word types of the GW-4840 (R5 to R7) and the plainest things said of them. -/

namespace Sys2Proof

/-- One byte. -/
abbrev Byte := BitVec 8

/-- A register word: every register is 32 bits wide (R7). -/
abbrev Word := BitVec 32

/-- A 64-bit quantity: a tick number, a tick stamp, a letter counter, a 32.32 position. -/
abbrev DWord := BitVec 64

/-- An IEEE 754 binary32 bit pattern (R190). -/
abbrev F32 := BitVec 32

/-- An IEEE 754 binary64 bit pattern (R190, R282, R544). -/
abbrev F64 := BitVec 64

/-- A table with natural-number keys in one canonical form: keys strictly rising, and no entry whose
value is what an unlisted key reads as. A memory is a table of bytes: `Tab Byte` is `List Host.Cell`. -/
abbrev Tab (α : Type) := List (Nat × α)

end Sys2Proof
end

