-- ==== Sys2Proof/Syntax.lean ====
section
/-! DEFINITION. The commands of the GW-4840: one constructor per row of spec/opcode_table.json. -/

namespace Sys2Proof

/-- The redundancy trailer of a received frame (R513, R515): source MAC, sequence number and LAN identifier. -/
structure Trailer where
  mac : Nat
  seq : Nat
  lan : Nat
  deriving DecidableEq, Repr, Inhabited

/-- Where a datagram came from: port 0 (A) or 1 (B), IPv4 source address and UDP source port, the YCP TAG, and the
redundancy trailer of its frame, if it had a valid one. -/
structure Origin where
  port : Nat
  ip : Nat
  udp : Nat
  tag : Nat
  trailer : Option Trailer
  deriving DecidableEq, Repr, Inhabited

/-- A received IPv4 datagram that carries UDP (R141, R512): where it came from, its destination address and UDP port, whether it
has IPv4 options or a fragment flag, its IPv4 length, and the UDP payload. -/
structure Datagram where
  org : Origin
  dest : Nat
  dport : Nat
  options : Bool
  fragment : Bool
  length : Nat
  data : List Byte
  deriving DecidableEq, Repr, Inhabited

/-- A sealed letter as R126 lays it out, with where it came from. -/
structure Letter where
  org : Origin
  version : Nat
  keyslot : Nat
  role : Nat
  typ : Nat
  seq : Nat
  uid : List Byte
  notBefore : Nat
  notAfter : Nat
  pubkey : List Byte
  body : List Byte
  sig : List Byte
  deriving DecidableEq, Repr, Inhabited

/-- A BULK_REQ datagram: where it came from and its payload (R311). -/
structure Bulk where
  org : Origin
  payload : List Byte
  deriving DecidableEq, Repr, Inhabited

/-- A CAN frame: identifier, format bits, DLC and payload (R469, R496). -/
structure CanFrame where
  id : Nat
  ide : Bool
  fdf : Bool
  brs : Bool
  esi : Bool
  remote : Bool
  dlc : Nat
  data : List Byte
  deriving DecidableEq, Repr, Inhabited

/-- A result of a self-test run (R630): KIND, VERDICT, BIT, INST, ADDRESS and DATA. -/
structure TestRec where
  kind : Nat
  verdict : Nat
  bitNo : Nat
  inst : Nat
  addr : Nat
  data : Nat
  deriving DecidableEq, Repr, Inhabited

/-- A command: what happens to the device, with what its surroundings bring (DESIGN CHOICE, log 2). `e` and `at_` place it on the EDGE
cycles counted from the last boundary (DESIGN CHOICE, log 1). -/
inductive Instr where
  /-- EN_RISE (R57): EN rises, or VIN becomes valid (`vin`); `ret` has a bit for each AON counter whose retention
  check passes. POR is set when VIN becomes valid with no retained counter. -/
  | enRise (vin : Bool) (ret : Nat)
  /-- EN_FALL (R54): with whether the power-fail save completes. -/
  | enFall (saved : Bool)
  /-- POWER_FAIL (R69): with whether the power-fail save completes. -/
  | powerFail (saved : Bool)
  /-- OVIN_SHUTDOWN (R46): VIN becomes invalid. -/
  | ovinShutdown
  /-- OVIN_RECOVERY (R46): VIN becomes valid again after an OVIN shutdown. -/
  | ovinRecovery (ret : Nat)
  /-- RESET_N_LOW (R62): for `ns` nanoseconds at least (R62): from 1 us a reset, below 200 ns nothing, between them
  either, as R706 leaves it. -/
  | resetNLow (ns : Nat)
  /-- RESET_N_RELEASE (R62). -/
  | resetNRelease
  /-- POWER_GOOD (R52): the rails have been in their windows for 1 ms and the PLL is locked; BOOT begins unless
  RESET_N is low. -/
  | powerGood
  /-- RAIL_OUT_OF_WINDOW (R53). -/
  | railOutOfWindow
  /-- RAIL_RETRY (R53). -/
  | railRetry
  /-- CURRENT_LIMIT_CYCLE (R51): of phase `n`; `again` says whether its cycle before was limited too. -/
  | currentLimitCycle (n : Nat) (again : Bool)
  /-- PHASE_NO_RIPPLE (R47): a rail fault. -/
  | phaseNoRipple
  /-- TJ_HIGH (R55). -/
  | tjHigh
  /-- THERMAL_RESET (R55). -/
  | thermalReset
  /-- THERMAL_RECOVER (R55). -/
  | thermalRecover
  /-- CLOCK_LOSS (R643): of the reference (`reference`) or of the PLL's lock alone. -/
  | clockLoss (reference : Bool)
  /-- WAKE_RISE (R57): after a SLEEP letter, KEEP is left with cause WAKE. -/
  | wakeRise (ret : Nat)
  /-- AON_CRYSTAL_STOP (R67). -/
  | aonCrystalStop
  /-- AON_SECOND (R67): with the retries of the crossings that carry it. -/
  | aonSecond (retries e : Nat)
  /-- COUNTER_SAVE (R68): with the cycles the write waited. -/
  | counterSave (wait : Nat)
  /-- BOOT_POST (R627): ENVM and the known-answer tests of the configuration path pass or not, with the memories'
  results. -/
  | bootPost (envm path : Bool) (l : List TestRec)
  /-- TEST_POST (R627). -/
  | testPost (l : List TestRec)
  /-- IMAGE_LOAD (R112): the load that LOAD makes, with the flash addresses that cannot be read and a DRAM page of the
  configuration copy with an uncorrectable error. -/
  | imageLoad (bad : List Nat) (ecc : Option Nat) (e : Nat)
  /-- TICK_BOUNDARY (R23): with whether the counter write in progress has begun and the key slots whose hash does not
  read back after programming. -/
  | tickBoundary (writing : Bool) (otpBad : List Nat)
  /-- WATCHDOG_EXPIRY (R63): with the bits of other causes that arise with it, and whether the running tick's
  checkpoint was complete and a letter's counter write had begun. -/
  | watchdogExpiry (more : Nat) (complete writing : Bool) (e : Nat)
  /-- FATAL_FAULT (R64). -/
  | fatalFault (more : Nat) (complete writing : Bool) (e : Nat)
  /-- RESTORE_COMPLETE (R74): with the flash addresses that cannot be read, whether the checkpoint has an
  uncorrectable error, a page of the configuration copy that has one, and per trigger engine the frames of its lap
  from PRE on that reached DRAM. -/
  | restoreComplete (bad : List Nat) (ckptBad : Bool) (ecc : Option Nat) (laps : List Nat) (e : Nat)
  /-- HOLD_TIMEOUT (R76). -/
  | holdTimeout (e : Nat)
  /-- LETTER_RECEIVE (R132): with the cycles a letter waited at the command queue entry. -/
  | letterReceive (o : Origin) (b : List Byte) (wait e : Nat)
  /-- LETTER_VERIFY (R133). -/
  | letterVerify (e : Nat)
  /-- COUNTER_WRITE_DONE (R130): with the cycles the write waited. -/
  | counterWriteDone (wait e : Nat)
  /-- REFUSAL_RUN_CLOSE (R135). -/
  | refusalRunClose (code port : Nat)
  /-- START (R57). -/
  | start (l : Letter)
  /-- RUN (R251). -/
  | run (l : Letter)
  /-- HOLD (R240). -/
  | hold (l : Letter)
  /-- RESUME (R242). -/
  | resume (l : Letter)
  /-- ABORT (R243). -/
  | abort (l : Letter)
  /-- PARAMSET (R227). -/
  | paramset (l : Letter) (fin : Nat)
  /-- SNAPPOLICY (R334). -/
  | snappolicy (l : Letter)
  /-- CELLMODE (R178). -/
  | cellmode (l : Letter)
  /-- MOVE (R426). -/
  | move (l : Letter)
  /-- HOME (R427). -/
  | home (l : Letter)
  /-- CALIBRATE (R365). -/
  | calibrate (l : Letter)
  /-- CALIBRATION_WRITE_DONE (R365): with the cycles the write waited. -/
  | calibrationWriteDone (ok : Bool) (wait : Nat)
  /-- CLEARLOG (R609). -/
  | clearlog (l : Letter)
  /-- STORE_BEGIN (R140). -/
  | storeBegin (l : Letter)
  /-- STORE_DATA (R140). -/
  | storeData (l : Letter)
  /-- STORE_FINISH (R140). -/
  | storeFinish (l : Letter)
  /-- RELOAD (R57). -/
  | reload (l : Letter) (writing : Bool)
  /-- CLEARSAFE (R57). -/
  | clearsafe (l : Letter)
  /-- SLEEP (R66). -/
  | sleep (l : Letter)
  /-- TIME_RESTEP (R548). -/
  | timeRestep (l : Letter)
  /-- REGWRITE (R139). -/
  | regwrite (l : Letter)
  /-- SAFEAUTH (R586). -/
  | safeauth (l : Letter)
  /-- LIFECYCLE (R119). -/
  | lifecycle (l : Letter)
  /-- KEYSET (R124). -/
  | keyset (l : Letter) (good : Bool)
  /-- KEYREVOKE (R124). -/
  | keyrevoke (l : Letter)
  /-- BIST (R634). -/
  | bist (l : Letter)
  /-- BIST_COMPLETE (R634): after `ms` milliseconds (R634): a load without resume follows, and a failure of the
  island, the configuration path or ENVM holds the device in BOOT. -/
  | bistComplete (envm path : Bool) (l : List TestRec) (ms : Nat)
  /-- FUSE (R633). -/
  | fuse (l : Letter)
  /-- PWRSTAGE (R48). -/
  | pwrstage (l : Letter)
  /-- READ (R143): a READ datagram. -/
  | read (o : Origin) (b : List Byte) (e : Nat)
  /-- YCP_DISCARD (R141): a datagram whose headers the port judges. -/
  | ycpDiscard (g : Datagram) (e : Nat)
  /-- DUPLICATE_DISCARD (R515). -/
  | duplicateDiscard (o : Origin) (letter : Bool) (e : Nat)
  /-- TRACE_READ (R313). -/
  | traceRead (b : Bulk) (e : Nat)
  /-- TRACE_CONSUME (R315). -/
  | traceConsume (b : Bulk) (e : Nat)
  /-- LAP_READ (R313). -/
  | lapRead (b : Bulk) (e : Nat)
  /-- LAP_CONSUME (R315). -/
  | lapConsume (b : Bulk) (e : Nat)
  /-- SNAP_READ (R333). -/
  | snapRead (b : Bulk) (e : Nat)
  /-- READOUT_DATAGRAM (R314). -/
  | readoutDatagram (wait e : Nat)
  /-- SNAP_REQ (R330): with the payload of its datagram. -/
  | snapReq (o : Origin) (b : List Byte) (wait e : Nat)
  /-- PHOTO_FINISH_READY (R328). -/
  | photoFinishReady (e : Nat)
  /-- EVR_SEEK (R607): over the network, or by a maintenance-port write of EVR.CURSOR. -/
  | evrSeek (b : Option Bulk) (cursor : Word)
  /-- EVR_FREEZE (R608). -/
  | evrFreeze (b : Option Bulk)
  /-- EVR_UNFREEZE (R608). -/
  | evrUnfreeze (b : Option Bulk)
  /-- FREEZE_TIMEOUT (R608). -/
  | freezeTimeout
  /-- HOST_HEARTBEAT (R516). -/
  | hostHeartbeat (o : Origin) (b : List Byte) (e : Nat)
  /-- DEVICE_HEARTBEAT (R517): with the cycles it waited at the port's transmit (R337). -/
  | deviceHeartbeat (p wait e : Nat)
  /-- PATH_LOST (R519). -/
  | pathLost (p e : Nat)
  /-- BOTH_LOST_REACTION (R526). -/
  | bothLostReaction
  /-- BATON_MOVE (R520). -/
  | batonMove (e : Nat)
  /-- STANDBY_VERIFY (R522). -/
  | standbyVerify (o : Origin) (b : List Byte) (e : Nat)
  /-- BATON_SKEW_TIMEOUT (R523). -/
  | batonSkewTimeout (e : Nat)
  /-- HELD_COPY_TIMEOUT (R524). -/
  | heldCopyTimeout (e : Nat)
  /-- PRP_SUPERVISION (R513). -/
  | prpSupervision
  /-- PORT_START (R510). -/
  | portStart (p : Nat) (sync anDone : Bool) (e : Nat)
  /-- MDIO_POLL (R510). -/
  | mdioPoll (p : Nat) (link : Bool)
  /-- ARP_REFRESH (R512). -/
  | arpRefresh (p : Nat)
  /-- ARP_REQUEST (R512): from the origin's address, for `target`. -/
  | arpRequest (o : Origin) (target e : Nat)
  /-- ICMP_ECHO (R512). -/
  | icmpEcho (o : Origin) (len : Nat) (data : List Byte) (e : Nat)
  /-- RX_LOCK_LOSS (R655). -/
  | rxLockLoss (p : Nat) (long : Bool) (e : Nat)
  /-- SAFETY_FRAME_SEND (R582): of connection `c`, with the cycles it waited at the transmit of port A and port B (R337). -/
  | safetyFrameSend (c waitA waitB e : Nat)
  /-- SAFETY_FRAME_RECEIVE (R529): on port `p`. -/
  | safetyFrameReceive (p : Nat) (b : List Byte) (e : Nat)
  /-- SAFETY_WATCHDOG (R530): of connection `c`. -/
  | safetyWatchdog (c e : Nat)
  /-- PTP_SYNC (R544): a Sync from peer `peer`; one-step, or waiting for its Follow_Up. -/
  | ptpSync (peer domain seq : Nat) (twoStep : Bool) (t1 corr : Int) (raw : Nat) (e : Nat)
  /-- PTP_FOLLOW_UP (R543). -/
  | ptpFollowUp (peer domain seq : Nat) (t1 corr : Int) (e : Nat)
  /-- PTP_ANNOUNCE (R547): (R547, R548): the grandmaster's identity as two words, and currentUtcOffset. -/
  | ptpAnnounce (peer domain : Nat) (gm0 gm1 : Word) (utc : Int) (e : Nat)
  /-- PTP_DELAY_RESP (R543): (R543): t4 completes the E2E exchange; the asymmetry terms cancel in the mean. -/
  | ptpDelayResp (peer domain seq : Nat) (t4 corr : Int)
  /-- PTP_DELAY_REQ (R538): (R538): a master answers an enabled peer with the ingress stamp. -/
  | ptpDelayReq (peer domain seq : Nat) (corr : Int) (raw : Nat)
  /-- PTP_PDELAY (R538): (R538, R543): from peer 0 in P2P mode, a Pdelay_Req (kind 0), a Pdelay_Resp with t2 (kind 1)
  or its follow-up with t3 (kind 2). -/
  | ptpPdelay (peer domain kind seq : Nat) (ts corr : Int) (raw tx : Nat)
  /-- PTP_MASTER_SEND (R538): (R538): Announce (kind 11) or Sync with Follow_Up (kind 0) to each enabled peer, with
  the egress stamp of the Sync. -/
  | ptpMasterSend (kind : Nat) (raws : List Nat)
  /-- PTP_DISCARD (R537). -/
  | ptpDiscard
  /-- ANNOUNCE_RECEIPT_TIMEOUT (R547): (R547): no Announce within the timeout, or (`syncs`) 16 Sync intervals without
  a valid offset. It concerns a slave that exchanges messages. -/
  | announceReceiptTimeout (syncs : Bool)
  /-- TIME_MARK (R551). -/
  | timeMark (e : Nat)
  /-- TPO_ARM (R553): a write of TPO.CTRL of generator `n`. -/
  | tpoArm (n : Nat) (w : Word)
  /-- TPO_PULSE (R554). -/
  | tpoPulse (n e : Nat)
  /-- TPO_PULSE_END (R554). -/
  | tpoPulseEnd (n e : Nat)
  /-- TCI_EDGE (R557): an edge on TCIn; a level shorter than 5 ns may go unseen. -/
  | tciEdge (n : Nat) (rising short : Bool) (e : Nat)
  /-- START_TIMER_FIRE (R347). -/
  | startTimerFire (n : Nat)
  /-- ADC_START (R348): the start source of core `c` gives an event; an in-service test defers the sampling of entry 0 by
  `lag` CONV cycles (R355, R636). -/
  | adcStart (c lag e : Nat)
  /-- ADC_CONVERSION_DONE (R354): core `c` delivers a code. -/
  | adcConversionDone (c : Nat) (code : Int) (e : Nat)
  /-- ADC_SELF_TEST (R636). -/
  | adcSelfTest (c : Nat) (ref zero : Int)
  /-- DIO_INPUT_TRANSITION (R383): ball `n` takes level `v` at the synchroniser; a chatter report reaches the axes. -/
  | dioInputTransition (n : Nat) (v short : Bool) (lag e : Nat)
  /-- DEBOUNCE_ACCEPT (R392). -/
  | debounceAccept (n lag e : Nat)
  /-- PERIOD_EDGE (R394): a transition of a ball in PERIOD or FREQ mode. -/
  | periodEdge (n : Nat) (v short : Bool) (lag e : Nat)
  /-- PERIOD_TIMEOUT (R394). -/
  | periodTimeout (n lag e : Nat)
  /-- CAPTURE_EDGE (R395): a transition of a ball in CAPTURE mode. -/
  | captureEdge (n : Nat) (v short : Bool) (lag e : Nat)
  /-- ENCODER_TRANSITION (R396): A and B of encoder `m` in one EDGE sample. -/
  | encoderTransition (m : Nat) (a b : Bool) (e : Nat)
  /-- ENCODER_INDEX (R397): a new level of Z. -/
  | encoderIndex (m : Nat) (z : Bool) (e : Nat)
  /-- PWM_PERIOD_START (R387). -/
  | pwmPeriodStart (n e : Nat)
  /-- PWM_EDGE (R390): a rise (0), fall (1) or centre (2) time. -/
  | pwmEdge (n kind e : Nat)
  /-- PULSE_RISE (R391). -/
  | pulseRise (n e : Nat)
  /-- PULSE_FALL (R391). -/
  | pulseFall (n e : Nat)
  /-- ILK_EDGE (R400): ball ILKj takes a level; a pulse shorter than 2.0 ns may have no effect. -/
  | ilkEdge (j : Nat) (v short : Bool) (e : Nat)
  /-- ILK_CLR (R399): a write of ILK.CLR. -/
  | ilkClr (w : Word)
  /-- SERVO_PERIOD_START (R452). -/
  | servoPeriodStart (d : Nat)
  /-- STRIDE_REPLY (R455): the payload and CRC of a frame received in reply slot `sl` of port `d`, which reaches the axis and the
  slots at EDGE cycle `e`: its CRC ended `lag` EDGE cycles before, and its preamble began `len` before that. -/
  | strideReply (d sl : Nat) (b : List Byte) (len lag wait e : Nat)
  /-- STRIDE_ANNOUNCE (R457): the payload and CRC of a frame received in the announce slot, whose CRC ends at EDGE cycle `e`, `len`
  EDGE cycles after its preamble began. -/
  | strideAnnounce (d : Nat) (b : List Byte) (len e : Nat)
  /-- STRIDE_FRAME_DISCARD (R454): a frame that is no REPLY and no ANNOUNCE ends at EDGE cycle `e`, `len` after it began. -/
  | strideFrameDiscard (d len e : Nat)
  /-- REPLY_SLOT_CLOSE (R459). -/
  | replySlotClose (d sl e : Nat)
  /-- CAN_FRAME_RECEIVE (R482): a frame whose last EOF bit is at EDGE cycle `e`; its slot writes reach the table `lag` EDGE
  cycles later. -/
  | canFrameReceive (c : Nat) (f : CanFrame) (lag wait e : Nat)
  /-- CAN_RX_TIMEOUT (R484). -/
  | canRxTimeout (c o : Nat)
  /-- CAN_FRAME_SENT (R487): the frame that the controller began `len` EDGE cycles before ends acknowledged, with the delay
  measured in it. -/
  | canFrameSent (c tdcv len e : Nat)
  /-- CAN_ACK_ERROR (R493): the frame that the controller began `len` EDGE cycles before, with the delay measured in it. -/
  | canAckError (c : Nat) (dominant : Bool) (tdcv len e : Nat)
  /-- CAN_BUS_ERROR (R490): as transmitter, of the frame that the controller began `len` EDGE cycles before, with the delay
  measured in it if the error came after the measurement. -/
  | canBusError (c lec : Nat) (tx : Bool) (extra : Nat) (tdcv : Option Nat) (len e : Nat)
  /-- CAN_ARBITRATION_LOST (R489): of the frame that the controller began `len` EDGE cycles before. -/
  | canArbitrationLost (c len e : Nat)
  /-- BUS_OFF_RECOVERY (R491). -/
  | busOffRecovery (c e : Nat)
  /-- SEPTED_ANNOUNCE (R501): from node `n` with its 20 bytes of payload. -/
  | septedAnnounce (c n : Nat) (b : List Byte) (e : Nat)
  /-- SEPTED_HEARTBEAT (R501): from node `n` with its 4 bytes of payload. -/
  | septedHeartbeat (c n : Nat) (b : List Byte) (e : Nat)
  /-- SEPTED_LEAVE (R502): from node `n` with its byte of payload. -/
  | septedLeave (c n : Nat) (b : List Byte) (e : Nat)
  /-- NODE_ABSENCE_TIMEOUT (R502): of entry `en` of CANc. -/
  | nodeAbsenceTimeout (c en e : Nat)
  /-- NODE_LEAVE_STALE (R503): at a boundary, the objects of bound entries that have left write STALE and lanes react.
  -/
  | nodeLeaveStale
  /-- STEP_EXIT (R239): the exits that are met now; the winning one is taken. -/
  | stepExit (t e : Nat)
  /-- TRIGGER_CONDITION_MET (R237): condition `i` of the current step of lane `t`, a TRIGGER that is true. -/
  | triggerConditionMet (t i e : Nat)
  /-- TIMER_CONDITION (R237): the elapsed time reaches the operand of condition `i`, a TIMER. -/
  | timerCondition (t i e : Nat)
  /-- STEP_TIMEOUT (R237): the elapsed time reaches the resolved DURATION. -/
  | stepTimeout (t e : Nat)
  /-- STEP_ENTER (R229): at a boundary, the successor of an exit that entered nothing yet. -/
  | stepEnter (t : Nat)
  /-- BANK_BUILD_COMPLETE (R259): the edge part or tick part of bank `b` is complete for the present tick, or for the
  next one. -/
  | bankBuildComplete (t b : Nat) (edge next : Bool) (e : Nat)
  /-- ABORTMAX_EXCEEDED (R244): at a boundary. -/
  | abortmaxExceeded (t : Nat)
  /-- NODE_LOST_REACTION (R245): at a boundary. -/
  | nodeLostReaction (t : Nat)
  /-- TRACE_INTERVAL_CLOSE (R283): the frame of the intervals that closed enters the write queue of tile `t`. -/
  | traceIntervalClose (t : Nat)
  /-- TRACE_FRAME_WRITE (R308). -/
  | traceFrameWrite (t : Nat)
  /-- TRIGGER_OCCURRENCE (R297): the conditions in mask `m` of engine `e` become true. -/
  | triggerOccurrence (e m at_ : Nat)
  /-- FORCED_TRIGGER (R299). -/
  | forcedTrigger (e at_ : Nat)
  /-- LAP_COMPLETE (R298): a lap that holds frame L - 1 completes. -/
  | lapComplete (e : Nat)
  /-- LAP_REARM (R298). -/
  | lapRearm (e at_ : Nat)
  /-- LAP_HEADER_WRITTEN (R298). -/
  | lapHeaderWritten (e : Nat)
  /-- EVENT_CREATE (R601). -/
  | eventCreate (code source : Nat) (p0 p1 p2 p3 : Word) (wait : Nat)
  /-- EVENT_WINDOW_CLOSE (R708). -/
  | eventWindowClose (code scope : Nat)
  /-- LOG_WRITE_DONE (R602). -/
  | logWriteDone (ok : Bool) (wait : Nat)
  /-- FAULT_N_PULSE (R611): in DEGRADED the pulse begins or ends. -/
  | faultNPulse (low : Bool)
  /-- CHK_START (R619): a write of CHK.CTRL with START 1. -/
  | chkStart (c space poly e : Nat)
  /-- CHK_ABORT (R619): a write of 1 to CHK.CTRL.ABORT. -/
  | chkAbort (c done e : Nat)
  /-- CHK_SCAN_DONE (R620). -/
  | chkScanDone (c : Nat) (ecc : Option Nat) (e : Nat)
  /-- LANE_TEST_PERIOD (R635). -/
  | laneTestPeriod (t : Nat)
  /-- LANE_TEST_SEGMENT_DONE (R635). -/
  | laneTestSegmentDone (t : Nat) (pass : Bool) (sig : Word)
  /-- LANE_TEST_YIELD (R635). -/
  | laneTestYield (t : Nat)
  /-- ISLAND_CYCLE (R563): of channel `x` with the levels of its half of the input pairs, and a cause its monitors
  found. -/
  | islandCycle (x lv fault : Nat) (found : TestRec) (e : Nat)
  /-- SFAULT_RISE (R566): a high SFAULT takes the device from RUN to SAFE at the next boundary. -/
  | sfaultRise
  /-- DISCREPANCY_LOCKOUT (R570): of input `i`. -/
  | discrepancyLockout (i e : Nat)
  /-- DEMAND_DELAY_EXPIRY (R573): of equation `q`. -/
  | demandDelayExpiry (q e : Nat)
  /-- READBACK_MISMATCH (R577): of channel `c`. -/
  | readbackMismatch (c : Nat) (bfb : Bool) (e : Nat)
  /-- SAFE_N_READBACK_FAULT (R564). -/
  | safeNReadbackFault (e : Nat)
  /-- TEST_PULSE_START (R578): of channel `c`. -/
  | testPulseStart (c e : Nat)
  /-- TEST_PULSE_END (R578): of channel `c`, with the level of BFB. -/
  | testPulseEnd (c : Nat) (bfb : Bool) (e : Nat)
  /-- HOLDING_TEST_DUE (R580): of channel `c`. -/
  | holdingTestDue (c : Nat)
  /-- HOLDING_TEST_OVERDUE (R580): of channel `c`. -/
  | holdingTestOverdue (c : Nat)
  /-- HOLDING_TEST_START (R580): of channel `c`. -/
  | holdingTestStart (c : Nat)
  /-- HOLDING_TEST_STEP_END (R581): of channel `c`. -/
  | holdingTestStepEnd (c : Nat)
  /-- MAINT_FRAME_ERROR (R687): a frame of the wrong length or with an unknown CMD. -/
  | maintFrameError (e : Nat)
  /-- NOP (R689). -/
  | nop (e : Nat)
  /-- ADR (R690): with its command byte and DATA. -/
  | adr (cmd data e : Nat)
  /-- RDL (R690). -/
  | rdl (e : Nat)
  /-- RDH (R690). -/
  | rdh (e : Nat)
  /-- WRL (R689). -/
  | wrl (data e : Nat)
  /-- WRH (R691). -/
  | wrh (data e : Nat)
  /-- IRQACK (R689). -/
  | irqack (data e : Nat)
  /-- PBA_WR (R695). -/
  | pbaWr (data e : Nat)
  /-- PBD_RD (R695). -/
  | pbdRd (e : Nat)
  /-- PBD_WR (R698). -/
  | pbdWr (data e : Nat)
  /-- TICK_LO_READ (R18). -/
  | tickLoRead (p e : Nat)
  /-- SIG_VAL_READ (R20): of slot `n`. -/
  | sigValRead (p n e : Nat)
  /-- TIME_NS_READ (R549). -/
  | timeNsRead (p e : Nat)
  /-- BTICK_LO_READ (R550). -/
  | btickLoRead (p e : Nat)
  /-- TCI_NS_READ (R557): of input `n`. -/
  | tciNsRead (p n e : Nat)
  /-- LO_REGISTER_READ (R411): at `a`: SNAP.NEWEST_LO, SNAP.OLDER_LO or an axis _LO register; a read of another
  address is the read that R18 to R31 give it. -/
  | loRegisterRead (p a e : Nat)
  /-- EVR_WIN_FETCH (R606). -/
  | evrWinFetch (p : Nat)
  /-- EVR_WIN_ADVANCE (R606). -/
  | evrWinAdvance (p : Nat)
  /-- REGISTER_WRITE (R10): a write of `w` at `a` by access port `p`, carried by a sealed letter or by the maintenance
  port, whose writes are a write path only in PROVISIONED and RETURNED. -/
  | registerWrite (p : Nat) (sealed_ : Bool) (a : Nat) (w : Word) (e : Nat)
  /-- BAD_ACCESS (R8): an access that is not an aligned 32-bit one (`aligned` false), or one to `a` where no register
  lies. -/
  | badAccess (a : Nat) (aligned : Bool) (e : Nat)
  /-- AON_CRYSTAL_START (R682). -/
  | aonCrystalStart
  /-- RX_LOCK_RETURN (R655). -/
  | rxLockReturn (p : Nat) (sync anDone : Bool) (e : Nat)
  /-- CODE_GROUP_ERROR (R651). -/
  | codeGroupError (p : Nat) (merged : Bool) (e : Nat)
  /-- ARP_REPLY (R512): from the origin's address. -/
  | arpReply (o : Origin) (e : Nat)
  /-- RECEIVED_FRAME_DISCARD (R512). -/
  | receivedFrameDiscard (p : Nat) (supervision : Bool) (e : Nat)
  /-- CAN_BUS_INTEGRATED (R495). -/
  | canBusIntegrated (c : Nat)
  /-- DELAY_REQ_SEND (R543): (R543): Delay_Req, or Pdelay_Req in P2P mode, with its egress stamp. A master sends
  Pdelay_Req to peer 0 in P2P mode. -/
  | delayReqSend (raw : Nat)
  deriving DecidableEq, Repr

end Sys2Proof
end

