-- ==== Sys2Proof/Decode.lean ====
section
/-! DEFINITION. The command table gives no row any bits: the device takes commands, and no word spells one. -/

namespace Sys2Proof

/-- The command that a word of `nbits` bits spells: none, as the table gives its rows no bits. -/
def decodeTableWord (_nbits _w : Nat) : Option Instr := none

end Sys2Proof
end

