-- ==== Sys2Proof/Config.lean ====
section
/-! DEFINITION. The values that R706 leaves undefined, as constants without a body: nothing can be
proved about what they are, so every claim holds for every value. Each is applied to `State.free`,
a counter that a step advances whenever it uses one (DESIGN CHOICE, log 6). -/

namespace Sys2Proof.Config

/-- The result of a CHK scan whose region was written while it ran (R622, R706). -/
opaque scanResult : Nat → BitVec 64

/-- Whether a DIO or TCI level shorter than 5 ns is seen (R383, R557, R706). -/
opaque shortLevelSeen : Nat → Bool

/-- The measurement a seen short level leads to (R383, R706). -/
opaque shortLevelEdge : Nat → Nat

/-- Whether an ILK pulse shorter than 2.0 ns has an effect (R400, R706). -/
opaque shortIlkSeen : Nat → Bool

/-- The change of an encoder count on transitions closer than 5 ns: 0, 1 or 2 stand for -1, 0 and +1 (R396, R706). -/
opaque encoderChange : Nat → Nat

/-- Whether a RESET_N low level of 200 ns to 1 us causes a cold reset (R62, R706). -/
opaque resetGlitch : Nat → Bool

/-- The cause that EV_AXIS_HOME_FAIL carries when entry into SAFE ends a homing, which R437 does not number (R441). -/
opaque homeFailCause : Nat → BitVec 32

/-- Where in 119 to 127 a CAN receive error counter above 127 comes to stand on a good reception (R490). -/
opaque canRecSet : Nat → Nat

/-- How EV_SAFE_BRAKE_TEST spells a result (R581): true for a pass. -/
opaque brakeResult : Bool → BitVec 32

/-- The bytes that a BUSY scan has processed between commands, by EDGE count and channel: the rate of a DRAM scan is not
bounded (R620). -/
opaque scanProgress : Nat → Nat → Nat

/-- DATA of the FAIL record of an in-service ADC test (R630, R638), from the codes of REF and ZERO. -/
opaque adcTestData : Int → Int → BitVec 32

/-- The unit bit number in EV_BIST_POST_FAIL of a DRAM failure, which marks every present tile (R627, R639). -/
opaque dramFailBit : BitVec 32

/-- The number of rows (kind 0) or columns (kind 1) of a memory instance (R631, R633). -/
opaque memorySize : Nat → Nat → Nat

/-- Which buffer of a tile takes a photo finish while neither holds one (R328): true for buffer 1. -/
opaque firstBuffer : Bool

/-- How the standby and baton results are spelt in EV_BATON_MISMATCH (R523): from the first failing step, 0 for PASS. -/
opaque standbyResult : Nat → BitVec 32

/-- The EDGE cycles from B(k) at which a write by a cell or an axis in tick k reaches the signal table, by writer and tick:
within the tick, and no closer bound is given (R161). -/
opaque tileWrite : Nat → Nat → Nat

/-- The bytes of a tile's lap frames that wait in its write queue, by EDGE count and tile: how fast the queue drains is not
given (R305). -/
opaque lapQueued : Nat → Nat → Nat

/-- The page of the staging partition that a readout datagram's data are copied to, by EDGE count (R314). -/
opaque stagingPage : Nat → Nat

end Sys2Proof.Config
end

