-- ==== Sys2Proof/Machine/Bits.lean ====
section
/-! DEFINITION. Bit fields and byte order (R5, R6). -/

namespace Sys2Proof.Machine

/-- The field of `w` that spans bits `h` down to `l` (R5). -/
def fld (w : Word) (h l : Nat) : Nat := (w.toNat / 2 ^ l) % 2 ^ (h + 1 - l)

/-- Bit `i` of `w`. -/
def bit (w : Word) (i : Nat) : Bool := w.getLsbD i

/-- `w` with the field `[h:l]` replaced by `v`. -/
def setFld (w : Word) (h l : Nat) (v : Nat) : Word :=
  let m : Nat := (2 ^ (h + 1 - l) - 1) * 2 ^ l
  (w &&& ~~~ (BitVec.ofNat 32 m)) ||| BitVec.ofNat 32 ((v % 2 ^ (h + 1 - l)) * 2 ^ l)

/-- `w` with bit `i` set to `b`. -/
def setBit (w : Word) (i : Nat) (b : Bool) : Word := setFld w i i b.toNat

/-- The bits `[h:l]` as a mask. -/
def maskOf (h l : Nat) : Word := BitVec.ofNat 32 ((2 ^ (h + 1 - l) - 1) * 2 ^ l)

/-- 1 for true and 0 for false. -/
def b2w (b : Bool) : Word := if b then 1 else 0

/-- A count raised by `n` in a 32-bit register that saturates at 0xFFFF_FFFF. -/
def satAdd (w : Word) (n : Nat) : Word := BitVec.ofNat 32 (min (w.toNat + n) 0xFFFFFFFF)

/-- A natural number cut to a word, saturating at 0xFFFF_FFFF. -/
def satWord (n : Nat) : Word := BitVec.ofNat 32 (min n 0xFFFFFFFF)

/-- The low 32 bits of a 64-bit quantity. -/
def lo32 (d : DWord) : Word := d.truncate 32

/-- The high 32 bits of a 64-bit quantity. -/
def hi32 (d : DWord) : Word := (d >>> 32).truncate 32

/-- The 64-bit quantity with the given halves. -/
def join64 (lo hi : Word) : DWord := hi ++ lo

/-- The value that a list of bytes holds, least significant byte first (R6). -/
def leNat : List Byte → Nat
  | [] => 0
  | b :: r => b.toNat + 256 * leNat r

/-- `n` bytes of a value, least significant byte first (R6). -/
def leBytes : Nat → Nat → List Byte
  | 0, _ => []
  | n + 1, v => BitVec.ofNat 8 v :: leBytes n (v / 256)

/-- `n` bytes of a value, most significant byte first. -/
def beBytes (n v : Nat) : List Byte := (leBytes n v).reverse

/-- The value that a list of bytes holds, most significant byte first. -/
def beNat (l : List Byte) : Nat := leNat l.reverse

/-- The `n` bytes of `l` at offset `o`, bytes past the end reading 0. -/
def slice (l : List Byte) (o n : Nat) : List Byte :=
  let r := (l.drop o).take n
  r ++ List.replicate (n - r.length) 0

/-- The unsigned `n`-byte field of `l` at offset `o`. -/
def uAt (l : List Byte) (o n : Nat) : Nat := leNat (slice l o n)

/-- The 32-bit field of `l` at offset `o`. -/
def wAt (l : List Byte) (o : Nat) : Word := BitVec.ofNat 32 (uAt l o 4)

/-- A word's four bytes, least significant first. -/
def wBytes (w : Word) : List Byte := leBytes 4 w.toNat

/-- A 64-bit quantity's eight bytes, least significant first. -/
def dBytes (d : DWord) : List Byte := leBytes 8 d.toNat

/-- Two's complement value of the low `n` bits of `v`. -/
def signedOf (n v : Nat) : Int :=
  let u := v % 2 ^ n
  if u < 2 ^ (n - 1) then (u : Int) else (u : Int) - (2 ^ n : Nat)

/-- The low `n` bits of an integer in two's complement. -/
def toBits (n : Nat) (i : Int) : Nat := (i % ((2 ^ n : Nat) : Int)).toNat

/-- An integer limited to the range `lo … hi`. -/
def clampInt (x lo hi : Int) : Int := if x < lo then lo else if x > hi then hi else x

/-- The number of 1 bits among the low `n` bits of `v`. -/
def popCount : Nat → Nat → Nat
  | 0, _ => 0
  | n + 1, v => v % 2 + popCount n (v / 2)

/-- The positions of the 1 bits among the low `n` bits of `v`, rising. -/
def bitsOf (n v : Nat) : List Nat := (List.range n).filter (fun i => v.testBit i)

/-- `l` with element `i` replaced by `f` of it. -/
def modifyAt {α : Type} (l : List α) (i : Nat) (f : α → α) : List α :=
  match l, i with
  | [], _ => []
  | a :: r, 0 => f a :: r
  | a :: r, i + 1 => a :: modifyAt r i f

/-- Run `f` over `0 … n-1` in rising order. -/
def forUpTo {σ : Type} (n : Nat) (f : Nat → σ → σ) (s : σ) : σ :=
  (List.range n).foldl (fun s i => f i s) s

/-- Run `f` over a list in order. -/
def forEach {α σ : Type} (l : List α) (f : α → σ → σ) (s : σ) : σ := l.foldl (fun s a => f a s) s

/-- Groups of `n` bytes, the first `k` of them. -/
def chunks {α : Type} (n : Nat) : Nat → List α → List (List α)
  | 0, _ => []
  | k + 1, l => l.take n :: chunks n k (l.drop n)

/-- The whole words of a byte list. -/
def wordsOf (l : List Byte) : List Word :=
  (chunks 4 (l.length / 4) l).map (fun b => BitVec.ofNat 32 (leNat b))

end Sys2Proof.Machine
end

