-- ==== Sys2Proof/Machine/Crc.lean ====
section
/-! DEFINITION. The cyclic redundancy checks of R90, R450, R528, R596, R616 and R617. -/

namespace Sys2Proof.Machine

/-- One bit of a non-reflected CRC of `w` bits. -/
def crcBitMsb (w poly : Nat) (c : Nat) : Nat :=
  if c.testBit (w - 1) then ((c * 2) % 2 ^ w) ^^^ poly else (c * 2) % 2 ^ w

/-- One bit of a reflected CRC with the reflected polynomial. -/
def crcBitLsb (poly : Nat) (c : Nat) : Nat := if c.testBit 0 then (c / 2) ^^^ poly else c / 2

/-- `f` applied `n` times. -/
def iter {α : Type} (f : α → α) : Nat → α → α
  | 0, a => a
  | n + 1, a => iter f n (f a)

/-- A CRC of width `w` that takes bit 7 of each byte first. -/
def crcMsb (w poly init : Nat) (l : List Byte) : Nat :=
  l.foldl (fun c b => iter (crcBitMsb w poly) 8 (c ^^^ (b.toNat * 2 ^ (w - 8)))) init

/-- A CRC that takes bit 0 of each byte first, with the reflected polynomial. -/
def crcLsb (poly init : Nat) (l : List Byte) : Nat :=
  l.foldl (fun c b => iter (crcBitLsb poly) 8 (c ^^^ b.toNat)) init

/-- CRC-32C (R90). -/
def crc32c (l : List Byte) : Nat := crcLsb 0x82F63B78 0xFFFFFFFF l ^^^ 0xFFFFFFFF

/-- CRC-32/ISO-HDLC (R616). -/
def crc32iso (l : List Byte) : Nat := crcLsb 0xEDB88320 0xFFFFFFFF l ^^^ 0xFFFFFFFF

/-- CRC-16/IBM-3740 (R616). -/
def crc16ibm (l : List Byte) : Nat := crcMsb 16 0x1021 0xFFFF l

/-- CRC-64/ECMA-182 (R616). -/
def crc64ecma (l : List Byte) : Nat := crcMsb 64 0x42F0E1EBA9EA3693 0 l

/-- The CRC-8 of an event record (R596). -/
def crc8 (l : List Byte) : Nat := crcMsb 8 0x07 0 l

/-- The CRC that CHK.CTRL.POLY selects (R616). -/
def crcOfPoly (poly : Nat) (l : List Byte) : Nat :=
  if poly = 0 then crc32iso l else if poly = 1 then crc32c l else if poly = 2 then crc16ibm l else crc64ecma l

end Sys2Proof.Machine
end

