-- ==== Sys2Proof/Machine/Float.lean ====
section
/-! DEFINITION. IEEE 754 binary32 and binary64 arithmetic with round to nearest, ties to even (R190):
every operation is done on exact values and rounded once; a NaN result is always the quiet NaN.
Where the spec can be read in two ways the assumption log says what was read: entries 82 (DEDUCED unless marked there otherwise). -/

namespace Sys2Proof.Machine

/-- The exact value of a pattern: a NaN, an infinity, or `(-1)^neg * m * 2^e`. -/
inductive FVal where
  | nan
  | inf (neg : Bool)
  | fin (neg : Bool) (m : Nat) (e : Int)
  deriving DecidableEq, Repr

/-- A binary format: its precision in bits and its exponent bias. -/
structure Fmt where
  prec : Nat
  bias : Nat
  deriving DecidableEq, Repr

/-- binary32. -/
def fmt32 : Fmt := ⟨24, 127⟩

/-- binary64. -/
def fmt64 : Fmt := ⟨53, 1023⟩

/-- The pattern of +infinity. -/
def Fmt.infPat (f : Fmt) : Nat := (2 * f.bias + 1) * 2 ^ (f.prec - 1)

/-- The pattern of the quiet NaN of R190. -/
def Fmt.nanPat (f : Fmt) : Nat := f.infPat + 2 ^ (f.prec - 2)

/-- The pattern's sign bit as a number. -/
def Fmt.signPat (f : Fmt) : Nat := (2 * f.bias + 2) * 2 ^ (f.prec - 1)

/-- The exact value of a pattern. -/
def fDec (f : Fmt) (n : Nat) : FVal :=
  let neg := decide (f.signPat ≤ n)
  let a := n % f.signPat
  let ex := a / 2 ^ (f.prec - 1)
  let fr := a % 2 ^ (f.prec - 1)
  if ex = 2 * f.bias + 1 then (if fr = 0 then .inf neg else .nan)
  else if ex = 0 then .fin neg fr ((2 : Int) - f.bias - f.prec)
  else .fin neg (fr + 2 ^ (f.prec - 1)) ((ex : Int) + 1 - f.bias - f.prec)

/-- Round `(-1)^neg * m * 2^e` to the nearest pattern, ties to even. A caller that has cut bits off `m`
keeps at least `prec + 2` bits and folds the rest into bit 0. -/
def fRound (f : Fmt) (neg : Bool) (m : Nat) (e : Int) : Nat :=
  let s := if neg then f.signPat else 0
  if m = 0 then s
  else
    let top : Int := e + Nat.log2 m
    let emin : Int := 1 - (f.bias : Int)
    let q : Int := (if top < emin then emin else top) - ((f.prec : Int) - 1)
    let r : Nat :=
      if q ≤ e then m * 2 ^ (e - q).toNat
      else
        let d := (q - e).toNat
        let k := m / 2 ^ d
        let rem := m % 2 ^ d
        if 2 * rem > 2 ^ d ∨ (2 * rem = 2 ^ d ∧ k % 2 = 1) then k + 1 else k
    let pat := (q + (f.prec : Int) - 2 + f.bias).toNat * 2 ^ (f.prec - 1) + r
    s + (if pat ≥ f.infPat then f.infPat else pat)

/-- The pattern of a value. -/
def fEnc (f : Fmt) : FVal → Nat
  | .nan => f.nanPat
  | .inf neg => (if neg then f.signPat else 0) + f.infPat
  | .fin neg m e => fRound f neg m e

/-- A signed mantissa. -/
def sMant (neg : Bool) (m : Nat) : Int := if neg then -(m : Int) else m

/-- The exact sum of two values; an exact zero sum is +0 unless both operands are negative zeros. -/
def vAdd : FVal → FVal → FVal
  | .nan, _ => .nan
  | _, .nan => .nan
  | .inf a, .inf b => if a = b then .inf a else .nan
  | .inf a, .fin _ _ _ => .inf a
  | .fin _ _ _, .inf b => .inf b
  | .fin n1 m1 e1, .fin n2 m2 e2 =>
    if m1 = 0 ∧ m2 = 0 then .fin (n1 && n2) 0 0
    else if m1 = 0 then .fin n2 m2 e2
    else if m2 = 0 then .fin n1 m1 e1
    else
      let e := if e1 ≤ e2 then e1 else e2
      let v := sMant n1 m1 * 2 ^ (e1 - e).toNat + sMant n2 m2 * 2 ^ (e2 - e).toNat
      .fin (decide (v < 0)) v.natAbs e

/-- The exact product of two values. -/
def vMul : FVal → FVal → FVal
  | .nan, _ => .nan
  | _, .nan => .nan
  | .inf a, .inf b => .inf (a != b)
  | .inf a, .fin n m _ => if m = 0 then .nan else .inf (a != n)
  | .fin n m _, .inf b => if m = 0 then .nan else .inf (n != b)
  | .fin n1 m1 e1, .fin n2 m2 e2 => .fin (n1 != n2) (m1 * m2) (e1 + e2)

/-- The opposite value. -/
def vNeg : FVal → FVal
  | .nan => .nan
  | .inf a => .inf (!a)
  | .fin n m e => .fin (!n) m e

/-- The quotient of two values to at least `bits` bits, the rest folded into bit 0. -/
def vDiv (bits : Nat) : FVal → FVal → FVal
  | .nan, _ => .nan
  | _, .nan => .nan
  | .inf _, .inf _ => .nan
  | .inf a, .fin n _ _ => .inf (a != n)
  | .fin n _ _, .inf b => .fin (n != b) 0 0
  | .fin n1 m1 e1, .fin n2 m2 e2 =>
    if m2 = 0 then (if m1 = 0 then .nan else .inf (n1 != n2))
    else
      let sh := bits + Nat.log2 m2 + 1
      let num := m1 * 2 ^ sh
      let q := num / m2
      let st := if num % m2 = 0 then 0 else 1
      .fin (n1 != n2) (2 * q + st) (e1 - e2 - sh - 1)

/-- Integer root by bisection: the greatest `r < 2^n + lo` with `r^k ≤ v`. -/
def rootFrom (k v : Nat) : Nat → Nat → Nat
  | 0, lo => lo
  | n + 1, lo => if (lo + 2 ^ n) ^ k ≤ v then rootFrom k v n (lo + 2 ^ n) else rootFrom k v n lo

/-- The `k`-th integer root of `v`. -/
def iroot (k v : Nat) : Nat := rootFrom k v (Nat.log2 v / k + 1) 0

/-- The `k`-th root (2 or 3) of a value to at least `bits` bits; a negative value gives NaN (R190). -/
def vRoot (k bits : Nat) : FVal → FVal
  | .nan => .nan
  | .inf a => if a then .nan else .inf false
  | .fin n m e =>
    if m = 0 then .fin n 0 0
    else if n then .nan
    else
      let sh0 := k * (bits + 2)
      let odd := ((e - sh0) % k).toNat
      let v := m * 2 ^ (sh0 + odd)
      let r := iroot k v
      let st := if r ^ k = v then 0 else 1
      .fin false (2 * r + st) ((e - sh0 - odd) / k - 1)

/-- The order of two finite or infinite values: `some` of less, equal or greater; `none` with a NaN. -/
def vCmp : FVal → FVal → Option Ordering
  | .nan, _ => none
  | _, .nan => none
  | .inf a, .inf b => some (if a = b then .eq else if a then .lt else .gt)
  | .inf a, .fin _ _ _ => some (if a then .lt else .gt)
  | .fin _ _ _, .inf b => some (if b then .gt else .lt)
  | .fin n1 m1 e1, .fin n2 m2 e2 =>
    let e := if e1 ≤ e2 then e1 else e2
    let a := sMant n1 m1 * 2 ^ (e1 - e).toNat
    let b := sMant n2 m2 * 2 ^ (e2 - e).toNat
    some (if a < b then .lt else if a = b then .eq else .gt)

/-- An integer as a value. -/
def vInt (i : Int) : FVal := .fin (decide (i < 0)) i.natAbs 0

/-- The rational `num / den` as a value to at least 80 bits, the rest folded into bit 0. -/
def vRat (num : Int) (den : Nat) : FVal := vDiv 80 (vInt num) (.fin false den 0)

/-- The greatest integer not above a finite value, 0 for a NaN or an infinity. -/
def vFloor : FVal → Int
  | .fin n m e => (sMant n m * 2 ^ e.toNat) / (2 ^ (-e).toNat : Nat)
  | _ => 0

/-- The integer nearest to a finite value, ties to even, 0 for a NaN or an infinity. -/
def vRoundInt : FVal → Int
  | .fin n m e =>
    let d := (-e).toNat
    let a := m * 2 ^ e.toNat
    let k := a / 2 ^ d
    let rem := a % 2 ^ d
    sMant n (if 2 * rem > 2 ^ d ∨ (2 * rem = 2 ^ d ∧ k % 2 = 1) then k + 1 else k)
  | _ => 0

/-- A finite value cut toward zero, 0 for a NaN or an infinity. -/
def vTrunc : FVal → Int
  | .fin n m e => sMant n (m * 2 ^ e.toNat / 2 ^ (-e).toNat)
  | _ => 0

/-- Whether a value is a NaN. -/
def FVal.isNan : FVal → Bool
  | .nan => true
  | _ => false

/-- Whether a value is finite. -/
def FVal.isFin : FVal → Bool
  | .fin _ _ _ => true
  | _ => false

/-! binary32 operations. -/

/-- The exact value of a binary32 pattern. -/
def fv (a : F32) : FVal := fDec fmt32 a.toNat

/-- The binary32 pattern nearest a value. -/
def f32Of (v : FVal) : F32 := BitVec.ofNat 32 (fEnc fmt32 v)

/-- The quiet NaN that arithmetic gives (R190). -/
def nan32 : F32 := 0x7FC00000

/-- +0.0. -/
def zero32 : F32 := 0

def fadd (a b : F32) : F32 := f32Of (vAdd (fv a) (fv b))
def fsub (a b : F32) : F32 := f32Of (vAdd (fv a) (vNeg (fv b)))
def fmul (a b : F32) : F32 := f32Of (vMul (fv a) (fv b))
def fdiv (a b : F32) : F32 := f32Of (vDiv 30 (fv a) (fv b))
/-- `a × b + c` with a single rounding (R190). -/
def fma (a b c : F32) : F32 := f32Of (vAdd (vMul (fv a) (fv b)) (fv c))
def fneg (a : F32) : F32 := f32Of (vNeg (fv a))
def fsqrt (a : F32) : F32 := f32Of (vRoot 2 30 (fv a))
def fabs (a : F32) : F32 :=
  match fv a with
  | .nan => nan32
  | _ => a &&& 0x7FFFFFFF
def flt (a b : F32) : Bool := vCmp (fv a) (fv b) = some .lt
def fle (a b : F32) : Bool := vCmp (fv a) (fv b) = some .lt || vCmp (fv a) (fv b) = some .eq
def feq (a b : F32) : Bool := vCmp (fv a) (fv b) = some .eq
def fIsNan (a : F32) : Bool := (fv a).isNan
def fIsFin (a : F32) : Bool := (fv a).isFin
/-- The binary32 value of an integer. -/
def fOfInt (i : Int) : F32 := f32Of (vInt i)

/-- clamp of R191, a selection. -/
def fclamp (x lo hi : F32) : F32 := if flt x lo then lo else if flt hi x then hi else x

/-- sign of R191: +1, −1 or 0, taken from the value. -/
def fsign (x : F32) : Int := if flt zero32 x then 1 else if flt x zero32 then -1 else 0

/-! binary64 operations. -/

def dv (a : F64) : FVal := fDec fmt64 a.toNat
def f64Of (v : FVal) : F64 := BitVec.ofNat 64 (fEnc fmt64 v)
def dadd (a b : F64) : F64 := f64Of (vAdd (dv a) (dv b))
def dsub (a b : F64) : F64 := f64Of (vAdd (dv a) (vNeg (dv b)))
def dmul (a b : F64) : F64 := f64Of (vMul (dv a) (dv b))
def ddiv (a b : F64) : F64 := f64Of (vDiv 60 (dv a) (dv b))
def dOfInt (i : Int) : F64 := f64Of (vInt i)
def dIsFin (a : F64) : Bool := (dv a).isFin
def dlt (a b : F64) : Bool := vCmp (dv a) (dv b) = some .lt
/-- A binary32 pattern widened to binary64. -/
def d64OfF32 (a : F32) : F64 := f64Of (fv a)
/-- A binary64 pattern rounded to binary32. -/
def f32OfD64 (a : F64) : F32 := f32Of (dv a)
/-- The square root in binary64. -/
def dsqrt (a : F64) : F64 := f64Of (vRoot 2 60 (dv a))
/-- The cube root in binary64. -/
def dcbrt (a : F64) : F64 := f64Of (vRoot 3 60 (dv a))

end Sys2Proof.Machine
end

