-- ==== Sys2Proof/Machine/RegMap.lean ====
section
/-! DEFINITION. The register map (R29, R30, R703 to R705): every register's address under its own name, and the
access code of every field (R10) as masks of the fields that carry it. Bits in no mask are RO or reserved.
An indexed unit's name takes its device-wide index of R13 first, then the register's own index. -/

namespace Sys2Proof.Machine.R

/-- DEV.ID -/
def DEV_ID : Nat := 0
/-- DEV.PRESENT -/
def DEV_PRESENT : Nat := 0x00000010
/-- DEV.PRESENT2 -/
def DEV_PRESENT2 : Nat := 0x00000014
/-- DEV.FAILED -/
def DEV_FAILED : Nat := 0x00000018
/-- DEV.FAILED2 -/
def DEV_FAILED2 : Nat := 0x0000001c
/-- DEV.CAPS -/
def DEV_CAPS : Nat := 0x00000020
/-- DEV.TBASE -/
def DEV_TBASE : Nat := 0x00000030
/-- DEV.TICK_LO -/
def DEV_TICK_LO : Nat := 0x00000038
/-- DEV.TICK_HI -/
def DEV_TICK_HI : Nat := 0x0000003c
/-- DEV.UID -/
def DEV_UID (i : Nat) : Nat := 0x00000040 + 4 * i
/-- PWR.STATE -/
def PWR_STATE : Nat := 0x00004000
/-- PWR.RSTCAUSE -/
def PWR_RSTCAUSE : Nat := 0x00004004
/-- PWR.STAGE -/
def PWR_STAGE : Nat := 0x00004008
/-- PWR.RAILS -/
def PWR_RAILS : Nat := 0x0000400c
/-- PWR.HOLDCFG -/
def PWR_HOLDCFG : Nat := 0x00004010
/-- PWR.WRCNT -/
def PWR_WRCNT : Nat := 0x00004014
/-- PWR.WRSKIP -/
def PWR_WRSKIP : Nat := 0x00004018
/-- PWR.WRTIME -/
def PWR_WRTIME : Nat := 0x0000401c
/-- PWR.OPSEC -/
def PWR_OPSEC : Nat := 0x00004020
/-- PWR.CYCLES -/
def PWR_CYCLES : Nat := 0x00004024
/-- PWR.AONLOST -/
def PWR_AONLOST : Nat := 0x00004028
/-- PWR.LASTFAULT -/
def PWR_LASTFAULT : Nat := 0x0000402c
/-- CLK.STAT -/
def CLK_STAT : Nat := 0x00008000
/-- CLK.RETRYCNT -/
def CLK_RETRYCNT : Nat := 0x00008010
/-- CLK.FIFORST -/
def CLK_FIFORST : Nat := 0x00008014
/-- CLK.CGERRA -/
def CLK_CGERRA : Nat := 0x00008018
/-- CLK.CGERRB -/
def CLK_CGERRB : Nat := 0x0000801c
/-- CLK.MERGE -/
def CLK_MERGE (i : Nat) : Nat := 0x00008100 + 4 * i
/-- CFG.STATUS -/
def CFG_STATUS : Nat := 0x00010000
/-- CFG.REJ0 -/
def CFG_REJ0 : Nat := 0x00010004
/-- CFG.REJ1 -/
def CFG_REJ1 : Nat := 0x00010008
/-- CFG.REJPAR0 -/
def CFG_REJPAR0 : Nat := 0x0001000c
/-- CFG.REJPAR1 -/
def CFG_REJPAR1 : Nat := 0x00010010
/-- CFG.GEN_LO -/
def CFG_GEN_LO : Nat := 0x00010014
/-- CFG.GEN_HI -/
def CFG_GEN_HI : Nat := 0x00010018
/-- CFG.LEN -/
def CFG_LEN : Nat := 0x0001001c
/-- CFG.FLASH -/
def CFG_FLASH : Nat := 0x00010020
/-- CFG.CKPTMIN -/
def CFG_CKPTMIN : Nat := 0x00010024
/-- CFG.HASH -/
def CFG_HASH (i : Nat) : Nat := 0x00010040 + 4 * i
/-- SEAL.LIFE -/
def SEAL_LIFE : Nat := 0x00020000
/-- SEAL.QDEPTH -/
def SEAL_QDEPTH : Nat := 0x00020004
/-- SEAL.BUSYCNT -/
def SEAL_BUSYCNT : Nat := 0x00020008
/-- SEAL.REFCNT -/
def SEAL_REFCNT : Nat := 0x0002000c
/-- SEAL.COMMITCNT -/
def SEAL_COMMITCNT : Nat := 0x00020010
/-- SEAL.LAST -/
def SEAL_LAST : Nat := 0x00020014
/-- SEAL.KEY -/
def SEAL_KEY (i : Nat) : Nat := 0x00020020 + 0x00000010 * i
/-- SEAL.SEQLO -/
def SEAL_SEQLO (i : Nat) : Nat := 0x00020024 + 0x00000010 * i
/-- SEAL.SEQHI -/
def SEAL_SEQHI (i : Nat) : Nat := 0x00020028 + 0x00000010 * i
/-- TIME.CTRL -/
def TIME_CTRL : Nat := 0x00030000
/-- TIME.MSGINT -/
def TIME_MSGINT : Nat := 0x00030004
/-- TIME.LAT -/
def TIME_LAT : Nat := 0x00030008
/-- TIME.ASYM -/
def TIME_ASYM : Nat := 0x0003000c
/-- TIME.KP -/
def TIME_KP : Nat := 0x00030010
/-- TIME.KI -/
def TIME_KI : Nat := 0x00030014
/-- TIME.PRIO -/
def TIME_PRIO : Nat := 0x00030018
/-- TIME.TCICFG -/
def TIME_TCICFG : Nat := 0x0003001c
/-- TIME.PEERIP -/
def TIME_PEERIP (i : Nat) : Nat := 0x00030020 + 4 * i
/-- TIME.PEERMAC_LO -/
def TIME_PEERMAC_LO (i : Nat) : Nat := 0x00030030 + 8 * i
/-- TIME.PEERMAC_HI -/
def TIME_PEERMAC_HI (i : Nat) : Nat := 0x00030034 + 8 * i
/-- TIME.UTCOFS -/
def TIME_UTCOFS : Nat := 0x00030050
/-- TIME.STAT -/
def TIME_STAT : Nat := 0x00030080
/-- TIME.NS -/
def TIME_NS : Nat := 0x00030084
/-- TIME.SEC_LO -/
def TIME_SEC_LO : Nat := 0x00030088
/-- TIME.SEC_HI -/
def TIME_SEC_HI : Nat := 0x0003008c
/-- TIME.TNS -/
def TIME_TNS : Nat := 0x00030090
/-- TIME.OFFSET -/
def TIME_OFFSET : Nat := 0x00030094
/-- TIME.MPD -/
def TIME_MPD : Nat := 0x00030098
/-- TIME.RATE -/
def TIME_RATE : Nat := 0x0003009c
/-- TIME.GMID_LO -/
def TIME_GMID_LO : Nat := 0x000300a0
/-- TIME.GMID_HI -/
def TIME_GMID_HI : Nat := 0x000300a4
/-- TIME.STEPS -/
def TIME_STEPS : Nat := 0x000300a8
/-- TIME.RXDISC -/
def TIME_RXDISC : Nat := 0x000300ac
/-- TIME.BTICK_LO -/
def TIME_BTICK_LO : Nat := 0x000300b0
/-- TIME.BTICK_HI -/
def TIME_BTICK_HI : Nat := 0x000300b4
/-- TIME.BSEC_LO -/
def TIME_BSEC_LO : Nat := 0x000300b8
/-- TIME.BSEC_HI -/
def TIME_BSEC_HI : Nat := 0x000300bc
/-- TIME.BNS -/
def TIME_BNS : Nat := 0x000300c0
/-- TCI.NS -/
def TCI_NS (i : Nat) : Nat := 0x00030100 + 0x00000020 * i
/-- TCI.SEC_LO -/
def TCI_SEC_LO (i : Nat) : Nat := 0x00030104 + 0x00000020 * i
/-- TCI.SEC_HI -/
def TCI_SEC_HI (i : Nat) : Nat := 0x00030108 + 0x00000020 * i
/-- TCI.CNT -/
def TCI_CNT (i : Nat) : Nat := 0x0003010c + 0x00000020 * i
/-- TCI.MERGE -/
def TCI_MERGE (i : Nat) : Nat := 0x00030110 + 0x00000020 * i
/-- TPO.CTRL -/
def TPO_CTRL (i : Nat) : Nat := 0x00030200 + 0x00000020 * i
/-- TPO.START_NS -/
def TPO_START_NS (i : Nat) : Nat := 0x00030204 + 0x00000020 * i
/-- TPO.START_SEC_LO -/
def TPO_START_SEC_LO (i : Nat) : Nat := 0x00030208 + 0x00000020 * i
/-- TPO.START_SEC_HI -/
def TPO_START_SEC_HI (i : Nat) : Nat := 0x0003020c + 0x00000020 * i
/-- TPO.PERIOD -/
def TPO_PERIOD (i : Nat) : Nat := 0x00030210 + 0x00000020 * i
/-- TPO.WIDTH -/
def TPO_WIDTH (i : Nat) : Nat := 0x00030214 + 0x00000020 * i
/-- TPO.STAT -/
def TPO_STAT (i : Nat) : Nat := 0x00030218 + 0x00000020 * i
/-- TPO.COUNT -/
def TPO_COUNT (i : Nat) : Nat := 0x0003021c + 0x00000020 * i
/-- NET.CTRL -/
def NET_CTRL (i : Nat) : Nat := 0x00040000 + 0x00010000 * i
/-- NET.MACLO -/
def NET_MACLO (i : Nat) : Nat := 0x00040004 + 0x00010000 * i
/-- NET.MACHI -/
def NET_MACHI (i : Nat) : Nat := 0x00040008 + 0x00010000 * i
/-- NET.IPADDR -/
def NET_IPADDR (i : Nat) : Nat := 0x0004000c + 0x00010000 * i
/-- NET.NETMASK -/
def NET_NETMASK (i : Nat) : Nat := 0x00040010 + 0x00010000 * i
/-- NET.GATEWAY -/
def NET_GATEWAY (i : Nat) : Nat := 0x00040014 + 0x00010000 * i
/-- NET.HOSTIP -/
def NET_HOSTIP (i : Nat) : Nat := 0x00040018 + 0x00010000 * i
/-- NET.HOSTPORT -/
def NET_HOSTPORT (i : Nat) : Nat := 0x0004001c + 0x00010000 * i
/-- NET.STAT -/
def NET_STAT (i : Nat) : Nat := 0x00040040 + 0x00010000 * i
/-- NET.RXCNT -/
def NET_RXCNT (i : Nat) : Nat := 0x00040044 + 0x00010000 * i
/-- NET.TXCNT -/
def NET_TXCNT (i : Nat) : Nat := 0x00040048 + 0x00010000 * i
/-- NET.RXDISC -/
def NET_RXDISC (i : Nat) : Nat := 0x0004004c + 0x00010000 * i
/-- NET.DUPCNT -/
def NET_DUPCNT (i : Nat) : Nat := 0x00040050 + 0x00010000 * i
/-- NET.WRONGLAN -/
def NET_WRONGLAN (i : Nat) : Nat := 0x00040054 + 0x00010000 * i
/-- NET.ARPFAIL -/
def NET_ARPFAIL (i : Nat) : Nat := 0x00040058 + 0x00010000 * i
/-- NET.HBRX -/
def NET_HBRX (i : Nat) : Nat := 0x0004005c + 0x00010000 * i
/-- NET.HBLAST -/
def NET_HBLAST (i : Nat) : Nat := 0x00040060 + 0x00010000 * i
/-- BATON.CFG -/
def BATON_CFG : Nat := 0x00060000
/-- BATON.HBINT -/
def BATON_HBINT : Nat := 0x00060004
/-- BATON.SKEW -/
def BATON_SKEW : Nat := 0x00060008
/-- BATON.CTRL -/
def BATON_CTRL : Nat := 0x0006000c
/-- BATON.STAT -/
def BATON_STAT : Nat := 0x00060010
/-- BATON.MOVES -/
def BATON_MOVES : Nat := 0x00060014
/-- BATON.HELD -/
def BATON_HELD : Nat := 0x00060018
/-- BATON.ORPHAN -/
def BATON_ORPHAN : Nat := 0x0006001c
/-- BATON.MISMATCH -/
def BATON_MISMATCH : Nat := 0x00060020
/-- BATON.SOLO -/
def BATON_SOLO : Nat := 0x00060024
/-- BATON.MISSA -/
def BATON_MISSA : Nat := 0x00060028
/-- BATON.MISSB -/
def BATON_MISSB : Nat := 0x0006002c
/-- EVR.STAT -/
def EVR_STAT : Nat := 0x00070000
/-- EVR.CFG -/
def EVR_CFG : Nat := 0x00070004
/-- EVR.CURSOR -/
def EVR_CURSOR : Nat := 0x00070008
/-- EVR.FRZCTL -/
def EVR_FRZCTL : Nat := 0x0007000c
/-- EVR.OLDEST -/
def EVR_OLDEST : Nat := 0x00070010
/-- EVR.NEWEST -/
def EVR_NEWEST : Nat := 0x00070014
/-- EVR.COUNT -/
def EVR_COUNT : Nat := 0x00070018
/-- EVR.NEXTSEQ -/
def EVR_NEXTSEQ : Nat := 0x0007001c
/-- EVR.LOST -/
def EVR_LOST : Nat := 0x00070020
/-- EVR.WRAPCNT -/
def EVR_WRAPCNT : Nat := 0x00070024
/-- EVR.BADSLOTS -/
def EVR_BADSLOTS : Nat := 0x00070028
/-- EVR.MEDIAFAIL -/
def EVR_MEDIAFAIL : Nat := 0x0007002c
/-- EVR.FRZTMO -/
def EVR_FRZTMO : Nat := 0x00070030
/-- EVR.WIN -/
def EVR_WIN (i : Nat) : Nat := 0x00070100 + 4 * i
/-- SAFE.STAT -/
def SAFE_STAT : Nat := 0x00080000
/-- SAFE.INPUT -/
def SAFE_INPUT : Nat := 0x00080004
/-- SAFE.RAW -/
def SAFE_RAW : Nat := 0x00080008
/-- SAFE.DEMAND -/
def SAFE_DEMAND : Nat := 0x0008000c
/-- SAFE.CHAN -/
def SAFE_CHAN : Nat := 0x00080010
/-- SAFE.CONN -/
def SAFE_CONN : Nat := 0x00080014
/-- SAFE.HOLD -/
def SAFE_HOLD : Nat := 0x00080018
/-- SAFE.PWFAIL -/
def SAFE_PWFAIL : Nat := 0x0008001c
/-- SAFE.LOGCNT -/
def SAFE_LOGCNT : Nat := 0x00080020
/-- SAFE.HASH -/
def SAFE_HASH (i : Nat) : Nat := 0x00080040 + 4 * i
/-- SAFE.PHASH -/
def SAFE_PHASH (i : Nat) : Nat := 0x00080080 + 4 * i
/-- SAFE.TPCNT -/
def SAFE_TPCNT (i : Nat) : Nat := 0x00080100 + 0x00000010 * i
/-- SAFE.HTLAST -/
def SAFE_HTLAST (i : Nat) : Nat := 0x00080104 + 0x00000010 * i
/-- SAFE.HTDEV -/
def SAFE_HTDEV (i : Nat) : Nat := 0x00080108 + 0x00000010 * i
/-- SAFE.RXOK -/
def SAFE_RXOK (i : Nat) : Nat := 0x00080200 + 0x00000010 * i
/-- SAFE.RXERR -/
def SAFE_RXERR (i : Nat) : Nat := 0x00080204 + 0x00000010 * i
/-- SAFE.MISMATCH -/
def SAFE_MISMATCH (i : Nat) : Nat := 0x00080208 + 0x00000010 * i
/-- SAFE.WDCNT -/
def SAFE_WDCNT (i : Nat) : Nat := 0x0008020c + 0x00000010 * i
/-- CHK.ISTCFG -/
def CHK_ISTCFG : Nat := 0x00090000
/-- CHK.CTRL -/
def CHK_CTRL (i : Nat) : Nat := 0x00090100 + 0x00000020 * i
/-- CHK.ADDR -/
def CHK_ADDR (i : Nat) : Nat := 0x00090104 + 0x00000020 * i
/-- CHK.LEN -/
def CHK_LEN (i : Nat) : Nat := 0x00090108 + 0x00000020 * i
/-- CHK.STAT -/
def CHK_STAT (i : Nat) : Nat := 0x0009010c + 0x00000020 * i
/-- CHK.RES_LO -/
def CHK_RES_LO (i : Nat) : Nat := 0x00090110 + 0x00000020 * i
/-- CHK.RES_HI -/
def CHK_RES_HI (i : Nat) : Nat := 0x00090114 + 0x00000020 * i
/-- CHK.DONE -/
def CHK_DONE (i : Nat) : Nat := 0x00090118 + 0x00000020 * i
/-- CHK.ERRADDR -/
def CHK_ERRADDR (i : Nat) : Nat := 0x0009011c + 0x00000020 * i
/-- BIST.STAT -/
def BIST_STAT : Nat := 0x000a0000
/-- BIST.FAILCNT -/
def BIST_FAILCNT : Nat := 0x000a0004
/-- BIST.FUSEFREE -/
def BIST_FUSEFREE : Nat := 0x000a0008
/-- BIST.ISTCNT -/
def BIST_ISTCNT : Nat := 0x000a000c
/-- BIST.ISTABORT -/
def BIST_ISTABORT : Nat := 0x000a0010
/-- BIST.ISTLATE -/
def BIST_ISTLATE : Nat := 0x000a0014
/-- BIST.OVFL -/
def BIST_OVFL : Nat := 0x000a0018
/-- BIST.RES -/
def BIST_RES (i : Nat) : Nat := 0x000a0100 + 4 * i
/-- MAINT.PTR -/
def MAINT_PTR : Nat := 0x000b0000
/-- MAINT.IRQSTAT -/
def MAINT_IRQSTAT : Nat := 0x000b0004
/-- MAINT.IRQCFG -/
def MAINT_IRQCFG : Nat := 0x000b0008
/-- MAINT.PBSTATE -/
def MAINT_PBSTATE : Nat := 0x000b000c
/-- MAINT.PBDISC -/
def MAINT_PBDISC : Nat := 0x000b0010
/-- MAINT.FRAMES -/
def MAINT_FRAMES : Nat := 0x000b0014
/-- MAINT.FRAMEERR -/
def MAINT_FRAMEERR : Nat := 0x000b0018
/-- SNAP.STAT -/
def SNAP_STAT : Nat := 0x000c0000
/-- SNAP.POLICY -/
def SNAP_POLICY : Nat := 0x000c0004
/-- SNAP.PHASE -/
def SNAP_PHASE : Nat := 0x000c0008
/-- SNAP.NEWEST_LO -/
def SNAP_NEWEST_LO : Nat := 0x000c0010
/-- SNAP.NEWEST_HI -/
def SNAP_NEWEST_HI : Nat := 0x000c0014
/-- SNAP.OLDER_LO -/
def SNAP_OLDER_LO : Nat := 0x000c0018
/-- SNAP.OLDER_HI -/
def SNAP_OLDER_HI : Nat := 0x000c001c
/-- SNAP.TAKEN -/
def SNAP_TAKEN : Nat := 0x000c0020
/-- SNAP.SKIPCNT -/
def SNAP_SKIPCNT : Nat := 0x000c0024
/-- SNAP.REQCNT -/
def SNAP_REQCNT : Nat := 0x000c0028
/-- SNAP.REQBUSY -/
def SNAP_REQBUSY : Nat := 0x000c002c
/-- ARB.WAITCNT -/
def ARB_WAITCNT (i : Nat) : Nat := 0x000c0800 + 8 * i
/-- ARB.WAITMAX -/
def ARB_WAITMAX (i : Nat) : Nat := 0x000c0804 + 8 * i
/-- ARB.DEFERCNT -/
def ARB_DEFERCNT : Nat := 0x000c0840
/-- MEM.RDOLATMAX -/
def MEM_RDOLATMAX : Nat := 0x000d0100
/-- MEM.RDOBUSY -/
def MEM_RDOBUSY : Nat := 0x000d0104
/-- CAN.CTRL -/
def CAN_CTRL (i : Nat) : Nat := 0x00100000 + 0x00010000 * i
/-- CAN.NBT -/
def CAN_NBT (i : Nat) : Nat := 0x00100004 + 0x00010000 * i
/-- CAN.DBT -/
def CAN_DBT (i : Nat) : Nat := 0x00100008 + 0x00010000 * i
/-- CAN.TDC -/
def CAN_TDC (i : Nat) : Nat := 0x0010000c + 0x00010000 * i
/-- CAN.STAT -/
def CAN_STAT (i : Nat) : Nat := 0x00100020 + 0x00010000 * i
/-- CAN.TDCV -/
def CAN_TDCV (i : Nat) : Nat := 0x00100024 + 0x00010000 * i
/-- CAN.BUSOFFCNT -/
def CAN_BUSOFFCNT (i : Nat) : Nat := 0x00100028 + 0x00010000 * i
/-- CAN.RXCNT -/
def CAN_RXCNT (i : Nat) : Nat := 0x0010002c + 0x00010000 * i
/-- CAN.TXCNT -/
def CAN_TXCNT (i : Nat) : Nat := 0x00100030 + 0x00010000 * i
/-- CAN.RXDISC -/
def CAN_RXDISC (i : Nat) : Nat := 0x00100034 + 0x00010000 * i
/-- CAN.DROPCNT -/
def CAN_DROPCNT (i : Nat) : Nat := 0x00100038 + 0x00010000 * i
/-- CAN.CENSUSFULL -/
def CAN_CENSUSFULL (i : Nat) : Nat := 0x0010003c + 0x00010000 * i
/-- CAN.PENDING -/
def CAN_PENDING (i : Nat) : Nat := 0x00100040 + 0x00010000 * i
/-- CEN.STAT -/
def CEN_STAT (n i : Nat) : Nat := 0x00101000 + 0x00010000 * n + 0x00000020 * i
/-- CEN.VENDOR -/
def CEN_VENDOR (n i : Nat) : Nat := 0x00101004 + 0x00010000 * n + 0x00000020 * i
/-- CEN.NTYPE -/
def CEN_NTYPE (n i : Nat) : Nat := 0x00101008 + 0x00010000 * n + 0x00000020 * i
/-- CEN.SER_LO -/
def CEN_SER_LO (n i : Nat) : Nat := 0x0010100c + 0x00010000 * n + 0x00000020 * i
/-- CEN.SER_HI -/
def CEN_SER_HI (n i : Nat) : Nat := 0x00101010 + 0x00010000 * n + 0x00000020 * i
/-- CEN.LASTSEEN -/
def CEN_LASTSEEN (n i : Nat) : Nat := 0x00101014 + 0x00010000 * n + 0x00000020 * i
/-- CEN.JOINS -/
def CEN_JOINS (n i : Nat) : Nat := 0x00101018 + 0x00010000 * n + 0x00000020 * i
/-- OBJ.CFG -/
def OBJ_CFG (n o : Nat) : Nat := 0x00108000 + 0x00010000 * n + 0x00000100 * o
/-- OBJ.ID -/
def OBJ_ID (n o : Nat) : Nat := 0x00108004 + 0x00010000 * n + 0x00000100 * o
/-- OBJ.MASK -/
def OBJ_MASK (n o : Nat) : Nat := 0x00108008 + 0x00010000 * n + 0x00000100 * o
/-- OBJ.RATE -/
def OBJ_RATE (n o : Nat) : Nat := 0x0010800c + 0x00010000 * n + 0x00000100 * o
/-- OBJ.LIMITS -/
def OBJ_LIMITS (n o : Nat) : Nat := 0x00108010 + 0x00010000 * n + 0x00000100 * o
/-- OBJ.NODE -/
def OBJ_NODE (n o : Nat) : Nat := 0x00108014 + 0x00010000 * n + 0x00000100 * o
/-- OBJ.MAPA -/
def OBJ_MAPA (n o i : Nat) : Nat := 0x00108020 + 0x00010000 * n + 0x00000100 * o + 0x00000010 * i
/-- OBJ.MAPSCALE -/
def OBJ_MAPSCALE (n o i : Nat) : Nat := 0x00108024 + 0x00010000 * n + 0x00000100 * o + 0x00000010 * i
/-- OBJ.MAPOFS -/
def OBJ_MAPOFS (n o i : Nat) : Nat := 0x00108028 + 0x00010000 * n + 0x00000100 * o + 0x00000010 * i
/-- OBJ.MAPSAFE -/
def OBJ_MAPSAFE (n o i : Nat) : Nat := 0x0010802c + 0x00010000 * n + 0x00000100 * o + 0x00000010 * i
/-- OBJ.STAT -/
def OBJ_STAT (n o : Nat) : Nat := 0x001080a0 + 0x00010000 * n + 0x00000100 * o
/-- OBJ.FRCNT -/
def OBJ_FRCNT (n o : Nat) : Nat := 0x001080a4 + 0x00010000 * n + 0x00000100 * o
/-- OBJ.ATTEMPTS -/
def OBJ_ATTEMPTS (n o : Nat) : Nat := 0x001080a8 + 0x00010000 * n + 0x00000100 * o
/-- OBJ.OVERRUN -/
def OBJ_OVERRUN (n o : Nat) : Nat := 0x001080ac + 0x00010000 * n + 0x00000100 * o
/-- OBJ.RXID -/
def OBJ_RXID (n o : Nat) : Nat := 0x001080b0 + 0x00010000 * n + 0x00000100 * o
/-- OBJ.RXINFO -/
def OBJ_RXINFO (n o : Nat) : Nat := 0x001080b4 + 0x00010000 * n + 0x00000100 * o
/-- OBJ.LASTTICK -/
def OBJ_LASTTICK (n o : Nat) : Nat := 0x001080b8 + 0x00010000 * n + 0x00000100 * o
/-- OBJ.DATA -/
def OBJ_DATA (n o i : Nat) : Nat := 0x001080c0 + 0x00010000 * n + 0x00000100 * o + 4 * i
/-- STRIDE.CTRL -/
def STRIDE_CTRL (i : Nat) : Nat := 0x00200000 + 0x00010000 * i
/-- STRIDE.RATE -/
def STRIDE_RATE (i : Nat) : Nat := 0x00200004 + 0x00010000 * i
/-- STRIDE.STARTOFS -/
def STRIDE_STARTOFS (i : Nat) : Nat := 0x00200008 + 0x00010000 * i
/-- STRIDE.STAT -/
def STRIDE_STAT (i : Nat) : Nat := 0x00200010 + 0x00010000 * i
/-- STRIDE.PERIODS -/
def STRIDE_PERIODS (i : Nat) : Nat := 0x00200014 + 0x00010000 * i
/-- STRIDE.RXERR -/
def STRIDE_RXERR (i : Nat) : Nat := 0x00200018 + 0x00010000 * i
/-- STRIDE.SCHED -/
def STRIDE_SCHED (i : Nat) : Nat := 0x0020001c + 0x00010000 * i
/-- STRIDE.DADDR -/
def STRIDE_DADDR (n i : Nat) : Nat := 0x00200100 + 0x00010000 * n + 0x00000040 * i
/-- STRIDE.DVEND -/
def STRIDE_DVEND (n i : Nat) : Nat := 0x00200104 + 0x00010000 * n + 0x00000040 * i
/-- STRIDE.DTYPE -/
def STRIDE_DTYPE (n i : Nat) : Nat := 0x00200108 + 0x00010000 * n + 0x00000040 * i
/-- STRIDE.DSER_LO -/
def STRIDE_DSER_LO (n i : Nat) : Nat := 0x0020010c + 0x00010000 * n + 0x00000040 * i
/-- STRIDE.DSER_HI -/
def STRIDE_DSER_HI (n i : Nat) : Nat := 0x00200110 + 0x00010000 * n + 0x00000040 * i
/-- STRIDE.TQSLOT -/
def STRIDE_TQSLOT (n i : Nat) : Nat := 0x00200114 + 0x00010000 * n + 0x00000040 * i
/-- STRIDE.STSLOT -/
def STRIDE_STSLOT (n i : Nat) : Nat := 0x00200118 + 0x00010000 * n + 0x00000040 * i
/-- STRIDE.DSTAT -/
def STRIDE_DSTAT (n i : Nat) : Nat := 0x00200120 + 0x00010000 * n + 0x00000040 * i
/-- STRIDE.DSTATUS -/
def STRIDE_DSTATUS (n i : Nat) : Nat := 0x00200124 + 0x00010000 * n + 0x00000040 * i
/-- STRIDE.DMISS -/
def STRIDE_DMISS (n i : Nat) : Nat := 0x00200128 + 0x00010000 * n + 0x00000040 * i
/-- ADC.CTRL -/
def ADC_CTRL (i : Nat) : Nat := 0x00300000 + 0x00001000 * i
/-- ADC.START -/
def ADC_START (i : Nat) : Nat := 0x00300004 + 0x00001000 * i
/-- ADC.CHSEL -/
def ADC_CHSEL (i : Nat) : Nat := 0x00300008 + 0x00001000 * i
/-- ADC.STAT -/
def ADC_STAT (i : Nat) : Nat := 0x00300010 + 0x00001000 * i
/-- ADC.STARTS -/
def ADC_STARTS (i : Nat) : Nat := 0x00300014 + 0x00001000 * i
/-- ADC.MISSED -/
def ADC_MISSED (i : Nat) : Nat := 0x00300018 + 0x00001000 * i
/-- ADC.LATECNT -/
def ADC_LATECNT (i : Nat) : Nat := 0x0030001c + 0x00001000 * i
/-- ADC.SEQ -/
def ADC_SEQ (n i : Nat) : Nat := 0x00300040 + 0x00001000 * n + 4 * i
/-- ADC.RES -/
def ADC_RES (n i : Nat) : Nat := 0x00300080 + 0x00001000 * n + 4 * i
/-- ADC.RAW -/
def ADC_RAW (n i : Nat) : Nat := 0x003000c0 + 0x00001000 * n + 4 * i
/-- ADC.CALOFS -/
def ADC_CALOFS (n i : Nat) : Nat := 0x00300100 + 0x00001000 * n + 8 * i
/-- ADC.CALGN -/
def ADC_CALGN (n i : Nat) : Nat := 0x00300104 + 0x00001000 * n + 8 * i
/-- ADC.TSLOPE -/
def ADC_TSLOPE (i : Nat) : Nat := 0x00300130 + 0x00001000 * i
/-- ADC.TOFS -/
def ADC_TOFS (i : Nat) : Nat := 0x00300134 + 0x00001000 * i
/-- DAC.BIND -/
def DAC_BIND (i : Nat) : Nat := 0x00310000 + 0x00000020 * i
/-- DAC.CFG -/
def DAC_CFG (i : Nat) : Nat := 0x00310004 + 0x00000020 * i
/-- DAC.SAFEVAL -/
def DAC_SAFEVAL (i : Nat) : Nat := 0x00310008 + 0x00000020 * i
/-- DAC.CLAMP -/
def DAC_CLAMP (i : Nat) : Nat := 0x0031000c + 0x00000020 * i
/-- DAC.CODE -/
def DAC_CODE (i : Nat) : Nat := 0x00310010 + 0x00000020 * i
/-- DAC.STAT -/
def DAC_STAT (i : Nat) : Nat := 0x00310014 + 0x00000020 * i
/-- DAC.CALGNB -/
def DAC_CALGNB (i : Nat) : Nat := 0x00310400 + 0x00000010 * i
/-- DAC.CALOFSB -/
def DAC_CALOFSB (i : Nat) : Nat := 0x00310404 + 0x00000010 * i
/-- DAC.CALGNU -/
def DAC_CALGNU (i : Nat) : Nat := 0x00310408 + 0x00000010 * i
/-- DAC.CALOFSU -/
def DAC_CALOFSU (i : Nat) : Nat := 0x0031040c + 0x00000010 * i
/-- ANA.TMRRATE -/
def ANA_TMRRATE (i : Nat) : Nat := 0x00318000 + 8 * i
/-- ANA.TMROFS -/
def ANA_TMROFS (i : Nat) : Nat := 0x00318004 + 8 * i
/-- ANA.REFCFG -/
def ANA_REFCFG : Nat := 0x00318100
/-- ANA.CALSTAT -/
def ANA_CALSTAT : Nat := 0x00318104
/-- ANA.CALSRC0 -/
def ANA_CALSRC0 : Nat := 0x00318108
/-- ANA.CALSRC1 -/
def ANA_CALSRC1 : Nat := 0x0031810c
/-- ANA.CALCNT -/
def ANA_CALCNT : Nat := 0x00318110
/-- DIO.MODE -/
def DIO_MODE (i : Nat) : Nat := 0x00320000 + 0x00000040 * i
/-- DIO.TIME0 -/
def DIO_TIME0 (i : Nat) : Nat := 0x00320004 + 0x00000040 * i
/-- DIO.TIME1 -/
def DIO_TIME1 (i : Nat) : Nat := 0x00320008 + 0x00000040 * i
/-- DIO.SRC -/
def DIO_SRC (i : Nat) : Nat := 0x0032000c + 0x00000040 * i
/-- DIO.RES -/
def DIO_RES (i : Nat) : Nat := 0x00320010 + 0x00000040 * i
/-- DIO.SAFEVAL -/
def DIO_SAFEVAL (i : Nat) : Nat := 0x00320014 + 0x00000040 * i
/-- DIO.GATE -/
def DIO_GATE (i : Nat) : Nat := 0x00320018 + 0x00000040 * i
/-- DIO.STAT -/
def DIO_STAT (i : Nat) : Nat := 0x0032001c + 0x00000040 * i
/-- DIO.EDGES -/
def DIO_EDGES (i : Nat) : Nat := 0x00320020 + 0x00000040 * i
/-- DIO.MISS -/
def DIO_MISS (i : Nat) : Nat := 0x00320024 + 0x00000040 * i
/-- ILK.CFG -/
def ILK_CFG : Nat := 0x00321000
/-- ILK.STAT -/
def ILK_STAT : Nat := 0x00321004
/-- ILK.CLR -/
def ILK_CLR : Nat := 0x00321008
/-- ILK.TRIPCNT -/
def ILK_TRIPCNT (i : Nat) : Nat := 0x00321010 + 4 * i
/-- ENC.CFG -/
def ENC_CFG (i : Nat) : Nat := 0x00322000 + 0x00000020 * i
/-- ENC.RES -/
def ENC_RES (i : Nat) : Nat := 0x00322004 + 0x00000020 * i
/-- ENC.COUNT -/
def ENC_COUNT (i : Nat) : Nat := 0x00322008 + 0x00000020 * i
/-- ENC.INDEX -/
def ENC_INDEX (i : Nat) : Nat := 0x0032200c + 0x00000020 * i
/-- ENC.ERR -/
def ENC_ERR (i : Nat) : Nat := 0x00322010 + 0x00000020 * i
/-- ENC.STAT -/
def ENC_STAT (i : Nat) : Nat := 0x00322014 + 0x00000020 * i
/-- SIG.VAL -/
def SIG_VAL (i : Nat) : Nat := 0x00400000 + 0x00000010 * i
/-- SIG.QUAL -/
def SIG_QUAL (i : Nat) : Nat := 0x00400004 + 0x00000010 * i
/-- SIG.TSLO -/
def SIG_TSLO (i : Nat) : Nat := 0x00400008 + 0x00000010 * i
/-- SIG.TSHI -/
def SIG_TSHI (i : Nat) : Nat := 0x0040000c + 0x00000010 * i
/-- SIG.MULTIWR -/
def SIG_MULTIWR : Nat := 0x00420000
/-- SEQ.STAT -/
def SEQ_STAT (t : Nat) : Nat := 0x01000000 + t * 0x100000
/-- SEQ.RECIPE -/
def SEQ_RECIPE (t : Nat) : Nat := 0x01000004 + t * 0x100000
/-- SEQ.STEP -/
def SEQ_STEP (t : Nat) : Nat := 0x01000008 + t * 0x100000
/-- SEQ.NEXT -/
def SEQ_NEXT (t : Nat) : Nat := 0x0100000c + t * 0x100000
/-- SEQ.ENTRYLO -/
def SEQ_ENTRYLO (t : Nat) : Nat := 0x01000010 + t * 0x100000
/-- SEQ.ENTRYHI -/
def SEQ_ENTRYHI (t : Nat) : Nat := 0x01000014 + t * 0x100000
/-- SEQ.ENTRYNS -/
def SEQ_ENTRYNS (t : Nat) : Nat := 0x01000018 + t * 0x100000
/-- SEQ.ELAPSED -/
def SEQ_ELAPSED (t : Nat) : Nat := 0x0100001c + t * 0x100000
/-- SEQ.EXIT -/
def SEQ_EXIT (t : Nat) : Nat := 0x01000020 + t * 0x100000
/-- SEQ.RAMPS -/
def SEQ_RAMPS (t : Nat) : Nat := 0x01000024 + t * 0x100000
/-- SEQ.RAMPEVICT -/
def SEQ_RAMPEVICT (t : Nat) : Nat := 0x01000028 + t * 0x100000
/-- SEQ.STEPCNT -/
def SEQ_STEPCNT (t : Nat) : Nat := 0x0100002c + t * 0x100000
/-- SEQ.PARAM -/
def SEQ_PARAM (t i : Nat) : Nat := 0x01000040 + t * 0x100000 + 4 * i
/-- SEQ.SPECSTATE -/
def SEQ_SPECSTATE (t : Nat) : Nat := 0x01000080 + t * 0x100000
/-- SEQ.FALSESTART -/
def SEQ_FALSESTART (t : Nat) : Nat := 0x01000084 + t * 0x100000
/-- TILE.BUDCFG -/
def TILE_BUDCFG (t : Nat) : Nat := 0x01000f00 + t * 0x100000
/-- TILE.CAP -/
def TILE_CAP (t : Nat) : Nat := 0x01000f04 + t * 0x100000
/-- TILE.WORST -/
def TILE_WORST (t : Nat) : Nat := 0x01000f08 + t * 0x100000
/-- TILE.WORSTP0 -/
def TILE_WORSTP0 (t : Nat) : Nat := 0x01000f0c + t * 0x100000
/-- TILE.LASTDEM -/
def TILE_LASTDEM (t : Nat) : Nat := 0x01000f10 + t * 0x100000
/-- TILE.PEAK -/
def TILE_PEAK (t : Nat) : Nat := 0x01000f14 + t * 0x100000
/-- TILE.SKIPTICKS -/
def TILE_SKIPTICKS (t : Nat) : Nat := 0x01000f18 + t * 0x100000
/-- ACQ.TSTAT -/
def ACQ_TSTAT (t : Nat) : Nat := 0x01010000 + t * 0x100000
/-- ACQ.TCOUNT -/
def ACQ_TCOUNT (t : Nat) : Nat := 0x01010004 + t * 0x100000
/-- ACQ.WRATE -/
def ACQ_WRATE (t : Nat) : Nat := 0x01010008 + t * 0x100000
/-- ACQ.TRINGSIZE -/
def ACQ_TRINGSIZE (t : Nat) : Nat := 0x0101000c + t * 0x100000
/-- ACQ.TWPOS_LO -/
def ACQ_TWPOS_LO (t : Nat) : Nat := 0x01010010 + t * 0x100000
/-- ACQ.TWPOS_HI -/
def ACQ_TWPOS_HI (t : Nat) : Nat := 0x01010014 + t * 0x100000
/-- ACQ.TRPOS_LO -/
def ACQ_TRPOS_LO (t : Nat) : Nat := 0x01010018 + t * 0x100000
/-- ACQ.TRPOS_HI -/
def ACQ_TRPOS_HI (t : Nat) : Nat := 0x0101001c + t * 0x100000
/-- ACQ.TOLDPOS_LO -/
def ACQ_TOLDPOS_LO (t : Nat) : Nat := 0x01010020 + t * 0x100000
/-- ACQ.TOLDPOS_HI -/
def ACQ_TOLDPOS_HI (t : Nat) : Nat := 0x01010024 + t * 0x100000
/-- ACQ.TLOSTFR -/
def ACQ_TLOSTFR (t : Nat) : Nat := 0x01010028 + t * 0x100000
/-- ACQ.QPEAK -/
def ACQ_QPEAK (t : Nat) : Nat := 0x0101002c + t * 0x100000
/-- CAP.STAT -/
def CAP_STAT (n : Nat) : Nat := 0x01010100 + n / 4 * 0x100000 + n % 4 * 0x00000100
/-- CAP.MISSED -/
def CAP_MISSED (n : Nat) : Nat := 0x01010104 + n / 4 * 0x100000 + n % 4 * 0x00000100
/-- CAP.WSEQ_LO -/
def CAP_WSEQ_LO (n : Nat) : Nat := 0x01010108 + n / 4 * 0x100000 + n % 4 * 0x00000100
/-- CAP.WSEQ_HI -/
def CAP_WSEQ_HI (n : Nat) : Nat := 0x0101010c + n / 4 * 0x100000 + n % 4 * 0x00000100
/-- CAP.CSEQ_LO -/
def CAP_CSEQ_LO (n : Nat) : Nat := 0x01010110 + n / 4 * 0x100000 + n % 4 * 0x00000100
/-- CAP.CSEQ_HI -/
def CAP_CSEQ_HI (n : Nat) : Nat := 0x01010114 + n / 4 * 0x100000 + n % 4 * 0x00000100
/-- CAP.BSEQ_LO -/
def CAP_BSEQ_LO (n : Nat) : Nat := 0x01010118 + n / 4 * 0x100000 + n % 4 * 0x00000100
/-- CAP.BSEQ_HI -/
def CAP_BSEQ_HI (n : Nat) : Nat := 0x0101011c + n / 4 * 0x100000 + n % 4 * 0x00000100
/-- CAP.CAPACITY -/
def CAP_CAPACITY (n : Nat) : Nat := 0x01010120 + n / 4 * 0x100000 + n % 4 * 0x00000100
/-- CAP.LAPSIZE -/
def CAP_LAPSIZE (n : Nat) : Nat := 0x01010124 + n / 4 * 0x100000 + n % 4 * 0x00000100
/-- CAP.COND -/
def CAP_COND (n : Nat) : Nat := 0x01010128 + n / 4 * 0x100000 + n % 4 * 0x00000100
/-- CAP.FORCED -/
def CAP_FORCED (n : Nat) : Nat := 0x0101012c + n / 4 * 0x100000 + n % 4 * 0x00000100
/-- MOT.CONF -/
def MOT_CONF (t : Nat) : Nat := 0x01020000 + t * 0x100000
/-- MOT.OFFLINE -/
def MOT_OFFLINE (t : Nat) : Nat := 0x01020004 + t * 0x100000
/-- AXIS.STAT -/
def AXIS_STAT (n : Nat) : Nat := 0x01021000 + n / 8 * 0x100000 + n % 8 * 0x00001000
/-- AXIS.EVT -/
def AXIS_EVT (n : Nat) : Nat := 0x01021004 + n / 8 * 0x100000 + n % 8 * 0x00001000
/-- AXIS.SP_LO -/
def AXIS_SP_LO (n : Nat) : Nat := 0x01021008 + n / 8 * 0x100000 + n % 8 * 0x00001000
/-- AXIS.SP_HI -/
def AXIS_SP_HI (n : Nat) : Nat := 0x0102100c + n / 8 * 0x100000 + n % 8 * 0x00001000
/-- AXIS.ACT_LO -/
def AXIS_ACT_LO (n : Nat) : Nat := 0x01021010 + n / 8 * 0x100000 + n % 8 * 0x00001000
/-- AXIS.ACT_HI -/
def AXIS_ACT_HI (n : Nat) : Nat := 0x01021014 + n / 8 * 0x100000 + n % 8 * 0x00001000
/-- AXIS.TGT_LO -/
def AXIS_TGT_LO (n : Nat) : Nat := 0x01021018 + n / 8 * 0x100000 + n % 8 * 0x00001000
/-- AXIS.TGT_HI -/
def AXIS_TGT_HI (n : Nat) : Nat := 0x0102101c + n / 8 * 0x100000 + n % 8 * 0x00001000
/-- AXIS.OFS_LO -/
def AXIS_OFS_LO (n : Nat) : Nat := 0x01021020 + n / 8 * 0x100000 + n % 8 * 0x00001000
/-- AXIS.OFS_HI -/
def AXIS_OFS_HI (n : Nat) : Nat := 0x01021024 + n / 8 * 0x100000 + n % 8 * 0x00001000
/-- AXIS.HREF_LO -/
def AXIS_HREF_LO (n : Nat) : Nat := 0x01021028 + n / 8 * 0x100000 + n % 8 * 0x00001000
/-- AXIS.HREF_HI -/
def AXIS_HREF_HI (n : Nat) : Nat := 0x0102102c + n / 8 * 0x100000 + n % 8 * 0x00001000
/-- AXIS.VEL -/
def AXIS_VEL (n : Nat) : Nat := 0x01021030 + n / 8 * 0x100000 + n % 8 * 0x00001000
/-- AXIS.ACC -/
def AXIS_ACC (n : Nat) : Nat := 0x01021034 + n / 8 * 0x100000 + n % 8 * 0x00001000
/-- AXIS.FERR -/
def AXIS_FERR (n : Nat) : Nat := 0x01021038 + n / 8 * 0x100000 + n % 8 * 0x00001000
/-- AXIS.MOVEID -/
def AXIS_MOVEID (n : Nat) : Nat := 0x0102103c + n / 8 * 0x100000 + n % 8 * 0x00001000
/-- AXIS.DONEID -/
def AXIS_DONEID (n : Nat) : Nat := 0x01021040 + n / 8 * 0x100000 + n % 8 * 0x00001000
/-- AXIS.MOVECNT -/
def AXIS_MOVECNT (n : Nat) : Nat := 0x01021044 + n / 8 * 0x100000 + n % 8 * 0x00001000
/-- AXIS.DROPCNT -/
def AXIS_DROPCNT (n : Nat) : Nat := 0x01021048 + n / 8 * 0x100000 + n % 8 * 0x00001000
/-- AXIS.LASTTICK -/
def AXIS_LASTTICK (n : Nat) : Nat := 0x0102104c + n / 8 * 0x100000 + n % 8 * 0x00001000
/-- AXIS.TORQUE -/
def AXIS_TORQUE (n : Nat) : Nat := 0x01021050 + n / 8 * 0x100000 + n % 8 * 0x00001000
/-- AXIS.CTRL -/
def AXIS_CTRL (n : Nat) : Nat := 0x01021100 + n / 8 * 0x100000 + n % 8 * 0x00001000
/-- AXIS.RATE -/
def AXIS_RATE (n : Nat) : Nat := 0x01021104 + n / 8 * 0x100000 + n % 8 * 0x00001000
/-- AXIS.VMAX -/
def AXIS_VMAX (n : Nat) : Nat := 0x01021108 + n / 8 * 0x100000 + n % 8 * 0x00001000
/-- AXIS.AMAX -/
def AXIS_AMAX (n : Nat) : Nat := 0x0102110c + n / 8 * 0x100000 + n % 8 * 0x00001000
/-- AXIS.DMAX -/
def AXIS_DMAX (n : Nat) : Nat := 0x01021110 + n / 8 * 0x100000 + n % 8 * 0x00001000
/-- AXIS.JMAX -/
def AXIS_JMAX (n : Nat) : Nat := 0x01021114 + n / 8 * 0x100000 + n % 8 * 0x00001000
/-- AXIS.BLENDTOL -/
def AXIS_BLENDTOL (n : Nat) : Nat := 0x01021118 + n / 8 * 0x100000 + n % 8 * 0x00001000
/-- AXIS.FEL -/
def AXIS_FEL (n : Nat) : Nat := 0x0102111c + n / 8 * 0x100000 + n % 8 * 0x00001000
/-- AXIS.SLNEG -/
def AXIS_SLNEG (n : Nat) : Nat := 0x01021120 + n / 8 * 0x100000 + n % 8 * 0x00001000
/-- AXIS.SLPOS -/
def AXIS_SLPOS (n : Nat) : Nat := 0x01021124 + n / 8 * 0x100000 + n % 8 * 0x00001000
/-- AXIS.LIMNEG -/
def AXIS_LIMNEG (n : Nat) : Nat := 0x01021128 + n / 8 * 0x100000 + n % 8 * 0x00001000
/-- AXIS.LIMPOS -/
def AXIS_LIMPOS (n : Nat) : Nat := 0x0102112c + n / 8 * 0x100000 + n % 8 * 0x00001000
/-- AXIS.HOMESW -/
def AXIS_HOMESW (n : Nat) : Nat := 0x01021130 + n / 8 * 0x100000 + n % 8 * 0x00001000
/-- AXIS.HVFAST -/
def AXIS_HVFAST (n : Nat) : Nat := 0x01021134 + n / 8 * 0x100000 + n % 8 * 0x00001000
/-- AXIS.HVSLOW -/
def AXIS_HVSLOW (n : Nat) : Nat := 0x01021138 + n / 8 * 0x100000 + n % 8 * 0x00001000
/-- AXIS.HOMEPOS -/
def AXIS_HOMEPOS (n : Nat) : Nat := 0x0102113c + n / 8 * 0x100000 + n % 8 * 0x00001000
/-- AXIS.HOMEMAX -/
def AXIS_HOMEMAX (n : Nat) : Nat := 0x01021140 + n / 8 * 0x100000 + n % 8 * 0x00001000
/-- AXIS.HSFEL -/
def AXIS_HSFEL (n : Nat) : Nat := 0x01021144 + n / 8 * 0x100000 + n % 8 * 0x00001000
/-- AXIS.HSTICKS -/
def AXIS_HSTICKS (n : Nat) : Nat := 0x01021148 + n / 8 * 0x100000 + n % 8 * 0x00001000
/-- AXIS.ENC -/
def AXIS_ENC (n : Nat) : Nat := 0x0102114c + n / 8 * 0x100000 + n % 8 * 0x00001000
/-- AXIS.SPSLOT -/
def AXIS_SPSLOT (n : Nat) : Nat := 0x01021150 + n / 8 * 0x100000 + n % 8 * 0x00001000
/-- AXIS.ACTSLOT -/
def AXIS_ACTSLOT (n : Nat) : Nat := 0x01021154 + n / 8 * 0x100000 + n % 8 * 0x00001000
/-- AXIS.DEVSLOT -/
def AXIS_DEVSLOT (n : Nat) : Nat := 0x01021158 + n / 8 * 0x100000 + n % 8 * 0x00001000
/-- AXIS.VELSLOT -/
def AXIS_VELSLOT (n : Nat) : Nat := 0x0102115c + n / 8 * 0x100000 + n % 8 * 0x00001000
/-- AXIS.TGTSLOT -/
def AXIS_TGTSLOT (n : Nat) : Nat := 0x01021160 + n / 8 * 0x100000 + n % 8 * 0x00001000
/-- CLUS.CONF -/
def CLUS_CONF (n : Nat) : Nat := 0x01030000 + n / 4 * 0x100000 + n % 4 * 0x00001000
/-- CLUS.COSTSUM -/
def CLUS_COSTSUM (n : Nat) : Nat := 0x01030004 + n / 4 * 0x100000 + n % 4 * 0x00001000
/-- CLUS.DUE -/
def CLUS_DUE (n : Nat) : Nat := 0x01030008 + n / 4 * 0x100000 + n % 4 * 0x00001000
/-- CLUS.SKIP -/
def CLUS_SKIP (n : Nat) : Nat := 0x0103000c + n / 4 * 0x100000 + n % 4 * 0x00001000
/-- CLUS.SKIPCNT -/
def CLUS_SKIPCNT (n : Nat) : Nat := 0x01030010 + n / 4 * 0x100000 + n % 4 * 0x00001000
/-- CLUS.FEACT -/
def CLUS_FEACT (n : Nat) : Nat := 0x01030014 + n / 4 * 0x100000 + n % 4 * 0x00001000
/-- CELL.CTRL -/
def CELL_CTRL (n : Nat) : Nat := 0x01040000 + n / 64 * 0x100000 + n % 64 * 0x00001000
/-- CELL.RATE -/
def CELL_RATE (n : Nat) : Nat := 0x01040004 + n / 64 * 0x100000 + n % 64 * 0x00001000
/-- CELL.MEAS -/
def CELL_MEAS (n i : Nat) : Nat := 0x01040008 + n / 64 * 0x100000 + n % 64 * 0x00001000 + 4 * i
/-- CELL.SP -/
def CELL_SP (n : Nat) : Nat := 0x01040018 + n / 64 * 0x100000 + n % 64 * 0x00001000
/-- CELL.FF -/
def CELL_FF (n : Nat) : Nat := 0x0104001c + n / 64 * 0x100000 + n % 64 * 0x00001000
/-- CELL.CASC -/
def CELL_CASC (n : Nat) : Nat := 0x01040020 + n / 64 * 0x100000 + n % 64 * 0x00001000
/-- CELL.TRK -/
def CELL_TRK (n : Nat) : Nat := 0x01040024 + n / 64 * 0x100000 + n % 64 * 0x00001000
/-- CELL.OUT -/
def CELL_OUT (n i : Nat) : Nat := 0x01040028 + n / 64 * 0x100000 + n % 64 * 0x00001000 + 4 * i
/-- CELL.SAFEVAL -/
def CELL_SAFEVAL (n i : Nat) : Nat := 0x01040038 + n / 64 * 0x100000 + n % 64 * 0x00001000 + 4 * i
/-- CELL.FEL -/
def CELL_FEL (n : Nat) : Nat := 0x01040048 + n / 64 * 0x100000 + n % 64 * 0x00001000
/-- CELL.FET -/
def CELL_FET (n : Nat) : Nat := 0x0104004c + n / 64 * 0x100000 + n % 64 * 0x00001000
/-- CELL.STAT -/
def CELL_STAT (n : Nat) : Nat := 0x01040080 + n / 64 * 0x100000 + n % 64 * 0x00001000
/-- CELL.COST -/
def CELL_COST (n : Nat) : Nat := 0x01040084 + n / 64 * 0x100000 + n % 64 * 0x00001000
/-- CELL.LASTTICK -/
def CELL_LASTTICK (n : Nat) : Nat := 0x01040088 + n / 64 * 0x100000 + n % 64 * 0x00001000
/-- CELL.EXECCNT -/
def CELL_EXECCNT (n : Nat) : Nat := 0x0104008c + n / 64 * 0x100000 + n % 64 * 0x00001000
/-- CELL.SKIPCNT -/
def CELL_SKIPCNT (n : Nat) : Nat := 0x01040090 + n / 64 * 0x100000 + n % 64 * 0x00001000
/-- CELL.FECNT -/
def CELL_FECNT (n : Nat) : Nat := 0x01040094 + n / 64 * 0x100000 + n % 64 * 0x00001000
/-- CELL.FETIME -/
def CELL_FETIME (n : Nat) : Nat := 0x01040098 + n / 64 * 0x100000 + n % 64 * 0x00001000
/-- CELL.MANOUT -/
def CELL_MANOUT (n i : Nat) : Nat := 0x010400a0 + n / 64 * 0x100000 + n % 64 * 0x00001000 + 4 * i
/-- CELL.LSTAT -/
def CELL_LSTAT (n : Nat) : Nat := 0x01040100 + n / 64 * 0x100000 + n % 64 * 0x00001000
/-- CELL.NFCNT -/
def CELL_NFCNT (n : Nat) : Nat := 0x01040104 + n / 64 * 0x100000 + n % 64 * 0x00001000
/-- CELL.ULAST -/
def CELL_ULAST (n i : Nat) : Nat := 0x01040110 + n / 64 * 0x100000 + n % 64 * 0x00001000 + 4 * i
/-- CELL.GTI -/
def CELL_GTI (n : Nat) : Nat := 0x01040120 + n / 64 * 0x100000 + n % 64 * 0x00001000
/-- CELL.GTD -/
def CELL_GTD (n : Nat) : Nat := 0x01040124 + n / 64 * 0x100000 + n % 64 * 0x00001000
/-- CELL.GTYPREV -/
def CELL_GTYPREV (n : Nat) : Nat := 0x01040128 + n / 64 * 0x100000 + n % 64 * 0x00001000
/-- CELL.GTKP -/
def CELL_GTKP (n : Nat) : Nat := 0x0104012c + n / 64 * 0x100000 + n % 64 * 0x00001000
/-- CELL.GTKI -/
def CELL_GTKI (n : Nat) : Nat := 0x01040130 + n / 64 * 0x100000 + n % 64 * 0x00001000
/-- CELL.GTSKP -/
def CELL_GTSKP (n i : Nat) : Nat := 0x01040200 + n / 64 * 0x100000 + n % 64 * 0x00001000 + 4 * i
/-- CELL.GTSKI -/
def CELL_GTSKI (n i : Nat) : Nat := 0x01040300 + n / 64 * 0x100000 + n % 64 * 0x00001000 + 4 * i
/-- CELL.OBZ -/
def CELL_OBZ (n : Nat) : Nat := 0x01040120 + n / 64 * 0x100000 + n % 64 * 0x00001000
/-- CELL.OBB -/
def CELL_OBB (n i : Nat) : Nat := 0x01040130 + n / 64 * 0x100000 + n % 64 * 0x00001000 + 4 * i
/-- CELL.OBX -/
def CELL_OBX (n i : Nat) : Nat := 0x01040140 + n / 64 * 0x100000 + n % 64 * 0x00001000 + 4 * i
/-- CELL.OBR -/
def CELL_OBR (n i : Nat) : Nat := 0x01040160 + n / 64 * 0x100000 + n % 64 * 0x00001000 + 4 * i

end Sys2Proof.Machine.R

namespace Sys2Proof.Machine

/-- One row of the register map: where its registers lie and which fields carry each access code of R10. -/
structure RegRow where
  base : Nat
  dims : List (Nat × Nat)
  cfg : Word
  rw : Word
  w1c : Word
  wo : Word
  sl : Word
  deriving DecidableEq, Repr

/-- Whether offset `off` is one of the points of `dims` (count, stride), outermost first. -/
def dimsHit : List (Nat × Nat) → Nat → Bool
  | [], off => off == 0
  | (n, st) :: r, off => decide (off / st < n) && dimsHit r (off % st)

/-- Whether address `a` is a register of the row. -/
def RegRow.hit (r : RegRow) (a : Nat) : Bool := decide (r.base ≤ a) && dimsHit r.dims (a - r.base)

/-- The rows of DEV. -/
def regRowsDEV : List RegRow :=
  [⟨0, [], 0, 0, 0, 0, 0⟩,
   ⟨0x00000010, [(5, 4)], 0, 0, 0, 0, 0⟩,
   ⟨0x00000030, [], 0x0003ffff, 0, 0, 0, 0⟩,
   ⟨0x00000038, [(2, 4)], 0, 0, 0, 0, 0⟩,
   ⟨0x00000040, [(4, 4)], 0, 0, 0, 0, 0⟩]

/-- The rows of PWR. -/
def regRowsPWR : List RegRow :=
  [⟨0x00004000, [], 0, 0, 0, 0, 0⟩,
   ⟨0x00004004, [], 0, 0, 0x00000fff, 0, 0⟩,
   ⟨0x00004008, [(2, 4)], 0, 0, 0, 0, 0⟩,
   ⟨0x00004010, [], 0x000103ff, 0, 0, 0, 0⟩,
   ⟨0x00004014, [(7, 4)], 0, 0, 0, 0, 0⟩]

/-- The rows of CLK. -/
def regRowsCLK : List RegRow :=
  [⟨0x00008000, [], 0, 0, 0, 0, 0⟩,
   ⟨0x00008010, [], 0, 0, 0xffffffff, 0, 0⟩,
   ⟨0x00008014, [], 0, 0, 0, 0, 0⟩,
   ⟨0x00008018, [(2, 4)], 0, 0, 0xffffffff, 0, 0⟩,
   ⟨0x00008100, [(8, 4)], 0, 0, 0xffffffff, 0, 0⟩]

/-- The rows of CFG. -/
def regRowsCFG : List RegRow :=
  [⟨0x00010000, [(10, 4)], 0, 0, 0, 0, 0⟩,
   ⟨0x00010040, [(16, 4)], 0, 0, 0, 0, 0⟩]

/-- The rows of SEAL. -/
def regRowsSEAL : List RegRow :=
  [⟨0x00020000, [(6, 4)], 0, 0, 0, 0, 0⟩,
   ⟨0x00020020, [(4, 0x00000010), (3, 4)], 0, 0, 0, 0, 0⟩]

/-- The rows of TIME. -/
def regRowsTIME : List RegRow :=
  [⟨0x00030000, [], 0xf8ff0000, 0, 0, 0, 0⟩,
   ⟨0x00030004, [(6, 4)], 0xffffffff, 0, 0, 0, 0⟩,
   ⟨0x0003001c, [], 0x0000ffff, 0, 0, 0, 0⟩,
   ⟨0x00030020, [(4, 4)], 0xffffffff, 0, 0, 0, 0⟩,
   ⟨0x00030030, [(4, 8)], 0xffffffff, 0, 0, 0, 0⟩,
   ⟨0x00030034, [(4, 8)], 0x8000ffff, 0, 0, 0, 0⟩,
   ⟨0x00030050, [], 0, 0, 0, 0, 0⟩,
   ⟨0x00030080, [(11, 4)], 0, 0, 0, 0, 0⟩,
   ⟨0x000300ac, [], 0, 0, 0xffffffff, 0, 0⟩,
   ⟨0x000300b0, [(5, 4)], 0, 0, 0, 0, 0⟩]

/-- The rows of TCI. -/
def regRowsTCI : List RegRow :=
  [⟨0x00030100, [(4, 0x00000020), (4, 4)], 0, 0, 0, 0, 0⟩,
   ⟨0x00030110, [(4, 0x00000020)], 0, 0, 0xffffffff, 0, 0⟩]

/-- The rows of TPO. -/
def regRowsTPO : List RegRow :=
  [⟨0x00030200, [(4, 0x00000020)], 0, 0, 0, 0, 0x80000003⟩,
   ⟨0x00030204, [(4, 0x00000020), (5, 4)], 0, 0, 0, 0, 0xffffffff⟩,
   ⟨0x00030218, [(4, 0x00000020), (2, 4)], 0, 0, 0, 0, 0⟩]

/-- The rows of NET. -/
def regRowsNET : List RegRow :=
  [⟨0x00040000, [(2, 0x00010000)], 0xe01f0000, 0, 0, 0, 0⟩,
   ⟨0x00040004, [(2, 0x00010000)], 0xffffffff, 0, 0, 0, 0⟩,
   ⟨0x00040008, [(2, 0x00010000)], 0x0000ffff, 0, 0, 0, 0⟩,
   ⟨0x0004000c, [(2, 0x00010000), (4, 4)], 0xffffffff, 0, 0, 0, 0⟩,
   ⟨0x0004001c, [(2, 0x00010000)], 0x0000ffff, 0, 0, 0, 0⟩,
   ⟨0x00040040, [(2, 0x00010000), (3, 4)], 0, 0, 0, 0, 0⟩,
   ⟨0x0004004c, [(2, 0x00010000), (4, 4)], 0, 0, 0xffffffff, 0, 0⟩,
   ⟨0x0004005c, [(2, 0x00010000), (2, 4)], 0, 0, 0, 0, 0⟩]

/-- The rows of BATON. -/
def regRowsBATON : List RegRow :=
  [⟨0x00060000, [], 0x000103ff, 0, 0, 0, 0⟩,
   ⟨0x00060004, [], 0x000fffff, 0, 0, 0, 0⟩,
   ⟨0x00060008, [], 0x00003fff, 0, 0, 0, 0⟩,
   ⟨0x0006000c, [], 0, 0, 0, 1, 0⟩,
   ⟨0x00060010, [(3, 4)], 0, 0, 0, 0, 0⟩,
   ⟨0x0006001c, [(3, 4)], 0, 0, 0xffffffff, 0, 0⟩,
   ⟨0x00060028, [(2, 4)], 0, 0, 0, 0, 0⟩]

/-- The rows of EVR. -/
def regRowsEVR : List RegRow :=
  [⟨0x00070000, [], 0, 0, 0, 0, 0⟩,
   ⟨0x00070004, [], 0x80000007, 0, 0, 0, 0⟩,
   ⟨0x00070008, [], 0, 0x8000ffff, 0, 0, 0⟩,
   ⟨0x0007000c, [], 0, 0, 0, 3, 0⟩,
   ⟨0x00070010, [(9, 4)], 0, 0, 0, 0, 0⟩,
   ⟨0x00070100, [(64, 4)], 0, 0, 0, 0, 0⟩]

/-- The rows of SAFE. -/
def regRowsSAFE : List RegRow :=
  [⟨0x00080000, [(9, 4)], 0, 0, 0, 0, 0⟩,
   ⟨0x00080040, [(16, 4)], 0, 0, 0, 0, 0⟩,
   ⟨0x00080080, [(16, 4)], 0, 0, 0, 0, 0⟩,
   ⟨0x00080100, [(8, 0x00000010), (3, 4)], 0, 0, 0, 0, 0⟩,
   ⟨0x00080200, [(8, 0x00000010), (4, 4)], 0, 0, 0, 0, 0⟩]

/-- The rows of CHK. -/
def regRowsCHK : List RegRow :=
  [⟨0x00090000, [], 0x0000ffff, 0, 0, 0, 0⟩,
   ⟨0x00090100, [(8, 0x00000020)], 0, 0x0f000000, 0, 0xc0000000, 0⟩,
   ⟨0x00090104, [(8, 0x00000020), (2, 4)], 0, 0xffffffff, 0, 0, 0⟩,
   ⟨0x0009010c, [(8, 0x00000020), (5, 4)], 0, 0, 0, 0, 0⟩]

/-- The rows of BIST. -/
def regRowsBIST : List RegRow :=
  [⟨0x000a0000, [(7, 4)], 0, 0, 0, 0, 0⟩,
   ⟨0x000a0100, [(256, 4)], 0, 0, 0, 0, 0⟩]

/-- The rows of MAINT. -/
def regRowsMAINT : List RegRow :=
  [⟨0x000b0000, [], 0, 0, 0, 0, 0⟩,
   ⟨0x000b0004, [], 0, 0, 0x0000000f, 0, 0⟩,
   ⟨0x000b0008, [], 0, 0x0000070f, 0, 0, 0⟩,
   ⟨0x000b000c, [(3, 4)], 0, 0, 0, 0, 0⟩,
   ⟨0x000b0018, [], 0, 0, 0xffffffff, 0, 0⟩]

/-- The rows of SNAP. -/
def regRowsSNAP : List RegRow :=
  [⟨0x000c0000, [], 0, 0, 0, 0, 0⟩,
   ⟨0x000c0004, [(2, 4)], 0, 0, 0, 0, 0x00ffffff⟩,
   ⟨0x000c0010, [(5, 4)], 0, 0, 0, 0, 0⟩,
   ⟨0x000c0024, [], 0, 0, 0xffffffff, 0, 0⟩,
   ⟨0x000c0028, [], 0, 0, 0, 0, 0⟩,
   ⟨0x000c002c, [], 0, 0, 0xffffffff, 0, 0⟩]

/-- The rows of ARB. -/
def regRowsARB : List RegRow :=
  [⟨0x000c0800, [(8, 8), (2, 4)], 0, 0, 0xffffffff, 0, 0⟩,
   ⟨0x000c0840, [], 0, 0, 0xffffffff, 0, 0⟩]

/-- The rows of MEM. -/
def regRowsMEM : List RegRow :=
  [⟨0x000d0100, [(2, 4)], 0, 0, 0xffffffff, 0, 0⟩]

/-- The rows of CAN. -/
def regRowsCAN : List RegRow :=
  [⟨0x00100000, [(4, 0x00010000)], 0xc000ffff, 0, 0, 0, 0⟩,
   ⟨0x00100004, [(4, 0x00010000)], 0xffff7f7f, 0, 0, 0, 0⟩,
   ⟨0x00100008, [(4, 0x00010000)], 0x1f1f0f0f, 0, 0, 0, 0⟩,
   ⟨0x0010000c, [(4, 0x00010000)], 0x807f007f, 0, 0, 0, 0⟩,
   ⟨0x00100020, [(4, 0x00010000)], 0, 0, 0x00000800, 0, 0⟩,
   ⟨0x00100024, [(4, 0x00010000)], 0, 0, 0, 0, 0⟩,
   ⟨0x00100028, [(4, 0x00010000)], 0, 0, 0xffffffff, 0, 0⟩,
   ⟨0x0010002c, [(4, 0x00010000), (2, 4)], 0, 0, 0, 0, 0⟩,
   ⟨0x00100034, [(4, 0x00010000), (3, 4)], 0, 0, 0xffffffff, 0, 0⟩,
   ⟨0x00100040, [(4, 0x00010000)], 0, 0, 0, 0, 0⟩]

/-- The rows of CEN. -/
def regRowsCEN : List RegRow :=
  [⟨0x00101000, [(4, 0x00010000), (64, 0x00000020)], 0, 0, 0x00000018, 0, 0⟩,
   ⟨0x00101004, [(4, 0x00010000), (64, 0x00000020), (6, 4)], 0, 0, 0, 0, 0⟩]

/-- The rows of OBJ. -/
def regRowsOBJ : List RegRow :=
  [⟨0x00108000, [(4, 0x00010000), (128, 0x00000100)], 0xfe3fff03, 0, 0, 0, 0⟩,
   ⟨0x00108004, [(4, 0x00010000), (128, 0x00000100), (2, 4)], 0x1fffffff, 0, 0, 0, 0⟩,
   ⟨0x0010800c, [(4, 0x00010000), (128, 0x00000100)], 0x03ff07ff, 0, 0, 0, 0⟩,
   ⟨0x00108010, [(4, 0x00010000), (128, 0x00000100)], 0xffffffff, 0, 0, 0, 0⟩,
   ⟨0x00108014, [(4, 0x00010000), (128, 0x00000100)], 0x8000003f, 0, 0, 0, 0⟩,
   ⟨0x00108020, [(4, 0x00010000), (128, 0x00000100), (8, 0x00000010)], 0xffff1fff, 0, 0, 0, 0⟩,
   ⟨0x00108024, [(4, 0x00010000), (128, 0x00000100), (8, 0x00000010), (3, 4)], 0xffffffff, 0, 0, 0, 0⟩,
   ⟨0x001080a0, [(4, 0x00010000), (128, 0x00000100)], 0, 0, 0x0000005e, 0, 0⟩,
   ⟨0x001080a4, [(4, 0x00010000), (128, 0x00000100), (2, 4)], 0, 0, 0, 0, 0⟩,
   ⟨0x001080ac, [(4, 0x00010000), (128, 0x00000100)], 0, 0, 0xffffffff, 0, 0⟩,
   ⟨0x001080b0, [(4, 0x00010000), (128, 0x00000100), (3, 4)], 0, 0, 0, 0, 0⟩,
   ⟨0x001080c0, [(4, 0x00010000), (128, 0x00000100), (16, 4)], 0, 0, 0, 0, 0⟩]

/-- The rows of STRIDE. -/
def regRowsSTRIDE : List RegRow :=
  [⟨0x00200000, [(8, 0x00010000)], 0x800700ff, 0, 0, 0, 0⟩,
   ⟨0x00200004, [(8, 0x00010000)], 0x03ff07ff, 0, 0, 0, 0⟩,
   ⟨0x00200008, [(8, 0x00010000)], 0x0000ffff, 0, 0, 0, 0⟩,
   ⟨0x00200010, [(8, 0x00010000), (2, 4)], 0, 0, 0, 0, 0⟩,
   ⟨0x00200018, [(8, 0x00010000)], 0, 0, 0xffffffff, 0, 0⟩,
   ⟨0x0020001c, [(8, 0x00010000)], 0, 0, 0, 0, 0⟩,
   ⟨0x00200100, [(8, 0x00010000), (4, 0x00000040)], 0x803f001f, 0, 0, 0, 0⟩,
   ⟨0x00200104, [(8, 0x00010000), (4, 0x00000040), (4, 4)], 0xffffffff, 0, 0, 0, 0⟩,
   ⟨0x00200114, [(8, 0x00010000), (4, 0x00000040), (2, 4)], 0x80001fff, 0, 0, 0, 0⟩,
   ⟨0x00200120, [(8, 0x00010000), (4, 0x00000040)], 0, 0, 4, 0, 0⟩,
   ⟨0x00200124, [(8, 0x00010000), (4, 0x00000040)], 0, 0, 0, 0, 0⟩,
   ⟨0x00200128, [(8, 0x00010000), (4, 0x00000040)], 0, 0, 0xffffffff, 0, 0⟩]

/-- The rows of ADC. -/
def regRowsADC : List RegRow :=
  [⟨0x00300000, [(16, 0x00001000)], 0x0000031f, 0, 0, 0, 0⟩,
   ⟨0x00300004, [(16, 0x00001000)], 0xffc0ffff, 0, 0, 0, 0⟩,
   ⟨0x00300008, [(16, 0x00001000)], 0, 0, 0, 0, 0x03f70000⟩,
   ⟨0x00300010, [(16, 0x00001000), (2, 4)], 0, 0, 0, 0, 0⟩,
   ⟨0x00300018, [(16, 0x00001000), (2, 4)], 0, 0, 0xffffffff, 0, 0⟩,
   ⟨0x00300040, [(16, 0x00001000), (16, 4)], 0x03f703ff, 0, 0, 0, 0⟩,
   ⟨0x00300080, [(16, 0x00001000), (16, 4)], 0x80001fff, 0, 0, 0, 0⟩,
   ⟨0x003000c0, [(16, 0x00001000), (16, 4)], 0, 0, 0, 0, 0⟩,
   ⟨0x00300100, [(16, 0x00001000), (6, 8), (2, 4)], 0, 0, 0, 0, 0⟩,
   ⟨0x00300130, [(16, 0x00001000), (2, 4)], 0, 0, 0, 0, 0⟩]

/-- The rows of DAC. -/
def regRowsDAC : List RegRow :=
  [⟨0x00310000, [(32, 0x00000020)], 0x80001fff, 0, 0, 0, 0⟩,
   ⟨0x00310004, [(32, 0x00000020)], 0x0000ff01, 0, 0, 0, 0⟩,
   ⟨0x00310008, [(32, 0x00000020), (2, 4)], 0xffffffff, 0, 0, 0, 0⟩,
   ⟨0x00310010, [(32, 0x00000020)], 0, 0, 0, 0, 0⟩,
   ⟨0x00310014, [(32, 0x00000020)], 0, 0, 0x00000018, 0, 0⟩,
   ⟨0x00310400, [(32, 0x00000010), (4, 4)], 0, 0, 0, 0, 0⟩]

/-- The rows of ANA. -/
def regRowsANA : List RegRow :=
  [⟨0x00318000, [(32, 8)], 0x03ff07ff, 0, 0, 0, 0⟩,
   ⟨0x00318004, [(32, 8)], 0x8007ffff, 0, 0, 0, 0⟩,
   ⟨0x00318100, [], 1, 0, 0, 0, 0⟩,
   ⟨0x00318104, [(4, 4)], 0, 0, 0, 0, 0⟩]

/-- The rows of DIO. -/
def regRowsDIO : List RegRow :=
  [⟨0x00320000, [(64, 0x00000040)], 0xffff0000, 0, 0, 0, 0⟩,
   ⟨0x00320004, [(64, 0x00000040), (2, 4)], 0x00ffffff, 0, 0, 0, 0⟩,
   ⟨0x0032000c, [(64, 0x00000040), (2, 4)], 0x80001fff, 0, 0, 0, 0⟩,
   ⟨0x00320014, [(64, 0x00000040)], 0xffffffff, 0, 0, 0, 0⟩,
   ⟨0x00320018, [(64, 0x00000040)], 0x000003ff, 0, 0, 0, 0⟩,
   ⟨0x0032001c, [(64, 0x00000040)], 0, 0, 0x000000e0, 0, 0⟩,
   ⟨0x00320020, [(64, 0x00000040)], 0, 0, 0, 0, 0⟩,
   ⟨0x00320024, [(64, 0x00000040)], 0, 0, 0xffffffff, 0, 0⟩]

/-- The rows of ILK. -/
def regRowsILK : List RegRow :=
  [⟨0x00321000, [], 0x00ffffff, 0, 0, 0, 0⟩,
   ⟨0x00321004, [], 0, 0, 0, 0, 0⟩,
   ⟨0x00321008, [], 0, 0, 0, 0x000000ff, 0⟩,
   ⟨0x00321010, [(8, 4)], 0, 0, 0xffffffff, 0, 0⟩]

/-- The rows of ENC. -/
def regRowsENC : List RegRow :=
  [⟨0x00322000, [(21, 0x00000020)], 0x80000003, 0, 0, 0, 0⟩,
   ⟨0x00322004, [(21, 0x00000020)], 0x80001fff, 0, 0, 0, 0⟩,
   ⟨0x00322008, [(21, 0x00000020), (2, 4)], 0, 0, 0, 0, 0⟩,
   ⟨0x00322010, [(21, 0x00000020)], 0, 0, 0xffffffff, 0, 0⟩,
   ⟨0x00322014, [(21, 0x00000020)], 0, 0, 0, 0, 0⟩]

/-- The rows of SIG. -/
def regRowsSIG : List RegRow :=
  [⟨0x00400000, [(8192, 0x00000010), (4, 4)], 0, 0, 0, 0, 0⟩,
   ⟨0x00420000, [], 0, 0, 0xffffffff, 0, 0⟩]

/-- The rows of SEQ. -/
def regRowsSEQ : List RegRow :=
  [⟨0x01000000, [(8, 0x00100000), (10, 4)], 0, 0, 0, 0, 0⟩,
   ⟨0x01000028, [(8, 0x00100000)], 0, 0, 0xffffffff, 0, 0⟩,
   ⟨0x0100002c, [(8, 0x00100000)], 0, 0, 0, 0, 0⟩,
   ⟨0x01000040, [(8, 0x00100000), (16, 4)], 0, 0, 0, 0, 0⟩,
   ⟨0x01000080, [(8, 0x00100000), (2, 4)], 0, 0, 0, 0, 0⟩]

/-- The rows of TILE. -/
def regRowsTILE : List RegRow :=
  [⟨0x01000f00, [(8, 0x00100000), (5, 4)], 0, 0, 0, 0, 0⟩,
   ⟨0x01000f14, [(8, 0x00100000), (2, 4)], 0, 0, 0xffffffff, 0, 0⟩]

/-- The rows of ACQ. -/
def regRowsACQ : List RegRow :=
  [⟨0x01010000, [(8, 0x00100000)], 0, 0, 0x00000018, 0, 0⟩,
   ⟨0x01010004, [(8, 0x00100000), (9, 4)], 0, 0, 0, 0, 0⟩,
   ⟨0x01010028, [(8, 0x00100000), (2, 4)], 0, 0, 0xffffffff, 0, 0⟩]

/-- The rows of CAP. -/
def regRowsCAP : List RegRow :=
  [⟨0x01010100, [(8, 0x00100000), (4, 0x00000100)], 0, 0, 0x00000100, 0, 0⟩,
   ⟨0x01010104, [(8, 0x00100000), (4, 0x00000100), (11, 4)], 0, 0, 0, 0, 0⟩]

/-- The rows of MOT. -/
def regRowsMOT : List RegRow :=
  [⟨0x01020000, [(8, 0x00100000), (2, 4)], 0, 0, 0, 0, 0⟩]

/-- The rows of AXIS. -/
def regRowsAXIS : List RegRow :=
  [⟨0x01021000, [(8, 0x00100000), (8, 0x00001000)], 0, 0, 0, 0, 0⟩,
   ⟨0x01021004, [(8, 0x00100000), (8, 0x00001000)], 0, 0, 0x000007ff, 0, 0⟩,
   ⟨0x01021008, [(8, 0x00100000), (8, 0x00001000), (16, 4)], 0, 0, 0, 0, 0⟩,
   ⟨0x01021048, [(8, 0x00100000), (8, 0x00001000)], 0, 0, 0xffffffff, 0, 0⟩,
   ⟨0x0102104c, [(8, 0x00100000), (8, 0x00001000), (2, 4)], 0, 0, 0, 0, 0⟩,
   ⟨0x01021100, [(8, 0x00100000), (8, 0x00001000)], 0xfe000000, 0, 0, 0, 0⟩,
   ⟨0x01021104, [(8, 0x00100000), (8, 0x00001000)], 0x03ff07ff, 0, 0, 0, 0⟩,
   ⟨0x01021108, [(8, 0x00100000), (8, 0x00001000), (8, 4)], 0xffffffff, 0, 0, 0, 0⟩,
   ⟨0x01021128, [(8, 0x00100000), (8, 0x00001000), (3, 4)], 0x80001fff, 0, 0, 0, 0⟩,
   ⟨0x01021134, [(8, 0x00100000), (8, 0x00001000), (5, 4)], 0xffffffff, 0, 0, 0, 0⟩,
   ⟨0x01021148, [(8, 0x00100000), (8, 0x00001000)], 0x0000ffff, 0, 0, 0, 0⟩,
   ⟨0x0102114c, [(8, 0x00100000), (8, 0x00001000), (6, 4)], 0x80001fff, 0, 0, 0, 0⟩]

/-- The rows of CLUS. -/
def regRowsCLUS : List RegRow :=
  [⟨0x01030000, [(8, 0x00100000), (4, 0x00001000), (4, 4)], 0, 0, 0, 0, 0⟩,
   ⟨0x01030010, [(8, 0x00100000), (4, 0x00001000)], 0, 0, 0xffffffff, 0, 0⟩,
   ⟨0x01030014, [(8, 0x00100000), (4, 0x00001000)], 0, 0, 0, 0, 0⟩]

/-- The rows of CELL. -/
def regRowsCELL : List RegRow :=
  [⟨0x01040000, [(8, 0x00100000), (64, 0x00001000)], 0xff3f03ff, 0, 0, 0, 0⟩,
   ⟨0x01040004, [(8, 0x00100000), (64, 0x00001000)], 0x03ff07ff, 0, 0, 0, 0⟩,
   ⟨0x01040008, [(8, 0x00100000), (64, 0x00001000), (4, 4)], 0x80001fff, 0, 0, 0, 0⟩,
   ⟨0x01040018, [(8, 0x00100000), (64, 0x00001000), (4, 4)], 0x80001fff, 0, 0, 0, 0⟩,
   ⟨0x01040028, [(8, 0x00100000), (64, 0x00001000), (4, 4)], 0x80001fff, 0, 0, 0, 0⟩,
   ⟨0x01040038, [(8, 0x00100000), (64, 0x00001000), (4, 4)], 0xffffffff, 0, 0, 0, 0⟩,
   ⟨0x01040048, [(8, 0x00100000), (64, 0x00001000)], 0xffffffff, 0, 0, 0, 0⟩,
   ⟨0x0104004c, [(8, 0x00100000), (64, 0x00001000)], 0x00ffffff, 0, 0, 0, 0⟩,
   ⟨0x01040080, [(8, 0x00100000), (64, 0x00001000), (4, 4)], 0, 0, 0, 0, 0⟩,
   ⟨0x01040090, [(8, 0x00100000), (64, 0x00001000), (2, 4)], 0, 0, 0xffffffff, 0, 0⟩,
   ⟨0x01040098, [(8, 0x00100000), (64, 0x00001000)], 0, 0, 0, 0, 0⟩,
   ⟨0x010400a0, [(8, 0x00100000), (64, 0x00001000), (4, 4)], 0, 0, 0, 0, 0⟩,
   ⟨0x01040100, [(8, 0x00100000), (64, 0x00001000), (2, 4)], 0, 0, 0, 0, 0⟩,
   ⟨0x01040110, [(8, 0x00100000), (64, 0x00001000), (4, 4)], 0, 0, 0, 0, 0⟩,
   ⟨0x01040120, [(8, 0x00100000), (64, 0x00001000), (5, 4)], 0, 0, 0, 0, 0⟩,
   ⟨0x01040200, [(8, 0x00100000), (64, 0x00001000), (63, 4)], 0, 0, 0, 0, 0⟩,
   ⟨0x01040300, [(8, 0x00100000), (64, 0x00001000), (63, 4)], 0, 0, 0, 0, 0⟩,
   ⟨0x01040120, [(8, 0x00100000), (64, 0x00001000)], 0, 0, 0, 0, 0⟩,
   ⟨0x01040130, [(8, 0x00100000), (64, 0x00001000), (4, 4)], 0, 0, 0, 0, 0⟩,
   ⟨0x01040140, [(8, 0x00100000), (64, 0x00001000), (8, 4)], 0, 0, 0, 0, 0⟩,
   ⟨0x01040160, [(8, 0x00100000), (64, 0x00001000), (4, 4)], 0, 0, 0, 0, 0⟩]

/-- The rows of the unit whose block of R29 or R30 holds address `a`. -/
def regRowsAt (a : Nat) : List RegRow :=
  if a < 0x4000 then regRowsDEV
  else if a < 0x8000 then regRowsPWR
  else if a < 0x10000 then regRowsCLK
  else if a < 0x20000 then regRowsCFG
  else if a < 0x30000 then regRowsSEAL
  else if a < 0x40000 then regRowsTIME ++ regRowsTCI ++ regRowsTPO
  else if a < 0x60000 then regRowsNET
  else if a < 0x70000 then regRowsBATON
  else if a < 0x80000 then regRowsEVR
  else if a < 0x90000 then regRowsSAFE
  else if a < 0xA0000 then regRowsCHK
  else if a < 0xB0000 then regRowsBIST
  else if a < 0xC0000 then regRowsMAINT
  else if a < 0xD0000 then regRowsSNAP ++ regRowsARB
  else if a < 0x100000 then regRowsMEM
  else if a < 0x200000 then regRowsCAN ++ regRowsCEN ++ regRowsOBJ
  else if a < 0x300000 then regRowsSTRIDE
  else if a < 0x310000 then regRowsADC
  else if a < 0x318000 then regRowsDAC
  else if a < 0x320000 then regRowsANA
  else if a < 0x400000 then regRowsDIO ++ regRowsILK ++ regRowsENC
  else if a < 0x1000000 then regRowsSIG
  else if a < 0x1800000 then
    (let o := a % 0x100000
     if o < 0xF00 then regRowsSEQ
     else if o < 0x10000 then regRowsTILE
     else if o < 0x20000 then regRowsACQ ++ regRowsCAP
     else if o < 0x21000 then regRowsMOT
     else if o < 0x30000 then regRowsAXIS
     else if o < 0x40000 then regRowsCLUS
     else regRowsCELL)
  else []

/-- The row that holds address `a`, if a register lies there (R703). -/
def regRow? (a : Nat) : Option RegRow := (regRowsAt a).find? (fun r => r.hit a)

/-- The offsets that hold no register and yet are no bad access: the law-state window of a cell and the status range
of an axis (R31). -/
def quietHole (a : Nat) : Bool :=
  decide (0x1000000 ≤ a) && decide (a < 0x1800000) && decide (a % 4 = 0) &&
    (let o := a % 0x100000
     (decide (0x40000 ≤ o) && decide (o < 0x80000) && decide (0x100 ≤ o % 0x1000) && decide (o % 0x1000 ≤ 0x7FC)) ||
     (decide (0x21000 ≤ o) && decide (o < 0x29000) && decide (o % 0x1000 < 0x80)))

/-- The registers whose reset value is not 0, as the field tables and R364 give them. -/
def resetRows : List (Nat × List (Nat × Nat) × Word) :=
  [(0x00000030, [], 0x000007d0),
   (0x00004000, [], 1),
   (0x00004010, [], 0x00000064),
   (0x00030010, [], 0x3f000000),
   (0x00030014, [], 0x3d4ccccd),
   (0x00030080, [], 0x00000020),
   (0x00060000, [], 3),
   (0x00060004, [], 0x00002710),
   (0x00060008, [], 0x000003e8),
   (0x00060010, [], 0x0000003c),
   (0x00070004, [], 3),
   (0x00090000, [], 0x000003e8),
   (0x000a0000, [], 1),
   (0x000a0008, [], 0x00000080),
   (0x000b0008, [], 0x00000300),
   (0x000c0010, [], 0xffffffff),
   (0x000c0014, [], 0xffffffff),
   (0x000c0018, [], 0xffffffff),
   (0x000c001c, [], 0xffffffff),
   (0x00100020, [(4, 0x00010000)], 3),
   (0x0010800c, [(4, 0x00010000), (128, 0x00000100)], 1),
   (0x00108010, [(4, 0x00010000), (128, 0x00000100)], 0xff000000),
   (0x00200000, [(8, 0x00010000)], 3),
   (0x00200004, [(8, 0x00010000)], 1),
   (0x00300104, [(16, 0x00001000)], 0x37a3d70a),
   (0x0030010c, [(16, 0x00001000)], 0x3723d70a),
   (0x00300114, [(16, 0x00001000)], 0x36a3d70a),
   (0x0030011c, [(16, 0x00001000)], 0x3623d70a),
   (0x00300124, [(16, 0x00001000)], 0x35a3d70a),
   (0x0030012c, [(16, 0x00001000)], 0x3523d70a),
   (0x00318000, [(32, 8)], 1),
   (0x0032001c, [(64, 0x00000040)], 0x00000018),
   (0x01021104, [(8, 0x00100000), (8, 0x00001000)], 1),
   (0x01040004, [(8, 0x00100000), (64, 0x00001000)], 1),
   (0x00300130, [(16, 0x00001000)], 0xc3fa0000),
   (0x00300134, [(16, 0x00001000)], 0x43a28000),
   (0x00310400, [(32, 0x00000010)], 0x46480000),
   (0x00310408, [(32, 0x00000010)], 0x46c80000)]

/-- The reset value of the register at address `a`: what its field table gives, 0 where every field resets to 0,
0 where the spec gives none (DESIGN CHOICE, log 5), and the nominal calibration set of R364 (DESIGN CHOICE, log 10). -/
def regReset (a : Nat) : Word :=
  match resetRows.find? (fun r => decide (r.1 ≤ a) && dimsHit r.2.1 (a - r.1)) with
  | some r => r.2.2
  | none => 0

end Sys2Proof.Machine
end

