-- ==== Sys2Proof/Machine/Tab.lean ====
section
/-! DEFINITION. Operations on tables with natural-number keys in canonical form. -/

namespace Sys2Proof.Machine

/-- What table `t` holds at key `k`, where an unlisted key reads as `d k`. -/
def tabGet {α : Type} (d : Nat → α) : Tab α → Nat → α
  | [], k => d k
  | (a, v) :: r, k => if a = k then v else tabGet d r k

/-- Table `t` without what it lists at key `k`. -/
def tabErase {α : Type} : Tab α → Nat → Tab α
  | [], _ => []
  | (a, v) :: r, k => if a = k then tabErase r k else (a, v) :: tabErase r k

/-- Table `t` with value `v` at key `k`, keys rising. -/
def tabInsert {α : Type} : Tab α → Nat → α → Tab α
  | [], k, v => [(k, v)]
  | (a, w) :: r, k, v =>
    if k < a then (k, v) :: (a, w) :: r
    else if a = k then (k, v) :: r
    else (a, w) :: tabInsert r k v

/-- Table `t` holding `v` at key `k`: writing what an unlisted key reads as removes the entry. -/
def tabSet {α : Type} [DecidableEq α] (d : Nat → α) (t : Tab α) (k : Nat) (v : α) : Tab α :=
  if v = d k then tabErase t k else tabInsert t k v

/-- Every key of `t` is above `b`, the keys rise, and no entry equals its default. -/
def tabWfFrom {α : Type} [DecidableEq α] (d : Nat → α) : Option Nat → Tab α → Bool
  | _, [] => true
  | b, (a, v) :: r =>
    (match b with | none => true | some b => decide (b < a)) && decide (v ≠ d a) && tabWfFrom d (some a) r

/-- The canonical form of a table. -/
def tabWf {α : Type} [DecidableEq α] (d : Nat → α) (t : Tab α) : Bool := tabWfFrom d none t

/-- The canonical form of a byte memory whose unlisted bytes read as `d`. -/
abbrev Memory.wf (d : Byte) (m : Tab Byte) : Bool := tabWf (fun _ => d) m

/-- The entry of `t` at key `k`, if it lists one. -/
def tabFind {α : Type} : Tab α → Nat → Option α
  | [], _ => none
  | (a, v) :: r, k => if a = k then some v else tabFind r k

/-- Set every key of a list, in order, to the value paired with it. -/
def tabSetMany {α : Type} [DecidableEq α] (d : Nat → α) (t : Tab α) : List (Nat × α) → Tab α
  | [] => t
  | (k, v) :: r => tabSetMany d (tabSet d t k v) r

end Sys2Proof.Machine
end

