-- ==== Sys2Proof/Machine/State.lean ====
section
/-! DEFINITION. The state of the device. Every register word of R704 and R705 that is stored lives in `State.regs`
under its own address (R7: every register is one 32-bit word at one address; Machine/RegMap.lean names each).
What the spec gives the machine beyond its registers lives in one structure per unit below. Registers that only
show another piece of state are computed when read (Machine/Access.lean). -/

namespace Sys2Proof.Machine

/-- The three variants of the family (R1). -/
inductive Part where
  | gw4840
  | gw4820
  | gw4810
  deriving DecidableEq, Repr

/-- Reasons why the model stops on a command. -/
inductive Fault where
  /-- Raised by `answer` when a command names an instance (a tile, a port, a channel) that no variant has, so that
  the command describes nothing that can happen to the hardware (R12, R13). Safe: the hardware has no such event. -/
  | noSuchInstance
  deriving DecidableEq, Repr

/-- Reasons why a command has no meaning. -/
inductive Refusal where
  /-- Raised by the dispatch alone, for a command whose meaning is not written. Safe. -/
  | notModelled (mnemonic : String)
  deriving DecidableEq, Repr

/-- A signal slot: value, quality word and tick stamp (R19, R21). -/
structure Slot where
  val : F32
  qual : Word
  stamp : DWord
  deriving DecidableEq, Repr

/-- A slot after an image load that gives it no initial value (R22). -/
def Slot.unwritten : Slot := ⟨0, 0, 0xFFFFFFFFFFFFFFFF⟩

/-- A staged slot write: the writer as (CLASS << 12) | INDEX (R27), the slot, its value and quality word, and the EDGE
count at which it reached the signal table (R23). -/
structure Staged where
  writer : Nat
  slot : Nat
  val : F32
  qual : Word
  arrive : Nat
  deriving DecidableEq, Repr

/-- The head of a PTP message (R536, R537): the time port; whether it is a Layer 2 frame, else a UDP datagram; the peer's MAC
or IPv4 address; the source port identity (clockIdentity and portNumber); and domainNumber. -/
structure PtpHead where
  port : Nat
  layer2 : Bool
  dest : Nat
  clockId : List Byte
  portNumber : Nat
  domain : Nat
  deriving DecidableEq, Repr

/-- Something the device sends by a command: what leaves on a port, a link or a bus. -/
inductive Sent where
  /-- A YCP datagram on a port, to an address and UDP port, with MTYPE, TAG and payload (R141), and the sequence
  number of its redundancy trailer if it carries one (R513). -/
  | ycp (port ip udp mtype tag : Nat) (prp : Option Nat) (payload : List Byte)
  /-- A safety frame to a peer's address on a port (R528). -/
  | safety (port ip : Nat) (payload : List Byte)
  /-- A CAN frame on controller `c`: identifier word in the layout of OBJ.RXID, and data. -/
  | can (c : Nat) (id : Word) (data : List Byte)
  /-- A Stride frame on port `d`: the payload and its CRC (R449). -/
  | stride (d : Nat) (frame : List Byte)
  /-- An Ethernet frame of another kind on a port: EtherType, a kind number of the sending rule, and its fields. -/
  | eth (port etherType kind : Nat) (dest : Nat) (payload : List Byte)
  /-- A PTP message to a peer: its head, message kind, sequence number and fields (R538). -/
  | ptp (head : PtpHead) (peer kind seq : Nat) (fields : List Int)
  /-- A maintenance-port answer: STATUS and the 16-bit data half (R689, R692). -/
  | maint (status data : Nat)
  deriving DecidableEq, Repr

/-- An event record before its CRC (R595). -/
structure EvRec where
  flags : Nat
  sev : Nat
  source : Nat
  code : Nat
  opsec : Word
  ms : Nat
  cycles : Nat
  seq : Nat
  p0 : Word
  p1 : Word
  p2 : Word
  p3 : Word
  deriving DecidableEq, Repr

/-- An open window of R708: its code and scope, the occurrences carried, and the source and parameters of the first one. -/
structure Window where
  code : Nat
  scope : Nat
  carried : Nat
  source : Nat
  p0 : Word
  p1 : Word
  p2 : Word
  p3 : Word
  deriving DecidableEq, Repr

/-- Records lost at the queue since the last EV_EVR_QUEUE_LOST (R601). -/
structure LostRun where
  count : Nat
  first : Nat
  last : Nat
  deriving DecidableEq, Repr

/-- A record whose write failed its verify and is written again (R610): first failed ENVM offset, failures so far. -/
structure Retry where
  offset : Nat
  fails : Nat
  deriving DecidableEq, Repr

/-- The event recorder (R594 to R615, R708). Counters and NEXTSEQ are registers. -/
structure Evr where
  queue : List EvRec := []
  bypass : List EvRec := []
  retry : Option Retry := none
  main : Tab EvRec := []
  safety : Tab EvRec := []
  mainBad : List Nat := []
  safetyBad : List Nat := []
  mainPos : Nat := 0
  consecFail : Nat := 0
  frozen : Bool := false
  degraded : Bool := false
  /-- FAULT_N is low for a pulse of R611. -/
  pulse : Bool := false
  lost : Option LostRun := none
  netHold : List Word := []
  maintHold : List Word := []
  netCursor : Word := 0
  maintCursor : Word := 0
  windows : List Window := []
  deriving DecidableEq, Repr

/-- An OTP key slot (R124). -/
structure KeySlot where
  hash : List Byte := []
  mask : Nat := 0
  programmed : Bool := false
  revoked : Bool := false
  deriving DecidableEq, Repr

/-- What the counter write of a letter is for (R130): its commit, its refusal with a code and DETAIL, or nothing more,
because a warm restart began while the write was under way. -/
inductive Verdict where
  | pass
  | refuse (code detail : Nat)
  | drop
  deriving DecidableEq, Repr

/-- A letter that the verifier has decided on and whose counter write is under way (R130). -/
structure Verified where
  letter : Letter
  verdict : Verdict
  /-- The write has been counted as deferred (R338). -/
  deferred : Bool := false
  deriving DecidableEq, Repr

/-- A baton-path letter past step 4 whose counter write has not begun, with its arrival and what it will be written with,
once that is decided (R523). -/
structure Await where
  letter : Letter
  at_ : Nat
  go : Option Verdict
  deriving DecidableEq, Repr

/-- An open refusal run (R135). -/
structure RefusalRun where
  code : Nat
  port : Nat
  typ : Nat
  keyslot : Nat
  seq : Nat
  joined : Nat
  deriving DecidableEq, Repr

/-- A letter as it arrived: where from, its bytes, the EDGE count, and whether it needs no standby comparison (R524). -/
structure Arrived where
  org : Origin
  bytes : List Byte
  at_ : Nat := 0
  solo : Bool := false
  deriving DecidableEq, Repr

/-- A boundary that has begun and whose letters commit (R134): whether ticks are executed there, whether the hold latches
release, the writes that arrived as slot and EDGE count, and the writes that landed (DESIGN CHOICE, log 38). -/
structure Half where
  ticking : Bool
  release : Bool
  arr : List (Nat × Nat)
  landed : List Staged
  deriving DecidableEq, Repr

/-- Keys, counters and letters (R119 to R146). -/
structure Seal where
  keys : List KeySlot := [{}, {}, {}, {}]
  counters : List DWord := [0, 0, 0, 0]
  queue : List Arrived := []
  /-- Letters in arrival order that wait for the standby result or for one before them (R523). -/
  awaiting : List Await := []
  writing : List Verified := []
  /-- Letters that wait for their commit boundary, with the EDGE count at which their counter write finished (R134). -/
  waiting : List (Letter × Nat) := []
  runs : List RefusalRun := []
  /-- The open STORE series: slot and the lowest OFFSET the next DATA may take (R140). -/
  series : Option (Nat × Nat) := none
  /-- The boundary whose letters commit now, until TICK_BOUNDARY completes it. -/
  half : Option Half := none
  deriving DecidableEq, Repr

/-- Where the power sequence stands (R52, R53, R55, R57, R62). -/
inductive PowerPhase where
  /-- KEEP with VKEEP, or off without it: EN low, VIN invalid, or after SLEEP. -/
  | keep
  /-- Rails are being sequenced, PGOOD low. -/
  | sequencing
  /-- PGOOD high and the device runs. -/
  | on
  /-- Held in reset by RESET_N. -/
  | resetHeld
  /-- Shut down by a rail fault until the retry one second later. -/
  | railWait
  /-- Held off until the junction is below 140 degrees. -/
  | thermalHold
  /-- BOOT POST failed: held in BOOT (R57). -/
  | bootHeld
  deriving DecidableEq, Repr

/-- A step of a rail sequence (R52, R54): the rail of a bit of PWR.RAILS enters or leaves its window, or VCORE has been
discharged to below 0.1 V. -/
inductive RailStep where
  | up (bit : Nat)
  | down (bit : Nat)
  | discharged
  deriving DecidableEq, Repr

/-- Supply, reset pins, AON domain (R45 to R69). -/
structure Power where
  phase : PowerPhase := .on
  en : Bool := true
  vin : Bool := true
  ovin : Bool := false
  vkeep : Bool := true
  resetN : Bool := true
  pgood : Bool := true
  wakeNeeded : Bool := false
  /-- Reset causes taken since the last entry into BOOT, to be set in PWR.RSTCAUSE there. -/
  causes : Word := 0
  /-- Consecutive current-limited cycles per phase (R51). -/
  limit : List Nat := [0, 0, 0, 0]
  /-- The OTP power record, if programmed (R48). -/
  record : Option Word := none
  /-- ENVM copies of OPSEC, CYCLES, AONLOST and LASTFAULT (R68), and of SAFE.HTLAST (R580). -/
  saved : List Word := List.replicate 12 0
  /-- The save of a whole minute waits for the ENVM port (R68, R338). -/
  saveDue : Bool := false
  rcRecorded : Bool := false
  /-- BOOT will be entered from KEEP or from power-off (R67). -/
  fromOff : Bool := false
  /-- A bit for each AON counter whose retention check passes at the next BOOT (R68). -/
  ret : Nat := 15
  /-- The steps of the latest rail sequence, oldest first (R52, R54). -/
  rails : List RailStep := [.up 1, .up 2, .up 3, .up 0, .up 4]
  /-- EDGE count at the latest whole AON second. -/
  secondAt : Nat := 0
  /-- A cause that takes the device from RUN to SAFE at the next boundary, 0 for none (R57). -/
  safeDue : Nat := 0
  deriving DecidableEq, Repr

/-- The place in a warm restart (R73, R77). -/
inductive WarmPhase where
  | none
  | restoring
  /-- Restored; `B(r)` is the next boundary. -/
  | restored
  /-- Tick r is running; the latches release at the next boundary. -/
  | firstTick
  deriving DecidableEq, Repr

/-- Warm restart bookkeeping (R70 to R79). -/
structure Warm where
  phase : WarmPhase := .none
  t0 : Nat := 0
  /-- The boundaries since the checkpoint, the ticks that pass with no tile executing. -/
  j : Nat := 0
  ticks : Nat := 0
  resumed : Bool := false
  /-- EDGE count at the latest B(r+1), for the repeat guard. -/
  released : Option Nat := Option.none
  /-- State was not resumed: the outputs are at their safe values until the load has ended (R74). -/
  safe : Bool := false
  /-- The state before the restart, to resume in. -/
  from_ : Nat := 0
  deriving DecidableEq, Repr

/-- A DRAM partition (R100). -/
structure DramPart where
  kind : Nat
  tile : Nat
  engine : Nat
  mode : Nat
  base : Nat
  size : Nat
  deriving DecidableEq, Repr

/-- A record of a section with the record envelope: KEY, KIND, body, and the image offset of the record (R93). -/
structure Rec where
  key : Nat
  kind : Nat
  off : Nat
  body : List Byte
  deriving DecidableEq, Repr, Inhabited

/-- A PARAMS record (R98). -/
structure ParamDef where
  recipe : Nat
  index : Nat
  typ : Nat
  min : Word
  max : Word
  dflt : Word
  deriving DecidableEq, Repr

/-- An image as its bytes and the records they spell (R89 to R103): the whole of it, the HEADER flags,
UNITS.OVERCOMMIT, the REGS and SIGNALS records with their offsets, the enveloped records with their section types,
the PARAMS and DRAM records with their offsets. While an image is loaded its bytes are the configuration copy (R101). -/
structure Image where
  bytes : List Byte := []
  flags : Nat := 0
  overcommit : Nat := 0
  regs : List (Nat × Nat × Word) := []
  signals : List (Nat × Nat × Nat × Word) := []
  recs : List (Nat × Rec) := []
  params : List (Nat × ParamDef) := []
  dram : List (Nat × DramPart) := []
  deriving DecidableEq, Repr

/-- The serial flash of R81: its density in bytes, whether SFDP can be read and has both xSPI tables. -/
structure Flash where
  density : Nat := 0x8000000
  sfdp : Bool := true
  tables : Bool := true
  bytes : Tab Byte := []
  deriving DecidableEq, Repr

/-- A pending mode change of a cell (R174): the mode, and manual outputs if the letter carried them. -/
structure ModeChange where
  mode : Nat
  manual : Option (List F32)
  deriving DecidableEq, Repr

/-- What a cell holds beyond its registers (R174, R182, R183). -/
structure CellX where
  pending : Option ModeChange := none
  running : Bool := false
  start : Nat := 0
  tripped : Bool := false
  held : List F32 := []
  deriving DecidableEq, Repr

/-- A write or a ramp under way (R233 to R235): its slot, shape, v0 and v1, whether the source of v1 was good, the number
of its writes and those made. A STEP action is a single write. -/
structure Ramp where
  slot : Nat
  scurve : Bool
  v0 : F32
  v1 : F32
  srcOk : Bool
  n : Nat
  i : Nat
  deriving DecidableEq, Repr

/-- A shadow bank (R256 to R260): the target it serves; for the present tick the EDGE count of the later of start and
last input change of its edge part and of its tick part, and of the completion of each where it has been reported; and
reported completions of the bank for the next tick. -/
structure Bank where
  target : Nat
  since : Nat
  tsince : Nat
  done : Option Nat := none
  tdone : Option Nat := none
  doneNext : Option Nat := none
  tdoneNext : Option Nat := none
  deriving DecidableEq, Repr

/-- An exit that is met and waits for the boundary that enters its successor: cause (R255) and target. -/
structure ExitMet where
  cause : Nat
  target : Nat
  deriving DecidableEq, Repr

/-- A recipe lane (R215 to R276). -/
structure Lane where
  state : Nat := 0
  faultCause : Nat := 0
  endCode : Nat := 0
  holdPend : Bool := false
  abortSeq : Bool := false
  recipe : Nat := 0
  step : Nat := 0
  /-- The pending target of SEQ.NEXT (R241). -/
  next : Option Nat := none
  /-- Entry tick KE, TE as an EDGE count, and TE - B(KE) in EDGE cycles. -/
  ke : Nat := 0
  te : Nat := 0
  teOff : Nat := 0
  /-- EDGE cycles spent in HOLD since TE, and the EDGE count at which the present hold began. -/
  heldFor : Nat := 0
  heldAt : Nat := 0
  /-- TE of the abort step (R244). -/
  abortTe : Nat := 0
  params : List Word := []
  /-- Operands resolved at entry (R224): the timeout in us, and A and B of each condition. -/
  duration : Word := 0xFFFFFFFF
  operA : List Word := []
  operB : List Word := []
  ramps : List Ramp := []
  /-- Per condition, the EDGE count of the boundary from which a COMPARE has held. -/
  dwell : List (Option Nat) := [none, none, none, none]
  /-- Exits met before B(KE+1), as a mask with the timeout in bit 4 (R230). -/
  early : Nat := 0
  exit : Option ExitMet := none
  /-- The word of SEQ.EXIT. -/
  exitReg : Word := 0
  stepCnt : Word := 0
  banks : List Bank := []
  notReady : Nat := 0
  /-- The parameters that PARAMSETs have changed since the latest boundary, each with the EDGE count at which the letter's
  counter write finished (R259). -/
  paramAt : List (Nat × Nat) := []
  /-- EDGE count from which speculation has run since a warm restart (R274). -/
  specAt : Nat := 0
  /-- EDGE count at which the lane's tile was marked failed and stopped (R37, R321). -/
  stopAt : Option Nat := none
  /-- A required node has left since the last boundary (R245). -/
  lostNode : Bool := false
  deriving DecidableEq, Repr

/-- One network port (R509 to R519): whether it has started, the host learned from heartbeats, the number of
heartbeats sent, whether the next one is the first after a warm restart (R518), the arrival of the latest host heartbeat and
its HBSEQ, the EDGE count of the port's start, and the next hops that ARP has resolved since (R512). -/
structure Port where
  started : Bool := false
  startAt : Nat := 0
  learned : Option (Nat × Nat) := none
  hbSeq : Nat := 0
  restartHb : Bool := false
  tl : Nat := 0
  hostSeq : Nat := 0
  resolved : List Nat := []
  /-- Register copies of this port's reads (R18, R20): address and word. -/
  copies : Tab Word := []
  deriving DecidableEq, Repr

/-- An entry of the duplicate table (R515): source MAC, sequence number, port, EDGE count of acceptance. -/
structure DupEntry where
  mac : Nat
  seq : Nat
  port : Nat
  time : Nat
  deriving DecidableEq, Repr

/-- A copy of a letter that came on the standby path with its result (R522, R524): the first failing step, 0 for PASS, the
CRC-32C, the EDGE count of its arrival, whether SKEW has ended and whether a frame has come on the baton path since. -/
structure Held where
  copy : Arrived
  result : Nat
  crc : Nat
  at_ : Nat
  skewEnded : Bool
  frameSince : Bool
  deriving DecidableEq, Repr

/-- Ports A and B, duplication and the baton unit (R509 to R535). -/
structure Net where
  ports : List Port := [{}, {}]
  prpSeq : Nat := 0
  dups : List DupEntry := []
  held : List Held := []
  /-- Copies whose baton copy is in the queue or waits (R523). -/
  results : List Held := []
  /-- Both paths have just been lost and REACT waits for the next boundary (R526). -/
  reactDue : Bool := false
  recoveryMac : Nat := 0
  recoveryIp : Nat := 0
  deriving DecidableEq, Repr

/-- The maintenance port and the Postbox (R686 to R702). FRAMES, FRAMEERR, IRQSTAT and the like are registers. -/
structure Maint where
  ptr : Nat := 0
  readHold : Nat := 0
  writeHold : Nat := 0
  nextFrame : Bool := false
  nextWref : Bool := false
  nextBad : Bool := false
  nextRst : Bool := false
  pbPtr : Nat := 0
  pba : Nat := 0
  pend : Bool := false
  rdbuf : Nat := 0
  wacc : Bool := false
  scratch : Tab Nat := []
  copies : Tab Word := []
  deriving DecidableEq, Repr

/-- A time-triggered pulse generator (R553 to R555): the latched START and PERIOD and WIDTH in ns, PERIODIC, the index
of its next pulse, and the EDGE count at which a pulse in progress ends. -/
structure Tpo where
  start : Nat := 0
  period : Nat := 0
  width : Nat := 0
  periodic : Bool := false
  next : Nat := 0
  ends : Option Nat := none
  deriving DecidableEq, Repr

/-- A two-step Sync that waits for its Follow_Up: sequence number, corrected ingress stamp, correction (R543). -/
structure SyncWait where
  seq : Nat
  t2 : Int
  corr : Int
  deriving DecidableEq, Repr

/-- A peer delay exchange in progress (P2P): sequence number, t1, and t4, t2 and correction once the response is in. -/
structure PdelayWait where
  seq : Nat
  t1 : Int
  resp : Option (Int × Int × Int)
  deriving DecidableEq, Repr

/-- The time unit (R536 to R557). `acc` is the counter at EDGE count `base` in units of 2.5e-13 ns, and `rq` the rate in
steps of 0.0001 ppb (R541), so that one EDGE cycle adds 10^13 + rq units. Offsets and delays are in units of 2^-17 ns. -/
structure Time where
  acc : Nat := 0
  base : Nat := 0
  rq : Int := 0
  r : F64 := 0
  i : F64 := 0
  streak : Nat := 0
  /-- The EDGE count of the latest Announce of peer 0. -/
  heard : Option Nat := none
  /-- A valid offset has come since the port started. -/
  following : Bool := false
  delayOk : Bool := false
  mpd : Int := 0
  sync : Option SyncWait := none
  /-- t1 and t2 of the latest Sync with their corrections, for the E2E delay. -/
  lastSync : Option (Int × Int × Int) := none
  delayReq : Option (Nat × Int) := none
  pdelay : Option PdelayWait := none
  seqNo : Nat := 0
  tpo : List Tpo := [{}, {}, {}, {}]
  /-- EDGE counts of the last stamped edges of TCI0 to TCI3. -/
  tci : List (Option Nat) := [none, none, none, none]
  deriving DecidableEq, Repr

/-- A sequence that a start began (R344, R348, R359): the EDGE counts of its start event and of entry 0's sampling, the
entry whose result comes next, whether its results are discarded (R351), the selection of ADC.CHSEL it took, and the CONV
cycles by which an in-service test has deferred entry 0 (R355). -/
structure AdcRun where
  start : Nat
  first : Nat
  next : Nat
  discard : Bool
  sel : Word
  lag : Nat := 0
  deriving DecidableEq, Repr

/-- An ADC core (R344 to R359): the EDGE count of its latest start event, of the end of a start delay and of the end of
the latest sequence taken, and the sequences whose results have not all arrived, oldest first. -/
structure AdcCore where
  event : Option Nat := none
  first : Nat := 0
  idle : Nat := 0
  runs : List AdcRun := []
  deriving DecidableEq, Repr

/-- Calibration items of a committed CALIBRATE letter that wait for ENVM: their number, the letter's SEQ, the registers
with their values, and whether the write has failed once (R365, R368). -/
structure CalWrite where
  items : Nat
  seq : Nat
  words : List (Nat × Word)
  failed : Bool
  /-- The write has been counted as deferred (R338). -/
  deferred : Bool := false
  deriving DecidableEq, Repr

/-- The analog die beyond its registers: the cores, the DAC channels that have a code (bit per channel, R362), the codes
that the hold latches hold with their channels (R75, R361), the EDGE count of the latest CALIBRATE's commit with the
registers as they were before it (R365), the calibration writes in order, and the calibration set in ENVM by register
address (R364). -/
structure Analog where
  cores : List AdcCore := List.replicate 16 {}
  coded : Word := 0
  held : List Word := []
  heldCoded : Word := 0
  calAt : Nat := 0
  calPrev : Tab Word := []
  writes : List CalWrite := []
  envm : Tab Word := []
  deriving DecidableEq, Repr

/-- What a DIO output stage does to its ball. -/
inductive Drive where
  | low
  | high
  | hiZ
  deriving DecidableEq, Repr

/-- A DIO ball beyond its registers (R381 to R401). -/
structure Ball where
  /-- The synchronised external level, and the EDGE count of its latest change. -/
  level : Bool := false
  changed : Nat := 0
  /-- The DIO level output register, or none before its first level (R384). -/
  reg : Option Bool := none
  /-- The level in READY: that of the slot's initial value, none for a NaN (R384, R385). -/
  init : Option Bool := none
  /-- What the hold latch holds (R75). -/
  held : Drive := .hiZ
  /-- PWM: the ball's level, the high time that applies, the one committed last with the EDGE count of its commit, and
  the one before it (R388, R389). -/
  lvl : Bool := false
  high : Nat := 0
  next : Nat := 0
  nextAt : Nat := 0
  prev : Nat := 0
  /-- PULSE: the level at the latest commit, if there was one, the EDGE count of a trigger whose delay runs, and of a rise
  (R391). -/
  last : Option Bool := none
  trig : Option Nat := none
  rose : Option Nat := none
  /-- PERIOD, FREQ: the EDGE count of the latest qualifying edge while a measurement runs, and that from which the
  timeout counts (R394). -/
  edge : Option Nat := none
  since : Option Nat := none
  /-- LIMIT: the EDGE count at which the open chatter window began, and the transitions in it (R393). -/
  window : Option Nat := none
  count : Nat := 0
  deriving DecidableEq, Repr

/-- DIO balls, encoders and ILK lines beyond their registers. -/
structure Dio where
  balls : List Ball := List.replicate 64 {}
  /-- Live encoder counts (R396). -/
  counts : List Word := List.replicate 21 0
  /-- EDGE count of B(0), at which the PWM counters start (R387). -/
  pwmBase : Option Nat := none
  /-- The level output registers have sampled their slots in this RUN (R386). -/
  sampled : Bool := false
  /-- DEB is to be written to the result slots at the next boundary (R392). -/
  debDue : Bool := false
  /-- What the safety island's forced hold groups that are active drive, by ball (R574). -/
  forced : List (Nat × Drive) := []
  /-- LIMIT balls whose chatter is to be reported to the axes (R393). -/
  chatter : List Nat := []
  /-- Levels of ILK0 to ILK7, and the latched lines. -/
  ilk : Nat := 0
  latched : Nat := 0
  deriving DecidableEq, Repr

/-- The running reduction of a trace entry (R282). -/
structure Reduce where
  n : Nat := 0
  sum : F64 := 0
  sq : F64 := 0
  mn : F32 := 0x7F800000
  mx : F32 := 0xFF800000
  last : Option F32 := none
  qo : Nat := 0
  qa : Bool := true
  nan : Bool := false
  deriving DecidableEq, Repr

/-- A trigger condition: its state, whether EDGE is primed, and the samples before the latest, newest first (R288). -/
structure Cond where
  st : Bool := false
  primed : Bool := false
  hist : List F32 := []
  deriving DecidableEq, Repr

/-- A trace frame before it is written: FLAGS, TICK and its records (R284). -/
structure TFrame where
  flags : Nat
  tick : Nat
  body : List Byte
  deriving DecidableEq, Repr

/-- The trace of a tile: closed frames on their way to the write queue, the write queue, start and length of the frames
in the ring from OLDPOS on, and the frames not written since a STOP (R283, R308). -/
structure TraceX where
  closed : List TFrame := []
  queue : List TFrame := []
  ring : List (Nat × Nat) := []
  gap : Nat := 0
  deriving DecidableEq, Repr

/-- A lap frame: its words, whether one carried LATE, the start event and sequence entry of an ADC frame, and the EDGE
count of its arrival (R293). -/
structure Frame where
  words : List Word
  late : Bool
  start : Nat
  entry : Nat
  at_ : Nat
  deriving DecidableEq, Repr

/-- A lap from its trigger on (R294 to R297): the EDGE count of the trigger's cycle, the header's fields, the frames
before the trigger frame, that frame, and those after it. -/
structure Lap where
  seq : Nat
  forced : Bool
  primary : Nat
  mask : Nat
  cycle : Nat
  tick : Nat
  tns : Word
  sec : Nat
  timeinv : Bool
  missed : Word
  before : List Frame
  trig : Option Frame
  after : List Frame
  full : Bool := false
  restart : Bool := false
  /-- The trigger frame has arrived since the engine armed (R296). -/
  own : Bool := true
  /-- CAP.FORCED before a forced trigger counted there (R299). -/
  forcedWas : Word := 0
  deriving DecidableEq, Repr

/-- A trigger engine: the EDGE count at which it armed, its pre-trigger store with the latest frame, the latest frame that
has reached it in any state (R296), the lap in progress, completed laps whose header is not in DRAM, the LAPSEQ of the next
lap, the EDGE count of the latest trigger occurrence, and words of other cores that came before the pacing word (start,
entry, source, word). -/
structure Engine where
  armedAt : Nat := 0
  store : List Frame := []
  latest : Option Frame := none
  lap : Option Lap := none
  done : List Lap := []
  seq : Nat := 0
  occAt : Option Nat := none
  early : List (Nat × Nat × Nat × Word) := []
  deriving DecidableEq, Repr

/-- An unfinished readout request: the place of its next byte and its end, the EDGE count of its arrival, whether a
datagram has been sent (R313, R316), and the slot of the lap buffer that a LAP_READ reads (R309, R314). -/
structure Readout where
  bulk : Bulk
  next : Nat
  stop : Nat
  arrived : Nat
  begun : Bool
  slot : Nat := 0
  deriving DecidableEq, Repr

/-- Trigger and acquisition units and the readout engine, beyond their registers and what a checkpoint holds. -/
structure Acq where
  recording : Bool := false
  traces : List TraceX := List.replicate 8 {}
  engines : List Engine := List.replicate 32 {}
  /-- Requests of port A and of port B, and the port served last. -/
  reqs : List (List Readout) := [[], []]
  lastPort : Nat := 1
  deriving DecidableEq, Repr

/-- A segment of a plan (R420): its duration and jerk, the state at its start, its code in AXIS.STAT.SEG, and for
segment 4 the position that limits it. -/
structure Seg where
  dur : F32
  jerk : F32
  p : DWord
  v : F32
  a : F32
  code : Nat
  lim : Option DWord
  deriving DecidableEq, Repr

/-- A plan (R419 to R422): segments, total duration, end position, signed end velocity, whether it is a hard stop, the
executions that have evaluated it, and the time at which its first execution would stand at count 0 (R421). -/
structure Plan where
  segs : List Seg
  tend : F32
  x : DWord
  ve : F32
  hard : Bool
  m : Nat
  base : F32
  deriving DecidableEq, Repr

/-- A queued move (R423). -/
structure Move where
  target : DWord
  vlim : F32
  blend : Bool
  id : Word
  deriving DecidableEq, Repr

/-- A group of a MOVE letter that waits for the axis's next execution (R426). -/
structure MoveCmd where
  axis : Nat
  target : DWord
  rel : Bool
  flush : Bool
  blend : Bool
  stop : Bool
  vlim : F32
  id : Word
  deriving DecidableEq, Repr

/-- An axis (R409 to R447). AXIS.EVT and AXIS.DROPCNT are registers; the others of R444 show these fields. -/
structure Axis where
  st : Nat := 0
  hstep : Nat := 0
  seg : Nat := 0
  homed : Bool := false
  p : DWord := 0
  act : DWord := 0
  tgt : DWord := 0
  ofs : DWord := 0
  href : DWord := 0
  v : F32 := 0
  a : F32 := 0
  ferr : F32 := 0
  torque : F32 := 0
  moveId : Word := 0
  doneId : Word := 0
  moveCnt : Word := 0
  lastTick : Word := 0
  plan : Option Plan := none
  /-- The queue, the active move first, and whether the first is active. -/
  queue : List Move := []
  active : Bool := false
  cmds : List MoveCmd := []
  /-- An execution has taken place since the load. -/
  started : Bool := false
  /-- The encoder count of the previous execution (R415). -/
  enc : Word := 0
  /-- Position of the latest reply, and whether one has come since the previous execution (R415). -/
  fb : DWord := 0
  fresh : Bool := false
  /-- The last bit pattern taken from AXIS.TGTSLOT (R429). -/
  taken : Option Word := none
  /-- Homing: the step's plan is to be built; executions above HSFEL; the reference; the cause of a failure (R435 to R437). -/
  hinit : Bool := false
  hsCount : Nat := 0
  hrefNew : DWord := 0
  hfail : Option Word := none
  /-- MOVEID of a STOP in progress (R426). -/
  stopId : Option Word := none
  /-- The drive's index latch is armed, and the index position it reported (R451). -/
  idxArm : Bool := false
  idx : Option DWord := none
  /-- The island's test torque (R440). -/
  tq : F32 := 0
  /-- A new plan from the actual position is due after a warm restart (R442). -/
  replan : Bool := false
  /-- The limits found active at the latest execution: bit 0 negative, bit 1 positive (R445). -/
  lims : Nat := 0
  clip : Bool := false
  /-- Set-point in drive coordinates and velocity of the latest execution, and those issued at a boundary since (R416). -/
  pend : DWord × F32 := (0, 0)
  issued : DWord × F32 := (0, 0)
  deriving DecidableEq, Repr

/-- A drive-table entry (R456 to R460): state (0 ABSENT, 1 JOINING, 2 PRESENT), consecutive misses, whether the present
period's slot holds an accepted REPLY and has closed, and whether the entry becomes JOINING at the period's end. -/
structure StrideEntry where
  st : Nat := 0
  miss : Nat := 0
  got : Bool := false
  closed : Bool := false
  join : Bool := false
  deriving DecidableEq, Repr

/-- A Stride port (R452 to R461): its entries, the EDGE count and SEQ of the latest period, the tick that opened it, the
entry it probes and whether its PROBE has been sent, the EDGE count at which the latest probe round began, the entries still
to probe, and whether the next broadcast is the first after a warm restart. -/
structure StridePort where
  entries : List StrideEntry := [{}, {}, {}, {}]
  opened : Option Nat := none
  seq : Nat := 0
  last : Option Nat := none
  probe : Option Nat := none
  probed : Bool := false
  roundAt : Option Nat := none
  todo : List Nat := []
  restart : Bool := false
  deriving DecidableEq, Repr

/-- A pending transmit request (R487, R488): the EDGE count at which it was made, which gives its place, and the payloads it
has had with the EDGE counts at which they were made, newest first. -/
structure CanReq where
  made : Nat
  payloads : List (List Byte × Nat)
  deriving DecidableEq, Repr

/-- A CAN object beyond its registers (R481, R484, R488): the payload of its last request, if it has made one; the pending
request; the EDGE count of the last acceptance. -/
structure CanObj where
  last : Option (List Byte) := none
  pend : Option CanReq := none
  accepted : Option Nat := none
  deriving DecidableEq, Repr

/-- A CAN controller beyond its registers (R487 to R498): the error counters, the EDGE count at which the latest frame that it
knows of ended, SOLICITs waiting by node number with the EDGE counts at which they were asked for, the EDGE counts of entry
into BUS_OFF and of the latest addressed SOLICIT, and whether the SOLICIT of the first entry into READY has been requested. -/
structure CanCtl where
  tec : Nat := 0
  recv : Nat := 0
  freeAt : Nat := 0
  solicit : List (Nat × Nat) := []
  offAt : Nat := 0
  askedAt : Option Nat := none
  asked : Bool := false
  deriving DecidableEq, Repr

/-- CAN0 to CAN3 (R469 to R508): controllers; objects by 128 × c + o; the object of a receive group that takes the next
frame, by 64 × c + GROUP; the EDGE count of the last ANNOUNCE or HEARTBEAT by 64 × c + entry; bound entries that have
left since the last boundary; the EDGE count of entry into RUN. -/
structure Can where
  ctl : List CanCtl := [{}, {}, {}, {}]
  objs : Tab CanObj := []
  groups : Tab Nat := []
  seen : Tab Nat := []
  left : List (Nat × Nat) := []
  runAt : Nat := 0
  deriving DecidableEq, Repr

/-- An input pair as an island channel evaluates it (R568 to R570): the accepted combination as SIA + 2 × SIB, the
combination being sampled and for how many cycles, the logical state, the EDGE count since which the accepted combination
disagrees, and the lockout. -/
structure IslIn where
  comb : Option Nat := none
  cand : Nat := 0
  cnt : Nat := 0
  val : Bool := false
  dis : Option Nat := none
  lock : Bool := false
  deriving DecidableEq, Repr

/-- A demand equation in an island channel (R571 to R573): its demand, whether LATCH holds it, the EDGE count of the rise
of the present demand, those at which delayed de-energisations fall due, whether it de-energises its channels, and the
EDGE count since which its RESET term is 1. -/
structure IslEq where
  dem : Bool := false
  held : Bool := false
  rose : Option Nat := none
  due : List Nat := []
  acts : Bool := false
  rst : Option Nat := none
  deriving DecidableEq, Repr

/-- An island channel (R562, R563): the levels it sampled last, its inputs and equations, the channels whose switch it
commands on, and its SAFE_N command. -/
structure IslCh where
  raw : Nat := 0
  ins : List IslIn := List.replicate 16 {}
  eqs : List IslEq := List.replicate 16 {}
  on : Nat := 0
  safen : Bool := false
  deriving DecidableEq, Repr

/-- The test pulses of a channel (R578, R579): 0 none, 1 off-pulse, 2 on-pulse; the tests begun, the EDGE count at which
the latest completed or was discarded, and whether the present one is discarded. -/
structure IslPulse where
  phase : Nat := 0
  n : Nat := 0
  last : Nat := 0
  drop : Bool := false
  deriving DecidableEq, Repr

/-- The holding test of a channel (R581): its step, 0 for none, P0, and the largest deviation. -/
structure IslHold where
  step : Nat := 0
  p0 : DWord := 0
  dev : F32 := 0
  deriving DecidableEq, Repr

/-- A safe-data connection (R528 to R530, R582): 0 before the first pair, 1 OK, 2 FAULT; the last SSEQ sent; the BITS of
the newest pair, its SSEQ and the EDGE count from which the watchdog counts; valid pairs in a row since FAULT; the last
valid SSEQ of each port; and the valid copies newer than the newest pair by port and SSEQ. -/
structure IslConn where
  st : Nat := 0
  tx : Nat := 0
  bits : Word := 0
  pair : Option Nat := none
  since : Nat := 0
  good : Nat := 0
  last : List (Option Nat) := [none, none]
  copies : List (Nat × Nat × List Byte) := []
  deriving DecidableEq, Repr

/-- The safety island (R562 to R591). ISTATE, FAULTCAUSE, SFAULT, PENDING, counters and hashes are registers. -/
structure Safe where
  /-- The body of the SAFETY record in force (R583), empty without one. -/
  cfg : List Byte := []
  /-- RUN is entered again after one island cycle in UNCONF (R565). -/
  again : Bool := false
  chans : List IslCh := [{}, {}]
  /-- Differing comparisons in a row (R564). -/
  differ : Nat := 0
  /-- Release requests, channel faults, BRKFAIL, DUE and OVERDUE by channel. -/
  req : Nat := 0
  cfault : Nat := 0
  brkfail : Nat := 0
  due : Nat := 0
  overdue : Nat := 0
  pulses : List IslPulse := List.replicate 8 {}
  holds : List IslHold := List.replicate 8 {}
  conns : List IslConn := List.replicate 8 {}
  /-- The password hash with its SALT, if a password is set, and PWCOUNT (R585). -/
  password : Option (List Byte × List Byte) := none
  pwCount : Nat := 0
  /-- SEQ of the letter of the pending authorisation (R588). -/
  authSeq : Nat := 0
  deriving DecidableEq, Repr

/-- A scan in progress (R619): SPACE, POLY, address, length, and whether its region has been written since (R622). -/
structure ChkScan where
  space : Nat
  poly : Nat
  addr : Nat
  len : Nat
  dirty : Bool
  deriving DecidableEq, Repr

/-- Integrity services beyond their registers (R616 to R641): the scans by channel; failed ADC tests
in a row; the segments passed of each tile's lane test in progress; the repairs in OTP as INST, KIND, SPARE and ADDRESS;
and the selection of a full BIST in progress. -/
structure Integ where
  scans : List (Option ChkScan) := List.replicate 8 none
  adcBad : List (Nat × Nat) := List.replicate 16 (0, 0)
  laneTest : List (Option Nat) := List.replicate 8 none
  fuses : List (Nat × Nat × Nat × Nat) := []
  /-- The class of the write that the ENVM port took when the latest one ended, if one waited (R338). -/
  envmNext : Option Nat := none
  /-- The channel that the scan engine served last (R336, R620). -/
  turn : Nat := 7
  bist : Option Nat := none
  deriving DecidableEq, Repr

/-- A snapshot buffer of every present tile (R321): the epoch of the complete photo finish it holds, and the words of
each tile's buffer from its start; later words are 0. -/
structure SnapBuf where
  epoch : Option Nat := none
  words : List (List Word) := []
  deriving DecidableEq, Repr

/-- A photo finish being taken (R328): its target buffer, its epoch and the requests it serves. -/
structure Photo where
  target : Nat
  epoch : Nat
  serves : List Origin
  deriving DecidableEq, Repr

/-- The snapshot engine (R320 to R334): the two buffers, the one that holds SNAP.NEWEST, the photo finish being taken, and
the requests that wait with the EDGE counts of their acceptance. -/
structure Snap where
  /-- Photo finishes taken since the load, without the bound of SNAP.TAKEN (R324). -/
  seq : Nat := 0
  bufs : List SnapBuf := [{}, {}]
  newBuf : Nat := 0
  busy : Option Photo := none
  reqs : List (Origin × Nat) := []
  deriving DecidableEq, Repr

/-- The architectural state that a checkpoint holds beyond the registers of the tiles and the signal table (R72, R78). -/
structure Arch where
  slots : Tab Slot := []
  cells : Tab CellX := []
  lanes : List Lane := [{}, {}, {}, {}, {}, {}, {}, {}]
  /-- Reductions by 2048 × tile + entry, and conditions by 8 × engine + index (R310). -/
  reds : Tab Reduce := []
  conds : Tab Cond := []
  axes : List Axis := List.replicate 64 {}
  stride : List StridePort := List.replicate 8 {}
  deriving DecidableEq, Repr

/-- A checkpoint (R72): its tick, the architectural state, and the words of the checkpointed registers. -/
structure Ckpt where
  tick : Nat
  arch : Arch
  regs : Tab Word
  deriving DecidableEq, Repr

/-- The whole device. -/
structure State where
  /-- The commands that wait, first in first out (DESIGN CHOICE, log 2). -/
  pending : List Instr := []
  /-- What the device has sent, oldest first (DESIGN CHOICE, log 4). -/
  out : List Sent := []
  /-- The number of free values used (DESIGN CHOICE, log 6). -/
  free : Nat := 0
  part : Part := .gw4840
  regs : Tab Word := []
  /-- EDGE cycles of 2.5 ns from power-on to the latest boundary, and from that boundary to the latest command (DESIGN CHOICE, log 1). -/
  edgeBase : Nat := 0
  off : Nat := 0
  tick : Nat := 0
  counting : Bool := false
  /-- The tick that the tiles are running. -/
  ticked : Option Nat := none
  arch : Arch := {}
  staged : List Staged := []
  ckpts : List Ckpt := []
  power : Power := {}
  warm : Warm := {}
  flash : Flash := {}
  image : Image := {}
  letters : Seal := {}
  evr : Evr := {}
  net : Net := {}
  maint : Maint := {}
  time : Time := {}
  ana : Analog := {}
  dio : Dio := {}
  acq : Acq := {}
  can : Can := {}
  safe : Safe := {}
  integ : Integ := {}
  snap : Snap := {}
  /-- DRAM by byte address (DESIGN CHOICE, log 7). -/
  dram : Tab Byte := []
  deriving DecidableEq, Repr

/-- The record EV_PWR_BOOT of the first entry into BOOT (R599, R600), which reset leaves in the holding queue (DESIGN CHOICE, log 3). -/
def bootRecord : EvRec := ⟨4, 1, 0xFF, 0x1006, 0, 0, 1, 0, 1, 1, 0, 0⟩

/-- The device right after a power-on reset, on entry into BOOT: a GW-4840 in lifecycle BLANK with factory OTP, every
register at the value its field table gives, PWR.RSTCAUSE.POR set (R61), PWR.CYCLES 1 (R67), all rails in their windows
(R52) and EV_PWR_BOOT queued (R600). Log 3 names every value here that the spec does not give. -/
def State.reset : State :=
  { regs :=
      [(R.PWR_RSTCAUSE, 1), (R.PWR_RAILS, 0x1F), (R.PWR_CYCLES, 1), (R.CLK_STAT, 3),
       (R.EVR_NEXTSEQ, 1)],
    evr := { queue := [bootRecord] } }

end Sys2Proof.Machine
end

