-- ==== Sys2Proof/Machine/Ops.lean ====
section
/-! DEFINITION. The named operations over registers, slots, events, windows and sent frames that every meaning is
written with. -/

namespace Sys2Proof.Machine

/-- What a command answers: a next state. -/
abbrev Out := Host.Outcome State Fault Refusal

/-- The next state `t` when the command names instances that the hardware has, else the fault of log 8. -/
def answer (ok : Bool) (t : State) : Out := if ok then .next t else .fault .noSuchInstance

/-! Registers. -/

/-- The stored word of the register at address `a`. -/
def State.reg (s : State) (a : Nat) : Word := tabGet regReset s.regs a

/-- `s` with the word of the register at address `a` set to `w`. -/
def State.setReg (s : State) (a : Nat) (w : Word) : State := { s with regs := tabSet regReset s.regs a w }

/-- `s` with the register at `a` changed by `f`. -/
def State.modReg (s : State) (a : Nat) (f : Word → Word) : State := s.setReg a (f (s.reg a))

/-- A counter raised by `n`, saturating at 0xFFFF_FFFF. -/
def State.bumpBy (s : State) (a n : Nat) : State := s.modReg a (fun w => satAdd w n)

/-- A counter raised by 1. -/
def State.bump (s : State) (a : Nat) : State := s.bumpBy a 1

/-- Set bits of a register. -/
def State.orReg (s : State) (a : Nat) (m : Word) : State := s.modReg a (fun w => w ||| m)

/-- Clear bits of a register. -/
def State.clrReg (s : State) (a : Nat) (m : Word) : State := s.modReg a (fun w => w &&& ~~~m)

/-- Replace the field `[h:l]` of a register. -/
def State.putFld (s : State) (a h l v : Nat) : State := s.modReg a (fun w => setFld w h l v)

/-- The field `[h:l]` of a register. -/
def State.fldOf (s : State) (a h l : Nat) : Nat := fld (s.reg a) h l

/-- A bit of a register. -/
def State.bitOf (s : State) (a i : Nat) : Bool := bit (s.reg a) i

/-- The 64-bit quantity in a _LO, _HI register pair at `a` and `a + 4`. -/
def State.reg64 (s : State) (a : Nat) : DWord := join64 (s.reg a) (s.reg (a + 4))

/-- Write a _LO, _HI register pair. -/
def State.setReg64 (s : State) (a : Nat) (d : DWord) : State := (s.setReg a (lo32 d)).setReg (a + 4) (hi32 d)

/-- Keep the larger of a register and `w`, unsigned. -/
def State.maxReg (s : State) (a : Nat) (w : Word) : State := s.modReg a (fun v => if v.toNat < w.toNat then w else v)

/-! Time. -/

/-- The present moment in EDGE cycles since power-on (DESIGN CHOICE, log 1). -/
def State.now (s : State) : Nat := s.edgeBase + s.off

/-- The same state at `at` EDGE cycles after the latest boundary. -/
def State.atEdge (s : State) (e : Nat) : State := { s with off := e }

/-- TBASE in 5 ns units (R34). -/
def State.period (s : State) : Nat := s.fldOf R.DEV_TBASE 17 0

/-- TBASE in EDGE cycles: two per CORE cycle (R16, R644). -/
def State.tickEdges (s : State) : Nat := 2 * s.period

/-- The tick number as a word of bits [31:0]. -/
def State.tickLo (s : State) : Word := BitVec.ofNat 32 s.tick

/-- EDGE cycles in a microsecond. -/
def edgesPerUs : Nat := 400

/-- EDGE cycles in a millisecond. -/
def edgesPerMs : Nat := 400000

/-! The device state (R56, R57). -/

def stKEEP : Nat := 0
def stBOOT : Nat := 1
def stLOAD : Nat := 2
def stTEST : Nat := 3
def stREADY : Nat := 4
def stRUN : Nat := 5
def stSAFE : Nat := 6
def stHALT : Nat := 7

/-- PWR.STATE.STATE. -/
def State.dev (s : State) : Nat := s.fldOf R.PWR_STATE 2 0

/-- PWR.STATE.CAUSE. -/
def State.cause (s : State) : Nat := s.fldOf R.PWR_STATE 23 16

/-- Enter a device state with its cause and WARM flag, which sets MAINT.IRQSTAT.STATE on a change (R56, R700). -/
def State.enter (s : State) (st cause : Nat) (warm : Bool) : State :=
  let t := s.setReg R.PWR_STATE (BitVec.ofNat 32 (cause * 65536 + warm.toNat * 256 + st))
  if s.dev = st then t else t.orReg R.MAINT_IRQSTAT 2

/-- Whether the device executes ticks: in RUN or SAFE, and not between T0 and B(r) of a warm restart. -/
def State.running (s : State) : Bool :=
  (s.dev == stRUN || s.dev == stSAFE) && (s.warm.phase == .none || s.warm.phase == .firstTick)

/-- Whether the CORE domain is held from T0 of a warm restart to its release (R73, R693); DEDUCED, log 41. -/
def State.coreHeld (s : State) : Bool := s.warm.phase == .restoring && decide (s.now < s.warm.t0 + edgesPerMs)

/-- Whether the maintenance port is served (R686, R693). -/
def State.maintServed (s : State) : Bool := s.dev != stKEEP && s.dev != stBOOT && !s.coreHeld

/-- Whether an image is loaded (CFG.STATUS.LOADED). -/
def State.loaded (s : State) : Bool := s.bitOf R.CFG_STATUS 1

/-! Presence (R35 to R40). -/

/-- DEV.PRESENT of each variant (R36). -/
def Part.present : Part → Word
  | .gw4840 => 0xFFFFFFFF
  | .gw4820 => 0x00FF0F0F
  | .gw4810 => 0x000F0303

/-- DEV.PRESENT2 of each variant (R36). -/
def Part.present2 : Part → Word
  | .gw4840 => 0x7FF
  | .gw4820 => 0x733
  | .gw4810 => 0x131

/-- DEV.CAPS of each variant (R39). -/
def Part.caps : Part → Word
  | .gw4840 => 0xC50
  | .gw4820 => 0xC30
  | .gw4810 => 0x001

/-- DEV.ID of each variant, stepping C (R3, R33). -/
def Part.id : Part → Word
  | .gw4840 => 0x48400002
  | .gw4820 => 0x48200002
  | .gw4810 => 0x48100002

/-- Bit `i` of the presence words taken as one 64-bit row: 0 to 31 DEV.PRESENT, 32 to 63 DEV.PRESENT2. -/
def State.presentBit (s : State) (i : Nat) : Bool :=
  if i < 32 then bit s.part.present i else bit s.part.present2 (i - 32)

/-- The same for DEV.FAILED and DEV.FAILED2. -/
def State.failedBit (s : State) (i : Nat) : Bool :=
  if i < 32 then s.bitOf R.DEV_FAILED i else s.bitOf R.DEV_FAILED2 (i - 32)

/-- R40: present and not failed. -/
def State.usableBit (s : State) (i : Nat) : Bool := s.presentBit i && !s.failedBit i

def unitTile (t : Nat) : Nat := t
def unitStride (d : Nat) : Nat := 8 + d
def unitAdc (k : Nat) : Nat := 16 + k
def unitDacGroup (g : Nat) : Nat := 32 + g
def unitCan (c : Nat) : Nat := 36 + c
def unitPort (p : Nat) : Nat := 40 + p
def unitSafe : Nat := 42

def State.tileUsable (s : State) (t : Nat) : Bool := s.usableBit (unitTile t)

/-- The tiles usable under R40, ascending. -/
def State.tiles (s : State) : List Nat := (List.range 8).filter s.tileUsable

/-- The number of tiles of the variant (R1). -/
def State.tileCount (s : State) : Nat := popCount 8 (s.part.present.toNat % 256)

/-- DEV.CAPS.DUP. -/
def State.hasDup (s : State) : Bool := bit s.part.caps 11

/-- DEV.CAPS.BATON. -/
def State.hasBaton (s : State) : Bool := bit s.part.caps 10

/-- Lifecycle code (R119). -/
def State.life (s : State) : Nat := s.fldOf R.SEAL_LIFE 2 0

/-! Free values (DESIGN CHOICE, log 6). -/

/-- Advance the counter of used free values. -/
def State.useFree (s : State) : State := { s with free := s.free + 1 }

/-! Arbitration (R336, R337). -/

/-- A request at an arbitration point (R336): the cycle in which it began to wait, the tile it comes from, if it comes from
one, and its block offset in the tile (R30) or its base address (R29). -/
structure ArbReq where
  since : Nat
  tile : Option Nat
  base : Nat
  deriving DecidableEq, Repr

/-- Whether `a` is granted before `b` (R336): the one that waits longer, then tiles ascending by number and block offset, then
shared units ascending by base address. -/
def ArbReq.before (a b : ArbReq) : Bool :=
  if a.since ≠ b.since then decide (a.since < b.since)
  else
    match a.tile, b.tile with
    | some t, some u => decide (t < u) || (t == u && decide (a.base < b.base))
    | some _, none => true
    | none, some _ => false
    | none, none => decide (a.base < b.base)

/-- Put a request into a list that stands in the order of grants. -/
def grantInsert {α : Type} (req : α → ArbReq) (x : α) : List α → List α
  | [] => [x]
  | y :: r => if (req x).before (req y) then x :: y :: r else y :: grantInsert req x r

/-- The requests of one arbitration point in the order in which they are granted. -/
def grantOrder {α : Type} (req : α → ArbReq) (l : List α) : List α := l.foldl (fun acc x => grantInsert req x acc) []

/-- The channel that the scan engine serves after channel `last`, of those for which `busy` holds (R336, R620). -/
def scanTurn (last : Nat) (busy : Nat → Bool) : Option Nat := ((List.range 8).map (fun i => (last + 1 + i) % 8)).find? busy

/-- The request that a frame of port `p` makes at EDGE count `e` to a CORE-domain point (R336, R337). -/
def portReq (p e : Nat) : ArbReq := ⟨e / 2, none, p⟩

/-- A request that waited `n` cycles at arbitration point `p`. -/
def State.waited (s : State) (p n : Nat) : State :=
  (s.bumpBy (R.ARB_WAITCNT p) n).maxReg (R.ARB_WAITMAX p) (satWord n)

/-- A deferred ENVM write (R338), when `c` holds. -/
def State.deferIf (s : State) (c : Bool) : State := if c then s.bump R.ARB_DEFERCNT else s

/-! Ports and sending (R510 to R515). -/

/-- Port `p` as data. -/
def State.port (s : State) (p : Nat) : Port := s.net.ports.getD p {}

/-- `s` with port `p` changed by `f`. -/
def State.modPort (s : State) (p : Nat) (f : Port → Port) : State :=
  { s with net := { s.net with ports := modifyAt s.net.ports p f } }

/-- R510: usable, enabled, started, in READY, RUN, SAFE or HALT, and not silenced by a warm restart (R75). -/
def State.portRuns (s : State) (p : Nat) : Bool :=
  decide (p < 2) && s.usableBit (unitPort p) && s.bitOf (R.NET_CTRL p) 31 && (s.port p).started &&
    (s.dev == stREADY || s.dev == stRUN || s.dev == stSAFE || s.dev == stHALT) &&
    (s.warm.phase == .none || s.warm.phase == .firstTick)

/-- The running ports. -/
def State.runningPorts (s : State) : List Nat := [0, 1].filter s.portRuns

/-- Record a frame as sent. -/
def State.emit (s : State) (x : Sent) : State := { s with out := s.out ++ [x] }

/-- A frame sent on port `p`, counted in NET.TXCNT. -/
def State.emitOn (s : State) (p : Nat) (x : Sent) : State := (s.emit x).bump (R.NET_TXCNT p)

/-- Whether frames go out in pairs with a redundancy trailer (R513, R514). -/
def State.duplicates (s : State) : Bool := s.hasDup && s.portRuns 0 && s.portRuns 1

/-- A reply to the sender of a request (R141, R512, R515): on both ports when duplicating, else on the request's port. -/
def State.reply (s : State) (o : Origin) (mtype : Nat) (payload : List Byte) : State :=
  if s.duplicates then
    let n := s.net.prpSeq
    let t := { s with net := { s.net with prpSeq := (n + 1) % 65536 } }
    (t.emitOn 0 (.ycp 0 o.ip o.udp mtype o.tag (some n) payload)).emitOn 1
      (.ycp 1 o.ip o.udp mtype o.tag (some n) payload)
  else if s.portRuns o.port then s.emitOn o.port (.ycp o.port o.ip o.udp mtype o.tag none payload)
  else s

/-- The host destination of a port (R512): NET.HOSTIP and NET.HOSTPORT, or the source of the latest accepted heartbeat. -/
def State.hostDest (s : State) (p : Nat) : Option (Nat × Nat) :=
  if s.reg (R.NET_HOSTIP p) = 0 then (s.port p).learned
  else some ((s.reg (R.NET_HOSTIP p)).toNat, s.fldOf (R.NET_HOSTPORT p) 15 0)

/-- The next hop of a datagram from port `p` to `ip`: the destination in the subnet, else the gateway (R512). -/
def State.hopOf (s : State) (p ip : Nat) : Option Nat :=
  let m := s.reg (R.NET_NETMASK p)
  if BitVec.ofNat 32 ip &&& m = s.reg (R.NET_IPADDR p) &&& m then some ip
  else if s.reg (R.NET_GATEWAY p) = 0 then none
  else some (s.reg (R.NET_GATEWAY p)).toNat

/-- The next hop of originated traffic on port `p`. -/
def State.nextHop (s : State) (p : Nat) : Option Nat := (s.hostDest p).bind (fun d => s.hopOf p d.1)

/-- One originated datagram on port `p` (R512): nothing goes out without a destination, and an unresolved next hop
drops it and raises NET.ARPFAIL. -/
def State.originate (s : State) (p mtype tag : Nat) (prp : Option Nat) (payload : List Byte) : State :=
  if !s.portRuns p then s
  else
    match s.hostDest p with
    | none => s
    | some (ip, udp) =>
      if s.bitOf (R.NET_STAT p) 4 then s.emitOn p (.ycp p ip udp mtype tag prp payload)
      else s.bump (R.NET_ARPFAIL p)

/-- An originated datagram to the host destination of each running port, with a common trailer when duplicating (R513). -/
def State.originateAll (s : State) (mtype tag : Nat) (payload : List Byte) : State :=
  let prp := if s.duplicates then some s.net.prpSeq else none
  let t := if s.duplicates then { s with net := { s.net with prpSeq := (s.net.prpSeq + 1) % 65536 } } else s
  (t.originate 0 mtype tag prp payload).originate 1 mtype tag prp payload

/-! Event records (R595 to R603). -/

/-- The severity of a code (R598). -/
def sevOf (code : Nat) : Nat :=
  let is (l : List Nat) : Bool := l.contains code
  if is [0x4005] then 0
  else if is [0x1004, 0x1006, 0x2003, 0x3002, 0x4001, 0x4004, 0x5002, 0x6002, 0x7006, 0x7080, 0x7081, 0x8003, 0xA003,
      0xA006, 0xB001, 0xC201, 0xE002, 0xE101, 0xE204, 0xF005, 0xF008] then 1
  else if is [0x1003, 0x1005, 0x2002, 0x5004, 0x5006, 0x6001, 0x7002, 0x7003, 0x7007, 0x7008, 0xA002, 0xB002, 0xC202,
      0xE003, 0xE103, 0xF001, 0xF004] then 3
  else if is [0x3003, 0x6003, 0x7001, 0x7004, 0x7005, 0x8001, 0x8002] then 4
  else 2

/-- The eight words of a record, with its CRC (R595, R596). -/
def EvRec.words (r : EvRec) : List Word :=
  let w0 := BitVec.ofNat 32 (r.flags * 2 ^ 27 + r.sev * 2 ^ 24 + r.source * 65536 + r.code)
  let w2 := BitVec.ofNat 32 (r.ms * 2 ^ 20 + r.cycles)
  let w3 := BitVec.ofNat 32 (r.seq % 2 ^ 24)
  let body := wBytes w0 ++ wBytes r.opsec ++ wBytes w2 ++ (wBytes w3).take 3 ++
    wBytes r.p0 ++ wBytes r.p1 ++ wBytes r.p2 ++ wBytes r.p3
  [w0, r.opsec, w2, BitVec.ofNat 32 (crc8 body * 2 ^ 24 + r.seq % 2 ^ 24), r.p0, r.p1, r.p2, r.p3]

/-- The 32 bytes of a record. -/
def EvRec.bytes (r : EvRec) : List Byte := r.words.flatMap wBytes

/-- Milliseconds of the present AON second (R595, DESIGN CHOICE, log 1). -/
def State.aonMs (s : State) : Nat := min 999 ((s.now - s.power.secondAt) / edgesPerMs)

/-- The next record, stamped (R595, R597). -/
def State.stamp (s : State) (code source : Nat) (p0 p1 p2 p3 : Word) : EvRec :=
  { flags := s.evr.frozen.toNat + 2 * s.evr.degraded.toNat + 4 * (!s.bitOf R.CLK_STAT 2).toNat,
    sev := sevOf code, source := source % 256, code := code, opsec := s.reg R.PWR_OPSEC, ms := s.aonMs,
    cycles := s.fldOf R.PWR_CYCLES 19 0, seq := s.fldOf R.EVR_NEXTSEQ 23 0, p0 := p0, p1 := p1, p2 := p2, p3 := p3 }

/-- The next SEQ (R597). -/
def State.takeSeq (s : State) : State :=
  s.setReg R.EVR_NEXTSEQ (BitVec.ofNat 32 ((s.fldOf R.EVR_NEXTSEQ 23 0 + 1) % 2 ^ 24))

/-- What creation does beside queueing: LASTFAULT (R600), MAINT.IRQSTAT.EVT (R700) and NOTIFY (R603). -/
def State.announce (s : State) (r : EvRec) : State :=
  let s := if r.sev = 4 then s.setReg R.PWR_LASTFAULT (BitVec.ofNat 32 r.code) else s
  let s := if min 4 (s.fldOf R.MAINT_IRQCFG 10 8) ≤ r.sev then s.orReg R.MAINT_IRQSTAT 1 else s
  if s.bitOf R.EVR_CFG 31 && decide (s.fldOf R.EVR_CFG 2 0 ≤ r.sev) then s.originateAll 7 (r.seq % 2 ^ 24) r.bytes
  else s

/-- A record is lost (R601): the counters rise and the loss is kept for EV_EVR_QUEUE_LOST. -/
def State.loseRecord (s : State) (seq : Nat) : State :=
  let run : LostRun := match s.evr.lost with
    | none => ⟨1, seq, seq⟩
    | some l => ⟨l.count + 1, l.first, seq⟩
  let t := (s.bump R.EVR_LOST).bump R.PWR_AONLOST
  { t with evr := { t.evr with lost := some run } }

/-- Put a stamped record at the queue's tail, or lose it (R601). -/
def State.enqueue (s : State) (r : EvRec) : State :=
  if s.evr.queue.length ≥ 256 then s.loseRecord r.seq
  else { s with evr := { s.evr with queue := s.evr.queue ++ [r] } }

/-- Create, stamp and queue one record (R601). -/
def State.createOne (s : State) (code source : Nat) (p0 p1 p2 p3 : Word) : State :=
  let r := s.stamp code source p0 p1 p2 p3
  ((s.takeSeq).enqueue r).announce r

/-- Record an event: when the queue accepts again after losses, EV_EVR_QUEUE_LOST is created first (R601). -/
def State.raise (s : State) (code source : Nat) (p0 p1 p2 p3 : Word) : State :=
  match s.evr.lost with
  | none => s.createOne code source p0 p1 p2 p3
  | some l =>
    if s.evr.queue.length ≥ 256 then s.createOne code source p0 p1 p2 p3
    else
      let s := { s with evr := { s.evr with lost := none } }
      (s.createOne 0x6004 0xFF (satWord l.count) (satWord l.first) (satWord l.last) s.tickLo).createOne
        code source p0 p1 p2 p3

/-- SOURCE of a code that has no instance (R595). -/
def noSource : Nat := 0xFF

/-! Rate limits (R708). -/

/-- The open window of a code and scope. -/
def State.window? (s : State) (code scope : Nat) : Option Window :=
  s.evr.windows.find? (fun w => w.code == code && w.scope == scope)

/-- Record an event whose code is limited to one record per interval and carries no count (R708). -/
def State.raiseLimited (s : State) (scope code source : Nat) (p0 p1 p2 p3 : Word) : State :=
  match s.window? code scope with
  | some _ => s
  | none =>
    let s := s.raise code source p0 p1 p2 p3
    { s with evr := { s.evr with windows := s.evr.windows ++ [⟨code, scope, 0, source, 0, 0, 0, 0⟩] } }

/-- Carry one occurrence in an open window (R708). -/
def Window.carry (w : Window) (source : Nat) (p0 p1 p2 p3 : Word) : Window :=
  if w.carried = 0 then { w with carried := 1, source := source, p0 := p0, p1 := p1, p2 := p2, p3 := p3 }
  else { w with carried := w.carried + 1 }

/-- Which parameter of a counted code holds the count of occurrences (R708): P3 of EV_CELL_NONFINITE (R197) and
EV_SEQ_RAMP_EVICT (R235), else P1: EV_CELL_SKIP (R170), EV_ACQ_TRACE_LOSS, EV_ADC_START_MISSED (R350), EV_ENC_ERROR
(R397), EV_ILK_TRIP (R402). -/
def countParam (code : Nat) : Nat :=
  if code = 0xE004 || code = 0xE102 then 3 else 1

/-- Replace parameter `i` of four by `w`. -/
def putParam (i : Nat) (w : Word) (p : Word × Word × Word × Word) : Word × Word × Word × Word :=
  match i, p with
  | 0, (_, b, c, d) => (w, b, c, d)
  | 1, (a, _, c, d) => (a, w, c, d)
  | 2, (a, b, _, d) => (a, b, w, d)
  | 3, (a, b, c, _) => (a, b, c, w)
  | _, p => p

/-- Record an event with its parameters as a tuple. -/
def State.raiseP (s : State) (code source : Nat) (p : Word × Word × Word × Word) : State :=
  s.raise code source p.1 p.2.1 p.2.2.1 p.2.2.2

/-- Record an event whose code carries a count of occurrences (R708): at once with count 1 while no window is open,
else carried in the window. -/
def State.raiseCounted (s : State) (scope code source : Nat) (p0 p1 p2 p3 : Word) : State :=
  match s.window? code scope with
  | some _ =>
    let ws := s.evr.windows.map (fun w =>
      if w.code == code && w.scope == scope then w.carry source p0 p1 p2 p3 else w)
    { s with evr := { s.evr with windows := ws } }
  | none =>
    let s := s.raiseP code source (putParam (countParam code) 1 (p0, p1, p2, p3))
    { s with evr := { s.evr with windows := s.evr.windows ++ [⟨code, scope, 0, source, 0, 0, 0, 0⟩] } }

/-- Close a window: with occurrences carried, one record with their number, which opens a new window (R708). -/
def State.closeWindow (s : State) (code scope : Nat) : State :=
  match s.window? code scope with
  | none => s
  | some w =>
    let rest := s.evr.windows.filter (fun x => !(x.code == code && x.scope == scope))
    let s := { s with evr := { s.evr with windows := rest } }
    if w.carried = 0 then s
    else
      let s := s.raiseP code w.source (putParam (countParam code) (satWord w.carried) (w.p0, w.p1, w.p2, w.p3))
      { s with evr := { s.evr with windows := s.evr.windows ++ [⟨code, scope, 0, w.source, 0, 0, 0, 0⟩] } }

/-- A bad access (R8, R31): recorded once per millisecond for the whole device. -/
def State.badAccess (s : State) (a : Nat) : State :=
  s.raiseLimited 0 0x0001 noSource (BitVec.ofNat 32 a) 0 0 0

/-! The signal table (R19 to R27). -/

/-- Slot `n` as committed. -/
def State.slot (s : State) (n : Nat) : Slot := tabGet (fun _ => Slot.unwritten) s.arch.slots n

/-- Slot `n` replaced. -/
def State.setSlot (s : State) (n : Nat) (v : Slot) : State :=
  { s with arch := { s.arch with slots := tabSet (fun _ => Slot.unwritten) s.arch.slots n v } }

/-- Writer identity (R27). -/
def writerOf (cls idx : Nat) : Nat := cls * 4096 + idx

def clsAdc : Nat := 1
def clsDio : Nat := 2
def clsCan : Nat := 3
def clsStride : Nat := 4
def clsLane : Nat := 5
def clsAxis : Nat := 6
def clsCell : Nat := 7

/-- The place of a writer in the order of R25: every object of a CAN controller (INDEX 128 × c + o, R483) and every drive
of a Stride port (INDEX 4 × d + s, R455) takes the place of its controller or port. -/
def writerRank (w : Nat) : Nat :=
  let c := w / 4096
  let i := w % 4096
  if c = clsAdc then i
  else if c = clsDio then 100 + i
  else if c = clsCan then 200 + i / 128
  else if c = clsStride then 300 + i / 4
  else if c = clsLane then 1000 + i * 1000
  else if c = clsAxis then 1000 + i / 8 * 1000 + 1 + i % 8
  else 1000 + i / 64 * 1000 + 100 + i % 64

/-- Quality flags (R21). -/
def qVALID : Nat := 1
def qSTALE : Nat := 2
def qCLIPPED : Nat := 4
def qSUBST : Nat := 8
def qLATE : Nat := 16

/-- The quality word of a writer with the given flags (R21). -/
def qualOf (writer flags : Nat) : Word := BitVec.ofNat 32 (writer * 65536 + flags)

/-- Stage a write that reaches the signal table at EDGE count `e` (R23). -/
def State.stageAt (s : State) (e writer slot : Nat) (v : F32) (q : Word) : State :=
  { s with staged := s.staged ++ [⟨writer, slot, v, q, e⟩] }

/-- Stage a write now. -/
def State.stageQ (s : State) (writer slot : Nat) (v : F32) (q : Word) : State := s.stageAt s.now writer slot v q

/-- Stage a write with the writer's own quality word. -/
def State.stage (s : State) (writer slot : Nat) (v : F32) (flags : Nat) : State :=
  s.stageQ writer slot v (qualOf writer flags)

/-- Stage a write through a binding register in the layout of R153: nothing when EN is 0. -/
def State.stageVia (s : State) (binding : Word) (writer : Nat) (v : F32) (flags : Nat) : State :=
  if bit binding 31 then s.stage writer (fld binding 12 0) v flags else s

/-- Insert into a list ordered by rank, after equal ranks (R25, R26). -/
def insertRank (x : Staged) : List Staged → List Staged
  | [] => [x]
  | y :: r => if writerRank x.writer < writerRank y.writer then x :: y :: r else y :: insertRank x r

/-- The staged writes in the order of R25 and R26. -/
def orderStaged (l : List Staged) : List Staged := l.foldl (fun acc x => insertRank x acc) []

/-- The slots that a list of writes names, each once, in the order of first appearance. -/
def slotsNamed : List Staged → List Nat
  | [] => []
  | x :: r => x.slot :: (slotsNamed r).filter (fun n => n ≠ x.slot)

/-- The writers of slot `n` in commit order. -/
def writersOf (l : List Staged) (n : Nat) : List Nat := (l.filter (fun x => x.slot == n)).map (·.writer)

/-- Count and record a commit in which a slot received writes from several writers, each one entry of the order of
R25 (R27). -/
def State.noteMulti (s : State) (l : List Staged) (n : Nat) : State :=
  match writersOf l n with
  | [] => s
  | w :: r =>
    if r.all (fun v => writerRank v == writerRank w) then s
    else (s.bump R.SIG_MULTIWR).raiseLimited 0 0x0101 noSource (BitVec.ofNat 32 n) (BitVec.ofNat 32 w)
      (BitVec.ofNat 32 (r.getLastD w)) 0

/-- The writes that commit at the present boundary, those that reached the table before it, in the order in which they
land (R23, R25, R26). -/
def State.landing (s : State) : List Staged := orderStaged (s.staged.filter (fun x => decide (x.arrive < s.edgeBase)))

/-- Commit the writes that reached the table before the present boundary, with a tick stamp (R23, R25, R26). -/
def State.commitStaged (s : State) (stamp : Nat) : State :=
  let rest := s.staged.filter (fun x => !decide (x.arrive < s.edgeBase))
  s.landing.foldl (fun t x => t.setSlot x.slot ⟨x.val, x.qual, BitVec.ofNat 64 stamp⟩) { s with staged := rest }

/-- The commits of `l` in which a slot had several writers are counted (R27). -/
def State.countMulti (s : State) (l : List Staged) : State := (slotsNamed l).foldl (fun t n => t.noteMulti l n) s

/-- Whether a slot carries VALID 1 and STALE 0. -/
def Slot.good (v : Slot) : Bool := bit v.qual 0 && !bit v.qual 1

/-- The slot a binding names, if EN is 1. -/
def State.bound (s : State) (binding : Word) : Option Slot :=
  if bit binding 31 then some (s.slot (fld binding 12 0)) else none

/-- Whether a tick executes for a RATE register in the layout of CELL.RATE (R17). -/
def rateDue (rate : Word) (k : Nat) : Bool := k % (max 1 (fld rate 10 0)) == fld rate 25 16

/-! Lanes. -/

/-- Lane `t`. -/
def State.lane (s : State) (t : Nat) : Lane := s.arch.lanes.getD t {}

/-- `s` with lane `t` changed by `f`. -/
def State.modLane (s : State) (t : Nat) (f : Lane → Lane) : State :=
  { s with arch := { s.arch with lanes := modifyAt s.arch.lanes t f } }

/-- What cell `n` holds beyond its registers. -/
def State.cellX (s : State) (n : Nat) : CellX := tabGet (fun _ => {}) s.arch.cells n

/-- `s` with that of cell `n` changed by `f`. -/
def State.modCellX (s : State) (n : Nat) (f : CellX → CellX) : State :=
  { s with arch := { s.arch with cells := tabSet (fun _ => {}) s.arch.cells n (f (s.cellX n)) } }

/-- Change the architectural state. -/
def State.modArch (s : State) (f : Arch → Arch) : State := { s with arch := f s.arch }

/-- No checkpoint stands. -/
def State.dropCkpts (s : State) : State := { s with ckpts := [] }

/-- The registers and the architectural state before an image takes effect: registers that `keep` rejects return to
their reset values. A Stride port's first period after a warm restart is still to come where it was (R450). -/
def State.clearArch (s : State) (keep : Nat → Bool) : State :=
  { s.dropCkpts with arch := { stride := s.arch.stride.map (fun x => { restart := x.restart }) }, regs := s.regs.filter (fun x => keep x.1) }

end Sys2Proof.Machine
end

