-- ==== Sys2Proof/Machine/Rx.lean ====
section
/-! DEFINITION. The arrival of frames on the ports: duplicate discard, and what the baton unit takes note of (R515, R524).
Where the spec can be read in two ways the assumption log says what was read: entries 47 (DEDUCED unless marked there otherwise). -/

namespace Sys2Proof.Machine

/-- BATON.STAT.HOLDER. -/
def State.holder (s : State) : Nat := s.fldOf R.BATON_STAT 0 0

/-- Change ports, duplication and baton. -/
def State.modNet (s : State) (f : Net → Net) : State := { s with net := f s.net }

/-- A copy from port `p` is discarded: EV_BATON_ORPHAN at most once per second (R524). -/
def State.orphanOn (s : State) (p : Nat) : State := (s.bump R.BATON_ORPHAN).raiseLimited p 0x5005 p 0 0 0 0

/-- Copies that are discarded (R524). -/
def State.orphan (s : State) (l : List Held) : State := l.foldl (fun s h => s.orphanOn h.copy.org.port) s

/-- Any frame arrives on port `p` (R524). -/
def State.frameOn (s : State) (p : Nat) : State :=
  if p ≠ s.holder then s
  else
    let gone := s.net.held.filter (·.skewEnded)
    let rest := (s.net.held.filter (fun h => !h.skewEnded)).map (fun h => { h with frameSince := true })
    (s.modNet (fun n => { n with held := rest })).orphan gone

/-- The entries of the duplicate table for a trailer in the last 400 ms. -/
def State.dupsOf (s : State) (t : Trailer) : List DupEntry :=
  s.net.dups.filter (fun d => d.mac == t.mac && d.seq == t.seq && decide (s.now ≤ d.time + 400 * edgesPerMs))

/-- Whether a frame is discarded as a duplicate; a LETTER only on its own port (R515). -/
def State.isDup (s : State) (o : Origin) (letter : Bool) : Bool :=
  match o.trailer with
  | none => false
  | some t => (s.dupsOf t).any (fun d => !letter || d.port == o.port)

/-- Enter an accepted frame in the table: 1,024 entries per source, the oldest goes first. -/
def addDup (l : List DupEntry) (d : DupEntry) : List DupEntry :=
  let l := if 1024 ≤ (l.filter (fun x => x.mac == d.mac)).length then
      match l.findIdx? (fun x => x.mac == d.mac) with | some i => l.eraseIdx i | none => l
    else l
  l ++ [d]

/-- A frame arrives: the next state, and whether it is accepted (R515, R531). -/
def State.accept (s : State) (o : Origin) (letter : Bool) : State × Bool :=
  if !s.portRuns o.port then (s, false)
  else
    let s := s.frameOn o.port
    let s := match o.trailer with
      | some t => if t.lan = 0xA + o.port then s else s.bump (R.NET_WRONGLAN o.port)
      | none => s
    if s.isDup o letter then (s.bump (R.NET_DUPCNT o.port), false)
    else
      let s := s.bump (R.NET_RXCNT o.port)
      match o.trailer with
      | none => (s, true)
      | some t => (s.modNet (fun n => { n with dups := addDup n.dups ⟨t.mac, t.seq, o.port, s.now⟩ }), true)

/-- An accepted frame has an effect. -/
def State.onFrame (s : State) (o : Origin) (f : State → State) : State :=
  match s.accept o false with
  | (s, true) => f s
  | (s, false) => s

end Sys2Proof.Machine
end

