-- ==== Sys2Proof/Machine/Bulk.lean ====
section
/-! DEFINITION. The form of BULK_REQ and BULK_DATA (R311, R312).
Where the spec can be read in two ways the assumption log says what was read: entries 9 (DEDUCED unless marked there otherwise). -/

namespace Sys2Proof.Machine

/-- Fields of a BULK_REQ payload. -/
def Bulk.op (b : Bulk) : Nat := uAt b.payload 0 1
def Bulk.unit (b : Bulk) : Nat := uAt b.payload 1 1
def Bulk.length (b : Bulk) : Nat := uAt b.payload 4 4
def Bulk.pos (b : Bulk) : Nat := uAt b.payload 8 8
def Bulk.offset (b : Bulk) : Nat := uAt b.payload 16 4

/-- A payload of 24 bytes with the given OP and its reserved bytes 0. -/
def bulkFormed (b : Bulk) (op : Nat) : Bool :=
  b.payload.length == 24 && Bulk.op b == op && uAt b.payload 2 2 == 0 && uAt b.payload 20 4 == 0

def bulkOK : Nat := 0
def bulkMALFORMED : Nat := 1
def bulkLOST : Nat := 2
def bulkRANGE : Nat := 3
def bulkABSENT : Nat := 4
def bulkBUSY : Nat := 5

/-- One BULK_DATA datagram (R312). -/
def State.bulkData (s : State) (o : Origin) (status op unit : Nat) (last : Bool) (pos offset : Nat)
    (data : List Byte) : State :=
  s.reply o 6 (leBytes 1 status ++ leBytes 1 op ++ leBytes 1 unit ++ leBytes 1 last.toNat ++
    leBytes 4 data.length ++ leBytes 8 pos ++ leBytes 4 offset ++ leBytes 4 0 ++ data)

/-- The one datagram that ends a request without data: POS repeats the request's, and OFFSET that of a LAP_READ (R312;
DEDUCED, log 9). -/
def State.bulkEnd (s : State) (b : Bulk) (status : Nat) : State :=
  s.bulkData b.org status (Bulk.op b) (Bulk.unit b) true (Bulk.pos b) (if Bulk.op b = 3 then Bulk.offset b else 0) []

end Sys2Proof.Machine
end

