-- ==== Sys2Proof/Machine/Evr.lean ====
section
/-! DEFINITION. The event recorder's commands (R594 to R615, R708).
Where the spec can be read in two ways the assumption log says what was read: entries 74 (DEDUCED unless marked there otherwise). -/

namespace Sys2Proof.Machine

def mainSlots : Nat := 60000
def safetySlots : Nat := 4096
/-- ENVM offset of the safety change log (R594). -/
def safetyBase : Nat := 0x1D4C00

/-- Whether a code belongs to the safety change log (R600). -/
def isSafetyCode (c : Nat) : Bool := c == 0x7080 || c == 0x7081

/-- The first good slot at or after `p` in a ring of `n` slots, among `fuel` tries. -/
def nextGood (bad : List Nat) (n : Nat) : Nat → Nat → Nat
  | 0, p => p % n
  | f + 1, p => if bad.contains (p % n) then nextGood bad n f (p + 1) else p % n

/-- The main log's write position: the next good slot (R602). -/
def Evr.writePos (e : Evr) : Nat := nextGood e.mainBad mainSlots (e.mainBad.length + 1) e.mainPos

/-- The next free good slot of the safety change log (R602). -/
def Evr.safetyPos (e : Evr) : Option Nat :=
  let used := e.safety.map (·.1)
  let top := (used ++ e.safetyBad).foldl (fun a b => max a (b + 1)) 0
  (List.range (top + 1)).find? (fun p => !used.contains p && !e.safetyBad.contains p && decide (p < safetySlots))

/-- Good slots of the safety change log without a record, less the records for it that wait (R602). -/
def Evr.safetyRoom (e : Evr) : Nat :=
  safetySlots - e.safetyBad.length - e.safety.length - (e.queue.filter (fun r => isSafetyCode r.code)).length

/-- The main log's records oldest first: from the write position onward, then those before it (R602, R605). -/
def Evr.inOrder (e : Evr) : List (Nat × EvRec) :=
  e.main.filter (fun x => decide (e.mainPos ≤ x.1)) ++ e.main.filter (fun x => decide (x.1 < e.mainPos))

/-- EVR.OLDEST (R612). -/
def Evr.oldest (e : Evr) : Nat := match e.inOrder with | x :: _ => x.1 | [] => 0xFFFF

/-- EVR.NEWEST (R612). -/
def Evr.newest (e : Evr) : Nat := match e.inOrder.getLast? with | some x => x.1 | none => 0xFFFF

/-- The eight words that slot `p` of a log shows; a slot without a record reads 0 (R596, R605). -/
def slotWords (t : Tab EvRec) (p : Nat) : List Word :=
  match tabFind t p with
  | some r => r.words
  | none => List.replicate 8 0

/-- The 64 words of the window at a cursor (R606). -/
def Evr.window (e : Evr) (cursor : Word) : List Word :=
  let p := fld cursor 15 0
  if bit cursor 31 then (List.range 8).flatMap (fun i => slotWords e.safety (p + i))
  else (List.range 8).flatMap (fun i => slotWords e.main ((p + i) % mainSlots))

/-- The cursor advanced by 8 (R606). -/
def advanceCursor (c : Word) : Word :=
  let p := fld c 15 0
  if bit c 31 then setFld c 15 0 (min (p + 8) safetySlots) else setFld c 15 0 ((p + 8) % mainSlots)

/-- The cursor of an access port: 0 and 1 share the network cursor, 2 is the maintenance port (R605). -/
def State.cursor (s : State) (p : Nat) : Word := if p < 2 then s.evr.netCursor else s.evr.maintCursor

/-- Set the cursor of an access port. -/
def State.setCursor (s : State) (p : Nat) (w : Word) : State :=
  if p < 2 then { s with evr := { s.evr with netCursor := w } } else { s with evr := { s.evr with maintCursor := w } }

/-- A read of EVR.WIN word 0 (R606). -/
def State.winFetch (s : State) (p : Nat) : State :=
  let w := s.evr.window (s.cursor p)
  if p < 2 then { s with evr := { s.evr with netHold := w } } else { s with evr := { s.evr with maintHold := w } }

/-- A read of EVR.WIN word 63 (R606). -/
def State.winAdvance (s : State) (p : Nat) : State := s.setCursor p (advanceCursor (s.cursor p))

/-- Whether a slot position lies in a log (R605). -/
def posInLog (safety : Bool) (p : Nat) : Bool := if safety then decide (p < safetySlots) else decide (p < mainSlots)

/-- A write to EVR.CURSOR: ignored outside the log's positions (R615). -/
def State.writeCursor (s : State) (p : Nat) (w : Word) : State :=
  if posInLog (bit w 31) (fld w 15 0) then s.setCursor p (w &&& 0x8000FFFF) else s

/-- Freeze the log (R608). -/
def State.freeze (s : State) : State := { s with evr := { s.evr with frozen := true } }

/-- Unfreeze the log (R608). -/
def State.unfreeze (s : State) : State := { s with evr := { s.evr with frozen := false } }

/-- A write to EVR.FRZCTL (R608, R612). -/
def State.writeFrz (s : State) (w : Word) : State :=
  if bit w 0 && bit w 1 then s else if bit w 0 then s.freeze else if bit w 1 then s.unfreeze else s

/-- Answer an EVR operation with the cursor position after it (R607). -/
def State.evrAnswer (s : State) (b : Bulk) (status : Nat) : State :=
  s.bulkData b.org status (Bulk.op b) (Bulk.unit b) true (fld s.evr.netCursor 15 0) 0 []

/-- EVR_SEEK over the network (R607). -/
def State.evrSeek (s : State) (b : Bulk) : State :=
  if !bulkFormed b 0x20 || Bulk.length b ≠ 0 || Bulk.offset b ≠ 0 || 1 < Bulk.unit b then s.evrAnswer b bulkMALFORMED
  else if !posInLog (Bulk.unit b == 1) (Bulk.pos b) then s.evrAnswer b bulkRANGE
  else (s.setCursor 0 (BitVec.ofNat 32 (Bulk.unit b * 2 ^ 31 + Bulk.pos b))).evrAnswer b bulkOK

/-- EVR_FREEZE or EVR_UNFREEZE over the network (R607). -/
def State.evrFreezeNet (s : State) (b : Bulk) (op : Nat) (f : State → State) : State :=
  if !bulkFormed b op || Bulk.unit b ≠ 0 || Bulk.length b ≠ 0 || Bulk.pos b ≠ 0 || Bulk.offset b ≠ 0 then
    s.evrAnswer b bulkMALFORMED
  else (f s).evrAnswer b bulkOK

/-- The record that is being written, and whether it bypasses the queue (R602, R610). -/
def Evr.head? (e : Evr) : Option EvRec :=
  match e.bypass with
  | r :: _ => some r
  | [] => e.queue.head?

/-- The recorder without the record being written. -/
def Evr.pop (e : Evr) : Evr :=
  match e.bypass with
  | _ :: r => { e with bypass := r }
  | [] => { e with queue := e.queue.drop 1 }

/-- The record being written, marked RETRIED (R610). -/
def Evr.markRetried (e : Evr) : Evr :=
  let f := fun (r : EvRec) => { r with flags := r.flags % 8 + 8 }
  match e.bypass with
  | x :: r => { e with bypass := f x :: r }
  | [] => match e.queue with
    | x :: r => { e with queue := f x :: r }
    | [] => e

/-- EVR.BADSLOTS shows the bad-slot maps (R612). -/
def State.showBad (s : State) : State :=
  s.setReg R.EVR_BADSLOTS (BitVec.ofNat 32 (s.evr.safetyBad.length * 65536 + s.evr.mainBad.length))

/-- A write of record `r` at slot `p` succeeds (R602, R610). -/
def State.logWritten (s : State) (r : EvRec) (p : Nat) : State :=
  let e := s.evr.pop
  let e := { e with consecFail := 0 }
  let full := (tabFind e.main p).isSome
  let s1 :=
    if isSafetyCode r.code then { s with evr := { e with safety := tabInsert e.safety p r, retry := none } }
    else
      let s2 := { s with evr := { e with main := tabInsert e.main p r, mainPos := (p + 1) % mainSlots, retry := none } }
      if full then s2.bump R.EVR_WRAPCNT else s2
  match s.evr.retry with
  | none => s1
  | some t =>
    let m := s1.stamp 0x6001 noSource (BitVec.ofNat 32 t.offset) (BitVec.ofNat 32 r.seq) (BitVec.ofNat 32 t.fails) 0
    let s3 := s1.takeSeq
    let s3 := { s3 with evr := { s3.evr with bypass := s3.evr.bypass ++ [m] } }
    s3.announce m

/-- The recorder enters DEGRADED, with EV_EVR_DEGRADED at the head of the queue (R611). -/
def State.degrade (s : State) (offset : Nat) : State :=
  let s := { s with evr := { s.evr with degraded := true } }
  let m := s.stamp 0x6003 noSource (BitVec.ofNat 32 offset)
    (BitVec.ofNat 32 (s.evr.mainBad.length + s.evr.safetyBad.length)) 0 s.tickLo
  let t := s.takeSeq
  let t := if t.evr.queue.length ≥ 256 then t.loseRecord m.seq
    else { t with evr := { t.evr with queue := m :: t.evr.queue } }
  t.announce m

/-- A write of record `r` at slot `p` fails its verify (R610, R611). -/
def State.logFailed (s : State) (r : EvRec) (p : Nat) : State :=
  let saf := isSafetyCode r.code
  let off := 32 * p + (if saf then safetyBase else 0)
  let e := s.evr.markRetried
  let e := { e with consecFail := e.consecFail + 1, retry := some ⟨off, e.consecFail + 1⟩ }
  let e := if saf then { e with safetyBad := p :: e.safetyBad }
    else { e with mainBad := p :: e.mainBad, main := tabErase e.main p }
  let t := ({ s with evr := e }.bump R.EVR_MEDIAFAIL).showBad
  if e.consecFail ≥ 3 then t.degrade off else t

/-- LOG_WRITE_DONE: the ENVM write in progress completes and verifies, or fails its verify (R602, R610, R611). -/
def State.logWriteDone (s : State) (ok : Bool) : State :=
  if s.evr.frozen || s.evr.degraded then s
  else
    match s.evr.head? with
    | none => s
    | some r =>
      if isSafetyCode r.code then
        match s.evr.safetyPos with
        | none => ({ s with evr := { s.evr.pop with retry := none } }).loseRecord r.seq
        | some p => if ok then s.logWritten r p else s.logFailed r p
      else
        let p := s.evr.writePos
        if ok then s.logWritten r p else s.logFailed r p

/-- Whether the recorder has writes pending at the ENVM port, the class served first (R338). -/
def State.evrPending (s : State) : Bool := !s.evr.frozen && !s.evr.degraded && s.evr.head?.isSome

/-- Records cleared by a CLEARLOG up to SEQ `upto`, if a main-log record has it (R609). -/
def Evr.clearCount (e : Evr) (upto : Nat) : Option Nat :=
  match e.inOrder.findIdx? (fun x => x.2.seq == upto) with
  | some i => some (i + 1)
  | none => none

/-- Clear the first `n` records of the main log, oldest first (R609). -/
def Evr.clear (e : Evr) (n : Nat) : Evr :=
  { e with main := (e.inOrder.take n).foldl (fun t x => tabErase t x.1) e.main }

/-! The ENVM write port (R338): writes of class 2, the event recorder; 3, sequence counters; 4, SAFEAUTH and the password, which
take effect at their commit (log 73); 5, calibration; 6, the counter save of each minute. -/

/-- The four AON counters (R66). -/
def aonRegs : List Nat := [R.PWR_OPSEC, R.PWR_CYCLES, R.PWR_AONLOST, R.PWR_LASTFAULT]

/-- What a counter save writes to ENVM: the four counters, and the time of the last pass of each holding test (R580). -/
def savedRegs : List Nat := aonRegs ++ (List.range 8).map R.SAFE_HTLAST

/-- The save of the counters to ENVM (R68, R580). -/
def State.counterSave (s : State) : State :=
  { s with power := { s.power with saved := savedRegs.map s.reg, saveDue := false } }

/-- Whether a write of class `c` is under way or waits. -/
def State.envmPending (s : State) (c : Nat) : Bool :=
  if c = 2 then s.evrPending
  else if c = 3 then !s.letters.writing.isEmpty
  else if c = 5 then !s.ana.writes.isEmpty
  else c == 6 && s.power.saveDue

/-- Whether a write of class `c` may be the one that ends now: the port serves whole writes, the highest class first. -/
def State.envmServes (s : State) (c : Nat) : Bool :=
  s.envmPending c && match s.integ.envmNext with
    | some n => n == c || !s.envmPending n
    | none => true

/-- A write of class `c` has ended: each write of a lower class that waited for it is deferred, which counts once. -/
def State.envmDefer (s : State) (c : Nat) : State :=
  let ls := if c < 3 then (s.letters.writing.filter (fun v => !v.deferred)).length else 0
  let cs := if c < 5 then (s.ana.writes.filter (fun w => !w.deferred)).length else 0
  if ls + cs = 0 then s
  else
    let s := s.bumpBy R.ARB_DEFERCNT (ls + cs)
    { s with
      letters := { s.letters with writing := if c < 3 then s.letters.writing.map (fun v => { v with deferred := true }) else s.letters.writing }
      ana := { s.ana with writes := if c < 5 then s.ana.writes.map (fun w => { w with deferred := true }) else s.ana.writes } }

/-- The port after a write of class `c`: it takes the highest class that waits, and a counter save with nothing before it is
made. -/
def State.envmDone (s : State) (c : Nat) : State :=
  let s := s.envmDefer c
  let n := [2, 3, 5].find? s.envmPending
  let s := { s with integ := { s.integ with envmNext := n } }
  if n.isNone && s.power.saveDue then s.counterSave else s

/-- FAULT_N: low in SAFE and HALT, when BOOT is held, and in the pulses of DEGRADED (R58, R611). -/
def State.faultLow (s : State) : Bool :=
  s.dev == stSAFE || s.dev == stHALT || s.power.phase == .bootHeld || (s.evr.degraded && s.evr.pulse)

/-- EVENT_CREATE. -/
def execEventCreate (code source : Nat) (p0 p1 p2 p3 : Word) (wait : Nat) (s : State) : Out :=
  .next ((s.waited 3 wait).raise code source p0 p1 p2 p3)

/-- EVENT_WINDOW_CLOSE. -/
def execEventWindowClose (code scope : Nat) (s : State) : Out := .next (s.closeWindow code scope)

/-- LOG_WRITE_DONE, with the cycles the write waited. No write of the recorder ends while the port serves another class. -/
def execLogWriteDone (ok : Bool) (wait : Nat) (s : State) : Out :=
  .next (if s.envmServes 2 then ((s.waited 0 wait).logWriteDone ok).envmDone 2 else s)

/-- FAULT_N_PULSE: in DEGRADED the pulse begins or ends (R611). -/
def execFaultNPulse (low : Bool) (s : State) : Out :=
  .next (if s.evr.degraded then { s with evr := { s.evr with pulse := low } } else s)

/-- A write by the maintenance port, which takes effect while the port is served (R686). -/
def State.onMaint (s : State) (f : State → State) : State := if s.maintServed then f s else s

/-- EVR_SEEK: over the network, or by a maintenance-port write of EVR.CURSOR (R607). -/
def execEvrSeek (b : Option Bulk) (cursor : Word) (s : State) : Out :=
  .next (match b with | some b => s.onFrame b.org (fun s => s.evrSeek b) | none => s.onMaint (fun s => s.writeCursor 2 cursor))

/-- EVR_FREEZE (R607, R608). -/
def execEvrFreeze (b : Option Bulk) (s : State) : Out :=
  .next (match b with | some b => s.onFrame b.org (fun s => s.evrFreezeNet b 0x21 State.freeze) | none => s.onMaint (fun s => s.writeFrz 1))

/-- EVR_UNFREEZE (R607, R608). -/
def execEvrUnfreeze (b : Option Bulk) (s : State) : Out :=
  .next (match b with | some b => s.onFrame b.org (fun s => s.evrFreezeNet b 0x22 State.unfreeze) | none => s.onMaint (fun s => s.writeFrz 2))

/-- FREEZE_TIMEOUT (R608). -/
def execFreezeTimeout (s : State) : Out :=
  .next (if s.evr.frozen then s.unfreeze.bump R.EVR_FRZTMO else s)

/-- EVR_WIN_FETCH. -/
def execEvrWinFetch (p : Nat) (s : State) : Out := answer (decide (p < 3)) (s.winFetch p)

/-- EVR_WIN_ADVANCE. -/
def execEvrWinAdvance (p : Nat) (s : State) : Out := answer (decide (p < 3)) (s.winAdvance p)

end Sys2Proof.Machine
end

