-- ==== Sys2Proof/Machine/Flags.lean ====
section
/-! DEFINITION. How the flags of a quality word follow from what a writer read and did (R21, R176). -/

namespace Sys2Proof.Machine

/-- Whether any slot read carried LATE. -/
def anyLate (reads : List Slot) : Bool := reads.any (fun v => bit v.qual 4)

/-- Whether every slot read had VALID 1 and STALE 0. -/
def allGood (reads : List Slot) : Bool := reads.all Slot.good

/-- The quality flags as a number (R21). -/
def flagsOf (valid stale clipped subst late : Bool) : Nat :=
  valid.toNat + 2 * stale.toNat + 4 * clipped.toNat + 8 * subst.toNat + 16 * late.toNat

/-- The flags of a cell's output (R176, R195, R196): VALID only when neither held nor substituted nor non-finite, and
every slot read was good. -/
def cellFlags (reads : List Slot) (stale subst nonfin clipped : Bool) : Nat :=
  flagsOf (!stale && !subst && !nonfin && allGood reads) stale clipped subst (anyLate reads)

/-- The quality word of a held output of a skipped cell: that of the committed slot with STALE 1, VALID 0 and the
cell's own writer identity (R169). -/
def skippedQual (n : Nat) (q : Word) : Word :=
  BitVec.ofNat 32 (writerOf clsCell n * 65536 + (q.toNat % 65536 / 4) * 4 + 2)

end Sys2Proof.Machine
end

