-- ==== Sys2Proof/Machine/Image.lean ====
section
/-! DEFINITION. How an image's bytes spell its sections and records, and what a check of R112 finds
(R89 to R103, R709 to R711). The units' own checks stand with the units; Machine/Load.lean runs them all.
Where the spec can be read in two ways the assumption log says what was read: entries 31, 32 (DEDUCED unless marked there otherwise). -/

namespace Sys2Proof.Machine

/-- A failure found by a check: the step of R112, the position it is charged to (R711), the parameter and the SECTION
that CFG.REJn shows for it. -/
structure Finding where
  step : Nat
  pos : Nat
  par : Nat
  sec : Nat
  deriving DecidableEq, Repr

/-- Nothing when the check holds, else its failure. -/
def need (ok : Bool) (f : Finding) : List Finding := if ok then [] else [f]

/-- A failure charged to an image offset. -/
def atOff (step sec off : Nat) : Finding := ⟨step, off, off, sec⟩

/-- The earlier of two failures: by step, then by position. -/
def Finding.before (a b : Finding) : Bool := decide (a.step < b.step) || (a.step == b.step && decide (a.pos < b.pos))

/-- The failure that a load reports: the first step that fails, and there the one at the lowest position (R711). -/
def firstFinding : List Finding → Option Finding
  | [] => none
  | f :: r =>
    match firstFinding r with
    | none => some f
    | some g => if g.before f then some g else some f

/-- Section types (R91). -/
def secHEADER : Nat := 1
def secUNITS : Nat := 2
def secREGS : Nat := 3
def secSIGNALS : Nat := 4
def secCELLS : Nat := 5
def secLAWS : Nat := 6
def secRECIPES : Nat := 7
def secTRACE : Nat := 8
def secCAPTURE : Nat := 9
def secAXES : Nat := 10
def secSTRIDE : Nat := 11
def secCAN : Nat := 12
def secNODES : Nat := 13
def secNET : Nat := 14
def secTIME : Nat := 15
def secSAFETY : Nat := 16
def secPARAMS : Nat := 17
def secDRAM : Nat := 18
def secSEAL : Nat := 255

/-- A section of an image: its type, the offset of its header, LENGTH and COUNT (R90). -/
structure Sect where
  typ : Nat
  off : Nat
  len : Nat
  count : Nat
  deriving DecidableEq, Repr

/-- The section whose header stands at `off`. -/
def sectAt (b : List Byte) (off : Nat) : Sect := ⟨uAt b off 2, off, uAt b (off + 4) 4, uAt b (off + 12) 4⟩

/-- Directory entry `i`: its TYPE and OFFSET (R92). The HEADER body starts at byte 16. -/
def dirEntry (b : List Byte) (i : Nat) : Nat × Nat := (uAt b (0x70 + 8 * i) 2, uAt b (0x74 + 8 * i) 4)

/-- DIRCOUNT (R92). -/
def dirCount (b : List Byte) : Nat := uAt b 0x60 2

/-- The sections in image order, HEADER first. -/
def sections (b : List Byte) : List Sect :=
  sectAt b 0 :: (List.range (dirCount b)).map (fun i => sectAt b (dirEntry b i).2)

/-- The section of a type. -/
def sectOf (l : List Sect) (t : Nat) : Option Sect := l.find? (fun x => x.typ == t)

/-- The body bytes of a section. -/
def Sect.body (x : Sect) (b : List Byte) : List Byte := slice b (x.off + 16) x.len

/-- Fixed-size records: the offset of each and its bytes. -/
def fixedRecs (b : List Byte) (size : Nat) : Option Sect → List (Nat × List Byte)
  | none => []
  | some x => (List.range (min x.count (x.len / size))).map (fun i => (x.off + 16 + size * i, slice b (x.off + 16 + size * i) size))

/-- The enveloped records of a section from offset `o`, up to `n` of them, while their RLEN keeps them inside it (R93). -/
def envRecs (b : List Byte) (stop : Nat) : Nat → Nat → List Rec
  | 0, _ => []
  | n + 1, o =>
    let rl := uAt b (o + 4) 4
    if o + 8 ≤ stop ∧ 8 ≤ rl ∧ rl % 4 = 0 ∧ o + rl ≤ stop then
      ⟨uAt b o 2, uAt b (o + 2) 2, o, slice b (o + 8) (rl - 8)⟩ :: envRecs b stop n (o + rl)
    else []

/-- The section types whose records have the envelope. -/
def envTypes : List Nat :=
  [secCELLS, secLAWS, secRECIPES, secTRACE, secCAPTURE, secAXES, secSTRIDE, secCAN, secNODES, secNET, secTIME, secSAFETY]

/-- The image that a byte string spells. -/
def parseImage (b : List Byte) : Image :=
  let ss := sections b
  let units := (sectOf ss secUNITS).map (fun x => x.body b)
  { bytes := b
    flags := uAt b 0x16 2
    overcommit := match units with | some u => uAt u 0x0E 1 | none => 0
    regs := (fixedRecs b 8 (sectOf ss secREGS)).map (fun r => (r.1, uAt r.2 0 4, wAt r.2 4))
    signals := (fixedRecs b 8 (sectOf ss secSIGNALS)).map (fun r => (r.1, uAt r.2 0 2, uAt r.2 2 2, wAt r.2 4))
    recs := envTypes.flatMap (fun t => match sectOf ss t with
      | none => []
      | some x => (envRecs b (x.off + 16 + x.len) x.count (x.off + 16)).map (fun r => (t, r)))
    params := (fixedRecs b 20 (sectOf ss secPARAMS)).map (fun r =>
      (r.1, ⟨uAt r.2 0 2, uAt r.2 2 1, uAt r.2 3 1, wAt r.2 4, wAt r.2 8, wAt r.2 12⟩))
    dram := (fixedRecs b 16 (sectOf ss secDRAM)).map (fun r =>
      (r.1, ⟨uAt r.2 0 1, uAt r.2 1 1, uAt r.2 2 1, uAt r.2 3 1, uAt r.2 4 4, uAt r.2 8 4⟩)) }

/-- The records of a section. -/
def Image.sec (im : Image) (t : Nat) : List Rec := (im.recs.filter (fun x => x.1 == t)).map (·.2)

/-- The record of a section with a KEY and KIND. -/
def Image.rec? (im : Image) (t key kind : Nat) : Option Rec :=
  (im.recs.find? (fun x => x.1 == t && x.2.key == key && x.2.kind == kind)).map (·.2)

/-- The record of a section with a KEY, of whatever KIND (a law): the first in the section where two of different KIND have
the KEY (DESIGN CHOICE, log 87). -/
def Image.recKey? (im : Image) (t key : Nat) : Option Rec :=
  (im.recs.find? (fun x => x.1 == t && x.2.key == key)).map (·.2)

/-- Whether a section has a record with a KEY and KIND. -/
def Image.has (im : Image) (t key kind : Nat) : Bool := (im.rec? t key kind).isSome

/-- The value that the image gives a shared unit's register: its REGS record's, or the reset value (R96). -/
def Image.reg (im : Image) (a : Nat) : Word :=
  match im.regs.find? (fun r => r.2.1 == a) with
  | some r => r.2.2
  | none => regReset a

/-- The image offset of a register's REGS record; a register that no record sets stands before every record (R711). -/
def Image.regPos (im : Image) (a : Nat) : Nat :=
  match im.regs.find? (fun r => r.2.1 == a) with
  | some r => r.1
  | none => 0

/-- A failure of a rule over REGS registers, charged to the one whose record has the highest offset (R711). -/
def Image.atRegs (im : Image) (step : Nat) (l : List Nat) : Finding :=
  let a := l.foldl (fun best x => if im.regPos best ≤ im.regPos x then x else best) (l.headD 0)
  ⟨step, im.regPos a, a, secREGS⟩

/-- The DRAM partition of a kind, tile and engine. -/
def Image.part? (im : Image) (kind tile engine : Nat) : Option DramPart :=
  (im.dram.find? (fun x => x.2.kind == kind && x.2.tile == tile && x.2.engine == engine)).map (·.2)

/-- Whether a slot has MINMAX_OK (R97). -/
def Image.minmaxOk (im : Image) (slot : Nat) : Bool :=
  im.signals.any (fun r => r.2.1 == slot && r.2.2.1 % 2 == 1)

/-- The words of a register image with their image offsets and register addresses (R99). -/
def Rec.words (r : Rec) (addrs : List Nat) : List (Nat × Nat × Word) :=
  addrs.zipIdx.map (fun (a, i) => (r.off + 8 + 4 * i, a, wAt r.body (4 * i)))

/-- R710 on a register image: bits outside CFG fields are 0. -/
def cfgBitsOk (a : Nat) (w : Word) : Bool :=
  match regRow? a with
  | some row => w &&& ~~~row.cfg == 0
  | none => false

/-- The findings of R710 on a register image. -/
def imageBits (sec : Nat) (ws : List (Nat × Nat × Word)) : List Finding :=
  ws.flatMap (fun (o, a, w) => need (cfgBitsOk a w) (atOff 14 sec o))

/-- The failures of the record form: RLEN and reserved bytes. -/
def formLen (sec : Nat) (r : Rec) (n : Nat) : List Finding := need (r.body.length == n) (atOff 10 sec (r.off + 4))

/-- A field of `n` bytes at body offset `o` of a record must be 0. -/
def zeroField (step sec : Nat) (r : Rec) (o n : Nat) : List Finding :=
  need (uAt r.body o n == 0) (atOff step sec (r.off + 8 + o))

/-- Fields of the given widths from body offset `o` on must be 0. -/
def zeroFields (step sec : Nat) (r : Rec) : Nat → List Nat → List Finding
  | _, [] => []
  | o, n :: l => zeroField step sec r o n ++ zeroFields step sec r (o + n) l

/-- Set the registers of a register image. -/
def State.setImage (s : State) (ws : List (Nat × Nat × Word)) : State := ws.foldl (fun s x => s.setReg x.2.1 x.2.2) s

end Sys2Proof.Machine
end

