-- ==== Sys2Proof/Machine/Analog.lean ====
section
/-! DEFINITION. ADC cores, start timers, DAC channels and calibration (R342 to R380), and which ILK lines are active
(R399), since they clamp DAC channels.
Where the spec can be read in two ways the assumption log says what was read: entries 10, 52, 53 (DEDUCED unless marked there otherwise). -/

namespace Sys2Proof.Machine

/-! Interlock lines (R399). -/

/-- The lines whose ball is at its active level and enabled. -/
def State.ilkBalls (s : State) : Nat :=
  let w := s.reg R.ILK_CFG
  (fld w 23 16) &&& (255 - Nat.xor s.dio.ilk (fld w 7 0))

/-- The active lines, as a mask. -/
def State.ilkActive (s : State) : Nat := s.ilkBalls ||| (fld (s.reg R.ILK_CFG) 23 16 &&& s.dio.latched)

/-- Where gating works: READY, RUN, SAFE, HALT with an image, and throughout a warm restart, to which the LOAD counts in
which the outputs stand at their safe values (R74; DEDUCED, log 55). -/
def State.ilkWorks (s : State) : Bool :=
  s.warm.phase != .none || s.warm.safe || s.dev == stREADY || s.dev == stRUN || s.dev == stSAFE || (s.dev == stHALT && s.loaded)

/-- Whether a line of a mask gates. -/
def State.gated (s : State) (mask : Nat) : Bool := s.ilkWorks && (mask &&& s.ilkActive) != 0

/-! ADC cores. -/

/-- Change core `c`. -/
def State.modCore (s : State) (c : Nat) (f : AdcCore → AdcCore) : State :=
  { s with ana := { s.ana with cores := modifyAt s.ana.cores c f } }

/-- Core `c`. -/
def State.core (s : State) (c : Nat) : AdcCore := s.ana.cores.getD c {}

/-- Single-channel select (R358). -/
def State.singleSelect (s : State) : Bool := fld s.part.caps 5 0 == 1

/-- ADC.CTRL.EN, LP and SEQLEN. -/
def State.adcLp (s : State) (c : Nat) : Bool := s.bitOf (R.ADC_CTRL c) 8
def State.adcLen (s : State) (c : Nat) : Nat := min 16 (s.fldOf (R.ADC_CTRL c) 4 0)

/-- Whether core `c` converts (R344, R351). -/
def State.adcOn (s : State) (c : Nat) : Bool := s.bitOf (R.ADC_CTRL c) 9 && s.usableBit (unitAdc c) && s.running

/-- Entry `i` of core `c` with the selection `sel` (R358, R376). -/
def State.adcEntry (s : State) (c i : Nat) (sel : Word) : Word :=
  let w := s.reg (R.ADC_SEQ c i)
  if s.singleSelect then BitVec.ofNat 32 (fld sel 31 10 * 1024 + fld w 9 0) else w

/-- Fields of an entry. -/
def adcSupsel (w : Word) : Nat := fld w 25 24
def adcInput (w : Word) : Nat := fld w 23 20
def adcGain (w : Word) : Nat := fld w 18 16
def adcSmp (w : Word) : Nat := fld w 9 0

/-- EDGE cycles of a CONV cycle of 20 ns, and the power-up of low-power mode before each sampling (R348). -/
def convEdges : Nat := 8
def State.adcPowerUp (s : State) (c : Nat) : Nat := if s.adcLp c then 2490 * convEdges else 0

/-- EDGE cycles from the begin of entry 0's sampling to the end of the sequence (R348). -/
def State.adcSpan (s : State) (c : Nat) : Nat :=
  (List.range (s.adcLen c)).foldl (fun a i => a + (8 + adcSmp (s.reg (R.ADC_SEQ c i))) * convEdges) 0 +
    (s.adcLen c - 1) * s.adcPowerUp c

/-- A start event at core `c` at the present moment (R348, R350, R357). One source gives at most one event in an EDGE
cycle, so a second notice of it changes nothing. -/
def State.adcStart (s : State) (c : Nat) : State :=
  let k := s.core c
  if !s.adcOn c || k.event == some s.now then s
  else if s.now < k.idle then
    ((s.modCore c (fun k => { k with event := some s.now })).bump (R.ADC_MISSED c)).raiseCounted c 0xC001 c
      (BitVec.ofNat 32 c) 0 s.tickLo 0
  else
    let lead := if s.fldOf (R.ADC_START c) 31 30 = 2 then 6 else 0
    let first := s.now + s.fldOf (R.ADC_START c) 15 0 + lead + s.adcPowerUp c
    (s.modCore c (fun k =>
      { event := some s.now, first := first, idle := first + s.adcSpan c,
        runs := k.runs ++ [⟨s.now, first, 0, false, s.reg (R.ADC_CHSEL c), 0⟩] })).bump (R.ADC_STARTS c)

/-- An in-service test under way at the start event of the present moment defers entry 0 of the sequence it began by
`lag` CONV cycles, at most one entry period, and with it all that follows (R355, R636). -/
def State.adcDefer (s : State) (c lag : Nat) : State :=
  match (s.core c).runs.getLast? with
  | none => s
  | some r =>
    if r.start = s.now ∧ r.next = 0 ∧ r.lag = 0 then
      let n := min lag (8 + adcSmp (s.adcEntry c 0 r.sel))
      s.modCore c (fun k => { k with
        idle := k.idle + n * convEdges,
        runs := k.runs.dropLast ++ [{ r with first := r.first + n * convEdges, lag := n }] })
    else s

/-- The end of sampling of entry `i` of a sequence of core `c`, as an EDGE count (R348). -/
def State.adcAperture (s : State) (c : Nat) (r : AdcRun) (i : Nat) : Nat :=
  (List.range i).foldl (fun a j => a + (8 + adcSmp (s.reg (R.ADC_SEQ c j))) * convEdges + s.adcPowerUp c)
    r.first + adcSmp (s.reg (R.ADC_SEQ c i)) * convEdges

/-- ADC.STAT (R373). -/
def State.adcStat (s : State) (c : Nat) : Word :=
  let k := s.core c
  BitVec.ofNat 32 ((decide (s.now < k.idle)).toNat + 2 * (decide (s.now < k.first)).toNat + 4 * (s.adcLp c).toNat)

/-- The raw word of a conversion (R352). -/
def rawWord (code : Int) (entry : Nat) (lp internal late : Bool) : Word :=
  BitVec.ofNat 32 (toBits 20 code * 4096 + entry * 256 + 128 + 16 * lp.toNat + 8 * internal.toNat +
    4 * (decide (code = -524288)).toNat + 2 * (decide (code = 524287)).toNat + late.toNat)

/-- The scales of R353: 20.0, 1.0, 2.0 and 2.0. -/
def supplyScale (i : Nat) : F32 := [0x41A00000, 0x3F800000, 0x40000000, 0x40000000].getD i 0x3F800000

/-- EDGE cycles from the end of sampling to the end of the conversion, when its calibration begins (R348, R353;
DEDUCED, log 52). -/
def convertEdges : Nat := 64

/-- A calibration value for a result whose calibration begins at EDGE count `t` (R365). -/
def State.calWord (s : State) (t a : Nat) : Word :=
  if t < s.ana.calAt then (tabFind s.ana.calPrev a).getD (s.reg a) else s.reg a

/-- The calibrated value of a code whose calibration begins at EDGE count `t` (R353). -/
def State.adcValue (s : State) (c : Nat) (w : Word) (code : Int) (t : Nat) : F32 :=
  let g := adcGain w
  let v := fmul (fsub (fOfInt code) (s.calWord t (R.ADC_CALOFS c g))) (s.calWord t (R.ADC_CALGN c g))
  if adcInput w = 9 then fmul v (supplyScale (adcSupsel w))
  else if adcInput w = 10 then fma v (s.calWord t (R.ADC_TSLOPE c)) (s.calWord t (R.ADC_TOFS c))
  else v

/-- A result that reached the table: entry, raw word, calibrated value, start event and end of sampling. -/
structure AdcSample where
  entry : Nat
  raw : Word
  value : F32
  start : Nat
  aperture : Nat
  deriving DecidableEq, Repr

/-- The conversion of the next entry of core `c` reaches the table at the present moment (R354, R355). -/
def State.adcResult (s : State) (c : Nat) (code : Int) : State × Option AdcSample :=
  match (s.core c).runs with
  | [] => (s, none)
  | r :: rest =>
    let i := r.next
    let w := s.adcEntry c i r.sel
    let code := clampInt code (-524288) 524287
    let runs := if i + 1 < s.adcLen c then { r with next := i + 1 } :: rest else rest
    let s := s.modCore c (fun k => { k with runs := runs })
    if r.discard || !s.adcOn c then (s, none)
    else
      let inp := adcInput w
      let e := if s.singleSelect then 0 else i
      let late := i == 0 && decide (0 < r.lag)
      let aperture := s.adcAperture c r i
      let raw := rawWord code e (s.adcLp c) (decide (8 ≤ inp) && decide (inp ≤ 11)) late
      let s := s.setReg (R.ADC_RAW c i) raw
      let s := if late then s.bump (R.ADC_LATECNT c) else s
      let clip := code == -524288 || code == 524287
      let v := s.adcValue c w code (aperture + convertEdges)
      (s.stageVia (s.reg (R.ADC_RES c i)) (writerOf clsAdc c) v (flagsOf (!clip) false clip false late),
        some ⟨i, raw, v, r.start, aperture⟩)

/-- A sequence running at T0 completes, its results discarded (R351). -/
def State.adcDiscard (s : State) : State :=
  { s with ana := { s.ana with cores := s.ana.cores.map (fun k =>
    { k with runs := k.runs.map (fun r => { r with discard := true }) }) } }

/-- START_TIMER_FIRE: start timer `n` in the present tick (R346, R347). -/
def State.timerFire (s : State) (n : Nat) : State :=
  let w := s.reg (R.ANA_TMROFS n)
  if bit w 31 && s.running && s.tileUsable (n / 4) && rateDue (s.reg (R.ANA_TMRRATE n)) s.tick then
    forUpTo 16 (fun c s =>
      let x := s.reg (R.ADC_START c)
      if fld x 31 30 == 1 && fld x 27 22 == n then s.adcStart c else s) (s.atEdge (fld w 18 0))
  else s

/-- A PWM event of DIO `d`: 0 rising, 1 falling, 2 centre (R346, R390). -/
def State.pwmStarts (s : State) (d edge : Nat) : State :=
  forUpTo 16 (fun c s =>
    let x := s.reg (R.ADC_START c)
    if fld x 31 30 == 2 && fld x 27 22 == d && fld x 29 28 == edge then s.adcStart c else s) s

/-- START_TIMER_FIRE. -/
def execStartTimerFire (n : Nat) (s : State) : Out := answer (decide (n < 32)) (s.timerFire n)

/-- ADC_START: the start source of core `c` gives an event; an in-service test defers entry 0 by `lag` CONV cycles. -/
def execAdcStart (c lag e : Nat) (s : State) : Out :=
  answer (decide (c < 16)) (((s.atEdge e).adcStart c).adcDefer c lag)

/-! DAC channels (R360 to R363). -/

def dacCOLD : Nat := 0
def dacINITIAL : Nat := 1
def dacSLOT : Nat := 2
def dacSAFE : Nat := 3
def dacHOLD : Nat := 4
def dacCLAMP : Nat := 5

/-- The source of channel `ch` (R361), as DAC.STAT.SRC codes it. -/
def State.dacSource (s : State) (ch : Nat) : Nat :=
  if !(s.usableBit (unitDacGroup (ch / 8)) && s.bitOf (R.DAC_BIND ch) 31) then dacCOLD
  else if s.gated (s.fldOf (R.DAC_CFG ch) 15 8) then dacCLAMP
  else if s.warm.safe then dacSAFE
  else if s.warm.phase != .none then dacHOLD
  else if s.dev == stSAFE || (s.dev == stHALT && s.loaded) then dacSAFE
  else if s.dev == stRUN then (if s.dio.sampled then dacSLOT else dacINITIAL)
  else if s.dev == stREADY then dacINITIAL
  else dacCOLD

/-- The codes at the ends of a range (R360). -/
def dacEnds (uni : Bool) : Int × Int := if uni then (0, 262143) else (-131072, 131071)

/-- A value as an integer code before limiting; an infinity lies outside every range (R362). -/
def dacRound (x gn ofs : F32) : Int :=
  let c := fma x gn ofs
  if fIsFin c then vRoundInt (fv c) else if flt c 0 then -1000000000 else 1000000000

/-- Drive channel `ch` from value `x` (R362). -/
def State.dacDrive (s : State) (ch : Nat) (x : F32) : State :=
  if fIsNan x then
    (s.orReg (R.DAC_STAT ch) 16).raiseLimited 0 0xC101 ch (BitVec.ofNat 32 ch) s.tickLo 0 0
  else
    let uni := s.bitOf (R.DAC_CFG ch) 0
    let gn := s.reg (if uni then R.DAC_CALGNU ch else R.DAC_CALGNB ch)
    let ofs := s.reg (if uni then R.DAC_CALOFSU ch else R.DAC_CALOFSB ch)
    let c := dacRound x gn ofs
    let e := dacEnds uni
    let code := clampInt c e.1 e.2
    let s := s.setReg (R.DAC_CODE ch) (BitVec.ofNat 32 (toBits 18 code))
    let s := { s with ana := { s.ana with coded := setBit s.ana.coded ch true } }
    if code = c then s else s.orReg (R.DAC_STAT ch) 8

/-- The hold latch of channel `ch` drives the code it closed on (R75, R361). -/
def State.dacHeld (s : State) (ch : Nat) : State :=
  let s := s.setReg (R.DAC_CODE ch) (s.ana.held.getD ch 0)
  { s with ana := { s.ana with coded := setBit s.ana.coded ch (bit s.ana.heldCoded ch) } }

/-- The hold latches close on the codes now driven (R75). -/
def State.dacHold (s : State) : State :=
  { s with ana := { s.ana with
    held := (List.range 32).map (fun ch => s.reg (R.DAC_CODE ch)), heldCoded := s.ana.coded } }

/-- Bring channel `ch` to the source in force (R361). -/
def State.dacUpdate (s : State) (ch : Nat) : State :=
  let src := s.dacSource ch
  let s := s.putFld (R.DAC_STAT ch) 2 0 src
  if src = dacCOLD then
    let s := s.setReg (R.DAC_CODE ch) 0
    { s with ana := { s.ana with coded := setBit s.ana.coded ch false } }
  else if src = dacHOLD then s.dacHeld ch
  else if src = dacSAFE then s.dacDrive ch (s.reg (R.DAC_SAFEVAL ch))
  else if src = dacCLAMP then s.dacDrive ch (s.reg (R.DAC_CLAMP ch))
  else s.dacDrive ch (s.slot (s.fldOf (R.DAC_BIND ch) 12 0)).val

/-- Every channel brought to its source. -/
def State.dacAll (s : State) : State := forUpTo 32 (fun ch s => s.dacUpdate ch) s

/-- Every channel whose source is no longer the one in DAC.STAT brought to it: a clamp or a hold changes, and the others do
not update (R361, R363). -/
def State.dacMoved (s : State) : State :=
  forUpTo 32 (fun ch s => if s.dacSource ch = s.fldOf (R.DAC_STAT ch) 2 0 then s else s.dacUpdate ch) s

/-- Whether AOUTch is driven rather than at high impedance (R362). -/
def State.dacDriven (s : State) (ch : Nat) : Bool := bit s.ana.coded ch

/-! Calibration (R364 to R369). -/

/-- An item of a CALIBRATE letter: its selector word and two values. -/
structure CalItem where
  sel : Word
  v0 : F32
  v1 : F32
  deriving DecidableEq, Repr

def CalItem.kind (i : CalItem) : Nat := fld i.sel 7 0
def CalItem.inst (i : CalItem) : Nat := fld i.sel 15 8
def CalItem.part (i : CalItem) : Nat := fld i.sel 23 16

/-- Whether a value lies within a range. -/
def fwithin (x lo hi : F32) : Bool := fle lo x && fle x hi

/-- Whether `x` is within 3 percent of the nominal `n`, exactly. -/
def near3 (x n : F32) : Bool :=
  let d := vAdd (vMul (fv x) (vInt 100)) (vNeg (vMul (fv n) (vInt 100)))
  let lim := vMul (fv n) (vInt 3)
  vCmp d lim != some .gt && vCmp d (vNeg lim) != some .lt

/-- Whether an item is one of R364. -/
def CalItem.known (i : CalItem) : Bool :=
  fld i.sel 31 24 == 0 &&
    match i.kind with
    | 1 => decide (i.inst < 16) && decide (i.part < 6)
    | 2 => decide (i.inst < 16) && i.part == 0
    | 3 => decide (i.inst < 32) && decide (i.part < 2)
    | _ => false

/-- The bounds of R369. -/
def CalItem.inBounds (i : CalItem) : Bool :=
  i.known && fIsFin i.v0 && fIsFin i.v1 &&
    match i.kind with
    | 1 => fwithin i.v0 0xC5800000 0x45800000 && near3 i.v1 (0x37A3D70A - BitVec.ofNat 32 (i.part * 0x00800000))
    | 2 => fwithin i.v0 0xC42F0000 0xC3960000 && fwithin i.v1 0x42C80000 0x44160000
    | _ => near3 i.v0 (if i.part = 0 then 0x46480000 else 0x46C80000) && fwithin i.v1 0xC5000000 0x45000000

/-- The unit of an item (R369, R43). -/
def CalItem.unit (i : CalItem) : Nat := if i.kind = 3 then unitDacGroup (i.inst / 8) else unitAdc i.inst

/-- The registers that show an item's two values. -/
def CalItem.words (i : CalItem) : List (Nat × Word) :=
  match i.kind with
  | 1 => [(R.ADC_CALOFS i.inst i.part, i.v0), (R.ADC_CALGN i.inst i.part, i.v1)]
  | 2 => [(R.ADC_TSLOPE i.inst, i.v0), (R.ADC_TOFS i.inst, i.v1)]
  | _ =>
    if i.part = 0 then [(R.DAC_CALGNB i.inst, i.v0), (R.DAC_CALOFSB i.inst, i.v1)]
    else [(R.DAC_CALGNU i.inst, i.v0), (R.DAC_CALOFSU i.inst, i.v1)]

/-- The values that a CALIBRATE of the present moment replaces, those of an earlier one of the same moment first (R365). -/
def State.calSave (s : State) (ws : List (Nat × Word)) : State :=
  let prev := if s.ana.calAt = s.now then s.ana.calPrev else []
  { s with ana := { s.ana with
    calAt := s.now,
    calPrev := ws.foldl (fun t x => if (tabFind t x.1).isSome then t else tabInsert t x.1 (s.reg x.1)) prev } }

/-- A committed CALIBRATE letter (R365). -/
def State.calibrate (s : State) (items : List CalItem) (seq : Nat) : State :=
  let ws := items.flatMap CalItem.words
  let s := s.calSave ws
  let s := ws.foldl (fun s x => s.setReg x.1 x.2) s
  let s := { s with ana := { s.ana with writes := s.ana.writes ++ [CalWrite.mk items.length seq ws false false] } }
  s.orReg R.ANA_CALSTAT 1

/-- ANA.CALSRC of the items that registers belong to (R366). -/
def State.calSource (s : State) (a : Nat) : State :=
  if a < 0x310000 then s.orReg R.ANA_CALSRC0 (BitVec.ofNat 32 (2 ^ ((a - 0x300000) / 0x1000)))
  else s.orReg R.ANA_CALSRC1 (BitVec.ofNat 32 (2 ^ ((a - 0x310400) / 16)))

/-- Store calibration words in ENVM (R365). -/
def State.putEnvm (s : State) (l : List (Nat × Word)) : State :=
  { s with ana := { s.ana with envm := tabSetMany regReset s.ana.envm l } }

/-- The write of calibration items in progress ends (R365, R368). -/
def State.calWriteDone (s : State) (ok : Bool) : State :=
  match s.ana.writes with
  | [] => s
  | w :: r =>
    if !ok && !w.failed then { s with ana := { s.ana with writes := { w with failed := true } :: r } }
    else
      let s := { s with ana := { s.ana with writes := r } }
      let s := if r.isEmpty then s.clrReg R.ANA_CALSTAT 1 else s
      if ok then
        let s := s.putEnvm w.words
        let s := w.words.foldl (fun s x => s.calSource x.1) s
        (s.bump R.ANA_CALCNT).raise 0xC201 noSource (BitVec.ofNat 32 w.items) (BitVec.ofNat 32 w.seq) 0 0
      else (s.orReg R.ANA_CALSTAT 2).raise 0xC202 noSource 0 0 0 0

/-- CALIBRATION_WRITE_DONE, with the cycles the write waited (R338). No calibration write ends while the port serves another
class. -/
def execCalibrationWriteDone (ok : Bool) (wait : Nat) (s : State) : Out :=
  .next (if s.envmServes 5 then ((s.waited 0 wait).calWriteDone ok).envmDone 5 else s)

/-- Whether `a` lies among the registers of the calibration set: those of the ADC cores and of the DAC channels (R364). -/
def calReg (a : Nat) : Bool := decide (0x300100 ≤ a) && decide (a < 0x310600)

/-- The calibration set as a cold start reads it from ENVM (R366 to R368). -/
def State.calCold (s : State) : State :=
  (s.ana.envm.filter (fun x => calReg x.1)).foldl (fun s x => s.setReg x.1 x.2) { s with ana := { envm := s.ana.envm } }

/-! Load (R345 to R347, R358, R362, R373). -/

/-- The input and gain rules of an entry (R345). -/
def adcSelOk (w : Word) : Bool :=
  let inp := adcInput w
  decide (inp ≤ 11) && decide (adcGain w ≤ 5) && (adcSupsel w == 0 || inp == 9) &&
    (adcGain w == 0 || !(inp == 8 || inp == 9 || inp == 10))

/-- The failures of core `c`'s registers. -/
def adcCheck (s : State) (im : Image) (c : Nat) : List Finding :=
  let ctrl := im.reg (R.ADC_CTRL c)
  let st := im.reg (R.ADC_START c)
  let en := bit ctrl 9
  let len := fld ctrl 4 0
  let kind := fld st 31 30
  let src := fld st 27 22
  let f := fun (step : Nat) (ok : Bool) (l : List Nat) => need ok (im.atRegs step l)
  let g := fun (ok : Bool) (par : Nat) (l : List Nat) => need ok { im.atRegs 12 l with par := par }
  g (decide (len ≤ fld s.part.caps 4 0)) 64 [R.ADC_CTRL c] ++
  g (kind != 1 || decide (32 ≤ src) || s.tileUsable (src / 4)) (unitTile (src / 4)) [R.ADC_START c] ++
  f 14 (!en || (decide (1 ≤ len) && decide (len ≤ 16))) [R.ADC_CTRL c] ++
  f 14 (!en || kind != 0) [R.ADC_CTRL c, R.ADC_START c] ++
  f 14 (kind != 3 && fld st 29 28 != 3 && (kind != 1 || (fld st 29 28 == 0 && decide (src < 32)))) [R.ADC_START c] ++
  (List.range 16).flatMap (fun i =>
    let w := im.reg (R.ADC_SEQ c i)
    if i < len then f 14 (adcSelOk w && decide (2 ≤ adcSmp w)) [R.ADC_CTRL c, R.ADC_SEQ c i]
    else f 14 (w == 0) [R.ADC_CTRL c, R.ADC_SEQ c i] ++ f 14 (im.reg (R.ADC_RES c i) == 0) [R.ADC_CTRL c, R.ADC_RES c i]) ++
  f 17 (kind != 2 || fld (im.reg (R.DIO_MODE src)) 31 28 == 3) [R.ADC_START c, R.DIO_MODE src]

/-- A REGS record that names an entry that single-channel select lacks (R373). -/
def State.adcAbsent (s : State) (a : Nat) : Bool :=
  s.singleSelect && decide (0x300000 ≤ a) && decide (a < 0x310000) &&
    (let o := a % 0x1000
     (decide (0x44 ≤ o) && decide (o < 0x80)) || (decide (0x84 ≤ o) && decide (o < 0xC0)) ||
       (decide (0xC4 ≤ o) && decide (o < 0x100)))

/-- The failures of the analog registers of an image. -/
def analogCheck (s : State) (im : Image) : List Finding :=
  (List.range 16).flatMap (adcCheck s im) ++
  (im.regs.flatMap (fun x => need (!s.adcAbsent x.2.1) (⟨12, x.1, 64, secREGS⟩ : Finding))) ++
  (List.range 32).flatMap (fun n =>
    let r := im.reg (R.ANA_TMRRATE n)
    need (decide (1 ≤ fld r 10 0) && decide (fld r 10 0 ≤ 1024) && decide (fld r 25 16 < fld r 10 0))
      (im.atRegs 14 [R.ANA_TMRRATE n]) ++
    need (decide (fld (im.reg (R.ANA_TMROFS n)) 18 0 < 2 * fld (im.reg R.DEV_TBASE) 17 0))
      (im.atRegs 14 [R.ANA_TMROFS n, R.DEV_TBASE])) ++
  (List.range 32).flatMap (fun ch =>
    need (!fIsNan (im.reg (R.DAC_SAFEVAL ch))) (im.atRegs 14 [R.DAC_SAFEVAL ch]) ++
    need (!fIsNan (im.reg (R.DAC_CLAMP ch))) (im.atRegs 14 [R.DAC_CLAMP ch]))

/-- The analog die at a load that does not resume state (R358, R373). -/
def State.loadAnalog (s : State) : State :=
  let s := { s with ana := { s.ana with cores := List.replicate 16 {} } }
  forUpTo 16 (fun c s =>
    let s := ((s.setReg (R.ADC_STARTS c) 0).setReg (R.ADC_MISSED c) 0).setReg (R.ADC_LATECNT c) 0
    let s := forUpTo 16 (fun i s => s.setReg (R.ADC_RAW c i) 0) s
    if s.singleSelect then s.setReg (R.ADC_CHSEL c) (s.reg (R.ADC_SEQ c 0) &&& 0x03F70000) else s) s

end Sys2Proof.Machine
end

