-- ==== Sys2Proof/Machine/Time.lean ====
section
/-! DEFINITION. The time unit: the counter and its servo, PTP messages, pulse outputs and capture inputs
(R536 to R561). Stamps are whole ns of the counter; offsets are in units of 2^-17 ns.
Where the spec can be read in two ways the assumption log says what was read: entries 22, 49, 51, 60 (DEDUCED unless marked there otherwise). -/

namespace Sys2Proof.Machine

/-- Counter units of 2.5e-13 ns in one ns and in one second. -/
def unitsPerNs : Nat := 4000000000000
def nsPerSec : Nat := 1000000000

/-- The counter wraps with its 48-bit seconds. -/
def counterSpan : Nat := 2 ^ 48 * nsPerSec * unitsPerNs

/-- The counter in units at EDGE count `e` (R541). -/
def Time.unitsAt (t : Time) (e : Nat) : Nat :=
  (((t.acc : Int) + ((e : Int) - t.base) * (10000000000000 + t.rq)) % (counterSpan : Int)).toNat

/-- SEC × 10^9 + NS at EDGE count `e`. -/
def State.nsAt (s : State) (e : Nat) : Nat := s.time.unitsAt e / unitsPerNs

/-- SEC, NS and TNS at EDGE count `e` (R541, R542). -/
def State.secAt (s : State) (e : Nat) : Nat := s.nsAt e / nsPerSec
def State.subNsAt (s : State) (e : Nat) : Nat := s.nsAt e % nsPerSec
def State.tnsAt (s : State) (e : Nat) : Word := BitVec.ofNat 32 (s.nsAt e)

/-- Change the time unit. -/
def State.modTime (s : State) (f : Time → Time) : State := { s with time := f s.time }

/-- TIME.STAT bits. -/
def State.timeValid (s : State) : Bool := s.bitOf R.TIME_STAT 0

/-- Set or clear a bit of TIME.STAT. -/
def State.timeFlag (s : State) (i : Nat) (b : Bool) : State := s.putFld R.TIME_STAT i i b.toNat

/-- Move the counter's base to the present moment, so that a new rate counts from here. -/
def State.rebase (s : State) : State := s.modTime (fun t => { t with acc := t.unitsAt s.now, base := s.now })

/-- A new rate in ppb, applied in steps of 0.0001 ppb (R541), shown in TIME.RATE. -/
def State.setRate (s : State) (r : F64) : State :=
  let q := vRoundInt (vMul (dv r) (vInt 10000))
  let s := s.rebase
  (s.modTime (fun t => { t with r := r, rq := clampInt q (-10000000000) 10000000000 })).setReg R.TIME_RATE (f32OfD64 r)

/-- A signed 64-bit value as the words [63:32] and [31:0]. -/
def words64 (i : Int) : Word × Word :=
  let n := toBits 64 i
  (BitVec.ofNat 32 (n / 2 ^ 32), BitVec.ofNat 32 n)

/-- EV_TIME_MARK (R551). -/
def State.timeMark (s : State) : State :=
  let n := s.nsAt s.now
  s.raise 0x4005 noSource (BitVec.ofNat 32 (n / nsPerSec)) (BitVec.ofNat 32 (n / nsPerSec / 2 ^ 32))
    (BitVec.ofNat 32 (n % nsPerSec)) s.tickLo

/-! Pulse outputs (R553 to R556). -/

/-- Change generator `n`. -/
def State.modTpo (s : State) (n : Nat) (f : Tpo → Tpo) : State :=
  s.modTime (fun t => { t with tpo := modifyAt t.tpo n f })

def State.tpo (s : State) (n : Nat) : Tpo := s.time.tpo.getD n {}

/-- T(i) of a generator in ns. -/
def Tpo.at (g : Tpo) (i : Nat) : Nat := g.start + i * g.period

/-- The index of the first pulse time more than 1 us after `now` ns (R555). -/
def Tpo.firstAfter (g : Tpo) (now : Nat) : Nat :=
  if g.start > now + 1000 then 0 else (now + 1000 - g.start) / (max 1 g.period) + 1

/-- Disarm generator `n`: ARM and ARMED read 0; a pulse in progress completes. -/
def State.disarm (s : State) (n : Nat) : State := (s.clrReg (R.TPO_CTRL n) 0x80000000).clrReg (R.TPO_STAT n) 1

/-- Whether the timing registers of generator `n` may be latched (R553). -/
def State.tpoConfigOk (s : State) (n : Nat) (periodic : Bool) : Bool :=
  let w := (s.reg (R.TPO_WIDTH n)).toNat
  let p := (s.reg (R.TPO_PERIOD n)).toNat
  decide ((s.reg (R.TPO_START_NS n)).toNat < nsPerSec) && s.fldOf (R.TPO_START_SEC_HI n) 31 16 == 0 &&
    decide (10 ≤ w) && decide (w ≤ 1000000000) &&
    (!periodic || (decide (1000 ≤ p) && decide (p ≤ 4000000000) && decide (w + 10 ≤ p)))

/-- A write of TPO.CTRL (R553, R555): arming latches the timing fields, or sets BADCFG; ARM 0 disarms, after a pulse in
progress. -/
def State.writeTpoCtrl (s : State) (n : Nat) (w : Word) : State :=
  let s := s.setReg (R.TPO_CTRL n) (w &&& 0x80000003)
  if !bit w 31 then (if (s.tpo n).ends.isSome then s else s.disarm n)
  else
    let s := s.clrReg (R.TPO_STAT n) 6
    let periodic := bit w 0
    if !s.tpoConfigOk n periodic then (s.disarm n).orReg (R.TPO_STAT n) 4
    else
      let g : Tpo :=
        { start := ((s.reg64 (R.TPO_START_SEC_LO n)).toNat % 2 ^ 48) * nsPerSec + (s.reg (R.TPO_START_NS n)).toNat,
          period := (s.reg (R.TPO_PERIOD n)).toNat, width := (s.reg (R.TPO_WIDTH n)).toNat, periodic := periodic,
          ends := (s.tpo n).ends }
      let i := g.firstAfter (s.nsAt s.now)
      let s := (s.modTpo n (fun _ => { g with next := i })).orReg (R.TPO_STAT n) 1
      if !periodic && i != 0 then (s.disarm n).orReg (R.TPO_STAT n) 2 else s

/-- Whether pulse generators and capture inputs run (R556, R557). -/
def State.timeIoRuns (s : State) : Bool :=
  s.dev == stREADY || s.dev == stRUN || s.dev == stSAFE || s.dev == stHALT

/-- EDGE cycles of a pulse of `w` ns, on the 2.5 ns grid (R554). -/
def tpoEdges (w : Nat) : Nat := (2 * w + 4) / 5

/-- Whether generator `n` has a pulse before it: it is armed, and a single pulse has not begun (R554, R555). -/
def State.tpoWaits (s : State) (n : Nat) : Bool :=
  s.bitOf (R.TPO_STAT n) 0 && s.bitOf (R.TPO_CTRL n) 31 && ((s.tpo n).periodic || (s.tpo n).next == 0)

/-- Whether the next pulse of generator `n` is due: it runs, and the counter has reached T(next) (R554). -/
def State.tpoDue (s : State) (n : Nat) : Bool :=
  s.tpoWaits n && s.timeIoRuns && decide ((s.tpo n).at (s.tpo n).next ≤ s.nsAt s.now)

/-- A pulse of generator `n` (R554). -/
def State.tpoPulse (s : State) (n : Nat) : State :=
  if !s.tpoDue n then s
  else
    let s := (s.modTpo n (fun g => { g with next := g.next + 1, ends := some (s.now + tpoEdges g.width) })).orReg (R.TPO_STAT n) 8
    s.bump (R.TPO_COUNT n)

/-- The end of a pulse once its width has passed (R554): it disarms a generator without a pulse before it, after its single
pulse or with ARM written 0 (R555). -/
def State.tpoEnd (s : State) (n : Nat) : State :=
  match (s.tpo n).ends with
  | some t =>
    if t ≤ s.now then
      let s := (s.modTpo n (fun g => { g with ends := none })).clrReg (R.TPO_STAT n) 8
      if s.tpoWaits n then s else s.disarm n
    else s
  | none => s

/-- The level of ball TPOn (R554, R556). -/
def State.tpoBall (s : State) (n : Nat) : Bool :=
  s.timeIoRuns && (s.bitOf (R.TPO_STAT n) 3 != s.bitOf (R.TPO_CTRL n) 1)

/-! Steps and the servo (R544 to R548). -/

/-- What a step of `d` ns does to an armed generator (R555): the next pulse is the first more than 1 us after the new time. A
step forward over the next pulse time sets MISSED, and so does a single pulse that is skipped. -/
def State.tpoAfterStep (s : State) (d : Int) (n : Nat) : State :=
  if !s.tpoWaits n then s
  else
    let g := s.tpo n
    let i := g.firstAfter (s.nsAt s.now)
    let skips := !g.periodic && i != 0
    let t := s.modTpo n (fun g => { g with next := i })
    let t := if skips || (decide (0 < d) && decide (g.at g.next ≤ s.nsAt s.now)) then t.orReg (R.TPO_STAT n) 2 else t
    if skips then t.disarm n else t

/-- A step of `d` ns (R545). -/
def State.timeStep (s : State) (d : Int) : State :=
  let s := s.rebase
  let s := s.modTime (fun t => { t with acc := (((t.acc : Int) + d * unitsPerNs) % (counterSpan : Int)).toNat })
  let s := (s.timeFlag 0 true).bump R.TIME_STEPS
  let w := words64 d
  let s := s.raise 0x4001 noSource w.1 w.2 (BitVec.ofNat 32 (s.secAt s.now)) s.tickLo
  let s := s.timeMark
  forUpTo 4 (fun n s => s.tpoAfterStep d n) s

/-- clamp of R191 in binary64. -/
def dclamp (x lo hi : F64) : F64 := if dlt x lo then lo else if dlt hi x then hi else x

/-- 1.0e6 and 1.0e9 in binary64. -/
def d1e6 : F64 := dOfInt 1000000
def d1e9 : F64 := dOfInt 1000000000

/-- Minus a binary64. -/
def dneg (a : F64) : F64 := f64Of (vNeg (dv a))

/-- A valid offset of `o` units of 2^-17 ns (R544, R546, R547). A step moves the counter by whole ns (DEDUCED, log 22). -/
def State.servo (s : State) (o : Int) : State :=
  let ov := vRat o 131072
  let od := f64Of ov
  let ons := vRoundInt ov
  let s := (s.setReg R.TIME_OFFSET (BitVec.ofInt 32 (clampInt ons (-2147483647) 2147483647))).timeFlag 4 false
  let near := decide (o.natAbs ≤ 1000 * 131072)
  let streak := if near then s.time.streak + 1 else 0
  let s := s.modTime (fun t => { t with streak := streak, following := true })
  let s := if !near then s.timeFlag 2 false else if 8 ≤ streak then s.timeFlag 2 true else s
  let far := dlt d1e9 (if dlt od 0 then dneg od else od)
  if s.bitOf R.TIME_STAT 5 then
    let s := if far then s else s.timeFlag 3 false
    let s := s.timeStep (-ons)
    ((s.modTime (fun t => { t with i := 0 })).setRate 0).timeFlag 5 false
  else if far then
    let w := words64 ons
    let t := if s.bitOf R.TIME_STAT 3 then s else (s.timeFlag 3 true).raise 0x4002 noSource w.1 w.2 s.tickLo 0
    t.setRate (if dlt od 0 then d1e6 else dneg d1e6)
  else
    let s := s.timeFlag 3 false
    let ki := d64OfF32 (s.reg R.TIME_KI)
    let kp := d64OfF32 (s.reg R.TIME_KP)
    let i := dclamp (dsub s.time.i (dmul ki od)) (dneg d1e6) d1e6
    let r := dclamp (dsub i (dmul kp od)) (dneg d1e6) d1e6
    (s.modTime (fun t => { t with i := i })).setRate r

/-! Messages (R536 to R543). -/

/-- The time port, and whether PTP messages are exchanged (R539). -/
def State.timePort (s : State) : Nat := s.fldOf R.TIME_CTRL 29 29
def State.ptpOn (s : State) : Bool := s.bitOf R.TIME_CTRL 31 && s.portRuns s.timePort
def State.ptpMaster (s : State) : Bool := s.bitOf R.TIME_CTRL 30
def State.ptpP2P (s : State) : Bool := s.bitOf R.TIME_CTRL 27

/-- Whether peer `i` is in use. -/
def State.peerOn (s : State) (i : Nat) : Bool := decide (i < 4) && s.bitOf (R.TIME_PEERMAC_HI i) 31

/-- Whether PTP is on and its messages are UDP datagrams (R536, R559). -/
def State.ptpUdp (s : State) : Bool := s.bitOf R.TIME_CTRL 31 && !s.bitOf R.TIME_CTRL 28

/-- The next hop of peer `i` in UDP mode (R537). -/
def State.peerHop (s : State) (i : Nat) : Option Nat := s.hopOf s.timePort (s.reg (R.TIME_PEERIP i)).toNat

/-- Whether a message can go to peer `i`: in UDP mode its next hop is resolved (R512, R537). -/
def State.peerReady (s : State) (i : Nat) : Bool :=
  !s.ptpUdp || (match s.peerHop i with | some h => (s.port s.timePort).resolved.contains h | none => false)

/-- clockIdentity: MAC bytes 0 to 2, 0xFF, 0xFE, MAC bytes 3 to 5 (R536). -/
def State.clockId (s : State) : List Byte :=
  let p := s.timePort
  let mac := wBytes (s.reg (R.NET_MACLO p)) ++ (wBytes (s.reg (R.NET_MACHI p))).take 2
  mac.take 3 ++ [0xFF, 0xFE] ++ mac.drop 3

/-- The head of a message to peer `i` (R536, R537). -/
def State.ptpHead (s : State) (i : Nat) : PtpHead :=
  { port := s.timePort, layer2 := s.bitOf R.TIME_CTRL 28,
    dest := if s.bitOf R.TIME_CTRL 28 then (s.reg (R.TIME_PEERMAC_LO i)).toNat + 2 ^ 32 * s.fldOf (R.TIME_PEERMAC_HI i) 15 0
      else (s.reg (R.TIME_PEERIP i)).toNat,
    clockId := s.clockId, portNumber := 1, domain := s.fldOf R.TIME_CTRL 23 16 }

/-- A message goes to peer `i`; one whose next hop is unresolved is dropped (R512, R537). -/
def State.sendPtp (s : State) (i kind seq : Nat) (fields : List Int) : State :=
  if s.peerReady i then s.emit (.ptp (s.ptpHead i) i kind seq fields) else s.bump (R.NET_ARPFAIL s.timePort)

/-- A PTP frame arrives on the time port: a frame on the baton path where that port holds the baton (R524). -/
def State.ptpArrive (s : State) : State := if s.portRuns s.timePort then s.frameOn s.timePort else s

/-- The time port starts (R543, R560): no delay measurement and no valid offset since. -/
def State.timeStart (s : State) : State :=
  s.modTime (fun t => { t with delayOk := false, following := false, sync := none, lastSync := none, delayReq := none, pdelay := none })

/-- TIME.STAT.PSTATE (R560). -/
def State.pstate (s : State) : Nat :=
  if !s.ptpOn then 0 else if s.ptpMaster then 3 else if s.time.following then 2 else 1

/-- A stamp at the PHY's media side (R540). -/
def State.ingress (s : State) (raw : Nat) : Int := (raw : Int) - 112 - s.fldOf R.TIME_LAT 15 0
def State.egress (s : State) (raw : Nat) : Int := (raw : Int) + 88 + s.fldOf R.TIME_LAT 31 16

/-- TIME.ASYM in ns. -/
def State.asym (s : State) : Int := signedOf 32 (s.reg R.TIME_ASYM).toNat

/-- ns and a correctionField (units of 2^-16 ns) in units of 2^-17 ns. -/
def nsUnits (ns : Int) : Int := ns * 131072

/-- Whether a received message from peer `i` in domain `d` is taken: PTP runs, the peer is enabled and the domain is
the device's (R536, R537). -/
def State.ptpTakes (s : State) (i d : Nat) : Bool := s.ptpOn && s.peerOn i && decide (d = s.fldOf R.TIME_CTRL 23 16)

/-- A message of peer 0 in SLAVE (R538). -/
def State.slaveTakes (s : State) (i d : Nat) : Bool := s.ptpTakes i d && !s.ptpMaster && i == 0

/-- A PTP frame from a peer that is not enabled (R537). -/
def State.ptpDiscard (s : State) : State := if s.ptpOn then s.bump R.TIME_RXDISC else s

/-- The announce receipt timeout of TIME.MSGINT in EDGE cycles (R536, R558). -/
def State.announceTimeout (s : State) : Nat :=
  let w := s.reg R.TIME_MSGINT
  let l := signedOf 8 (fld w 23 16)
  fld w 7 0 * (1000 * edgesPerMs * 2 ^ l.toNat / 2 ^ (-l).toNat)

/-- Whether an Announce of peer 0 arrived within the announce receipt timeout before now (R543). -/
def State.masterHeard (s : State) : Bool :=
  match s.time.heard with
  | some t => decide (s.now ≤ t + s.announceTimeout)
  | none => false

/-- A complete Sync with stamps t1 and t2 in ns and corrections in units of 2^-16 ns (R543, clause 11). -/
def State.syncComplete (s : State) (t1 t2 corr : Int) : State :=
  let s := s.modTime (fun t => { t with lastSync := some (t1, t2, corr), sync := none })
  if s.masterHeard && s.time.delayOk then
    s.servo (nsUnits (t2 - t1) - 2 * corr - nsUnits s.asym - s.time.mpd)
  else s

/-- PTP_SYNC: a Sync from peer `peer`; one-step, or waiting for its Follow_Up. -/
def execPtpSync (peer domain seq : Nat) (twoStep : Bool) (t1 corr : Int) (raw : Nat) (e : Nat) (s : State) : Out :=
  let s := (s.atEdge e).ptpArrive
  .next (
    if s.ptpOn && !s.peerOn peer then s.ptpDiscard
    else if !s.slaveTakes peer domain then s
    else if twoStep then s.modTime (fun t => { t with sync := some ⟨seq, s.ingress raw, corr⟩ })
    else s.syncComplete t1 (s.ingress raw) corr)

/-- PTP_FOLLOW_UP. -/
def execPtpFollowUp (peer domain seq : Nat) (t1 corr : Int) (e : Nat) (s : State) : Out :=
  let s := (s.atEdge e).ptpArrive
  .next (
    if s.ptpOn && !s.peerOn peer then s.ptpDiscard
    else if !s.slaveTakes peer domain then s
    else match s.time.sync with
      | some w => if w.seq = seq then s.syncComplete t1 w.t2 (w.corr + corr) else s
      | none => s)

/-- PTP_ANNOUNCE (R547, R548): the grandmaster's identity as two words, and currentUtcOffset. -/
def execPtpAnnounce (peer domain : Nat) (gm0 gm1 : Word) (utc : Int) (e : Nat) (s : State) : Out :=
  let s := (s.atEdge e).ptpArrive
  .next (
    if s.ptpOn && !s.peerOn peer then s.ptpDiscard
    else if !s.slaveTakes peer domain then s
    else
      let t := (s.modTime (fun t => { t with heard := some s.now })).setReg R.TIME_UTCOFS (BitVec.ofInt 32 utc)
      if s.reg R.TIME_GMID_LO = gm0 ∧ s.reg R.TIME_GMID_HI = gm1 then t
      else ((t.setReg R.TIME_GMID_LO gm0).setReg R.TIME_GMID_HI gm1).raise 0x4004 noSource gm0 gm1 0 0)

/-- A completed delay measurement of `d` units of 2^-17 ns (R543). -/
def State.delayDone (s : State) (d : Int) : State :=
  (s.modTime (fun t => { t with delayOk := true, mpd := d })).setReg R.TIME_MPD
    (BitVec.ofInt 32 (vRoundInt (vRat d 131072)))

/-- PTP_DELAY_RESP (R543): t4 completes the E2E exchange; the asymmetry terms cancel in the mean. -/
def execPtpDelayResp (peer domain seq : Nat) (t4 corr : Int) (s : State) : Out :=
  let s := s.ptpArrive
  .next (
    if s.ptpOn && !s.peerOn peer then s.ptpDiscard
    else if !s.slaveTakes peer domain || s.ptpP2P then s
    else match s.time.delayReq, s.time.lastSync with
      | some (q, t3), some (t1, t2, c) =>
        if q = seq then
          (s.modTime (fun t => { t with delayReq := none })).delayDone
            ((nsUnits ((t2 - t3) + (t4 - t1)) - 2 * c - 2 * corr) / 2)
        else s
      | _, _ => s)

/-- PTP_DELAY_REQ (R538): a master answers an enabled peer with the ingress stamp. -/
def execPtpDelayReq (peer domain seq : Nat) (corr : Int) (raw : Nat) (s : State) : Out :=
  let s := s.ptpArrive
  .next (
    if s.ptpOn && !s.peerOn peer then s.ptpDiscard
    else if s.ptpTakes peer domain && s.ptpMaster && s.timeValid then
      s.sendPtp peer 9 seq [s.ingress raw, corr]
    else s)

/-- PTP_PDELAY (R538, R543): from peer 0 in P2P mode, a Pdelay_Req (kind 0), a Pdelay_Resp with t2 (kind 1) or its
follow-up with t3 (kind 2). The answer to a Pdelay_Req is two-step: its follow-up carries the egress stamp `tx` of the
Pdelay_Resp and the correction of the request (R536). -/
def execPtpPdelay (peer domain kind seq : Nat) (ts corr : Int) (raw tx : Nat) (s : State) : Out :=
  let s := s.ptpArrive
  .next (
    if s.ptpOn && !s.peerOn peer then s.ptpDiscard
    else if !(s.ptpTakes peer domain && s.ptpP2P && peer == 0) then s
    else if kind = 0 then
      if s.ptpMaster && !s.timeValid then s
      else (s.sendPtp 0 3 seq [s.ingress raw]).sendPtp 0 10 seq [s.egress tx, corr]
    else match s.time.pdelay with
      | none => s
      | some w =>
        if w.seq ≠ seq then s
        else if kind = 1 then
          s.modTime (fun t => { t with pdelay := some { w with resp := some (s.ingress raw, ts, corr) } })
        else match w.resp with
          | none => s
          | some (t4, t2, c) =>
            (s.modTime (fun t => { t with pdelay := none })).delayDone
              ((nsUnits ((t4 - w.t1) - (ts - t2)) - 2 * c - 2 * corr) / 2))

/-- PTP_MASTER_SEND (R538): Announce (kind 11) or Sync with Follow_Up (kind 0) to each enabled peer; `raws` holds the egress
stamp of each peer's Sync. -/
def execPtpMasterSend (kind : Nat) (raws : List Nat) (s : State) : Out :=
  .next (
    if !(s.ptpOn && s.ptpMaster && s.timeValid) then s
    else
      let n := s.time.seqNo
      let s := s.modTime (fun t => { t with seqNo := (t.seqNo + 1) % 65536 })
      forUpTo 4 (fun i s =>
        if !s.peerOn i then s
        else if kind = 11 then
          let p := (s.reg R.TIME_PRIO).toNat
          s.sendPtp i 11 n [(p / 2 ^ 24 : Nat), (p / 2 ^ 16 % 256 : Nat), (p / 256 % 256 : Nat), (p % 256 : Nat), 0xA0,
            signedOf 32 (s.reg R.TIME_UTCOFS).toNat]
        else (s.sendPtp i 0 n []).sendPtp i 8 n [s.egress (raws.getD i 0)]) s)

/-- DELAY_REQ_SEND (R543): Delay_Req, or Pdelay_Req in P2P mode, with its egress stamp. A master sends Pdelay_Req to
peer 0 in P2P mode (R538). -/
def execDelayReqSend (raw : Nat) (s : State) : Out :=
  .next (
    if !(s.ptpOn && s.peerOn 0) || (s.ptpMaster && !(s.ptpP2P && s.timeValid)) then s
    else if !s.peerReady 0 then s.bump (R.NET_ARPFAIL s.timePort)
    else
      let n := s.time.seqNo
      let t3 := s.egress raw
      let s := s.modTime (fun t => { t with seqNo := (t.seqNo + 1) % 65536 })
      if s.ptpP2P then
        (s.modTime (fun t => { t with pdelay := some ⟨n, t3, none⟩ })).sendPtp 0 2 n []
      else (s.modTime (fun t => { t with delayReq := some (n, t3) })).sendPtp 0 1 n [])

/-- PTP_DISCARD. -/
def execPtpDiscard (s : State) : Out := .next s.ptpArrive.ptpDiscard

/-- Entry into HOLDOVER (R547). -/
def State.holdover (s : State) : State :=
  if s.bitOf R.TIME_STAT 4 then s
  else
    let s := ((s.timeFlag 4 true).timeFlag 2 false).modTime (fun t => { t with streak := 0 })
    s.raise 0x4003 noSource 0 0 0 0

/-- ANNOUNCE_RECEIPT_TIMEOUT (R547): no Announce within the timeout, or (`syncs`) 16 Sync intervals without a valid
offset. It concerns a slave that exchanges messages. -/
def execAnnounceReceiptTimeout (syncs : Bool) (s : State) : Out :=
  .next (
    if !s.ptpOn || s.ptpMaster then s
    else if syncs then s.holdover
    else (s.modTime (fun t => { t with heard := none })).holdover)

/-- TIME_MARK (R551). -/
def execTimeMark (e : Nat) (s : State) : Out :=
  let s := s.atEdge e
  .next (if s.timeValid then s.timeMark else s)

/-- TPO_ARM: a write of TPO.CTRL of generator `n` (R553). -/
def execTpoArm (n : Nat) (w : Word) (s : State) : Out := answer (decide (n < 4)) (s.writeTpoCtrl n w)

/-- TPO_PULSE. -/
def execTpoPulse (n e : Nat) (s : State) : Out := answer (decide (n < 4)) ((s.atEdge e).tpoPulse n)

/-- TPO_PULSE_END. -/
def execTpoPulseEnd (n e : Nat) (s : State) : Out := answer (decide (n < 4)) ((s.atEdge e).tpoEnd n)

/-- Whether an edge of TCIn qualifies (R557, R558). -/
def State.tciTakes (s : State) (n : Nat) (rising : Bool) : Bool :=
  let w := s.reg R.TIME_TCICFG
  bit w n && s.timeIoRuns &&
    (let m := fld w (2 * n + 9) (2 * n + 8)
     m == 2 || (m == 0 && rising) || (m == 1 && !rising))

/-- An edge on TCIn at the present moment (R557). -/
def State.tciEdge (s : State) (n : Nat) (rising : Bool) : State :=
  if !s.tciTakes n rising then s
  else
    let close := match s.time.tci.getD n none with
      | some t => decide (s.now < t + 8)
      | none => false
    if close then s.bump (R.TCI_MERGE n)
    else
      let ns := s.nsAt s.now
      let s := s.modTime (fun t => { t with tci := modifyAt t.tci n (fun _ => some s.now) })
      let s := (s.setReg (R.TCI_NS n) (BitVec.ofNat 32 (ns % nsPerSec))).setReg64 (R.TCI_SEC_LO n)
        (BitVec.ofNat 64 (ns / nsPerSec))
      s.modReg (R.TCI_CNT n) (fun w => BitVec.ofNat 32 (min (w.toNat % 2 ^ 31 + 1) (2 ^ 31 - 1) + rising.toNat * 2 ^ 31))

/-- TCI_EDGE: an edge on TCIn; a level shorter than 5 ns may go unseen (R383, R557, R706). -/
def execTciEdge (n : Nat) (rising short : Bool) (e : Nat) (s : State) : Out :=
  let s := s.atEdge e
  answer (decide (n < 4)) (
    if short then (if Config.shortLevelSeen s.free then s.useFree.tciEdge n rising else s.useFree)
    else s.tciEdge n rising)

/-! The boundary latch (R550), the letter (R548) and the load (R558, R561). -/

/-- Latch boundary `k` and its time. -/
def State.latchBoundary (s : State) (k : Nat) : State :=
  let ns := s.nsAt s.now
  ((s.setReg64 R.TIME_BTICK_LO (BitVec.ofNat 64 k)).setReg64 R.TIME_BSEC_LO (BitVec.ofNat 64 (ns / nsPerSec))).setReg
    R.TIME_BNS (BitVec.ofNat 32 (ns % nsPerSec))

/-- R551: a record's TICK `k`, TNS and PTPSEC (none in a field without it) extended to a full time in ns against the boundary
latch `kb`, `sb`, `nb`, with TBASE `tb` in ns. -/
def extendTime (k tns : Int) (psec : Option Int) (kb sb nb tb : Int) : Int :=
  let e := sb * 1000000000 + nb + (k - kb) * tb
  let ds := match psec with
    | some p => let d := (p - e / 1000000000) % 65536
                if 32768 ≤ d then d - 65536 else d
    | none => 0
  let e := e + ds * 1000000000
  let d := (tns - e % 2 ^ 32) % 2 ^ 32
  e + if 2 ^ 31 ≤ d then d - 2 ^ 32 else d

/-- Set the counter (R548): this counts as a step. -/
def State.timeSet (s : State) (sec ns : Nat) : State :=
  let s := s.rebase
  s.timeStep (((sec * nsPerSec + ns : Nat) : Int) - (s.nsAt s.now : Nat))

/-- The CFG registers of the time unit in ascending address order (R558). -/
def timeCfg : List Nat :=
  [R.TIME_CTRL, R.TIME_MSGINT, R.TIME_LAT, R.TIME_ASYM, R.TIME_KP, R.TIME_KI, R.TIME_PRIO, R.TIME_TCICFG] ++
  (List.range 4).map R.TIME_PEERIP ++ (List.range 4).flatMap (fun i => [R.TIME_PEERMAC_LO i, R.TIME_PEERMAC_HI i])

def timeWords (r : Rec) : List (Nat × Nat × Word) := r.words timeCfg

/-- The form of a TIME record. -/
def timeForm (r : Rec) : List Finding :=
  need (r.key == 0) (atOff 10 secTIME r.off) ++ need (r.kind == 0) (atOff 10 secTIME (r.off + 2)) ++ formLen secTIME r 80

/-- A signed byte of a word lies in a range. -/
def byteIn (w : Word) (h : Nat) (lo hi : Int) : Bool :=
  let v := signedOf 8 (fld w h (h - 7))
  decide (lo ≤ v) && decide (v ≤ hi)

/-- The failures of R561 and R710. -/
def timeCheck (s : State) (im : Image) (r : Rec) : List Finding :=
  let w := fun i => wAt r.body (4 * i)
  let at_ := fun (step : Nat) (ok : Bool) (i : Nat) => need ok (atOff step secTIME (r.off + 8 + 4 * i))
  let ctrl := w 0
  let en := bit ctrl 31
  let port := fld ctrl 29 29
  let asym := signedOf 32 (w 3).toNat
  let peer := fun i => bit (w (13 + 2 * i)) 31
  let netOn := match im.rec? secNET port 0 with | some n => bit (wAt n.body 0) 31 | none => false
  need (!en || s.usableBit (unitPort port)) ⟨12, r.off, 40 + port, secTIME⟩ ++ imageBits secTIME (timeWords r) ++
  at_ 14 (decide (fld ctrl 23 16 ≤ 127)) 0 ++
  at_ 14 (byteIn (w 1) 31 (-7) 4 && byteIn (w 1) 23 (-3) 4 && byteIn (w 1) 15 (-7) 5 && decide (2 ≤ fld (w 1) 7 0)) 1 ++
  at_ 14 (decide (-1000000 ≤ asym) && decide (asym ≤ 1000000)) 3 ++
  at_ 14 (flt 0 (w 4) && fle (w 4) 0x461C4000) 4 ++ at_ 14 (fle 0 (w 5) && fle (w 5) (w 4)) 5 ++
  (List.range 4).flatMap (fun n => at_ 14 (fld (w 7) (2 * n + 9) (2 * n + 8) != 3) 7) ++
  at_ 17 (!en || netOn) 0 ++ at_ 17 (!en || peer 0) 13 ++
  (List.range 4).flatMap (fun i => at_ 17 (!(en && !bit ctrl 28 && peer i) || w (8 + i) != 0) (13 + 2 * i)) ++
  (List.range 4).flatMap (fun i => at_ 17 (i == 0 || !(en && bit ctrl 27 && peer i)) (13 + 2 * i))

/-- The RO and W1C registers that a load without resume sets to their reset values (R556, R558). -/
def timeLoadClears : List Nat :=
  [R.TIME_UTCOFS, R.TIME_GMID_LO, R.TIME_GMID_HI, R.TIME_OFFSET, R.TIME_MPD, R.TIME_RXDISC, R.TIME_BTICK_LO, R.TIME_BTICK_HI,
   R.TIME_BSEC_LO, R.TIME_BSEC_HI, R.TIME_BNS] ++
  (List.range 4).flatMap (fun n =>
    [R.TCI_NS n, R.TCI_SEC_LO n, R.TCI_SEC_HI n, R.TCI_CNT n, R.TCI_MERGE n, R.TPO_CTRL n, R.TPO_START_NS n,
     R.TPO_START_SEC_LO n, R.TPO_START_SEC_HI n, R.TPO_PERIOD n, R.TPO_WIDTH n, R.TPO_STAT n, R.TPO_COUNT n])

/-- The time unit at a load that does not resume state (R556, R558): generators are disarmed; the counter, r, VALID
and STEPOK stay. -/
def State.loadTime (s : State) : State :=
  let s := timeLoadClears.foldl (fun s a => s.setReg a (regReset a)) s
  let s := s.modReg R.TIME_STAT (fun w => w &&& 0x21)
  let s := s.modTime (fun t => { t with tpo := [{}, {}, {}, {}], tci := [none, none, none, none], streak := 0 })
  (s.image.sec secTIME).foldl (fun s r => s.setImage (timeWords r)) s

end Sys2Proof.Machine
end

