-- ==== Sys2Proof/Machine/Acq.lean ====
section
/-! DEFINITION. Traces, trigger engines and laps (R277 to R310), and the requests of the readout engine
(R311 to R316).
Where the spec can be read in two ways the assumption log says what was read: entries 30, 70 to 72 (DEDUCED unless marked there otherwise). -/

namespace Sys2Proof.Machine

/-- The no-sample marker, and the pattern recorded in its place when a slot holds it (R293). -/
def marker : Word := 0x7FC00001
def unmark (w : Word) : Word := if w = marker then 0x7FC00000 else w

def dramPage : Nat := 4096

/-- `n` bytes of DRAM from address `a`. -/
def State.dramRead (s : State) (a n : Nat) : List Byte := (List.range n).map (fun i => tabGet (fun _ => 0) s.dram (a + i))

/-- A scan of a space whose region a write of `n` bytes at `a` touches has an undefined result (R622). -/
def State.touch (s : State) (space a n : Nat) : State :=
  { s with integ := { s.integ with scans := s.integ.scans.map (fun x => x.map (fun x =>
      if 0 < n ∧ x.space = space ∧ a < x.addr + x.len ∧ x.addr < a + n then { x with dirty := true } else x)) } }

/-- Store bytes in DRAM. -/
def State.putDram (s : State) (l : List (Nat × Byte)) : State := { s with dram := tabSetMany (fun _ => 0) s.dram l }

/-- A test of the DRAM leaves its contents cleared (R634). -/
def State.clearDram (s : State) : State := { s with dram := [] }

/-- Write bytes to DRAM from address `a`. -/
def State.dramWrite (s : State) (a : Nat) (l : List Byte) : State :=
  (s.putDram (l.zipIdx.map (fun x => (a + x.2, x.1)))).touch 1 a l.length

/-- Change the unit. -/
def State.modAcq (s : State) (f : Acq → Acq) : State := { s with acq := f s.acq }

/-- Whether units record at present (R277). -/
def State.records (s : State) : Bool := s.acq.recording && s.running

/-! Traces (R278 to R286). -/

/-- An entry of a TRACE record. -/
structure TEntry where
  slot : Nat
  interval : Nat
  div : Nat
  phase : Nat
  deriving DecidableEq, Repr

/-- The entries of a TRACE record. -/
def traceEntries (r : Rec) : List TEntry :=
  (List.range (uAt r.body 0 2)).map (fun i =>
    let o := 4 + 8 * i
    ⟨uAt r.body o 2, uAt r.body (o + 2) 2, uAt r.body (o + 4) 2, uAt r.body (o + 6) 2⟩)

/-- From the highest index down, mark eligible entries as fallback until `need` are marked; answers those still needed. -/
def markFallback (ok : Nat → Bool) : List TEntry → Nat → List Bool × Nat
  | [], need => ([], need)
  | x :: r, need =>
    let (l, n) := markFallback ok r need
    if 0 < n && ok x.slot then (true :: l, n - 1) else (false :: l, n)

/-- Which entries are fallback entries, and whether the capacity rule can be met (R280). -/
def traceKinds (im : Image) (l : List TEntry) : List Bool × Bool :=
  let x := markFallback im.minmaxOk l ((4 * l.length - 2048 + 2) / 3)
  (x.1, x.2 == 0)

/-- The TRACE record of tile `t`, if the image has one and the tile is usable (R277). -/
def State.traceRec? (s : State) (t : Nat) : Option Rec := if s.tileUsable t then s.image.rec? secTRACE t 0 else none

/-- A reduction of tile `t`. -/
def State.red (s : State) (t i : Nat) : Reduce := tabGet (fun _ => {}) s.arch.reds (2048 * t + i)

def State.setRed (s : State) (t i : Nat) (r : Reduce) : State :=
  { s with arch := { s.arch with reds := tabSet (fun _ => {}) s.arch.reds (2048 * t + i) r } }

/-- Order of R282: as IEEE 754, and -0.0 below +0.0. -/
def zlt (a b : F32) : Bool := flt a b || (feq a b && bit a 31 && !bit b 31)

/-- Fused multiply-add in binary64. -/
def dfma (a b c : F64) : F64 := f64Of (vAdd (vMul (dv a) (dv b)) (dv c))

/-- One sample into a reduction (R282). -/
def Reduce.add (r : Reduce) (x : F32) (q : Word) : Reduce :=
  let r := { r with last := some x, qo := r.qo ||| (q.toNat &&& 0x1E), qa := r.qa && bit q 0 }
  if fIsNan x then { r with nan := true }
  else
    let d := d64OfF32 x
    let sum := dadd r.sum d
    let sq := dfma d d r.sq
    let mn := if zlt x r.mn then x else r.mn
    let mx := if zlt r.mx x then x else r.mx
    { r with n := r.n + 1, sum := sum, sq := sq, mn := mn, mx := mx }

/-- A trace record (R285, R286). -/
def Reduce.record (r : Reduce) (slot : Nat) (fallback restart : Bool) : List Byte :=
  let head := leBytes 2 slot ++ leBytes 2 (fallback.toNat + 2 * restart.toNat + 4 * r.nan.toNat) ++ leBytes 4 r.n
  let mn := if r.n = 0 then marker else r.mn
  let mx := if r.n = 0 then marker else r.mx
  if fallback then head ++ wBytes mn ++ wBytes mx
  else
    let mean := if r.n = 0 then marker else f32OfD64 (ddiv r.sum (dOfInt (r.n : Nat)))
    let sumsq := if r.n = 0 then marker else f32OfD64 r.sq
    let last := match r.last with | some x => unmark x | none => marker
    let qual := if r.last.isNone then 0 else r.qo ||| r.qa.toNat
    head ++ wBytes mean ++ wBytes mn ++ wBytes mx ++ wBytes sumsq ++ wBytes last ++ leBytes 4 qual

/-- A frame's bytes (R284). -/
def TFrame.bytes (f : TFrame) : List Byte :=
  leBytes 2 0x5254 ++ leBytes 2 f.flags ++ leBytes 4 (16 + f.body.length) ++ leBytes 8 f.tick ++ f.body

def TFrame.len (f : TFrame) : Nat := 16 + f.body.length

/-- The trace of tile `t`. -/
def State.traceX (s : State) (t : Nat) : TraceX := s.acq.traces.getD t {}

def State.modTrace (s : State) (t : Nat) (f : TraceX → TraceX) : State :=
  s.modAcq (fun a => { a with traces := modifyAt a.traces t f })

/-- Engine `e`. -/
def State.eng (s : State) (e : Nat) : Engine := s.acq.engines.getD e {}

def State.modEng (s : State) (e : Nat) (f : Engine → Engine) : State :=
  s.modAcq (fun a => { a with engines := modifyAt a.engines e f })

/-- The words of a lap's frames that have been captured. -/
def Lap.captured (l : Lap) : Nat := ((l.before ++ l.trig.toList ++ l.after).map (fun f => f.words.length)).foldl (· + ·) 0

/-- The bytes of lap frames of tile `t` that have not certainly left the write queue: those of every lap whose header is
not in DRAM (R298, R305). -/
def State.lapBytes (s : State) (t : Nat) : Nat :=
  (List.range 4).foldl (fun a e =>
    let g := s.eng (4 * t + e)
    a + 4 * ((g.lap.toList ++ g.done).map Lap.captured).foldl (· + ·) 0) 0

/-- Bytes in the write queue of tile `t`, of at most 128 KiB (R305): trace frames, the headers of laps that are complete, and
the lap frames that have not drained yet (log 30). -/
def State.queueFill (s : State) (t : Nat) : Nat :=
  let whole := (s.traceX t).queue.foldl (fun a f => a + f.len) 0 +
    (List.range 4).foldl (fun a e => a + 64 * (s.eng (4 * t + e)).done.length) 0
  let laps := s.lapBytes t
  if laps = 0 then whole else min 131072 (whole + Config.lapQueued s.now t % (laps + 1))

/-- Keep the largest fill. -/
def State.notePeak (s : State) (t : Nat) : State := s.maxReg (R.ACQ_QPEAK t) (satWord (s.queueFill t))

/-- Closed frames of tile `t` enter the write queue (R283). -/
def State.traceEnqueue (s : State) (t : Nat) : State :=
  if (s.traceX t).closed.isEmpty then s
  else (s.modTrace t (fun x => { x with closed := [], queue := x.queue ++ x.closed })).notePeak t

/-- Close entries of tile `t` into a frame with header TICK `e`, restarting them. -/
def State.closeEntries (s : State) (t e : Nat) (flags : Nat) (pick : TEntry → Nat → Bool) : State :=
  match s.traceRec? t with
  | none => s
  | some r =>
    let es := (traceEntries r).zipIdx
    let kinds := (traceKinds s.image (traceEntries r)).1
    let now := es.filter (fun x => pick x.1 x.2)
    if now.isEmpty then s
    else
      let restart := flags.testBit 2
      let body := now.flatMap (fun x => (s.red t x.2).record x.1.slot (kinds.getD x.2 false) restart)
      let s := now.foldl (fun s x => s.setRed t x.2 {}) s
      s.modTrace t (fun x => { x with closed := x.closed ++ [⟨flags, e, body⟩] })

/-- The intervals that end at tick `k - 1` close at B(k) (R281, R283). -/
def State.traceClose (s : State) (t k : Nat) : State :=
  if k = 0 then s else s.closeEntries t (k - 1) 0 (fun x _ => k % (max 1 x.interval) == 0)

/-- The entries of tile `t` sample in tick `k` (R281). -/
def State.traceSample (s : State) (t k : Nat) : State :=
  match s.traceRec? t with
  | none => s
  | some r =>
    (traceEntries r).zipIdx.foldl (fun s x =>
      if k % (max 1 x.1.div) == x.1.phase then
        let v := s.slot x.1.slot
        s.setRed t x.2 ((s.red t x.2).add v.val v.qual)
      else s) s

/-! The trace ring (R308). -/

/-- Base and size in bytes of the ring of tile `t`. -/
def State.ringAt (s : State) (t : Nat) : Nat × Nat :=
  match s.image.part? 1 t 0 with
  | some p => (p.base * dramPage, p.size * dramPage)
  | none => (0, 0)

def State.wpos (s : State) (t : Nat) : Nat := (s.reg64 (R.ACQ_TWPOS_LO t)).toNat
def State.rpos (s : State) (t : Nat) : Nat := (s.reg64 (R.ACQ_TRPOS_LO t)).toNat
def State.oldpos (s : State) (t : Nat) : Nat := (s.reg64 (R.ACQ_TOLDPOS_LO t)).toNat
def State.put64 (s : State) (a n : Nat) : State := s.setReg64 a (BitVec.ofNat 64 n)
def State.ringStop (s : State) (t : Nat) : Bool := s.bitOf (R.ACQ_TSTAT t) 1

/-- OLDPOS moves to the first retained frame. -/
def State.showOld (s : State) (t : Nat) : State :=
  s.put64 (R.ACQ_TOLDPOS_LO t) (match (s.traceX t).ring with | x :: _ => x.1 | [] => s.wpos t)

/-- Append a frame's bytes at WPOS. -/
def State.ringPut (s : State) (t : Nat) (f : TFrame) : State :=
  let (base, size) := s.ringAt t
  let w := s.wpos t
  let cells := f.bytes.zipIdx.map (fun x => (base + (w + x.2) % max 1 size, x.1))
  let o := w % max 1 size
  let n := min f.len (max 1 size - o)
  let s := ((s.putDram cells).touch 1 (base + o) n).touch 1 base (f.len - n)
  (s.modTrace t (fun x => { x with ring := x.ring ++ [(w, f.len)] })).put64 (R.ACQ_TWPOS_LO t) (w + f.len)

/-- The frames at the front of a ring that must go so that `len` more bytes fit after `w` (OVERWRITE). -/
def dropFor (size w len : Nat) : List (Nat × Nat) → Nat
  | [] => 0
  | x :: r => if w + len ≤ x.1 + size then 0 else 1 + dropFor size w len r

/-- Write a frame to an OVERWRITE ring (R308). -/
def State.ringOverwrite (s : State) (t : Nat) (f : TFrame) : State :=
  let n := dropFor (s.ringAt t).2 (s.wpos t) f.len (s.traceX t).ring
  let s := s.modTrace t (fun x => { x with ring := x.ring.drop n })
  let s := s.ringPut t f
  if n = 0 then s.showOld t
  else
    let s := s.showOld t
    let s := s.put64 (R.ACQ_TRPOS_LO t) (max (s.rpos t) (s.oldpos t))
    let s := (s.bumpBy (R.ACQ_TLOSTFR t) n).orReg (R.ACQ_TSTAT t) 16
    forUpTo n (fun _ s => s.raiseCounted t 0xE202 t (BitVec.ofNat 32 t) 0 (BitVec.ofNat 32 (s.oldpos t)) s.tickLo) s

/-- Write a frame to a STOP ring, or mark the stop, or drop the frame (R308). -/
def State.ringStopWrite (s : State) (t : Nat) (f : TFrame) : State :=
  let fits := decide (s.wpos t + f.len + 16 ≤ s.rpos t + (s.ringAt t).2)
  let stopped := s.bitOf (R.ACQ_TSTAT t) 2
  let lost := fun (s : State) => (s.modTrace t (fun x => { x with gap := x.gap + 1 })).bump (R.ACQ_TLOSTFR t)
  if fits then
    let gap := (s.traceX t).gap
    let s := (s.ringPut t (if stopped then { f with flags := f.flags + 2 } else f)).showOld t
    if stopped then
      ((s.modTrace t (fun x => { x with gap := 0 })).clrReg (R.ACQ_TSTAT t) 4).raise 0xE204 t (BitVec.ofNat 32 t)
        (satWord gap) 0 0
    else s
  else if stopped then lost s
  else
    let s := ((lost s).ringPut t ⟨1, f.tick, []⟩).orReg (R.ACQ_TSTAT t) 12
    (s.showOld t).raise 0xE203 t (BitVec.ofNat 32 t) (BitVec.ofNat 32 f.tick) 0 0

/-- The frame at the head of the write queue reaches the ring (R308). -/
def State.traceWrite (s : State) (t : Nat) : State :=
  match (s.traceX t).queue with
  | [] => s
  | f :: r =>
    let s := s.modTrace t (fun x => { x with queue := r })
    if s.ringStop t then s.ringStopWrite t f else s.ringOverwrite t f

/-- Frames of a ring whose start is not above `p`, without the last of them. -/
def dropBelow (p : Nat) : List (Nat × Nat) → List (Nat × Nat)
  | x :: y :: r => if y.1 ≤ p then dropBelow p (y :: r) else x :: y :: r
  | [x] => if x.1 + x.2 ≤ p then [] else [x]
  | [] => []

/-- A TRACE_CONSUME (R315). -/
def State.traceConsume (s : State) (t pos : Nat) : State :=
  let s := s.put64 (R.ACQ_TRPOS_LO t) (max (s.rpos t) (min pos (s.wpos t)))
  if s.ringStop t then (s.modTrace t (fun x => { x with ring := dropBelow (s.rpos t) x.ring })).showOld t else s

/-! Conditions (R287 to R290). -/

/-- A condition entry. -/
structure CondCfg where
  typ : Nat
  dir : Bool
  isSlot : Bool
  input : Nat
  entry : Nat
  span : Nat
  a : F32
  b : F32
  deriving DecidableEq, Repr

/-- A CAPTURE record's head and conditions (R287, R291). -/
structure CapCfg where
  fault : Bool
  adc : Bool
  nsrc : Nat
  len : Nat
  pre : Nat
  nlaps : Nat
  timeout : Nat
  src : List Nat
  conds : List CondCfg
  deriving DecidableEq, Repr

/-- The condition entry at body offset `o`. -/
def condAt (b : List Byte) (o : Nat) : CondCfg :=
  let opt := uAt b (o + 1) 1
  ⟨uAt b o 1, opt.testBit 0, opt.testBit 1, uAt b (o + 2) 2, uAt b (o + 4) 1, uAt b (o + 5) 1, wAt b (o + 8), wAt b (o + 12)⟩

/-- A CAPTURE record's content. -/
def capCfg (r : Rec) : CapCfg :=
  let b := r.body
  ⟨uAt b 0 1 == 1, uAt b 1 1 == 1, uAt b 2 1, uAt b 4 4, uAt b 8 4, uAt b 12 2, uAt b 16 4,
   (List.range (min 16 (uAt b 2 1))).map (fun i => uAt b (0x18 + 2 * i) 2),
   (List.range 8).map (fun i => condAt b (64 + 16 * i))⟩

/-- LAPSIZE (R294). -/
def CapCfg.lapSize (c : CapCfg) : Nat := (64 + 4 * c.nsrc * c.len + 63) / 64 * 64

/-- The record of engine `e`, if its tile is usable. -/
def State.cap? (s : State) (e : Nat) : Option CapCfg :=
  if s.loaded && s.tileUsable (e / 4) then (s.image.rec? secCAPTURE e 0).map capCfg else none

/-- The state of a condition. -/
def State.condSt (s : State) (e i : Nat) : Cond := tabGet (fun _ => {}) s.arch.conds (8 * e + i)

def State.setCond (s : State) (e i : Nat) (c : Cond) : State :=
  { s with arch := { s.arch with conds := tabSet (fun _ => {}) s.arch.conds (8 * e + i) c } }

/-- A difference against a threshold (SLOPE, RATE). -/
def diffTrue (dir : Bool) (x old a : F32) : Bool :=
  let d := fsub x old
  if dir then flt d a else flt a d

/-- A condition after sample `x` (R288). -/
def CondCfg.next (c : CondCfg) (q : Cond) (x : F32) : Cond :=
  let keep := if c.typ = 5 then c.span else 1
  let hist := (x :: q.hist).take keep
  if c.typ = 0 then q
  else if fIsNan x then ⟨false, false, hist⟩
  else if c.typ = 1 then ⟨if c.dir then flt x c.a else flt c.a x, false, hist⟩
  else if c.typ = 2 then
    let inside := fle c.a x && fle x c.b
    ⟨if c.dir then !inside else inside, false, hist⟩
  else if c.typ = 3 then
    let hit := q.primed && (if c.dir then fle x c.a else fle c.a x)
    let arms := if c.dir then fle (fadd c.a c.b) x else fle x (fsub c.a c.b)
    ⟨hit, if hit then false else q.primed || arms, hist⟩
  else if c.typ = 4 then
    match q.hist with
    | o :: _ => ⟨diffTrue c.dir x o c.a, false, hist⟩
    | [] => ⟨false, false, hist⟩
  else
    match q.hist.drop (c.span - 1) with
    | o :: _ => ⟨diffTrue c.dir x o c.a, false, hist⟩
    | [] => ⟨false, false, hist⟩

/-- The states of an engine's conditions as a mask. -/
def State.condMask (s : State) (e : Nat) : Nat :=
  (List.range 8).foldl (fun a i => a + (s.condSt e i).st.toNat * 2 ^ i) 0

/-- CAP.COND (R317), of a failed tile too (R37). -/
def State.capCond (s : State) (e : Nat) : Word :=
  match (if s.loaded then (s.image.rec? secCAPTURE e 0).map capCfg else none) with
  | none => 0
  | some c => BitVec.ofNat 32 (s.condMask e +
      256 * c.conds.zipIdx.foldl (fun a x => a + (decide (x.1.typ ≠ 0)).toNat * 2 ^ x.2) 0)

/-! Engines (R293 to R304). -/

def engIDLE : Nat := 0
def engARMED : Nat := 1
def engCAPTURING : Nat := 2
def engREARM : Nat := 3
def engDONE : Nat := 4
def engFULL : Nat := 5

def State.engState (s : State) (e : Nat) : Nat := s.fldOf (R.CAP_STAT e) 2 0
def State.setEng (s : State) (e st : Nat) : State := s.putFld (R.CAP_STAT e) 2 0 st
def State.wseq (s : State) (e : Nat) : Nat := (s.reg64 (R.CAP_WSEQ_LO e)).toNat
def State.cseq (s : State) (e : Nat) : Nat := (s.reg64 (R.CAP_CSEQ_LO e)).toNat
def State.bseq (s : State) (e : Nat) : Nat := (s.reg64 (R.CAP_BSEQ_LO e)).toNat

/-- Engine `e` becomes ARMED (R297, R298, R309). -/
def State.armEng (s : State) (e : Nat) : State :=
  let s := if s.cseq e = s.wseq e then s.put64 (R.CAP_BSEQ_LO e) (s.wseq e) else s
  (s.setEng e engARMED).modEng e (fun g => { g with armedAt := s.now, store := [], lap := none })

/-- The last `n` elements. -/
def lastN {α : Type} (n : Nat) (l : List α) : List α := l.drop (l.length - n)

/-- The tick in which EDGE count `t`, at or before the present, lies. -/
def State.tickAt (s : State) (t : Nat) : Nat :=
  if s.edgeBase ≤ t then s.tick else s.tick - (s.edgeBase - t + s.tickEdges - 1) / max 1 s.tickEdges

/-- A lap's trigger frame is the last one (R298): the lap completes. -/
def State.lapComplete (s : State) (e : Nat) (c : CapCfg) (l : Lap) : State :=
  let full := decide (s.bseq e + c.nlaps ≤ l.seq + 1)
  let l := { l with full := full }
  let s := (s.modEng e (fun g => { g with lap := none, done := g.done ++ [l] })).notePeak (e / 4)
  let seq := BitVec.ofNat 32 l.seq
  if c.fault then
    (s.setEng e engDONE).raise 0xE201 (e / 4) (BitVec.ofNat 32 e) seq (BitVec.ofNat 32 l.primary) (BitVec.ofNat 32 l.tick)
  else if full then
    ((s.setEng e engFULL).orReg (R.CAP_STAT e) 256).raise 0xE205 (e / 4) (BitVec.ofNat 32 e) seq s.tickLo 0
  else s.setEng e engREARM

/-- Complete the lap in progress if it holds frame L - 1. -/
def State.lapCheck (s : State) (e : Nat) (c : CapCfg) : State :=
  match (s.eng e).lap with
  | some l => if c.len ≤ c.pre + 1 + l.after.length then s.lapComplete e c l else s
  | none => s

/-- A lap whose trigger frame is its last one completes once the trigger's EDGE cycle, in which other triggers merge into it
(R299, R303) and a later frame may become the trigger frame (R296), is over. -/
def State.lapSettle (s : State) (e : Nat) (c : CapCfg) : State :=
  match (s.eng e).lap with
  | some l => if l.cycle < s.now then s.lapCheck e c else s
  | none => s

/-- A frame reaches engine `e` (R293, R297). A frame in the EDGE cycle of the trigger becomes the trigger frame (R296). -/
def State.frameIn (s : State) (e : Nat) (c : CapCfg) (f : Frame) : State :=
  let s := (s.lapSettle e c).modEng e (fun g => { g with latest := some f })
  if s.engState e = engARMED then s.modEng e (fun g => { g with store := lastN (c.pre + 1) (g.store ++ [f]) })
  else if s.engState e = engCAPTURING then
    match (s.eng e).lap with
    | none => s
    | some l =>
      if l.cycle = s.now ∧ l.after = [] then
        let l := { l with before := lastN c.pre (l.before ++ (if l.own then l.trig.toList else [])), trig := some f, own := true }
        s.modEng e (fun g => { g with lap := some l })
      else
        let s := s.modEng e (fun g => { g with lap := some { l with after := l.after ++ [f] } })
        (s.notePeak (e / 4)).lapCheck e c
  else s

/-- The engine takes a trigger whose sample lies at EDGE count `t` (R296, R297, R301). -/
def State.takeLap (s : State) (e : Nat) (c : CapCfg) (forced : Bool) (primary t : Nat) : State :=
  let g := s.eng e
  let a := R.CAP_MISSED e
  let l : Lap :=
    { seq := g.seq, forced := forced, primary := primary, mask := s.condMask e, cycle := s.now, tick := s.tickAt t,
      tns := s.tnsAt t, sec := s.secAt t, timeinv := !s.timeValid, missed := s.reg a,
      before := lastN c.pre g.store.dropLast, trig := g.latest, after := [], own := !g.store.isEmpty,
      forcedWas := s.reg (R.CAP_FORCED e) }
  let s := ((s.setReg a 0).setEng e engCAPTURING).modEng e (fun g =>
    { g with seq := g.seq + 1, store := [], lap := some l })
  (if forced then s.bump (R.CAP_FORCED e) else s).notePeak (e / 4)

/-- The lowest index in a mask of conditions. -/
def lowest (m : Nat) : Nat := ((List.range 8).find? (fun i => m.testBit i)).getD 0xFF

/-- A trigger occurrence of engine `e` now, by the conditions in mask `m`, with its sample at EDGE count `t`
(R290, R297, R302, R303). -/
def State.occur (s : State) (e : Nat) (c : CapCfg) (m t : Nat) : State :=
  let s := s.lapSettle e c
  let g := s.eng e
  let again := g.occAt == some s.now
  let s := s.modEng e (fun g => { g with occAt := some s.now })
  if s.engState e = engARMED ∧ g.armedAt ≠ s.now then s.takeLap e c false (lowest m) t
  else
    match g.lap with
    | some l =>
      if l.cycle = s.now then
        if l.forced then
          (s.setReg (R.CAP_FORCED e) l.forcedWas).modEng e (fun g => { g with lap := some { l with
            forced := false, primary := lowest m, mask := s.condMask e, tick := s.tickAt t, tns := s.tnsAt t,
            sec := s.secAt t } })
        else
          s.modEng e (fun g => { g with lap := some { l with
            primary := min l.primary (lowest m), mask := s.condMask e } })
      else if again then s else s.bump (R.CAP_MISSED e)
    | none => if again then s else s.bump (R.CAP_MISSED e)

/-- The conditions of engine `e` take a sample where `x` gives one; then an occurrence if one became true. -/
def State.evalConds (s : State) (e : Nat) (c : CapCfg) (t : Nat) (x : CondCfg → Option F32) : State :=
  let r := c.conds.zipIdx.foldl (fun (p : State × Nat) y =>
    match (if y.1.typ = 0 then none else x y.1) with
    | none => p
    | some v =>
      let old := p.1.condSt e y.2
      let new := y.1.next old v
      (p.1.setCond e y.2 new, if new.st && !old.st then p.2 + 2 ^ y.2 else p.2)) (s, 0)
  if r.2 = 0 then r.1 else r.1.occur e c r.2 t

/-- Engine `e` at B(k): its frame, then its slot conditions (R288, R293). -/
def State.engBoundary (s : State) (e : Nat) : State :=
  match s.cap? e with
  | none => s
  | some c =>
    let s :=
      if c.adc then s
      else
        let vs := c.src.map s.slot
        s.frameIn e c ⟨vs.map (fun v => unmark v.val), anyLateSlots vs, s.now, 0, s.now⟩
    s.evalConds e c s.now (fun q =>
      if q.isSlot then some (s.slot q.input).val
      else if c.adc then none
      else some (s.slot (c.src.getD q.input 0)).val)
where
  anyLateSlots (vs : List Slot) : Bool := vs.any (fun v => bit v.qual 4)

/-- Fill a word of a frame with the given start and entry, within 1 us of its arrival (R293). -/
def Frame.fill (f : Frame) (start entry j now : Nat) (w : Word) : Frame :=
  if f.start = start ∧ f.entry = entry ∧ f.words.getD j 0 = marker ∧ now ≤ f.at_ + edgesPerUs then
    { f with words := modifyAt f.words j (fun _ => w), late := f.late || bit w 0 }
  else f

/-- Apply a change to every frame that an engine holds. -/
def Engine.mapFrames (g : Engine) (f : Frame → Frame) : Engine :=
  let lap := fun (l : Lap) => { l with before := l.before.map f, trig := l.trig.map f, after := l.after.map f }
  { g with store := g.store.map f, latest := g.latest.map f, lap := g.lap.map lap, done := g.done.map lap }

/-- Whether an engine holds the frame of a start and entry. -/
def Engine.hasFrame (g : Engine) (start entry : Nat) : Bool :=
  let is := fun (f : Frame) => f.start == start && f.entry == entry
  let lap := fun (l : Lap) => l.before.any is || l.trig.any is || l.after.any is
  g.store.any is || g.latest.any is || g.lap.any lap || g.done.any lap

/-- A conversion of core `k` reaches engine `e` (R288, R289, R293). -/
def State.engSample (s : State) (e k : Nat) (x : AdcSample) : State :=
  match s.cap? e with
  | none => s
  | some c =>
    if !c.adc then s
    else
      let s := c.src.zipIdx.foldl (fun s y =>
        if y.1 ≠ k then s
        else if y.2 = 0 then
          let g := s.eng e
          let ws := (List.range c.nsrc).map (fun j =>
            if j = 0 then x.raw
            else match g.early.find? (fun z => z.1 == x.start && z.2.1 == x.entry && z.2.2.1 == j) with
              | some z => z.2.2.2
              | none => marker)
          let s := s.modEng e (fun g => { g with early := g.early.filter (fun z => z.1 == x.start && z.2.1 != x.entry) })
          s.frameIn e c ⟨ws, ws.any (fun w => w != marker && bit w 0), x.start, x.entry, s.now⟩
        else if (s.eng e).hasFrame x.start x.entry then
          s.modEng e (fun g => g.mapFrames (fun f => f.fill x.start x.entry y.2 s.now x.raw))
        else s.modEng e (fun g => { g with early := g.early ++ [(x.start, x.entry, y.2, x.raw)] })) s
      s.evalConds e c x.aperture (fun q =>
        if !q.isSlot && c.src.getD q.input 0xFFFF == k && q.entry == x.entry then some x.value else none)

/-- A conversion reaches every engine (R289). -/
def State.acqSample (s : State) (k : Nat) (x : AdcSample) : State :=
  if !s.records then s else forUpTo 32 (fun e s => s.engSample e k x) s

/-- What precedes the checkpoint of B(k): the intervals that end there close, and recording begins at the first boundary in
RUN or SAFE (R277, R283, R310). -/
def State.acqClose (s : State) (k : Nat) : State :=
  let s := forUpTo 8 (fun t s => s.traceEnqueue t) s
  if !s.running then s.modAcq (fun a => { a with recording := false })
  else if !s.acq.recording then s.modAcq (fun a => { a with recording := true })
  else forUpTo 8 (fun t s => s.traceClose t k) s

/-- What recording does with the values committed at B(k): samples, frames and conditions; an idle engine arms first
(R281, R288, R297). -/
def State.acqSamples (s : State) (k : Nat) : State :=
  let s := forUpTo 8 (fun t s => s.traceSample t k) s
  forUpTo 32 (fun e s =>
    match s.cap? e with
    | none => s
    | some c => (if s.engState e = engIDLE then s.armEng e else s.lapSettle e c).engBoundary e) s

/-- A forced trigger of engine `e` (R299). -/
def State.forceTrigger (s : State) (e : Nat) : State :=
  match s.cap? e with
  | none => s
  | some c =>
    let s := s.lapSettle e c
    if s.records && !c.fault && s.engState e == engARMED &&
        decide ((s.eng e).armedAt + c.timeout * edgesPerUs ≤ s.now) then
      s.takeLap e c true 0xFF s.now
    else s

/-- Engine `e` arms again after a lap, after a FULL buffer is drained, or after a FAULT lap is consumed
(R298, R300, R309). -/
def State.rearm (s : State) (e : Nat) : State :=
  let s := match s.cap? e with | some c => s.lapSettle e c | none => s
  let st := s.engState e
  let drained := s.cseq e == s.wseq e && (s.eng e).done.isEmpty
  if s.records && (st == engREARM || ((st == engFULL || st == engDONE) && drained)) then s.armEng e else s

/-- A lap's bytes (R294, R295). POSTVALID is at least 1 but for a lap that a restart cut: a trigger before any frame makes its
frame of markers the trigger frame (log 70). -/
def Lap.bytes (l : Lap) (e : Nat) (c : CapCfg) : List Byte :=
  let pv := l.before.length
  let frames := l.trig.toList.length + l.after.length
  let post := if l.restart then frames else max 1 frames
  let late := (l.before ++ l.trig.toList ++ l.after).any (fun f => f.late)
  let trunc := l.restart || decide (1 + l.after.length < c.len - c.pre)
  let flags := l.forced.toNat + 2 * (decide (pv < c.pre)).toNat + 4 * l.full.toNat + 8 * trunc.toNat +
    16 * l.restart.toNat + 32 * late.toNat + 64 * l.timeinv.toNat
  let head := leBytes 2 0x504C ++ leBytes 2 flags ++ leBytes 1 e ++ leBytes 1 l.primary ++ leBytes 1 l.mask ++
    leBytes 1 c.fault.toNat ++ leBytes 8 l.seq ++ leBytes 8 l.tick ++ wBytes l.tns ++ leBytes 2 l.sec ++
    leBytes 2 c.nsrc ++ wBytes l.missed ++ leBytes 4 pv ++ leBytes 4 c.pre ++ leBytes 4 c.len ++ leBytes 4 post ++
    leBytes 8 0
  let empty := (List.replicate c.nsrc marker).flatMap wBytes
  let words := fun (f : Frame) => f.words.flatMap wBytes
  let trig := match l.trig with | some f => words f | none => empty
  let body := (List.replicate (c.pre - pv) empty).flatten ++ l.before.flatMap words ++ trig ++ l.after.flatMap words ++
    (List.replicate (c.len - c.pre - 1 - l.after.length) empty).flatten
  let all := head ++ leBytes 4 (crc32c head) ++ body
  all ++ List.replicate (c.lapSize - all.length) 0

/-- The oldest complete lap of engine `e` reaches DRAM with its header: the lap is readable (R298, R309). -/
def State.headerWritten (s : State) (e : Nat) : State :=
  match s.cap? e, (s.eng e).done with
  | some c, l :: r =>
    let s := s.modEng e (fun g => { g with done := r })
    let s := match s.image.part? 2 (e / 4) (e % 4) with
      | some p => s.dramWrite (p.base * dramPage + (l.seq - s.bseq e) * c.lapSize) (l.bytes e c)
      | none => s
    s.put64 (R.CAP_WSEQ_LO e) (l.seq + 1)
  | _, _ => s

/-! Restart (R310). -/

/-- At a resume in tick `r`, whose open intervals close: one frame with RESTART and TICK r - 1. -/
def State.traceResume (s : State) (t r : Nat) : State :=
  s.closeEntries t (r - 1) 4 (fun _ _ => true)

/-- A lap whose header had not reached DRAM at T0 is closed with the `n` frames from its trigger frame on that had. -/
def Lap.cut (l : Lap) (n : Nat) : Lap :=
  { l with trig := if n = 0 then none else l.trig, after := l.after.take (n - 1), restart := true }

/-- The laps of engine `e` are closed with the number of frames from PRE on that reached DRAM, and it arms in tick r. A FAULT
lap that was in progress makes its record now (R300). -/
def State.lapResume (s : State) (e n : Nat) : State :=
  let s := match s.cap? e, (s.eng e).lap with
    | some c, some l =>
      if c.fault then s.raise 0xE201 (e / 4) (BitVec.ofNat 32 e) (BitVec.ofNat 32 l.seq) (BitVec.ofNat 32 l.primary)
        (BitVec.ofNat 32 l.tick)
      else s
    | _, _ => s
  let s := s.modEng e (fun g =>
    { g with done := g.done.map (fun l => l.cut n) ++ g.lap.toList.map (fun l => l.cut n), lap := none, early := [] })
  if (s.cap? e).isSome then s.setEng e engIDLE else s

/-- The write queue is discarded at T0, and recording stops until B(r) (R277). -/
def State.acqDiscard (s : State) : State :=
  s.modAcq (fun a => { a with
    recording := false, traces := a.traces.map (fun x => { x with closed := [], queue := [] }), reqs := [[], []] })

/-! The readout engine's requests (R311 to R316). -/

/-- The requests of port `p`. -/
def State.readouts (s : State) (p : Nat) : List Readout := s.acq.reqs.getD p []

/-- Take a request for bytes `next` to `stop`, in slot `slot` of a lap buffer, or answer BUSY (R316). -/
def State.acceptRead (s : State) (b : Bulk) (next stop slot : Nat) : State :=
  if 8 ≤ (s.readouts b.org.port).length then (s.bump R.MEM_RDOBUSY).bulkEnd b bulkBUSY
  else s.modAcq (fun a => { a with reqs := modifyAt a.reqs b.org.port (· ++ [⟨b, next, stop, s.now, false, slot⟩]) })

/-- LENGTH of a read. -/
def lengthOk (b : Bulk) : Bool := decide (1 ≤ Bulk.length b) && decide (Bulk.length b ≤ 1048576)

/-- A TRACE_READ (R313). -/
def State.traceRead (s : State) (b : Bulk) : State :=
  let t := Bulk.unit b
  if !bulkFormed b 1 || !lengthOk b || Bulk.offset b ≠ 0 || 7 < t then s.bulkEnd b bulkMALFORMED
  else if !s.loaded || (s.traceRec? t).isNone then s.bulkEnd b bulkABSENT
  else if Bulk.pos b < s.oldpos t then s.bulkEnd b bulkLOST
  else if s.wpos t ≤ Bulk.pos b then s.bulkEnd b bulkRANGE
  else s.acceptRead b (Bulk.pos b) (min (Bulk.pos b + Bulk.length b) (s.wpos t)) 0

/-- A LAP_READ (R313). -/
def State.lapRead (s : State) (b : Bulk) : State :=
  let e := Bulk.unit b
  if !bulkFormed b 3 || !lengthOk b || 31 < e then s.bulkEnd b bulkMALFORMED
  else
    match s.cap? e with
    | none => s.bulkEnd b bulkABSENT
    | some c =>
      if c.lapSize ≤ Bulk.offset b then s.bulkEnd b bulkMALFORMED
      else if Bulk.pos b < s.bseq e then s.bulkEnd b bulkLOST
      else if s.wseq e ≤ Bulk.pos b then s.bulkEnd b bulkRANGE
      else s.acceptRead b (Bulk.offset b) (min (Bulk.offset b + Bulk.length b) c.lapSize) (Bulk.pos b - s.bseq e)

/-- The one datagram that answers a CONSUME, with the position that stands after it (R312, R315). -/
def State.consumed (s : State) (b : Bulk) (status pos : Nat) : State :=
  s.bulkData b.org status (Bulk.op b) (Bulk.unit b) true pos 0 []

/-- A TRACE_CONSUME over the network (R313, R315). -/
def State.traceConsumeReq (s : State) (b : Bulk) : State :=
  let t := Bulk.unit b
  if !bulkFormed b 2 || Bulk.length b ≠ 0 || Bulk.offset b ≠ 0 || 7 < t then s.consumed b bulkMALFORMED (s.rpos t)
  else if !s.loaded || (s.traceRec? t).isNone then s.consumed b bulkABSENT (s.rpos t)
  else
    let s := s.traceConsume t (Bulk.pos b)
    s.consumed b bulkOK (s.rpos t)

/-- A LAP_CONSUME over the network (R313, R315). -/
def State.lapConsumeReq (s : State) (b : Bulk) : State :=
  let e := Bulk.unit b
  if !bulkFormed b 4 || Bulk.length b ≠ 0 || Bulk.offset b ≠ 0 || 31 < e then s.consumed b bulkMALFORMED (s.cseq e)
  else if (s.cap? e).isNone then s.consumed b bulkABSENT (s.cseq e)
  else
    let s := s.put64 (R.CAP_CSEQ_LO e) (max (s.cseq e) (min (Bulk.pos b + 1) (s.wseq e)))
    s.consumed b bulkOK (s.cseq e)

/-- Whether a request's remaining range has been lost (R314), for traces and laps: a lap is lost once a newer lap has begun
in its slot. -/
def State.readLost (s : State) (q : Readout) : Bool :=
  let u := Bulk.unit q.bulk
  if Bulk.op q.bulk = 1 then decide (q.next < s.oldpos u)
  else decide (Bulk.pos q.bulk < s.bseq u) && decide (s.bseq u + q.slot < (s.eng u).seq)

/-- The bytes of a trace or lap request from `o`. -/
def State.readBytes (s : State) (q : Readout) (o n : Nat) : List Byte :=
  let u := Bulk.unit q.bulk
  if Bulk.op q.bulk = 1 then
    let (base, size) := s.ringAt u
    (List.range n).map (fun i => tabGet (fun _ => 0) s.dram (base + (o + i) % max 1 size))
  else
    match s.image.part? 2 (u / 4) (u % 4), s.cap? u with
    | some p, some c => s.dramRead (p.base * dramPage + q.slot * c.lapSize + o) n
    | _, _ => List.replicate n 0

/-! Load (R279, R280, R287, R292, R306, R307, R317). -/

/-- The form of a TRACE record (R278). -/
def traceForm (r : Rec) : List Finding :=
  need (decide (r.key ≤ 7)) (atOff 10 secTRACE r.off) ++ need (r.kind == 0) (atOff 10 secTRACE (r.off + 2)) ++
  need (decide (4 ≤ r.body.length) && r.body.length == 4 + 8 * uAt r.body 0 2) (atOff 10 secTRACE (r.off + 4))

/-- The failures of a TRACE record (R279, R280). -/
def traceCheck (s : State) (im : Image) (r : Rec) : List Finding :=
  let n := uAt r.body 0 2
  let at_ := fun (step : Nat) (ok : Bool) (o : Nat) => need ok (atOff step secTRACE (r.off + 8 + o))
  need (s.usableBit (unitTile r.key)) ⟨12, r.off, unitTile r.key, secTRACE⟩ ++
  at_ 14 (decide (1 ≤ n) && decide (n ≤ 2048)) 0 ++ zeroField 14 secTRACE r 2 2 ++
  (traceEntries r).zipIdx.flatMap (fun x =>
    let o := 4 + 8 * x.2
    at_ 14 (decide (1 ≤ x.1.interval)) (o + 2) ++ at_ 14 (decide (1 ≤ x.1.div) && decide (x.1.div ≤ 1024)) (o + 4) ++
    at_ 14 (decide (x.1.phase < max 1 x.1.div)) (o + 6) ++ at_ 15 (decide (x.1.slot ≤ 8191)) o) ++
  at_ 14 (traceKinds im (traceEntries r)).2 (4 + 8 * (n - 1))

/-- The form of a CAPTURE record (R291). -/
def capForm (r : Rec) : List Finding :=
  need (decide (r.key ≤ 31)) (atOff 10 secCAPTURE r.off) ++ need (r.kind == 0) (atOff 10 secCAPTURE (r.off + 2)) ++
  formLen secCAPTURE r 192

/-- The failures of a condition entry at body offset `o` (R287, R292). -/
def condCheck (im : Image) (r : Rec) (c : CapCfg) (o : Nat) : List Finding :=
  let q := condAt r.body o
  let at_ := fun (step : Nat) (ok : Bool) (x : Nat) => need ok (atOff step secCAPTURE (r.off + 8 + o + x))
  if uAt r.body o 1 = 0 then zeroFields 14 secCAPTURE r o [1, 1, 2, 1, 1, 2, 4, 4]
  else
    let entries := fld (im.reg (R.ADC_CTRL (c.src.getD q.input 0))) 4 0
    at_ 14 (decide (q.typ ≤ 5)) 0 ++ at_ 14 (decide (uAt r.body (o + 1) 1 < 4)) 1 ++
    at_ 14 (q.isSlot || decide (q.input < c.nsrc)) 2 ++ at_ 15 (!q.isSlot || decide (q.input ≤ 8191)) 2 ++
    at_ 14 (if c.adc && !q.isSlot then decide (q.entry < entries) else q.entry == 0) 4 ++
    at_ 14 (if q.typ = 5 then decide (2 ≤ q.span) else q.span == 0) 5 ++ zeroField 14 secCAPTURE r (o + 6) 2 ++
    at_ 14 (fIsFin q.a) 8 ++
    at_ 14 (fIsFin q.b && (if q.typ = 2 then fle q.a q.b else if q.typ = 3 then fle 0 q.b && !bit q.b 31 else q.b == 0)) 12

/-- The failures of a CAPTURE record (R292). -/
def capCheck (s : State) (im : Image) (r : Rec) : List Finding :=
  let c := capCfg r
  let b := r.body
  let at_ := fun (step : Nat) (ok : Bool) (o : Nat) => need ok (atOff step secCAPTURE (r.off + 8 + o))
  let srcOf := fun (k : Nat) => (fld (im.reg (R.ADC_START k)) 31 22, fld (im.reg (R.ADC_CTRL k)) 4 0)
  need (s.usableBit (unitTile (r.key / 4))) ⟨12, r.off, unitTile (r.key / 4), secCAPTURE⟩ ++
  (c.src.zipIdx.flatMap (fun x =>
    need (!c.adc || decide (15 < x.1) || s.usableBit (unitAdc x.1))
      ⟨12, r.off + 8 + 0x18 + 2 * x.2, unitAdc x.1, secCAPTURE⟩)) ++
  at_ 14 (decide (uAt b 0 1 ≤ 1)) 0 ++ at_ 14 (decide (uAt b 1 1 ≤ 1)) 1 ++
  at_ 14 (decide (1 ≤ c.nsrc) && decide (c.nsrc ≤ (if c.adc then 4 else 16))) 2 ++ zeroField 14 secCAPTURE r 3 1 ++
  at_ 14 (decide (2 ≤ c.len) && decide (c.len ≤ 1048576)) 4 ++
  at_ 14 (decide (c.pre < c.len) && decide (c.pre * c.nsrc ≤ 4096)) 8 ++
  at_ 14 (if c.fault then c.nlaps == 1 else decide (1 ≤ c.nlaps) && decide (c.nlaps ≤ 4096)) 12 ++
  zeroField 14 secCAPTURE r 14 2 ++
  at_ 14 (if c.fault then c.timeout == 0 else decide (1 ≤ c.timeout) && decide (c.timeout ≤ 60000000)) 16 ++
  zeroField 14 secCAPTURE r 20 4 ++
  (List.range 16).flatMap (fun i =>
    let v := uAt b (0x18 + 2 * i) 2
    if c.nsrc ≤ i then at_ 14 (v == 0) (0x18 + 2 * i)
    else if c.adc then at_ 14 (decide (v ≤ 15) && srcOf v == srcOf (c.src.getD 0 0)) (0x18 + 2 * i)
    else at_ 15 (decide (v ≤ 8191)) (0x18 + 2 * i)) ++
  zeroField 14 secCAPTURE r 0x38 8 ++
  (List.range 8).flatMap (fun i => condCheck im r c (64 + 16 * i))

/-- A sum of fractions. -/
def fracAdd (a b : Nat × Nat) : Nat × Nat := if a.2 = b.2 then (a.1 + b.1, a.2) else (a.1 * b.2 + b.1 * a.2, a.2 * b.2)

/-- R_t of an image in bytes per second, as a fraction (R306). -/
def writeRate (s : State) (im : Image) (t : Nat) : Nat × Nat :=
  let per := max 1 (fld (im.reg R.DEV_TBASE) 17 0)
  let tick := 200000000
  let trace := match im.rec? secTRACE t 0 with
    | none => (0, 1)
    | some r =>
      let es := traceEntries r
      let ks := (traceKinds im es).1
      let imin := es.foldl (fun a x => min a (max 1 x.interval)) 65536
      es.zipIdx.foldl (fun a x => fracAdd a
        ((if ks.getD x.2 false then 16 else 32) * tick, (max 1 x.1.interval) * per)) (16 * tick, imin * per)
  (List.range 4).foldl (fun a e =>
    match im.rec? secCAPTURE (4 * t + e) 0 with
    | none => a
    | some r =>
      let c := capCfg r
      let k := c.src.getD 0 0
      let smps := (List.range (min 16 (fld (im.reg (R.ADC_CTRL k)) 4 0))).map (fun i => adcSmp (im.reg (R.ADC_SEQ k i)))
      let smin := if s.singleSelect then adcSmp (im.reg (R.ADC_SEQ k 0)) else smps.foldl min 1023
      let fs : Nat × Nat := if c.adc then (50000000, 8 + smin) else (tick, per)
      fracAdd (fracAdd a (fs.1 * 4 * c.nsrc, fs.2)) (64 * fs.1, fs.2 * max 1 (c.len - c.pre))) trace

/-- The bandwidth check of the present tiles (R111, R306). -/
def bandwidthCheck (s : State) (im : Image) : List Finding :=
  (List.range 8).flatMap (fun t =>
    if !s.presentBit (unitTile t) then []
    else
      let r := writeRate s im t
      need (decide (r.1 ≤ 1600000000 * r.2)) ⟨20, t, t * 65536 + r.1 / r.2 / 1000000, 0⟩)

/-- The offset of the DRAM section. -/
def Image.dramOff (im : Image) : Nat := match sectOf (sections im.bytes) secDRAM with | some x => x.off | none => 0

/-- A partition must exist, else `missing` is found, and hold `bytes` bytes (R102, R307). -/
def partNeed (im : Image) (kind tile engine bytes : Nat) (missing : Finding) : List Finding :=
  match im.dram.find? (fun x => x.2.kind == kind && x.2.tile == tile && x.2.engine == engine) with
  | none => [missing]
  | some (o, p) => need (decide (bytes ≤ p.size * dramPage)) (atOff 16 secDRAM (o + 8))

/-- The partitions that records need (R102) and the sizes of R307. -/
def acqDramCheck (im : Image) : List Finding :=
  (im.sec secTRACE).flatMap (fun r =>
    let es := traceEntries r
    let ks := (traceKinds im es).1
    partNeed im 1 r.key 0 (2 * (16 + es.zipIdx.foldl (fun a x => a + if ks.getD x.2 false then 16 else 32) 0))
      (atOff 17 secTRACE r.off)) ++
  (im.sec secCAPTURE).flatMap (fun r =>
    let c := capCfg r
    partNeed im 2 (r.key / 4) (r.key % 4) (c.nlaps * c.lapSize) (atOff 17 secCAPTURE r.off)) ++
  partNeed im 4 0 0 (16 * dramPage) (atOff 16 secDRAM im.dramOff)

/-- The registers of a tile's unit that a load clears. -/
def acqRegs (t : Nat) : List Nat :=
  [R.ACQ_TSTAT t, R.ACQ_TCOUNT t, R.ACQ_WRATE t, R.ACQ_TRINGSIZE t, R.ACQ_TWPOS_LO t, R.ACQ_TWPOS_HI t,
   R.ACQ_TRPOS_LO t, R.ACQ_TRPOS_HI t, R.ACQ_TOLDPOS_LO t, R.ACQ_TOLDPOS_HI t, R.ACQ_TLOSTFR t, R.ACQ_QPEAK t] ++
  (List.range 4).flatMap (fun e =>
    [R.CAP_STAT (4 * t + e), R.CAP_MISSED (4 * t + e), R.CAP_WSEQ_LO (4 * t + e), R.CAP_WSEQ_HI (4 * t + e), R.CAP_CSEQ_LO (4 * t + e), R.CAP_CSEQ_HI (4 * t + e),
     R.CAP_BSEQ_LO (4 * t + e), R.CAP_BSEQ_HI (4 * t + e), R.CAP_CAPACITY (4 * t + e), R.CAP_LAPSIZE (4 * t + e), R.CAP_COND (4 * t + e), R.CAP_FORCED (4 * t + e)])

/-- Configure the unit of tile `t` (R317). -/
def State.loadAcqTile (s : State) (t : Nat) : State :=
  let s := (acqRegs t).foldl (fun s a => s.setReg a 0) s
  let rate := writeRate s s.image t
  let s := s.setReg (R.ACQ_WRATE t) (satWord (rate.1 / rate.2 / 1000))
  let stop := match s.image.part? 1 t 0 with | some p => p.mode | none => 0
  let s := (s.setReg (R.ACQ_TSTAT t) (BitVec.ofNat 32 ((s.traceRec? t).isSome.toNat + 2 * stop))).setReg
    (R.ACQ_TRINGSIZE t) (satWord (s.ringAt t).2)
  let s := match s.traceRec? t with
    | none => s
    | some r =>
      let ks := (traceKinds s.image (traceEntries r)).1
      let nf := (ks.filter (fun x => x)).length
      s.setReg (R.ACQ_TCOUNT t) (BitVec.ofNat 32 (nf * 65536 + (ks.length - nf)))
  forUpTo 4 (fun i s =>
    match s.cap? (4 * t + i) with
    | none => s
    | some c =>
      ((s.setReg (R.CAP_STAT (4 * t + i)) (BitVec.ofNat 32 (32 * c.adc.toNat + 16 * c.fault.toNat))).setReg (R.CAP_CAPACITY (4 * t + i))
        (BitVec.ofNat 32 c.nlaps)).setReg (R.CAP_LAPSIZE (4 * t + i)) (BitVec.ofNat 32 c.lapSize)) s

/-- The units at a load that does not resume state (R310, R317). -/
def State.loadAcq (s : State) : State :=
  let s := { s.modArch (fun a => { a with reds := [], conds := [] }) with acq := {} }
  let s := (s.setReg R.MEM_RDOLATMAX 0).setReg R.MEM_RDOBUSY 0
  forEach s.tiles (fun t s => s.loadAcqTile t) s

/-! Commands. -/

/-- TRACE_READ. -/
def execTraceRead (b : Bulk) (e : Nat) (s : State) : Out :=
  answer (decide (b.org.port < 2)) ((s.atEdge e).onFrame b.org (fun s => s.traceRead b))

/-- TRACE_CONSUME. -/
def execTraceConsume (b : Bulk) (e : Nat) (s : State) : Out :=
  answer (decide (b.org.port < 2)) ((s.atEdge e).onFrame b.org (fun s => s.traceConsumeReq b))

/-- LAP_READ. -/
def execLapRead (b : Bulk) (e : Nat) (s : State) : Out :=
  answer (decide (b.org.port < 2)) ((s.atEdge e).onFrame b.org (fun s => s.lapRead b))

/-- LAP_CONSUME. -/
def execLapConsume (b : Bulk) (e : Nat) (s : State) : Out :=
  answer (decide (b.org.port < 2)) ((s.atEdge e).onFrame b.org (fun s => s.lapConsumeReq b))

/-- TRACE_INTERVAL_CLOSE: the frame of the intervals that closed enters the write queue of tile `t`. -/
def execTraceIntervalClose (t : Nat) (s : State) : Out := answer (decide (t < 8)) (s.traceEnqueue t)

/-- TRACE_FRAME_WRITE. -/
def execTraceFrameWrite (t : Nat) (s : State) : Out := answer (decide (t < 8)) (s.traceWrite t)

/-- TRIGGER_OCCURRENCE: the conditions in mask `m` of engine `e` become true in the present EDGE cycle; one that is
true already, or has TYPE 0, does not. -/
def State.triggerOccurrence (s : State) (e m : Nat) : State :=
  match s.cap? e with
  | none => s
  | some c =>
    if !s.records then s
    else
      let new := (List.range 8).filter (fun i =>
        m.testBit i && ((c.conds.map (·.typ)).getD i 0 != 0) && !(s.condSt e i).st)
      let s := new.foldl (fun s i => s.setCond e i { s.condSt e i with st := true }) s
      if new.isEmpty then s else s.occur e c (new.foldl (fun a i => a + 2 ^ i) 0) s.now

/-- FORCED_TRIGGER. -/
def execForcedTrigger (e at_ : Nat) (s : State) : Out := answer (decide (e < 32)) ((s.atEdge at_).forceTrigger e)

/-- LAP_COMPLETE: a lap that holds frame L - 1 completes. -/
def execLapComplete (e : Nat) (s : State) : Out :=
  answer (decide (e < 32)) (match s.cap? e with | some c => s.lapCheck e c | none => s)

/-- LAP_REARM. -/
def execLapRearm (e at_ : Nat) (s : State) : Out := answer (decide (e < 32)) ((s.atEdge at_).rearm e)

/-- LAP_HEADER_WRITTEN. -/
def execLapHeaderWritten (e : Nat) (s : State) : Out := answer (decide (e < 32)) (s.headerWritten e)

end Sys2Proof.Machine
end

