-- ==== Sys2Proof/Machine/Check.lean ====
section
/-! DEFINITION. Check-value channels and self-test (R616 to R641).
Where the spec can be read in two ways the assumption log says what was read: entries 77, 78 (DEDUCED unless marked there otherwise). -/

namespace Sys2Proof.Machine

/-! Check-value channels (R616 to R625). -/

/-- Change the integrity services. -/
def State.modInteg (s : State) (f : Integ → Integ) : State := { s with integ := f s.integ }

/-- The bytes of the in-package DRAM (R38). -/
def State.dramBytes (s : State) : Nat := 2 ^ (30 + fld s.part.caps 7 5)

/-- The size of a space (R618). -/
def State.chkSize (s : State) (space : Nat) : Nat :=
  match space with
  | 0 => 0x20000 * s.tileCount
  | 1 => s.dramBytes
  | 2 => if s.loaded then (s.reg R.CFG_LEN).toNat else 0
  | _ => 0

/-- Byte `a` of the snapshot SRAM (R618, R323). -/
def State.snapByte (s : State) (a : Nat) : Byte :=
  let b := s.snap.bufs.getD (a / 0x10000 % 2) {}
  let w := (b.words.getD (a / 0x20000) []).getD (a % 0x10000 / 4) 0
  BitVec.ofNat 8 (w.toNat / 256 ^ (a % 4))

/-- The bytes of a scanned region. -/
def State.chkBytes (s : State) (x : ChkScan) : List Byte :=
  match x.space with
  | 0 => (List.range x.len).map (fun i => s.snapByte (x.addr + i))
  | 1 => s.dramRead x.addr x.len
  | _ => slice s.image.bytes x.addr x.len

/-- Whether the contents of a region are not laid down: DRAM in the configuration copy, the checkpoint partition or the
readout staging partition (R72, R101, R622), or a snapshot buffer into which a photo finish is being taken. -/
def State.chkOpen (s : State) (x : ChkScan) : Bool :=
  let meets := fun (a n : Nat) => decide (a < x.addr + x.len) && decide (x.addr < a + n)
  match x.space with
  | 0 =>
    match s.snap.busy with
    | some p => (List.range s.tileCount).any (fun t => meets (0x20000 * t + 0x10000 * p.target) 0x10000)
    | none => false
  | 1 =>
    meets (s.dramBytes - 0x4000000) 0x4000000 ||
      (s.loaded && s.image.dram.any (fun d => decide (3 ≤ d.2.kind) && meets (d.2.base * dramPage) (d.2.size * dramPage)))
  | _ => false

/-- The scan of channel `c`, if it is BUSY. -/
def State.scan? (s : State) (c : Nat) : Option ChkScan := (s.integ.scans.getD c none)

def State.setScan (s : State) (c : Nat) (x : Option ChkScan) : State :=
  s.modInteg (fun g => { g with scans := modifyAt g.scans c (fun _ => x) })

def chkERR : Nat := 3

/-- Channel `c` enters ERROR (R619, R621): its result reads 0. -/
def State.chkError (s : State) (c err done : Nat) : State :=
  ((((s.setScan c none).setReg (R.CHK_STAT c) (BitVec.ofNat 32 (16 * err + chkERR))).setReg (R.CHK_RES_LO c) 0).setReg
    (R.CHK_RES_HI c) 0).setReg (R.CHK_DONE c) (satWord done)

/-- START of channel `c` (R619). -/
def State.chkStart (s : State) (c : Nat) : State :=
  if (s.scan? c).isSome then s
  else
    let ctrl := s.reg (R.CHK_CTRL c)
    let x : ChkScan :=
      { space := fld ctrl 27 26, poly := fld ctrl 25 24, addr := (s.reg (R.CHK_ADDR c)).toNat,
        len := (s.reg (R.CHK_LEN c)).toNat, dirty := false }
    if x.addr % 4 ≠ 0 ∨ x.len % 4 ≠ 0 ∨ x.len = 0 ∨ s.chkSize x.space < x.addr + x.len then s.chkError c 1 0
    else ((s.setScan c (some { x with dirty := s.chkOpen x })).setReg (R.CHK_STAT c) 1).setReg (R.CHK_DONE c) 0

/-- ABORT of channel `c` after `done` bytes (R619). -/
def State.chkAbort (s : State) (c done : Nat) : State :=
  match s.scan? c with
  | none => s
  | some x => s.chkError c 3 (min x.len (done / 4 * 4))

/-- A write of CHK.CTRL: the RW fields, then ABORT or START (R619, R624). -/
def State.writeChk (s : State) (c : Nat) (w : Word) : State :=
  let s := s.setReg (R.CHK_CTRL c) (w &&& 0x0F000000)
  if bit w 30 then
    s.chkAbort c (match s.scan? c with | some x => Config.scanProgress s.now c % (x.len + 1) | none => 0)
  else if bit w 31 then s.chkStart c
  else s

/-- CHK.DONE of channel `c` as read: while BUSY it shows a progress that no rule fixes. -/
def State.chkDone (s : State) (c : Nat) : Word :=
  match s.scan? c with
  | none => s.reg (R.CHK_DONE c)
  | some x => satWord (4 * (Config.scanProgress s.now c % (x.len / 4)))

/-- The channel whose turn at the scan engine comes next (R336, R620). -/
def State.scanNext (s : State) : Option Nat := scanTurn s.integ.turn (fun c => (s.scan? c).isSome)

/-- The end of a scan (R617, R620 to R622), whose last word took the channel's turn: DONE with its result, or an uncorrectable
error in the word at `ecc`. -/
def State.chkScanDone (s : State) (c : Nat) (ecc : Option Nat) : State :=
  match s.scan? c with
  | none => s
  | some x =>
    let s := s.modInteg (fun g => { g with turn := c })
    match ecc with
    | some a => (s.chkError c 2 (min x.len (a - x.addr))).setReg (R.CHK_ERRADDR c) (satWord a)
    | none =>
      let t := ((s.setScan c none).setReg (R.CHK_STAT c) 2).setReg (R.CHK_DONE c) (satWord x.len)
      let bits := [32, 32, 16, 64].getD x.poly 32
      if x.dirty then
        let d := BitVec.ofNat 64 ((Config.scanResult s.free).toNat % 2 ^ bits)
        (t.setReg64 (R.CHK_RES_LO c) d).useFree
      else t.setReg64 (R.CHK_RES_LO c) (BitVec.ofNat 64 (crcOfPoly x.poly (s.chkBytes x)))

/-- T0 of a warm restart (R621). -/
def State.chkT0 (s : State) : State :=
  forUpTo 8 (fun c s => match s.scan? c with
    | some x => s.chkError c 4 (Config.scanProgress s.now c % (x.len + 1))
    | none => s) s

/-! Result records (R630 to R632). -/

def vdPASS : Nat := 0
def vdFAIL : Nat := 1

/-- The number of records in the window. -/
def State.nrec (s : State) : Nat := s.fldOf R.BIST_STAT 14 8

/-- The words of a record written at OPSEC `ops`. -/
def testWords (r : TestRec) (ops : Word) : List Word :=
  [BitVec.ofNat 32 (r.kind % 16 * 2 ^ 28 + r.verdict % 16 * 2 ^ 24 + r.bitNo % 256 * 65536 + r.inst % 65536),
   BitVec.ofNat 32 r.addr, BitVec.ofNat 32 r.data, ops]

/-- Append a record, or count it as not written. -/
def State.writeRec (s : State) (r : TestRec) : State :=
  let n := s.nrec
  if 64 ≤ n then s.bump R.BIST_OVFL
  else
    let s := (testWords r (s.reg R.PWR_OPSEC)).zipIdx.foldl (fun s x => s.setReg (R.BIST_RES (4 * n + x.2)) x.1) s
    s.putFld R.BIST_STAT 14 8 (n + 1)

/-- Empty the window at the start of a run: LAST is 1 for POST, 2 for a full BIST. -/
def State.emptyRecs (s : State) (last : Nat) : State :=
  ((List.range 256).foldl (fun s i => s.setReg (R.BIST_RES i) 0) s).setReg R.BIST_STAT (BitVec.ofNat 32 last)

/-- The class of an instance, its tile and its index (R631). -/
def instClass (i : Nat) : Nat := i / 4096 % 16
def instTile (i : Nat) : Nat := i / 256 % 16
def instIndex (i : Nat) : Nat := i % 256

/-- The units that a failure of an instance marks failed (R627): none for a failure that holds the device in BOOT, nor for
a tile, core or group that no variant has. -/
def State.failUnits (s : State) (inst : Nat) : List Nat :=
  match instClass inst with
  | 1 | 2 | 3 | 0xA => if instTile inst < 8 then [unitTile (instTile inst)] else []
  | 0xB => if instIndex inst < 16 then [unitAdc (instIndex inst)] else []
  | 0xC => if instIndex inst < 4 then [unitDacGroup (instIndex inst)] else []
  | 9 => List.range s.tileCount
  | _ => []

/-- Whether an instance belongs to the island or the configuration path with its memories (R627). The event holding queue,
which R627 does not name, holds nothing (DEDUCED, log 78). -/
def holdsBoot (inst : Nat) : Bool := [4, 5, 7, 8].contains (instClass inst)

/-- Mark a unit failed (R37, R627): a bit of an absent unit stays 0. -/
def State.markFailed (s : State) (u : Nat) : State :=
  if !s.presentBit u then s
  else if u < 8 then
    (s.orReg R.DEV_FAILED (BitVec.ofNat 32 (2 ^ u))).modLane u (fun l => { l with stopAt := some (l.stopAt.getD s.now) })
  else if u < 32 then s.orReg R.DEV_FAILED (BitVec.ofNat 32 (2 ^ u))
  else s.orReg R.DEV_FAILED2 (BitVec.ofNat 32 (2 ^ (u - 32)))

/-- The FAIL records among results. -/
def failsOf (l : List TestRec) : List TestRec := l.filter (fun r => r.verdict == vdFAIL)

/-- Write results and mark the units that failed. -/
def State.takeResults (s : State) (l : List TestRec) : State :=
  let s := l.foldl (fun s r => s.writeRec r) s
  let s := (failsOf l).foldl (fun s r => (s.failUnits r.inst).foldl (fun s u => s.markFailed u) s) s
  s.bumpBy R.BIST_FAILCNT (failsOf l).length

/-- EV_BIST_POST_FAIL of each failure (R639). -/
def State.postEvents (s : State) (l : List TestRec) (held : Bool) : State :=
  (failsOf l).foldl (fun s r =>
    s.raise 0x8001 noSource (BitVec.ofNat 32 r.inst) (BitVec.ofNat 32 r.addr) (BitVec.ofNat 32 r.bitNo)
      (if held then 0xFFFFFFFF
       else if instClass r.inst = 9 then Config.dramFailBit
       else BitVec.ofNat 32 ((s.failUnits r.inst).headD 0))) s

/-- POST writes records of KIND 1 (R630). -/
def asPost (l : List TestRec) : List TestRec := l.map (fun r => { r with kind := 1 })

/-! In-service tests (R635 to R638). -/

/-- Whether in-service tests of tile `t` run (R626). -/
def State.laneTests (s : State) (t : Nat) : Bool := s.running && s.tileUsable t

def State.setLaneTest (s : State) (t : Nat) (x : Option Nat) : State :=
  s.modInteg (fun g => { g with laneTest := modifyAt g.laneTest t (fun _ => x) })

/-- A failed in-service test of unit `u` (R638). -/
def State.istFail (s : State) (u inst : Nat) (data : Word) : State :=
  let s := (s.markFailed u).writeRec ⟨5, vdFAIL, 0xFF, inst, 0, data.toNat⟩
  let s := s.raise 0x8002 noSource (BitVec.ofNat 32 inst) (BitVec.ofNat 32 u) data s.tickLo
  if s.dev = stRUN then { s with power := { s.power with safeDue := 2 } } else s

/-- LANE_TEST_PERIOD of tile `t`. -/
def State.lanePeriod (s : State) (t : Nat) : State :=
  if !s.laneTests t then s
  else match s.integ.laneTest.getD t none with
    | some _ => s.bump R.BIST_ISTLATE
    | none => s.setLaneTest t (some 0)

/-- A segment of tile `t` has run its 1,024 cycles. -/
def State.segmentDone (s : State) (t : Nat) (pass : Bool) (sig : Word) : State :=
  if !s.laneTests t then s
  else match s.integ.laneTest.getD t none with
    | none => s
    | some n =>
      if !pass then (s.setLaneTest t none).istFail (unitTile t) (0xA000 + 256 * t) sig
      else if n + 1 < 64 then s.setLaneTest t (some (n + 1))
      else (s.setLaneTest t none).bump R.BIST_ISTCNT

/-- An admitted cell takes the lanes of tile `t`. -/
def State.laneYield (s : State) (t : Nat) : State :=
  if s.laneTests t && (s.integ.laneTest.getD t none).isSome then s.bump R.BIST_ISTABORT else s

/-- Whether a REF code and a ZERO code pass (R636). -/
def adcRefOk (ref : Int) : Bool := decide (201327 ≤ ref) && decide (ref ≤ 218103)
def adcZeroOk (zero : Int) : Bool := decide (-8192 ≤ zero) && decide (zero ≤ 8192)

/-- The tests in a row that REF and that ZERO have failed, after one more test. -/
def adcFails (n : Nat × Nat) (ref zero : Int) : Nat × Nat :=
  (if adcRefOk ref then 0 else n.1 + 1, if adcZeroOk zero then 0 else n.2 + 1)

/-- An in-service test of core `c` gives codes for REF and ZERO: the core fails when either has failed in three tests in a
row. -/
def State.adcSelfTest (s : State) (c : Nat) (ref zero : Int) : State :=
  if !s.adcOn c then s
  else
    let bad := adcFails (s.integ.adcBad.getD c (0, 0)) ref zero
    let s := (s.modInteg (fun g => { g with adcBad := modifyAt g.adcBad c (fun _ => bad) })).bump R.BIST_ISTCNT
    if bad.1 < 3 ∧ bad.2 < 3 then s else s.istFail (unitAdc c) (0xB000 + c) (Config.adcTestData ref zero)

/-! Repair and the full BIST (R633, R634). -/

/-- A repair that a FUSE letter names. -/
structure Repair where
  inst : Nat
  kind : Nat
  spare : Nat
  addr : Nat
  deriving DecidableEq, Repr

/-- A repair as its 8 bytes spell it. -/
def repairAt (b : List Byte) : Repair := ⟨uAt b 0 2, uAt b 2 1, uAt b 3 1, uAt b 4 4⟩

/-- Whether a memory instance exists (R631): the tile is present, and bits 11:8 are 0 for a shared unit. -/
def State.memoryExists (s : State) (i : Nat) : Bool :=
  let x := instIndex i
  let tile := decide (instTile i < s.tileCount)
  match instClass i with
  | 1 => tile && decide (x < 16)
  | 2 => tile && decide (x < 4)
  | 3 => tile && decide (x < 8)
  | 4 => instTile i == 0 && decide (x < 8)
  | 5 => instTile i == 0 && decide (x < 4)
  | 6 => instTile i == 0 && x == 0
  | 7 | 8 => instTile i == 0 && decide (x < 4) && s.presentBit unitSafe
  | 9 => instTile i == 0 && x == 0
  | _ => false

/-- Whether a repair may be programmed (R633). -/
def State.repairOk (s : State) (r : Repair) : Bool :=
  s.memoryExists r.inst &&
    (if instClass r.inst = 9 then r.kind == 0 && decide (r.spare < 128)
     else decide (r.kind ≤ 1) && decide (r.spare ≤ (if r.kind = 0 then 1 else 0))) &&
    (r.addr == 0 || decide (r.addr < Config.memorySize r.inst r.kind)) &&
    !s.integ.fuses.any (fun f => f.1 == r.inst && f.2.1 == r.kind && f.2.2.1 == r.spare)

/-- A committed FUSE letter. -/
def State.programFuses (s : State) (l : List Repair) : State :=
  let s := s.modInteg (fun g => { g with fuses := g.fuses ++ l.map (fun r => (r.inst, r.kind, r.spare, r.addr)) })
  s.setReg R.BIST_FUSEFREE
    (BitVec.ofNat 32 (128 - (s.integ.fuses.filter (fun f => instClass f.1 == 9)).length))

/-! Commands. -/

/-- CHK_START: a write of CHK.CTRL with START 1. -/
def execChkStart (c space poly e : Nat) (s : State) : Out :=
  answer (decide (c < 8))
    ((s.atEdge e).writeChk c (BitVec.ofNat 32 (0x80000000 + space % 4 * 2 ^ 26 + poly % 4 * 2 ^ 24)))

/-- CHK_ABORT: a write of 1 to CHK.CTRL.ABORT. -/
def execChkAbort (c done e : Nat) (s : State) : Out := answer (decide (c < 8)) ((s.atEdge e).chkAbort c done)

/-- CHK_SCAN_DONE. -/
def execChkScanDone (c : Nat) (ecc : Option Nat) (e : Nat) (s : State) : Out :=
  answer (decide (c < 8)) ((s.atEdge e).chkScanDone c ecc)

/-- LANE_TEST_PERIOD. -/
def execLaneTestPeriod (t : Nat) (s : State) : Out := answer (decide (t < 8)) (s.lanePeriod t)

/-- LANE_TEST_SEGMENT_DONE. -/
def execLaneTestSegmentDone (t : Nat) (pass : Bool) (sig : Word) (s : State) : Out :=
  answer (decide (t < 8)) (s.segmentDone t pass sig)

/-- LANE_TEST_YIELD. -/
def execLaneTestYield (t : Nat) (s : State) : Out := answer (decide (t < 8)) (s.laneYield t)

/-- ADC_SELF_TEST. -/
def execAdcSelfTest (c : Nat) (ref zero : Int) (s : State) : Out := answer (decide (c < 16)) (s.adcSelfTest c ref zero)

end Sys2Proof.Machine
end

