-- ==== Sys2Proof/Machine/Can.lean ====
section
/-! DEFINITION. CAN FD controllers, message objects and the Septed node protocol (R469 to R508).
Where the spec can be read in two ways the assumption log says what was read: entries 63, 64, 66 (DEDUCED unless marked there otherwise). -/

namespace Sys2Proof.Machine

def canACTIVE : Nat := 0
def canPASSIVE : Nat := 1
def canBUSOFF : Nat := 2
def canOFFBUS : Nat := 3

/-- Controller `c` and object `o` of it. -/
def State.ctl (s : State) (c : Nat) : CanCtl := s.can.ctl.getD c {}
def State.modCtl (s : State) (c : Nat) (f : CanCtl → CanCtl) : State :=
  { s with can := { s.can with ctl := modifyAt s.can.ctl c f } }
def State.canObj (s : State) (c o : Nat) : CanObj := tabGet (fun _ => {}) s.can.objs (128 * c + o)
def State.modCanObj (s : State) (c o : Nat) (f : CanObj → CanObj) : State :=
  { s with can := { s.can with objs := tabSet (fun _ => {}) s.can.objs (128 * c + o) (f (s.canObj c o)) } }

/-- Entry `e` of CANc has been heard now (R501). -/
def State.seenNow (s : State) (c e : Nat) : State :=
  { s with can := { s.can with seen := tabSet (fun _ => 0) s.can.seen (64 * c + e) s.now } }

/-- Whether controller `c` is enabled and usable with an image (R495). -/
def State.canOn (s : State) (c : Nat) : Bool :=
  s.loaded && s.usableBit (unitCan c) && s.bitOf (R.CAN_CTRL c) 31 && s.image.has secCAN c 0

/-- Whether it takes part in the bus's device states, and a warm restart has not taken it off the bus (R75, R495). -/
def State.canLive (s : State) (c : Nat) : Bool :=
  s.canOn c && (s.dev == stREADY || s.dev == stRUN || s.dev == stSAFE) &&
    (s.warm.phase == .none || s.warm.phase == .firstTick)

/-- CAN.STAT.STATE. -/
def State.canState (s : State) (c : Nat) : Nat := s.fldOf (R.CAN_STAT c) 1 0

/-- On the bus: integrated and not in BUS_OFF. -/
def State.canUp (s : State) (c : Nat) : Bool := s.canLive c && decide (s.canState c < 2)

def State.septed (s : State) (c : Nat) : Bool := s.bitOf (R.CAN_CTRL c) 30

/-- The objects of `c` that are in use with a direction, ascending (R476). -/
def State.canObjs (s : State) (c : Nat) (tx : Bool) : List Nat :=
  ((s.image.sec secCAN).filter (fun r => r.kind == 1 && r.key / 128 == c &&
    bit (wAt r.body 0) 31 && bit (wAt r.body 0) 30 == tx)).map (fun r => r.key % 128)

/-- Bytes of a data length code (R479). -/
def dlcBytes (dlc : Nat) : Nat := [0, 1, 2, 3, 4, 5, 6, 7, 8, 12, 16, 20, 24, 32, 48, 64].getD dlc 64

/-- A record of a controller's code (R494). -/
def State.canEvent (s : State) (c code : Nat) (p1 p2 p3 : Word) : State :=
  s.raiseLimited c code c (BitVec.ofNat 32 c) p1 p2 p3

/-! Map entries (R478 to R481). -/

/-- Fields of MAPA. -/
def mapTyp (w : Word) : Nat := fld w 26 23
def mapByte (w : Word) : Nat := fld w 22 16
def mapLen (w : Word) : Nat := [1, 1, 2, 2, 4, 4, 4, 1].getD (mapTyp w) 1

/-- The unsigned field of an entry in a payload. -/
def mapField (w : Word) (b : List Byte) : Nat :=
  let f := slice b (mapByte w) (mapLen w)
  if bit w 30 then beNat f else leNat f

/-- The value of an entry (R480). -/
def mapDecode (w : Word) (scale ofs : F32) (b : List Byte) : F32 :=
  let u := mapField w b
  let x : F32 := match mapTyp w with
    | 1 => fOfInt (signedOf 8 u)
    | 3 => fOfInt (signedOf 16 u)
    | 5 => fOfInt (signedOf 32 u)
    | 6 => BitVec.ofNat 32 u
    | 7 => fOfInt (u / 2 ^ (fld w 29 27) % 2 : Nat)
    | _ => fOfInt (u : Nat)
  fma x scale ofs

/-- The range of an integer type. -/
def mapRange (typ : Nat) : Int × Int :=
  match typ with
  | 0 => (0, 255)
  | 1 => (-128, 127)
  | 2 => (0, 65535)
  | 3 => (-32768, 32767)
  | 4 => (0, 4294967295)
  | _ => (-2147483648, 2147483647)

/-- Replace the field of an entry in a payload. -/
def mapPut (w : Word) (b : List Byte) (u : Nat) : List Byte :=
  let f := if bit w 30 then beBytes (mapLen w) u else leBytes (mapLen w) u
  b.take (mapByte w) ++ f ++ b.drop (mapByte w + mapLen w)

/-- A payload with entry `w` encoded from `x`, and the CLIP and NANHOLD bits (R481). `old` is the payload last sent. -/
def mapEncode (w : Word) (scale ofs x : F32) (old b : List Byte) : List Byte × Nat :=
  let keepBit := fun (v : Nat) =>
    let i := fld w 29 27
    mapField w b - mapField w b / 2 ^ i % 2 * 2 ^ i + v * 2 ^ i
  if fIsNan x then
    (if mapTyp w = 7 then mapPut w b (keepBit (mapField w old / 2 ^ fld w 29 27 % 2)) else mapPut w b (mapField w old), 2)
  else if mapTyp w = 7 then (mapPut w b (keepBit (fle 0x3F000000 x).toNat), 0)
  else if mapTyp w = 6 then
    (mapPut w b (fma x (fdiv 0x3F800000 scale) (fdiv (fneg ofs) scale)).toNat, 0)
  else
    let c := fdiv (fsub x ofs) scale
    let r := mapRange (mapTyp w)
    let i := if fIsFin c then vRoundInt (fv c) else if flt c 0 then -10000000000 else 10000000000
    let j := clampInt i r.1 r.2
    (mapPut w b (toBits (8 * mapLen w) j), if i = j then 0 else 4)

/-- The payload of a transmit object from its slots, or from MAPSAFE in SAFE (R481, R486), and flag bits. -/
def State.canEncode (s : State) (c o : Nat) : List Byte × Nat :=
  let cfg := s.reg (R.OBJ_CFG c o)
  let safe := bit cfg 25 && s.dev == stSAFE
  let len := dlcBytes (fld cfg 15 12)
  let old := ((s.canObj c o).last).getD (List.replicate len 0)
  (List.range (fld cfg 11 8)).foldl (fun x i =>
    let w := s.reg (R.OBJ_MAPA c o i)
    let v := if safe then s.reg (R.OBJ_MAPSAFE c o i) else (s.slot (fld w 12 0)).val
    let y := mapEncode w (s.reg (R.OBJ_MAPSCALE c o i)) (s.reg (R.OBJ_MAPOFS c o i)) v old x.1
    (y.1, x.2 ||| y.2)) (List.replicate len 0, 0)

/-! Sending (R486 to R489). -/

/-- The rank of an identifier in arbitration: the lower goes first. -/
def arbKey (ide : Bool) (id : Nat) : Nat :=
  if ide then id / 2 ^ 18 * 2 ^ 19 + 2 ^ 18 + id % 2 ^ 18 else id % 2 ^ 11 * 2 ^ 19

/-- The identifier of a SOLICIT to a node. -/
def solicitId (node : Nat) : Nat := 0x1FFF0100 + node

/-- The payload that a request has at EDGE count `e`, if it has been made by then. -/
def CanReq.payload? (q : CanReq) (e : Nat) : Option (List Byte) := (q.payloads.find? (fun v => decide (v.2 ≤ e))).map (·.1)

/-- What remains of a request when the frame that began at `e` has carried it (R488): payloads made since are a request of
their own, whose place is that of the first of them. -/
def CanReq.after (q : CanReq) (e : Nat) : Option CanReq :=
  let l := q.payloads.filter (fun v => decide (e < v.2))
  l.getLast?.map (fun v => ⟨v.2, l⟩)

/-- A request whose older payloads no frame can carry any more. -/
def CanReq.newest (q : CanReq) : CanReq := { q with payloads := q.payloads.take 1 }

/-- The transmit objects that compete at EDGE count `e`, with their payloads: those whose request has been made by then, of a
group only the one that was made first (R487). -/
def State.canCompete (s : State) (c e : Nat) : List (Nat × List Byte) :=
  let l := (s.canObjs c true).filterMap (fun o =>
    (s.canObj c o).pend.bind (fun q => (q.payload? e).map (fun b => (o, q.made, b))))
  let grp : Nat → Nat := fun o => s.fldOf (R.OBJ_CFG c o) 21 16
  (l.filter (fun x => grp x.1 == 0 ||
    l.all (fun y => grp y.1 != grp x.1 || decide (x.2.1 < y.2.1) || (x.2.1 == y.2.1 && decide (x.1 ≤ y.1))))).map
      (fun x => (x.1, x.2.2))

/-- A frame of the controller's own: an object or the SOLICIT at the head of those waiting (R487, R498). -/
inductive CanSend where
  | object (o : Nat) (data : List Byte)
  | solicit (node : Nat)
  deriving DecidableEq, Repr

/-- The candidate with the arbitration field that ranks first; among equals the one that stands first. -/
def bestOf {α : Type} : List (Nat × α) → Option (Nat × α)
  | [] => none
  | x :: r => match bestOf r with
    | none => some x
    | some y => if y.1 < x.1 then some y else some x

/-- The frame with which the controller competes for the bus from EDGE count `e` on (R487). -/
def State.canFrameAt (s : State) (c e : Nat) : Option CanSend :=
  let objs := (s.canCompete c e).map (fun x =>
    (arbKey (s.bitOf (R.OBJ_CFG c x.1) 27) (s.fldOf (R.OBJ_ID c x.1) 28 0), CanSend.object x.1 x.2))
  let sols := (((s.ctl c).solicit.take 1).filter (fun x => decide (x.2 ≤ e))).map (fun x =>
    (arbKey true (solicitId x.1), CanSend.solicit x.1))
  (bestOf (objs ++ sols)).map (·.2)

/-- The frame that the controller began at EDGE count `e` and that occupies it now: none where it was not on the bus then,
or had not seen the frame before to its end. A frame in progress at T0 goes on through the restart (R75, R495). -/
def State.canSending (s : State) (c e : Nat) : Option CanSend :=
  let live := s.canLive c || (s.canOn c && (s.warm.phase == .restoring || s.warm.phase == .restored) && decide (e ≤ s.warm.t0))
  if live && decide (s.canState c < 2) && decide ((s.ctl c).freeAt ≤ e) then s.canFrameAt c e else none

/-- A frame on the bus ends now: the next one carries the newest payloads (R488). -/
def State.canEnds (s : State) (c : Nat) : State :=
  let s := s.modCtl c (fun t => { t with freeAt := s.now })
  { s with can := { s.can with objs := s.can.objs.map (fun x =>
      if x.1 / 128 = c then (x.1, { x.2 with pend := x.2.pend.map CanReq.newest }) else x) } }

/-- A request of object `o` with a payload (R486, R488). -/
def State.canRequest (s : State) (c o : Nat) (b : List Byte) : State :=
  match (s.canObj c o).pend with
  | some q =>
    let old := if s.canUp c then q.payloads else []
    (s.bump (R.OBJ_OVERRUN c o)).modCanObj c o (fun x =>
      { x with last := some b, pend := some { q with payloads := (b, s.now) :: old } })
  | none => s.modCanObj c o (fun x => { x with last := some b, pend := some ⟨s.now, [(b, s.now)]⟩ })

/-- A request is dropped. -/
def State.canDrop (s : State) (c o : Nat) : State := s.modCanObj c o (fun x => { x with pend := none })

/-- The frame that began at `e` has used up its request. -/
def State.canUsed (s : State) (c o e : Nat) : State :=
  s.modCanObj c o (fun x => { x with pend := x.pend.bind (fun q => q.after e) })

/-- Objects of `c` with a pending request: CAN.PENDING (R505). -/
def State.canPending (s : State) (c : Nat) : Nat :=
  ((List.range 128).filter (fun o => (s.canObj c o).pend.isSome)).length

/-- OBJ.STAT with PEND (R508). -/
def State.objStat (s : State) (c o : Nat) : Word := setBit (s.reg (R.OBJ_STAT c o)) 8 (s.canObj c o).pend.isSome

/-- Ask for a SOLICIT to a node, or to all (R498). -/
def State.canSolicit (s : State) (c node : Nat) : State :=
  s.modCtl c (fun t => { t with solicit := t.solicit ++ [(node, s.now)] })

/-- A SOLICIT to all, where Septed runs. -/
def State.canSolicitAll (s : State) (c : Nat) : State := if s.septed c then s.canSolicit c 0 else s

/-- The requests of a boundary (R486). -/
def State.canRequests (s : State) (k : Nat) : State :=
  if !s.running then s
  else forUpTo 4 (fun c s =>
    if !s.canLive c then s
    else forEach (s.canObjs c true) (fun o s =>
      let cfg := s.reg (R.OBJ_CFG c o)
      let due := bit cfg 0 && rateDue (s.reg (R.OBJ_RATE c o)) k
      if !(due || bit cfg 1) then s
      else
        let x := s.canEncode c o
        let s := s.orReg (R.OBJ_STAT c o) (BitVec.ofNat 32 x.2)
        if due || (s.canObj c o).last != some x.1 then s.canRequest c o x.1 else s) s) s

/-! Error confinement (R490 to R493). -/

/-- Show the counters and the last error. -/
def State.canShow (s : State) (c : Nat) : State :=
  let t := s.ctl c
  (s.putFld (R.CAN_STAT c) 31 24 (min 255 t.tec)).putFld (R.CAN_STAT c) 23 16 (min 255 t.recv)

/-- Entry into BUS_OFF (R492). -/
def State.canBusOff (s : State) (c : Nat) : State :=
  let s := (s.putFld (R.CAN_STAT c) 1 0 canBUSOFF).bump (R.CAN_BUSOFFCNT c)
  let s := s.modCtl c (fun t => { t with offAt := s.now })
  let s := forEach ((s.canObjs c true).filter (fun o => s.bitOf (R.OBJ_CFG c o) 26 && (s.canObj c o).pend.isSome))
    (fun o s => ((s.canDrop c o).orReg (R.OBJ_STAT c o) 16).bump (R.CAN_DROPCNT c)) s
  s.canEvent c 0xA002 (BitVec.ofNat 32 (s.canPending c)) (s.reg (R.CAN_BUSOFFCNT c)) s.tickLo

/-- The state that the counters give (R490). -/
def State.canConfine (s : State) (c : Nat) : State :=
  let s := s.canShow c
  let t := s.ctl c
  if 255 < t.tec then s.canBusOff c
  else
    let new := if 127 < t.tec ∨ 127 < t.recv then canPASSIVE else canACTIVE
    if new = s.canState c then s
    else
      let s := s.putFld (R.CAN_STAT c) 1 0 new
      if new = canPASSIVE then
        s.canEvent c 0xA001 (BitVec.ofNat 32 (min 255 t.tec)) (BitVec.ofNat 32 (min 255 t.recv)) s.tickLo
      else s

/-- Add to the counters. -/
def State.canCount (s : State) (c tx rx : Nat) : State :=
  (s.modCtl c (fun t => { t with tec := t.tec + tx, recv := min 255 (t.recv + rx) })).canConfine c

/-- An attempt of object `o` that began at `e` ends without success (R489): a single-shot object has made its one attempt. -/
def State.canFails (s : State) (c o e : Nat) : State :=
  if s.bitOf (R.OBJ_CFG c o) 26 then (s.canUsed c o e).orReg (R.OBJ_STAT c o) 16 else s

/-- The delay measured in a frame of object `o`, if it is an FD frame with BRS and compensation is on (R474). -/
def State.canMeasure (s : State) (c o tdcv : Nat) : State :=
  let cfg := s.reg (R.OBJ_CFG c o)
  let tdc := s.reg (R.CAN_TDC c)
  if bit cfg 29 && bit cfg 28 && bit tdc 31 then
    let s := s.setReg (R.CAN_TDCV c) (BitVec.ofNat 32 (min 127 tdcv))
    if 127 < min 127 tdcv + fld tdc 6 0 then s.orReg (R.CAN_STAT c) 0x800 else s
  else s

/-- OBJ.ATTEMPTS after an ACK error (R493). -/
def State.canUnacked (s : State) (c o : Nat) : State :=
  let n := (s.reg (R.OBJ_ATTEMPTS c o)).toNat + 1
  if n < s.fldOf (R.OBJ_LIMITS c o) 31 24 then s.setReg (R.OBJ_ATTEMPTS c o) (BitVec.ofNat 32 n)
  else
    let s := ((s.canDrop c o).orReg (R.OBJ_STAT c o) 32).setReg (R.OBJ_ATTEMPTS c o) 0
    s.canEvent c 0xA004 (BitVec.ofNat 32 o) (s.reg (R.OBJ_ID c o)) s.tickLo

/-- An attempt that began `len` EDGE cycles ago ends in an ACK error (R493). An error-passive transmitter that sees no dominant
bit in its passive error flag does not count it (R490). -/
def State.canAckError (s : State) (c : Nat) (dominant : Bool) (tdcv len : Nat) : State :=
  let e := s.now - len
  match s.canSending c e with
  | none => s
  | some w =>
    let s := s.putFld (R.CAN_STAT c) 10 8 3
    let inc := if s.canState c = canPASSIVE ∧ !dominant then 0 else 8
    let s := match w with
      | .solicit _ => s
      | .object o _ => ((s.canMeasure c o tdcv).canUnacked c o).canFails c o e
    (s.canCount c inc 0).canEnds c

/-- A bus error seen as transmitter or receiver, with its LEC code. `extra` is 1 for the further increments of 8 that the
standard gives while an error flag goes on, and 2 where it makes an exception to counting (R490). The first error of a frame
ends the attempt that began `len` EDGE cycles ago. -/
def State.canBusError (s : State) (c lec : Nat) (tx : Bool) (extra : Nat) (tdcv : Option Nat) (len : Nat) : State :=
  let e := s.now - len
  let own := if tx && extra != 1 then s.canSending c e else none
  if !s.canUp c && own.isNone then s
  else
    let s := if 1 ≤ lec ∧ lec ≤ 6 then s.putFld (R.CAN_STAT c) 10 8 lec else s
    let inc := if extra = 2 then 0 else if tx || extra == 1 then 8 else 1
    let s := match own with
      | some (.object o _) => ((match tdcv with | some v => s.canMeasure c o v | none => s).canFails c o e)
      | _ => s
    (s.canCount c (if tx then inc else 0) (if tx then 0 else inc)).canEnds c

/-- Arbitration of the frame that began `len` EDGE cycles ago is lost (R489). -/
def State.canArbLost (s : State) (c len : Nat) : State :=
  let e := s.now - len
  match s.canSending c e with
  | none => s
  | some (.solicit _) => s.canEnds c
  | some (.object o _) => (s.canFails c o e).canEnds c

/-- BUS_OFF ends (R491, R498). -/
def State.canRecover (s : State) (c : Nat) : State :=
  if !(s.canLive c && s.canState c == canBUSOFF) then s
  else
    let us := (s.now - (s.ctl c).offAt) / edgesPerUs
    let s := (s.modCtl c (fun t => { t with tec := 0, recv := 0 })).canShow c
    let s := s.putFld (R.CAN_STAT c) 1 0 canACTIVE
    let s := s.canEvent c 0xA003 (satWord us) (BitVec.ofNat 32 (s.canPending c)) s.tickLo
    (s.canSolicitAll c).canEnds c

/-- Eleven recessive bits: the controller joins the bus (R495). -/
def State.canIntegrated (s : State) (c : Nat) : State :=
  if !(s.canLive c && s.canState c == canOFFBUS) then s
  else
    let s := (s.modCtl c (fun t => { t with tec := 0, recv := 0 })).canShow c
    (s.putFld (R.CAN_STAT c) 1 0 canACTIVE).canEnds c

/-- The identifier word of a frame of object `o`, in the layout of OBJ.RXID. -/
def State.canIdWord (s : State) (c o : Nat) : Word :=
  let cfg := s.reg (R.OBJ_CFG c o)
  BitVec.ofNat 32 (s.fldOf (R.OBJ_ID c o) 28 0 + (bit cfg 27).toNat * 2 ^ 29 + (bit cfg 29).toNat * 2 ^ 30 +
    (bit cfg 28).toNat * 2 ^ 31)

/-- The frame of object `o` with payload `b` that began at `e` is acknowledged (R487, R493, R505). -/
def State.canObjSent (s : State) (c o tdcv e : Nat) (b : List Byte) : State :=
  let s := (s.emit (.can c (s.canIdWord c o) b)).canUsed c o e
  let s := ((s.bump (R.OBJ_FRCNT c o)).setReg (R.OBJ_LASTTICK c o) s.tickLo).setReg (R.OBJ_ATTEMPTS c o) 0
  let s := s.clrReg (R.OBJ_STAT c o) 32
  let s := (List.range 16).foldl (fun s i => s.setReg (R.OBJ_DATA c o i) (wAt b (4 * i))) s
  s.canMeasure c o tdcv

/-- The SOLICIT at the head goes out; addressed ones stand 100 ms apart (R498). -/
def State.canSolicited (s : State) (c node : Nat) : State :=
  let s := s.modCtl c (fun t =>
    { t with solicit := t.solicit.drop 1, askedAt := if node = 0 then t.askedAt else some s.now })
  s.emit (.can c (BitVec.ofNat 32 (solicitId node + 2 ^ 29)) [1])

/-- The frame that began `len` EDGE cycles ago is acknowledged (R487, R493), with the delay measured in it (R474). -/
def State.canSent (s : State) (c tdcv len : Nat) : State :=
  let e := s.now - len
  match s.canSending c e with
  | none => s
  | some w =>
    let s := ((s.bump (R.CAN_TXCNT c)).modCtl c (fun t => { t with tec := t.tec - 1 })).canConfine c
    let s := match w with
      | .solicit n => s.canSolicited c n
      | .object o b => s.canObjSent c o tdcv e b
    s.canEnds c

/-! Receiving (R482 to R485). -/

/-- A good reception counts down the receive error counter; from above 127 it comes to stand in 119 to 127 (R490). -/
def State.canGood (s : State) (c : Nat) : State :=
  if 127 < (s.ctl c).recv then
    let v := 119 + Config.canRecSet s.free % 9
    (s.useFree.modCtl c (fun t => { t with recv := v })).canConfine c
  else (s.modCtl c (fun t => { t with recv := t.recv - 1 })).canConfine c

/-- The first configured receive object that a frame matches (R482). -/
def State.canMatch (s : State) (c : Nat) (f : CanFrame) : Option Nat :=
  (s.canObjs c false).find? (fun o =>
    let id := BitVec.ofNat 32 f.id
    ((id ^^^ s.reg (R.OBJ_ID c o)) &&& s.reg (R.OBJ_MASK c o)) == 0 && f.ide == s.bitOf (R.OBJ_CFG c o) 27)

/-- The object that stores a frame matching `o`: for a group its objects in turn (R485). -/
def State.canTurn (s : State) (c o : Nat) : State × Nat :=
  let g := s.fldOf (R.OBJ_CFG c o) 21 16
  if g = 0 then (s, o)
  else
    let l := (s.canObjs c false).filter (fun p => s.fldOf (R.OBJ_CFG c p) 21 16 == g)
    let i := tabGet (fun _ => 0) s.can.groups (64 * c + g)
    ({ s with can := { s.can with groups := tabSet (fun _ => 0) s.can.groups (64 * c + g) ((i + 1) % max 1 l.length) } },
      l.getD i o)

/-- How long after its last EOF bit a frame's writes reach the table: 0.3 to 1.0 us (R28, R483). -/
def canLag (lag : Nat) : Nat := max 120 (min 400 lag)

/-- Acceptance of a frame by object `o`, at its last EOF bit; its slot writes arrive `lag` EDGE cycles later (R482, R483). -/
def State.canAccept (s : State) (c o lag : Nat) (f : CanFrame) : State :=
  let b := f.data.take (dlcBytes f.dlc)
  let s := s.modCanObj c o (fun x => { x with accepted := some s.now })
  let s := (s.bump (R.OBJ_FRCNT c o)).setReg (R.OBJ_LASTTICK c o) s.tickLo
  let s := s.setReg (R.OBJ_RXID c o) (BitVec.ofNat 32 (f.id + f.ide.toNat * 2 ^ 29 + f.fdf.toNat * 2 ^ 30 +
    f.brs.toNat * 2 ^ 31))
  let s := s.setReg (R.OBJ_RXINFO c o) (BitVec.ofNat 32 (f.dlc % 16 + 16 * f.esi.toNat))
  let s := (List.range 16).foldl (fun s i => s.setReg (R.OBJ_DATA c o i) (wAt b (4 * i))) s
  let s := s.clrReg (R.OBJ_STAT c o) 128
  let w := writerOf clsCan (128 * c + o)
  (List.range (s.fldOf (R.OBJ_CFG c o) 11 8)).foldl (fun s i =>
    let m := s.reg (R.OBJ_MAPA c o i)
    if b.length < mapByte m + mapLen m then s.orReg (R.OBJ_STAT c o) 8
    else if s.running then
      s.stageAt (s.now + canLag lag) w (fld m 12 0)
        (mapDecode m (s.reg (R.OBJ_MAPSCALE c o i)) (s.reg (R.OBJ_MAPOFS c o i)) b) (qualOf w qVALID)
    else s) s

/-- The write of R484: what each slot has committed, with the flags of that commit, STALE 1 and VALID 0; the object is the
writer that CLASS and INDEX name (R21). -/
def State.canStale (s : State) (c o : Nat) : State :=
  (List.range (s.fldOf (R.OBJ_CFG c o) 11 8)).foldl (fun s i =>
    let m := s.reg (R.OBJ_MAPA c o i)
    let v := s.slot (fld m 12 0)
    let w := writerOf clsCan (128 * c + o)
    s.stage w (fld m 12 0) v.val (fld v.qual 4 2 * 4 + qSTALE)) s

/-- The timeout of a receive object, if it is due at the present boundary (R484). -/
def State.canTimeout (s : State) (c o : Nat) : State :=
  let n := s.fldOf (R.OBJ_LIMITS c o) 23 0
  let from_ := max s.can.runAt (((s.canObj c o).accepted).getD 0)
  if n = 0 || !s.running || s.bitOf (R.OBJ_STAT c o) 7 || decide (s.edgeBase < from_ + n * s.tickEdges) ||
      !(s.canObjs c false).contains o then s
  else
    let s := (s.canStale c o).orReg (R.OBJ_STAT c o) 0xC0
    s.canEvent c 0xA005 (BitVec.ofNat 32 o) (s.reg (R.OBJ_NODE c o)) s.tickLo

/-- Every receive timeout of a boundary. -/
def State.canTimeouts (s : State) : State :=
  if !s.running then s
  else forUpTo 4 (fun c s => if s.canOn c then forEach (s.canObjs c false) (fun o s => s.canTimeout c o) s else s) s

/-! The census (R500 to R503). -/

/-- CEN.STAT fields. -/
def State.cenState (s : State) (c e : Nat) : Nat := s.fldOf (R.CEN_STAT c e) 1 0
def State.cenNode (s : State) (c e : Nat) : Nat := s.fldOf (R.CEN_STAT c e) 22 16
def State.cenBound (s : State) (c e : Nat) : Bool := s.bitOf (R.CEN_STAT c e) 2

/-- The bound entry of a node number, and the PRESENT entry that holds it. -/
def State.cenBoundOf (s : State) (c n : Nat) : Option Nat :=
  (List.range 64).find? (fun e => s.cenBound c e && s.cenNode c e == n)
def State.cenHolder (s : State) (c n : Nat) : Option Nat :=
  (List.range 64).find? (fun e => s.cenState c e == 1 && s.cenNode c e == n)

/-- An ANNOUNCE or HEARTBEAT from the node of PRESENT entry `e`. -/
def State.cenSeen (s : State) (c e : Nat) : State :=
  let s := s.setReg (R.CEN_LASTSEEN c e) (if s.dev = stRUN ∨ s.dev = stSAFE then s.tickLo else 0)
  s.seenNow c e

/-- Whether the identity of an entry is the announced one. -/
def State.cenSame (s : State) (c e : Nat) (b : List Byte) : Bool :=
  s.reg (R.CEN_VENDOR c e) == wAt b 4 && s.reg (R.CEN_NTYPE c e) == wAt b 8 &&
    s.reg (R.CEN_SER_LO c e) == wAt b 12 && s.reg (R.CEN_SER_HI c e) == wAt b 16

/-- Entry `e` becomes PRESENT with an announced identity, or is refreshed. -/
def State.cenJoin (s : State) (c e n : Nat) (b : List Byte) : State :=
  let new := s.cenState c e != 1
  let s := (s.putFld (R.CEN_STAT c e) 1 0 1).putFld (R.CEN_STAT c e) 22 16 n
  let s := (((s.setReg (R.CEN_VENDOR c e) (wAt b 4)).setReg (R.CEN_NTYPE c e) (wAt b 8)).setReg
    (R.CEN_SER_LO c e) (wAt b 12)).setReg (R.CEN_SER_HI c e) (wAt b 16)
  let s := s.cenSeen c e
  if new then
    (s.bump (R.CEN_JOINS c e)).raise 0xA006 c (BitVec.ofNat 32 c) (BitVec.ofNat 32 e) (BitVec.ofNat 32 n) s.tickLo
  else s

/-- Whether a NODES record's identity matches an ANNOUNCE. -/
def nodeMatches (r : Rec) (b : List Byte) : Bool :=
  wAt r.body 4 == wAt b 4 && wAt r.body 8 == wAt b 8 &&
    (uAt r.body 1 1 % 2 == 0 || (wAt r.body 12 == wAt b 12 && wAt r.body 16 == wAt b 16))

/-- An accepted ANNOUNCE (R501). -/
def State.cenAnnounce (s : State) (c n : Nat) (b : List Byte) : State :=
  let bad := fun (s : State) (code : Nat) => s.canEvent c code (BitVec.ofNat 32 n) (wAt b 4) (wAt b 8)
  match s.cenBoundOf c n with
  | some e =>
    match s.image.rec? secNODES (64 * c + e) 0 with
    | none => s
    | some r =>
      if nodeMatches r b then s.cenJoin c e n b else bad (s.orReg (R.CEN_STAT c e) 16) 0xA008
  | none =>
    match s.cenHolder c n with
    | some e => if s.cenSame c e b then s.cenSeen c e else bad (s.orReg (R.CEN_STAT c e) 8) 0xA009
    | none =>
      match (List.range 64).find? (fun e => !s.cenBound c e && s.cenState c e == 0) with
      | some e => s.cenJoin c e n b
      | none =>
        (s.bump (R.CAN_CENSUSFULL c)).canEvent c 0xA00A (BitVec.ofNat 32 n) (wAt b 4) s.tickLo

/-- An accepted HEARTBEAT (R498, R501). -/
def State.cenHeartbeat (s : State) (c n : Nat) (b : List Byte) : State :=
  match s.cenHolder c n with
  | some e => (s.putFld (R.CEN_STAT c e) 15 8 (uAt b 1 1)).cenSeen c e
  | none =>
    let due := match (s.ctl c).askedAt with
      | none => true
      | some t => decide (t + 100 * edgesPerMs ≤ s.now)
    if due && (s.ctl c).solicit.all (fun x => x.1 == 0) then s.canSolicit c n else s

/-- PRESENT entry `e` leaves the census (R502). Outside RUN and SAFE no slot is written and no lane runs, so that nothing is left
to do at the next boundary (R495, R503). -/
def State.cenLeave (s : State) (c e : Nat) : State :=
  let n := s.cenNode c e
  let b := s.cenBound c e
  let s := s.putFld (R.CEN_STAT c e) 1 0 (if b then 2 else 0)
  let s := if b && s.running then { s with can := { s.can with left := s.can.left ++ [(c, e)] } } else s
  s.raise 0xA007 c (BitVec.ofNat 32 c) (BitVec.ofNat 32 e) (BitVec.ofNat 32 n) s.tickLo

/-- The absence timer of entry `e` (R502). -/
def State.cenAbsent (s : State) (c e : Nat) : State :=
  let last := tabGet (fun _ => 0) s.can.seen (64 * c + e)
  if s.canLive c && s.canState c != canOFFBUS && s.cenState c e == 1 &&
      decide (last + (s.fldOf (R.CAN_CTRL c) 15 0) * edgesPerMs ≤ s.now + edgesPerMs) then s.cenLeave c e
  else s

/-- A Septed frame (R496, R497). -/
def State.septedFrame (s : State) (c : Nat) (f : CanFrame) : State :=
  let kind := f.id / 256 % 256
  let n := f.id % 256
  let b := f.data.take (dlcBytes f.dlc)
  let node := decide (1 ≤ n) && decide (n ≤ 127)
  let v := uAt b 0 1 == 1 && !f.remote
  if kind = 1 ∧ n ≤ 127 ∧ v ∧ !f.fdf ∧ f.dlc = 1 then s
  else if kind = 2 ∧ node ∧ v ∧ f.fdf ∧ f.dlc = 11 then s.cenAnnounce c n b
  else if kind = 3 ∧ node ∧ v ∧ f.dlc = 4 then s.cenHeartbeat c n b
  else if kind = 4 ∧ node ∧ v ∧ !f.fdf ∧ f.dlc = 1 then
    (match s.cenHolder c n with
     | some e => s.cenLeave c e
     | none => s)
  else s.bump (R.CAN_RXDISC c)

/-- A frame ends whose writes reach the table `lag` EDGE cycles later (R470, R482, R496): the next state, and the object that
accepted it. -/
def State.canReceive (s : State) (c lag : Nat) (f : CanFrame) : State × Option Nat :=
  if !s.canUp c then (s, none)
  else
    let s := ((s.bump (R.CAN_RXCNT c)).canGood c).canEnds c
    if s.septed c && f.ide && decide (0x1FFF0000 ≤ f.id) && decide (f.id ≤ 0x1FFFFFFF) then (s.septedFrame c f, none)
    else if f.remote then (s.bump (R.CAN_RXDISC c), none)
    else
      match s.canMatch c f with
      | none => (s.bump (R.CAN_RXDISC c), none)
      | some o =>
        let t := s.canTurn c o
        (t.1.canAccept c t.2 lag f, some t.2)

/-- STALE writes for entries that have left since the last boundary (R503). -/
def State.canLeft (s : State) : State :=
  if !s.running then { s with can := { s.can with left := [] } }
  else
    forEach s.can.left (fun x s =>
      forEach (s.canObjs x.1 false) (fun o s =>
        let w := s.reg (R.OBJ_NODE x.1 o)
        if bit w 31 && fld w 5 0 == x.2 then s.canStale x.1 o else s) s)
      { s with can := { s.can with left := [] } }

/-! Device states, restart and load (R495, R498, R505). -/

/-- What entry into a device state does: into READY the first SOLICIT; into RUN the receive timers; into a state without
a bus the controllers fall silent. -/
def State.canEntered (s : State) : State :=
  let s := if s.dev = stRUN then { s with can := { s.can with runAt := s.edgeBase } } else s
  forUpTo 4 (fun c s =>
    if s.dev = stREADY ∨ s.dev = stRUN ∨ s.dev = stSAFE then
      if s.canOn c && !(s.ctl c).asked then
        (s.modCtl c (fun t => { t with asked := true })).canSolicitAll c
      else s
    else s.putFld (R.CAN_STAT c) 1 0 canOFFBUS) s

/-- A warm restart that resumes (R78, R495, R498). -/
def State.canResume (s : State) : State :=
  forUpTo 4 (fun c s =>
    if !s.canOn c then s
    else
      let n := s.canPending c
      let s := (s.canObjs c true).foldl (fun s o =>
        (s.modCanObj c o (fun x => { x with pend := none })).setReg (R.OBJ_ATTEMPTS c o) 0) (s.bumpBy (R.CAN_DROPCNT c) n)
      let s := (s.modCtl c (fun t => { t with tec := 0, recv := 0, solicit := [] })).canShow c
      let s := s.putFld (R.CAN_STAT c) 1 0 canOFFBUS
      let s := forUpTo 64 (fun e s =>
        if s.cenState c e = 1 then
          s.seenNow c e
        else s) s
      s.canSolicitAll c) s

/-- The CFG registers of an object in ascending address order (R476). -/
def objRegs (c o : Nat) : List Nat :=
  [R.OBJ_CFG c o, R.OBJ_ID c o, R.OBJ_MASK c o, R.OBJ_RATE c o, R.OBJ_LIMITS c o, R.OBJ_NODE c o] ++
  (List.range 8).flatMap (fun i => [R.OBJ_MAPA c o i, R.OBJ_MAPSCALE c o i, R.OBJ_MAPOFS c o i, R.OBJ_MAPSAFE c o i])

/-- The words of a CAN record with their registers. -/
def canWords (r : Rec) : List (Nat × Nat × Word) :=
  if r.kind = 0 then r.words [R.CAN_CTRL r.key, R.CAN_NBT r.key, R.CAN_DBT r.key, R.CAN_TDC r.key]
  else r.words (objRegs (r.key / 128) (r.key % 128))

/-- The form of a CAN record (R476) and of a NODES record (R500). -/
def canForm (r : Rec) : List Finding :=
  need (decide (r.key ≤ if r.kind = 0 then 3 else 511)) (atOff 10 secCAN r.off) ++
  need (decide (r.kind ≤ 1)) (atOff 10 secCAN (r.off + 2)) ++ formLen secCAN r (if r.kind = 0 then 16 else 152)

def nodeForm (r : Rec) : List Finding :=
  need (decide (r.key ≤ 255)) (atOff 10 secNODES r.off) ++ need (r.kind == 0) (atOff 10 secNODES (r.off + 2)) ++
  formLen secNODES r 36

/-- The failures of a controller's record (R475, R504). -/
def canCtlCheck (s : State) (r : Rec) : List Finding :=
  let w := fun i => wAt r.body (4 * i)
  let at_ := fun (step : Nat) (ok : Bool) (i : Nat) => need ok (atOff step secCAN (r.off + 8 + 4 * i))
  let en := bit (w 0) 31
  let nbt := w 1
  let dbt := w 2
  let nbit := (fld nbt 31 24 + 1) * (3 + fld nbt 23 16 + fld nbt 14 8)
  let dtq := 3 + fld dbt 20 16 + fld dbt 11 8
  let dbit := (fld dbt 28 24 + 1) * dtq
  let abst := fld (w 0) 15 0
  need (s.usableBit (unitCan r.key)) ⟨12, r.off, unitCan r.key, secCAN⟩ ++ imageBits secCAN (canWords r) ++
  at_ 14 (!bit (w 0) 30 || (decide (10 ≤ abst) && decide (abst ≤ 60000))) 0 ++
  at_ 14 (!en || (decide (80 ≤ nbit) && decide (fld nbt 6 0 ≤ fld nbt 14 8) && decide (1 ≤ fld nbt 23 16) &&
    decide (1 ≤ fld nbt 14 8))) 1 ++
  at_ 14 (!en || (decide (10 ≤ dbit) && decide (dbit ≤ nbit) && decide (fld dbt 3 0 ≤ fld dbt 11 8) &&
    decide (5 ≤ dtq))) 2 ++
  at_ 14 (!en || !bit (w 3) 31 || decide (fld dbt 28 24 ≤ 1)) 3

/-- The objects of the image that share the group of an object (R485). -/
def Image.canGroup (im : Image) (r : Rec) : List Rec :=
  (im.sec secCAN).filter (fun x => x.kind == 1 && x.key / 128 == r.key / 128 && bit (wAt x.body 0) 31 &&
    fld (wAt x.body 0) 21 16 == fld (wAt r.body 0) 21 16)

/-- R485 on an object of a group, by word of its record: each relation is charged to the later record (R711). -/
def groupOk (im : Image) (r : Rec) (i : Nat) : Bool :=
  let l := im.canGroup r
  let before := l.filter (fun x => decide (x.off < r.off))
  let w := fun (x : Rec) => wAt x.body (4 * i)
  let rx := !bit (wAt r.body 0) 30
  if i = 0 then
    let lo := l.foldl (fun a x => min a x.key) r.key
    let hi := l.foldl (fun a x => max a x.key) r.key
    before.all (fun x => bit (w x) 30 == bit (w r) 30 && (!rx || bit (w x) 27 == bit (w r) 27)) &&
      (before.length + 1 != l.length || decide (hi + 1 - lo = l.length))
  else before.all (fun x => !rx || w x == w r)

/-- The failures of an object's record (R479, R485, R504). -/
def canObjCheck (s : State) (im : Image) (r : Rec) : List Finding :=
  let w := fun i => wAt r.body (4 * i)
  let at_ := fun (step : Nat) (ok : Bool) (i : Nat) => need ok (atOff step secCAN (r.off + 8 + 4 * i))
  let c := r.key / 128
  let cfg := w 0
  let b := bit cfg
  let tx := b 30
  let nmap := fld cfg 11 8
  let len := dlcBytes (fld cfg 15 12)
  let ctl := im.rec? secCAN c 0
  let septed := match ctl with | some x => bit (wAt x.body 0) 30 | none => false
  let ackmax := fld (w 4) 31 24
  let id := (w 1).toNat
  let grp := fun i => fld cfg 21 16 == 0 || !b 31 || groupOk im r i
  let atCtl := fun (step : Nat) (ok : Bool) (i : Nat) =>
    need ok (atOff step secCAN (max (r.off + 8 + 4 * i) (match ctl with | some x => x.off + 8 | none => 0)))
  need (s.usableBit (unitCan c)) ⟨12, r.off, unitCan c, secCAN⟩ ++ imageBits secCAN (canWords r) ++
  at_ 14 ((if tx then (b 0 || b 1) && (!b 28 || b 29) && (b 29 || decide (fld cfg 15 12 ≤ 8))
    else !(b 29 || b 28 || b 26 || b 25 || b 1 || b 0) && fld cfg 15 12 == 0) &&
    decide (nmap ≤ 8) && grp 0) 0 ++
  at_ 14 ((b 27 || decide (id ≤ 0x7FF)) && grp 1) 1 ++
  atCtl 14 (!(septed && b 27 && decide (0x1FFF0000 ≤ id) && decide (id ≤ 0x1FFFFFFF))) 1 ++
  at_ 14 ((!tx || w 2 == 0) && grp 2) 2 ++
  at_ 14 (!b 0 || (decide (1 ≤ fld (w 3) 10 0) && decide (fld (w 3) 10 0 ≤ 1024) &&
    decide (fld (w 3) 25 16 < fld (w 3) 10 0))) 3 ++
  at_ 14 (ackmax != 0 && (if tx then fld (w 4) 23 0 == 0 else ackmax == 255)) 4 ++
  atCtl 17 (!b 31 || (match ctl with | some x => bit (wAt x.body 0) 31 | none => false)) 0 ++
  at_ 17 (!bit (w 5) 31 || im.has secNODES (64 * c + fld (w 5) 5 0) 0) 5 ++
  (List.range 8).flatMap (fun i =>
    let m := w (6 + 4 * i)
    at_ 14 (bit m 31 == decide (i < nmap) && decide (mapTyp m ≤ 7) &&
      (!(tx && bit m 31) || decide (mapByte m + mapLen m ≤ len))) (6 + 4 * i) ++
    at_ 14 (fIsFin (w (7 + 4 * i)) && !feq (w (7 + 4 * i)) 0) (7 + 4 * i) ++
    at_ 14 (fIsFin (w (8 + 4 * i))) (8 + 4 * i) ++ at_ 14 (fIsFin (w (9 + 4 * i))) (9 + 4 * i))

/-- The failures of a CAN record. -/
def canCheck (s : State) (im : Image) (r : Rec) : List Finding :=
  if r.kind = 0 then canCtlCheck s r else canObjCheck s im r

/-- The failures of a NODES record (R500, R504). -/
def nodeCheck (s : State) (im : Image) (r : Rec) : List Finding :=
  let at_ := fun (step : Nat) (ok : Bool) (o : Nat) => need ok (atOff step secNODES (r.off + 8 + o))
  let c := r.key / 64
  let n := uAt r.body 0 1
  let before := (im.sec secNODES).filter (fun x => decide (x.off < r.off))
  let septed := match im.rec? secCAN c 0 with | some x => bit (wAt x.body 0) 30 | none => false
  let name := slice r.body 0x14 16
  need (s.usableBit (unitCan c)) ⟨12, r.off, unitCan c, secNODES⟩ ++
  at_ 14 (decide (1 ≤ n) && decide (n ≤ 127) && !before.any (fun x => x.key / 64 == c && uAt x.body 0 1 == n)) 0 ++
  at_ 14 (decide (uAt r.body 1 1 < 2)) 1 ++ zeroField 14 secNODES r 2 2 ++
  at_ 14 (uAt r.body 1 1 % 2 == 1 || uAt r.body 12 8 == 0) 12 ++
  at_ 14 (name.any (fun b => b != 0) && !before.any (fun x => slice x.body 0x14 16 == name)) 0x14 ++
  need septed (atOff 17 secNODES r.off)

/-- The registers of CANc that a load without resume sets to their reset values. -/
def canClears (c : Nat) : List Nat :=
  [R.CAN_STAT c, R.CAN_TDCV c, R.CAN_BUSOFFCNT c, R.CAN_RXCNT c, R.CAN_TXCNT c, R.CAN_RXDISC c, R.CAN_DROPCNT c,
   R.CAN_CENSUSFULL c] ++
  (List.range 64).flatMap (fun e => [R.CEN_STAT c e, R.CEN_VENDOR c e, R.CEN_NTYPE c e, R.CEN_SER_LO c e,
    R.CEN_SER_HI c e, R.CEN_LASTSEEN c e, R.CEN_JOINS c e])

/-- The RO and W1C registers of an object. -/
def objClears (c o : Nat) : List Nat :=
  [R.OBJ_STAT c o, R.OBJ_FRCNT c o, R.OBJ_ATTEMPTS c o, R.OBJ_OVERRUN c o, R.OBJ_RXID c o, R.OBJ_RXINFO c o,
   R.OBJ_LASTTICK c o] ++ (List.range 16).map (R.OBJ_DATA c o)

/-- The units as a load leaves them. -/
def State.clearCan (s : State) : State := { s with can := {} }

/-- The controllers at a load that does not resume state (R501, R505). -/
def State.loadCan (s : State) : State :=
  let s := s.clearCan
  let s := forUpTo 4 (fun c s =>
    let s := (canClears c).foldl (fun s a => s.setReg a (regReset a)) s
    forUpTo 128 (fun o s => (objClears c o).foldl (fun s a => s.setReg a (regReset a)) s) s) s
  let s := forEach (s.image.sec secCAN) (fun r s => s.setImage (canWords r)) s
  forEach (s.image.sec secNODES) (fun r s =>
    s.setReg (R.CEN_STAT (r.key / 64) (r.key % 64)) (BitVec.ofNat 32 (uAt r.body 0 1 * 65536 + 6))) s

/-! Commands. -/

/-- CAN_RX_TIMEOUT. -/
def execCanRxTimeout (c o : Nat) (s : State) : Out := answer (decide (c < 4) && decide (o < 128)) (s.canTimeout c o)

/-- CAN_FRAME_SENT. -/
def execCanFrameSent (c tdcv len e : Nat) (s : State) : Out := answer (decide (c < 4)) ((s.atEdge e).canSent c tdcv len)

/-- CAN_ACK_ERROR. -/
def execCanAckError (c : Nat) (dominant : Bool) (tdcv len e : Nat) (s : State) : Out :=
  answer (decide (c < 4)) ((s.atEdge e).canAckError c dominant tdcv len)

/-- CAN_BUS_ERROR. -/
def execCanBusError (c lec : Nat) (tx : Bool) (extra : Nat) (tdcv : Option Nat) (len e : Nat) (s : State) : Out :=
  answer (decide (c < 4)) ((s.atEdge e).canBusError c lec tx extra tdcv len)

/-- CAN_ARBITRATION_LOST. -/
def execCanArbitrationLost (c len e : Nat) (s : State) : Out := answer (decide (c < 4)) ((s.atEdge e).canArbLost c len)

/-- BUS_OFF_RECOVERY. -/
def execBusOffRecovery (c e : Nat) (s : State) : Out := answer (decide (c < 4)) ((s.atEdge e).canRecover c)

/-- CAN_BUS_INTEGRATED. -/
def execCanBusIntegrated (c : Nat) (s : State) : Out := answer (decide (c < 4)) (s.canIntegrated c)

end Sys2Proof.Machine
end

