-- ==== Sys2Proof/Machine/Dio.lean ====
section
/-! DEFINITION. DIO balls, encoders and interlock lines (R381 to R408).
Where the spec can be read in two ways the assumption log says what was read: entries 34, 54, 55 (DEDUCED unless marked there otherwise). -/

namespace Sys2Proof.Machine

def dioOFF : Nat := 0
def dioGPIOIN : Nat := 1
def dioGPIOOUT : Nat := 2
def dioPWM : Nat := 3
def dioPULSE : Nat := 4
def dioPERIOD : Nat := 5
def dioFREQ : Nat := 6
def dioCAPTURE : Nat := 7
def dioLIMIT : Nat := 8
def dioENC : Nat := 9

/-- Ball `n`. -/
def State.ball (s : State) (n : Nat) : Ball := s.dio.balls.getD n {}

/-- Change ball `n`. -/
def State.modBall (s : State) (n : Nat) (f : Ball → Ball) : State :=
  { s with dio := { s.dio with balls := modifyAt s.dio.balls n f } }

/-- Change the unit. -/
def State.modDio (s : State) (f : Dio → Dio) : State := { s with dio := f s.dio }

/-- Fields of the registers of ball `n` (R404, R405). -/
def State.dioMode (s : State) (n : Nat) : Nat := s.fldOf (R.DIO_MODE n) 31 28
def State.dioInv (s : State) (n : Nat) : Bool := s.bitOf (R.DIO_MODE n) 27
def State.dioSel (s : State) (n : Nat) : Nat := s.fldOf (R.DIO_MODE n) 25 24
def State.dioT0 (s : State) (n : Nat) : Nat := s.fldOf (R.DIO_TIME0 n) 23 0
def State.dioT1 (s : State) (n : Nat) : Nat := s.fldOf (R.DIO_TIME1 n) 23 0

/-- The level of a slot value (R384): none for a NaN. -/
def levelOf (x : F32) : Option Bool := if fIsNan x then none else some (fle 0x3F000000 x)

/-- The value that a DIO output ball's slot commits. -/
def State.dioSlot (s : State) (n : Nat) : F32 := (s.slot (s.fldOf (R.DIO_SRC n) 12 0)).val

/-! Outputs (R384 to R386). -/

/-- A level as the output stage drives it (R384). -/
def State.driveOf (s : State) (n : Nat) (lvl : Option Bool) : Drive :=
  match lvl with
  | none => .hiZ
  | some b =>
    if b != s.dioInv n then (if s.bitOf (R.DIO_MODE n) 26 then .hiZ else .high) else .low

/-- GLEVEL of ball `n`. -/
def State.gateDrive (s : State) (n : Nat) : Drive :=
  match s.fldOf (R.DIO_GATE n) 9 8 with | 0 => .low | 1 => .high | _ => .hiZ

/-- Whether a pulse drives ball `n`. -/
def Ball.high? (b : Ball) : Bool := b.rose.isSome

/-- The source of ball `n` under rows 3 to 7 of R385, with the row's code. A pulse in progress completes in every state
(R391), and a PWM ball follows its counter (R387). -/
def State.dioOwn (s : State) (n : Nat) : Drive × Nat :=
  let m := s.dioMode n
  let b := s.ball n
  let timed := if m = dioPWM then b.lvl else b.high?
  if m ≠ dioGPIOOUT ∧ m ≠ dioPWM ∧ m ≠ dioPULSE then (.hiZ, 6)
  else if s.warm.phase != .none && !s.warm.safe then
    (if m = dioGPIOOUT then b.held else s.driveOf n (some timed), 2)
  else if s.warm.safe || s.dev == stSAFE || (s.dev == stHALT && s.loaded) then
    let safe := levelOf (s.reg (R.DIO_SAFEVAL n))
    (if m = dioPWM || b.high? then s.driveOf n (some timed) else s.driveOf n safe, 3)
  else if s.dev == stRUN && s.dio.sampled then
    (if m = dioGPIOOUT then s.driveOf n (b.reg <|> b.init) else s.driveOf n (some timed), 4)
  else if s.dev == stREADY || s.dev == stRUN then
    (if m = dioGPIOOUT then s.driveOf n b.init else s.driveOf n (some timed), 5)
  else (.hiZ, 6)

/-- What drives ball `n`, and DIO.STAT.SRC (R385). -/
def State.dioDrive (s : State) (n : Nat) : Drive × Nat :=
  match s.dio.forced.find? (fun x => x.1 == n) with
  | some x => (x.2, 0)
  | none => if s.gated (s.fldOf (R.DIO_GATE n) 7 0) then (s.gateDrive n, 1) else s.dioOwn n

/-- The level of ball `n`: what is driven, or the external level. -/
def State.dioBall (s : State) (n : Nat) : Bool :=
  match (s.dioDrive n).1 with | .low => false | .high => true | .hiZ => (s.ball n).level

/-- DIO.STAT (R406). -/
def State.dioStat (s : State) (n : Nat) : Word :=
  let b := s.ball n
  let w := s.reg (R.DIO_STAT n)
  BitVec.ofNat 32 ((b.trig.isSome || b.rose.isSome).toNat * 512 + fld w 8 5 * 32 + (s.dioDrive n).2 * 4 +
    (b.reg == some true).toNat * 2 + (s.dioBall n).toNat)

/-- Load a value into the level output register (R384, R386). -/
def State.dioTake (s : State) (n : Nat) (x : F32) : State :=
  match levelOf x with
  | none => s.orReg (R.DIO_STAT n) 128
  | some b => s.modBall n (fun q => { q with reg := some b })

/-- Edge commit of a slot's new value (R265, R267). -/
def State.dioEdgeCommit (s : State) (slot : Nat) (x : F32) : State :=
  forUpTo 64 (fun n s =>
    if s.dioMode n == dioGPIOOUT && s.bitOf (R.DIO_SRC n) 31 && s.fldOf (R.DIO_SRC n) 12 0 == slot then s.dioTake n x
    else s) s

/-- The hold latches close (R75). -/
def State.dioHold (s : State) : State :=
  s.modDio (fun d => { d with balls := d.balls.zipIdx.map (fun x => { x.1 with held := (s.dioOwn x.2).1 }) })

/-! PWM (R387 to R390). -/

/-- From what moment on the 15 ns of R389 count for a duty committed now: those of the release of the hold latches have
passed, so that its duty applies from a period that starts at B(r+1) (R75). -/
def State.pwmSince (s : State) : Nat := if s.warm.released = some s.now then s.now - 7 else s.now

/-- A duty committed at the present moment (R388, R389). -/
def State.pwmDuty (s : State) (n : Nat) (x : F32) : State :=
  if fIsNan x then s.orReg (R.DIO_STAT n) 128
  else
    let d := fclamp x 0 0x3F800000
    let h := (vRoundInt (fv (fmul d (fOfInt (s.dioT0 n : Nat))))).toNat
    let t := s.pwmSince
    let s := s.modBall n (fun b => { b with prev := if b.nextAt = t then b.prev else b.next, next := h, nextAt := t })
    if feq d x then s else s.orReg (R.DIO_STAT n) 64

/-- The place in its period of ball `n` at the present moment, if its counter runs (R387). -/
def State.pwmPhase (s : State) (n : Nat) : Option Nat :=
  match s.dio.pwmBase with
  | none => none
  | some b0 =>
    let p := b0 + s.dioT1 n
    if s.dioMode n == dioPWM && decide (p ≤ s.now) then some ((s.now - p) % max 1 (s.dioT0 n)) else none

/-- The place of the rise in a period of high time `h` (R388). -/
def State.pwmRiseAt (s : State) (n h : Nat) : Nat := if s.dioSel n = 0 then 0 else (s.dioT0 n - h) / 2

/-- A new PWM level with its event (R390). -/
def State.pwmLevel (s : State) (n : Nat) (v : Bool) : State :=
  if (s.ball n).lvl = v then s
  else (s.modBall n (fun b => { b with lvl := v })).pwmStarts n (if v then 0 else 1)

/-- A period of ball `n` starts (R387 to R389). -/
def State.pwmPeriodStart (s : State) (n : Nat) : State :=
  if s.pwmPhase n = some 0 then
    let b := s.ball n
    let h := if b.nextAt + 6 < s.now then b.next else b.prev
    let s := s.modBall n (fun b => { b with high := h })
    s.pwmLevel n (decide (0 < h) && s.pwmRiseAt n h == 0)
  else s

/-- A rise (0), fall (1) or centre (2) time of ball `n` (R388, R390). -/
def State.pwmEdge (s : State) (n kind : Nat) : State :=
  let h := (s.ball n).high
  let rise := s.pwmRiseAt n h
  match s.pwmPhase n with
  | none => s
  | some p =>
    if kind = 0 then (if 0 < h ∧ p = rise then s.pwmLevel n true else s)
    else if kind = 1 then (if p = rise + h then s.pwmLevel n false else s)
    else if p = s.dioT0 n / 2 then s.pwmStarts n 2 else s

/-! One-shot pulses (R391). -/

/-- The level of a PULSE ball's slot at a commit (R391): 1 after 0 is a trigger, which starts a pulse where pulses start
and none is in progress. -/
def State.pulseSample (s : State) (n : Nat) (starts : Bool) : State :=
  match levelOf (s.dioSlot n) with
  | none => s.orReg (R.DIO_STAT n) 128
  | some v =>
    let b := s.ball n
    let s := s.modBall n (fun b => { b with last := some v })
    if !(v && b.last == some false) then s
    else if b.trig.isSome || b.rose.isSome then s.bump (R.DIO_MISS n)
    else if starts then s.modBall n (fun b => { b with trig := some s.now })
    else s

/-- A pulse's delay ends (R391). A pulse counts as in progress from its trigger on, so one whose delay runs at T0 rises
during the hold (DESIGN CHOICE, log 54). -/
def State.pulseRise (s : State) (n : Nat) : State :=
  match (s.ball n).trig with
  | none => s
  | some t =>
    let d := s.now - (t + s.dioT1 n)
    if t + s.dioT1 n + 4 ≤ s.now ∧ d ≤ 6 then s.modBall n (fun b => { b with trig := none, rose := some s.now }) else s

/-- A pulse falls exactly TIME0 after it rose (R391). -/
def State.pulseFall (s : State) (n : Nat) : State :=
  match (s.ball n).rose with
  | none => s
  | some t => if s.now = t + s.dioT0 n then s.modBall n (fun b => { b with rose := none }) else s

/-! Measurement inputs (R392 to R395). -/

/-- The level of ball `n` after INV (R383). -/
def State.dioIn (s : State) (n : Nat) : Bool := (s.ball n).level != s.dioInv n

/-- 1.0 or 0.0. -/
def fBool (b : Bool) : F32 := if b then 0x3F800000 else 0

/-- Write a measurement of ball `n` that reaches the table `lag` EDGE cycles (10 to 25 ns) after its event (R383). -/
def State.dioWrite (s : State) (n lag : Nat) (v : F32) (flags : Nat) : State :=
  let r := s.reg (R.DIO_RES n)
  if s.running && bit r 31 then
    s.stageAt (s.now + max 4 (min 10 lag)) (writerOf clsDio n) (fld r 12 0) v (qualOf (writerOf clsDio n) flags)
  else s

/-- Accept the present level of a GPIO_IN or LIMIT ball (R392). -/
def State.dioAccept (s : State) (n lag : Nat) : State :=
  let m := s.dioMode n
  let v := s.dioIn n
  if (m == dioGPIOIN || m == dioLIMIT) && v != s.bitOf (R.DIO_STAT n) 8 &&
      decide ((s.ball n).changed + s.dioT0 n ≤ s.now) then
    ((s.putFld (R.DIO_STAT n) 8 8 v.toNat).bump (R.DIO_EDGES n)).dioWrite n lag (fBool v) qVALID
  else s

/-- A raw transition of a LIMIT ball (R393). -/
def State.dioChatter (s : State) (n : Nat) : State :=
  let b := s.ball n
  let inside := match b.window with | some w => decide (s.now < w + s.dioT1 n) | none => false
  let c := if inside then b.count + 1 else 1
  let s := s.modBall n (fun b => { b with window := if inside then b.window else some s.now, count := c })
  if c = s.fldOf (R.DIO_MODE n) 23 16 + 1 then
    ((s.orReg (R.DIO_STAT n) 32).modDio (fun d => { d with chatter := d.chatter ++ [n] })).raiseLimited n 0xD001 n
      (BitVec.ofNat 32 n) (BitVec.ofNat 32 c) s.tickLo 0
  else s

/-- Whether a transition to the present level is a qualifying edge under SEL (R404). -/
def State.dioQualifies (s : State) (n : Nat) : Bool :=
  let v := s.dioIn n
  let sel := s.dioSel n
  sel == 2 || (sel == 0 && v) || (sel == 1 && !v)

/-- `c` EDGE cycles as a period in s or a frequency in Hz (R394). -/
def State.dioMeasure (s : State) (n c : Nat) : F32 :=
  if s.dioMode n = dioPERIOD then fmul (fOfInt (c : Nat)) 0x312BCC77 else fdiv (fOfInt 400000000) (fOfInt (c : Nat))

/-- A qualifying edge in PERIOD or FREQ at EDGE count `t` (R394). -/
def State.periodEdge (s : State) (n lag t : Nat) : State :=
  let b := s.ball n
  let s := (s.bump (R.DIO_EDGES n)).modBall n (fun b => { b with edge := some t, since := some t })
  match b.edge with
  | none => s
  | some p => s.dioWrite n lag (s.dioMeasure n (t - p)) qVALID

/-- No qualifying edge for TIME0 cycles (R394). -/
def State.periodTimeout (s : State) (n lag : Nat) : State :=
  let m := s.dioMode n
  match (s.ball n).since with
  | none => s
  | some p =>
    if (m == dioPERIOD || m == dioFREQ) && decide (p + s.dioT0 n ≤ s.now) then
      let s := s.modBall n (fun b => { b with edge := none, since := none })
      if m = dioPERIOD then s.dioWrite n lag (s.dioMeasure n (s.dioT0 n)) (qVALID + qCLIPPED)
      else s.dioWrite n lag 0 qVALID
    else s

/-- An edge in CAPTURE at EDGE count `t` (R395). -/
def State.captureEdge (s : State) (n lag t : Nat) : State :=
  let late := decide (s.edgeBase + s.tickEdges ≤ s.now + max 4 (min 10 lag))
  let base : Int := (s.edgeBase : Int) + (if late then s.tickEdges else 0 : Nat)
  (s.bump (R.DIO_EDGES n)).dioWrite n lag (f32Of (vRat (5 * ((t : Int) - base)) 2)) qVALID

/-! Encoders (R396 to R398). -/

/-- The encoder that ball `n` belongs to is enabled. -/
def State.encOn (s : State) (m : Nat) : Bool := decide (m < 21) && s.bitOf (R.ENC_CFG m) 31

/-- The live count of encoder `m`. -/
def State.encCount (s : State) (m : Nat) : Word := s.dio.counts.getD m 0

def State.setEncCount (s : State) (m : Nat) (w : Word) : State :=
  s.modDio (fun d => { d with counts := modifyAt d.counts m (fun _ => w) })

/-- Set the synchronised level of a ball. -/
def State.setLevel (s : State) (n : Nat) (v : Bool) : State :=
  if (s.ball n).level = v then s else s.modBall n (fun b => { b with level := v, changed := s.now })

/-- A and B of encoder `m` take new levels in one EDGE sample (R396, R397). Transitions closer than 5 ns change the
count by a free amount of at most 1 (R706). -/
def State.encAB (s : State) (m : Nat) (a b : Bool) : State :=
  let na := 3 * m
  let nb := 3 * m + 1
  let ca := (s.ball na).level != a
  let cb := (s.ball nb).level != b
  let close := decide (s.now < max (s.ball na).changed (s.ball nb).changed + 2)
  let t := (s.setLevel na a).setLevel nb b
  if !s.encOn m || !(ca || cb) then t
  else if ca && cb then
    (t.bump (R.ENC_ERR m)).raiseCounted m 0xD101 m (BitVec.ofNat 32 m) 0 t.tickLo 0
  else if close then
    let d := min 2 (Config.encoderChange s.free)
    t.useFree.setEncCount m (t.encCount m + BitVec.ofNat 32 d - 1)
  else
    let same := t.dioIn na == t.dioIn nb
    let up := (if ca then !same else same) != s.bitOf (R.ENC_CFG m) 0
    t.setEncCount m (if up then t.encCount m + 1 else t.encCount m - 1)

/-- A new level of Z of encoder `m`; a rising Z latches the count (R397). -/
def State.encZ (s : State) (m : Nat) (z : Bool) : State :=
  let n := 3 * m + 2
  let t := s.setLevel n z
  if s.encOn m && (s.ball n).level != z && t.dioIn n then
    let t := (t.setReg (R.ENC_INDEX m) (t.encCount m)).orReg (R.ENC_STAT m) 8
    if s.bitOf (R.ENC_CFG m) 1 then t.setEncCount m 0 else t
  else t

/-- ENC.STAT (R407). -/
def State.encStat (s : State) (m : Nat) : Word :=
  BitVec.ofNat 32 (s.fldOf (R.ENC_STAT m) 3 3 * 8 + (s.dioIn (3 * m + 2)).toNat * 4 + (s.dioIn (3 * m + 1)).toNat * 2 +
    (s.dioIn (3 * m)).toNat)

/-- The latch of every encoder at a boundary (R398). -/
def State.encLatch (s : State) : State :=
  forUpTo 21 (fun m s =>
    let c := s.encCount m
    let s := s.setReg (R.ENC_COUNT m) c
    if s.running then
      s.stageVia (s.reg (R.ENC_RES m)) (writerOf clsDio (64 + m)) (fOfInt (signedOf 32 c.toNat)) qVALID
    else s) s

/-- A transition of ball `n` to level `v`, seen in the present EDGE cycle; its edge is measured at EDGE count `t`. -/
def State.dioInput (s : State) (n : Nat) (v : Bool) (lag t : Nat) : State :=
  if (s.ball n).level = v then s
  else
    let m := s.dioMode n
    if m = dioENC then
      (match n % 3 with
       | 0 => s.encAB (n / 3) v (s.ball (n + 1)).level
       | 1 => s.encAB (n / 3) (s.ball (n - 1)).level v
       | _ => s.encZ (n / 3) v)
    else
      let s := s.setLevel n v
      let s := if m = dioLIMIT then s.dioChatter n else s
      if m = dioGPIOIN ∨ m = dioLIMIT then (if s.dioT0 n = 0 then s.dioAccept n lag else s)
      else if (m = dioPERIOD ∨ m = dioFREQ) ∧ s.dioQualifies n then s.periodEdge n lag t
      else if m = dioCAPTURE ∧ s.dioQualifies n then s.captureEdge n lag t
      else s

/-- The same for a level that may last less than 5 ns: whether it is seen and where its edge is measured is open
(R383, R706). -/
def State.dioSeen (s : State) (n : Nat) (v short : Bool) (lag : Nat) : State :=
  if !short then s.dioInput n v lag s.now
  else if Config.shortLevelSeen s.free then s.useFree.dioInput n v lag (Config.shortLevelEdge s.free)
  else s.useFree

/-! Boundaries and loads. -/

/-- DEB to the result slots at the first boundary of R392. -/
def State.dioDebWrite (s : State) : State :=
  if !(s.dio.debDue && s.running) then s
  else
    forUpTo 64 (fun n s =>
      let m := s.dioMode n
      if m == dioGPIOIN || m == dioLIMIT then s.dioWrite n 4 (fBool (s.bitOf (R.DIO_STAT n) 8)) qVALID else s)
      (s.modDio (fun d => { d with debDue := false }))

/-- The output balls sample their slots, or take their safe duty, at a boundary (R24, R386, R388, R391). -/
def State.dioSample (s : State) : State :=
  if s.warm.phase != .none then s
  else
    let run := s.dev == stRUN
    let safe := s.dev == stSAFE || (s.dev == stHALT && s.loaded)
    let s := forUpTo 64 (fun n s =>
      let m := s.dioMode n
      if m = dioGPIOOUT then (if run then s.dioTake n (s.dioSlot n) else s)
      else if m = dioPWM then
        (if run then s.pwmDuty n (s.dioSlot n) else if safe then s.pwmDuty n (s.reg (R.DIO_SAFEVAL n)) else s)
      else if m = dioPULSE then s.pulseSample n run
      else s) s
    if run then s.modDio (fun d => { d with sampled := true }) else s

/-- A GPIO_OUT ball takes the level of its slot's initial value on entry into READY (R384, R385). -/
def State.dioInit (s : State) (n : Nat) : State :=
  let lvl := levelOf (s.dioSlot n)
  let s := s.modBall n (fun b => { b with init := lvl })
  if lvl.isNone then s.orReg (R.DIO_STAT n) 128 else s

/-- Entry into RUN, SAFE or another state: initial levels stand in READY, a register samples anew in RUN, and a safe duty
is committed, that of a warm restart which does not resume too (R74, R385, R386). -/
def State.dioEntered (s : State) : State :=
  let s := if s.dev = stRUN then s.modDio (fun d => { d with sampled := false }) else s
  let ready := s.dev == stREADY
  let safe := s.warm.safe || s.dev == stSAFE || (s.dev == stHALT && s.loaded)
  forUpTo 64 (fun n s =>
    if ready && s.dioMode n == dioGPIOOUT then s.dioInit n
    else if safe && s.dioMode n == dioPWM then s.pwmDuty n (s.reg (R.DIO_SAFEVAL n))
    else s) s

/-! Interlock lines (R399 to R402). -/

/-- Trips of the lines that are active now and were not in `old`: each is latched where LATCH is 1, counted and
recorded, and the clamps follow (R399, R402). -/
def State.ilkTrips (s : State) (old : Nat) : State :=
  let latch := s.ilkBalls &&& s.fldOf R.ILK_CFG 15 8
  let s := s.modDio (fun d => { d with latched := d.latched ||| latch })
  let new := s.ilkActive
  let s := forUpTo 8 (fun j s =>
    if new.testBit j && !old.testBit j then
      (s.bump (R.ILK_TRIPCNT j)).raiseCounted j 0xD201 j (BitVec.ofNat 32 j) 0 s.tickLo (s.tnsAt s.now)
    else s) s
  if new = old then s else s.dacMoved

/-- An edge on ILKj (R400). -/
def State.ilkEdge (s : State) (j : Nat) (v : Bool) : State :=
  let old := s.ilkActive
  (s.modDio (fun d => { d with ilk := if d.ilk.testBit j = v then d.ilk else Nat.xor d.ilk (2 ^ j) })).ilkTrips old

/-- A write of ILK.CLR (R399). -/
def State.ilkClear (s : State) (w : Word) : State :=
  let old := s.ilkActive
  let gone := fld w 7 0 &&& (255 - s.ilkBalls)
  (s.modDio (fun d => { d with latched := d.latched &&& (255 - gone) })).ilkTrips old

/-- ILK.STAT (R408). -/
def State.ilkStat (s : State) : Word := BitVec.ofNat 32 (s.dio.latched * 256 + s.ilkActive)

/-! Load (R382, R404, R405). -/

/-- What a mode allows: SRC used, RES used, largest SEL, input mode. -/
def dioUses (m : Nat) : Bool × Bool × Nat × Bool :=
  match m with
  | 1 => (false, true, 0, true)
  | 2 => (true, false, 0, false)
  | 3 => (true, false, 1, false)
  | 4 => (true, false, 0, false)
  | 5 => (false, true, 2, true)
  | 6 => (false, true, 2, true)
  | 7 => (false, true, 2, true)
  | 8 => (false, true, 0, true)
  | 9 => (false, false, 0, true)
  | _ => (false, false, 0, false)

/-- The range of TIME0, and that of TIME1 beside it (R405). -/
def dioTime0Ok (m t0 : Nat) : Bool :=
  match m with
  | 3 => decide (4 ≤ t0)
  | 4 => decide (1 ≤ t0)
  | 5 => decide (4 ≤ t0)
  | 6 => decide (4 ≤ t0)
  | 1 => true
  | 8 => true
  | _ => t0 == 0
def dioTime1Ok (m t0 t1 : Nat) : Bool :=
  match m with
  | 3 => decide (t1 < t0)
  | 4 => true
  | 8 => decide (1 ≤ t1)
  | _ => t1 == 0

/-- The failures of ball `n`'s registers. -/
def dioBallCheck (im : Image) (n : Nat) : List Finding :=
  let mode := im.reg (R.DIO_MODE n)
  let m := fld mode 31 28
  let u := dioUses m
  let t0 := fld (im.reg (R.DIO_TIME0 n)) 23 0
  let t1 := fld (im.reg (R.DIO_TIME1 n)) 23 0
  let f := fun (step : Nat) (ok : Bool) (l : List Nat) => need ok (im.atRegs step l)
  f 14 (decide (m ≤ 9)) [R.DIO_MODE n] ++
  f 14 (!fIsNan (im.reg (R.DIO_SAFEVAL n))) [R.DIO_SAFEVAL n] ++
  f 14 (fld (im.reg (R.DIO_GATE n)) 9 8 != 3) [R.DIO_GATE n] ++
  f 14 (decide (fld mode 25 24 ≤ u.2.2.1) && (decide (1 ≤ fld mode 23 16) == decide (m = dioLIMIT))) [R.DIO_MODE n] ++
  f 14 (dioTime0Ok m t0) [R.DIO_MODE n, R.DIO_TIME0 n] ++
  f 14 (dioTime1Ok m t0 t1) (if m = dioPWM then [R.DIO_MODE n, R.DIO_TIME0 n, R.DIO_TIME1 n] else [R.DIO_MODE n, R.DIO_TIME1 n]) ++
  f 14 (bit (im.reg (R.DIO_SRC n)) 31 == u.1) [R.DIO_MODE n, R.DIO_SRC n] ++
  f 14 (bit (im.reg (R.DIO_RES n)) 31 == u.2.1) [R.DIO_MODE n, R.DIO_RES n] ++
  f 14 (!u.2.2.2 || fld (im.reg (R.DIO_GATE n)) 7 0 == 0) [R.DIO_MODE n, R.DIO_GATE n] ++
  (if n = 63 then f 17 (m != dioENC) [R.DIO_MODE n]
   else f 17 (m != dioENC || bit (im.reg (R.ENC_CFG (n / 3))) 31) [R.DIO_MODE n, R.ENC_CFG (n / 3)])

/-- The failures of the DIO, encoder and ILK registers of an image. -/
def dioCheck (im : Image) : List Finding :=
  (List.range 64).flatMap (dioBallCheck im) ++
  (List.range 21).flatMap (fun e =>
    let l := [R.DIO_MODE (3 * e), R.DIO_MODE (3 * e + 1), R.DIO_MODE (3 * e + 2)]
    need (!bit (im.reg (R.ENC_CFG e)) 31 || l.all (fun a => fld (im.reg a) 31 28 == dioENC))
      (im.atRegs 17 (R.ENC_CFG e :: l)))

/-- The slots bound to a DIO level output, which an edge commit can reach (R221). -/
def Image.levelSlots (im : Image) : List Nat :=
  ((List.range 64).filter (fun n => fld (im.reg (R.DIO_MODE n)) 31 28 == dioGPIOOUT && bit (im.reg (R.DIO_SRC n)) 31)).map
    (fun n => fld (im.reg (R.DIO_SRC n)) 12 0)

/-- The DIO unit at a load that does not resume state, after its registers are set (R387, R392, R403). `old` are the
ILK lines active before it (R402). -/
def State.loadDio (s : State) (old : Nat) : State :=
  let fresh := fun (b : Ball) =>
    ({ level := b.level, changed := b.changed, rose := b.rose, trig := b.trig, since := some s.now } : Ball)
  let s := s.modDio (fun d =>
    { d with balls := d.balls.map fresh, pwmBase := none, sampled := false, debDue := true, chatter := [] })
  let s := forUpTo 64 (fun n s =>
    let m := s.dioMode n
    let deb := (m == dioGPIOIN || m == dioLIMIT) && s.dioIn n
    let s := s.modBall n (fun b => if m = dioPULSE then b else { b with rose := none, trig := none })
    ((s.setReg (R.DIO_STAT n) (BitVec.ofNat 32 (0x18 + 256 * deb.toNat))).setReg (R.DIO_EDGES n) 0).setReg
      (R.DIO_MISS n) 0) s
  s.ilkTrips old

/-! Commands. -/

/-- DEBOUNCE_ACCEPT. -/
def execDebounceAccept (n lag e : Nat) (s : State) : Out := answer (decide (n < 64)) ((s.atEdge e).dioAccept n lag)

/-- PERIOD_EDGE: a transition of a ball in PERIOD or FREQ mode. -/
def execPeriodEdge (n : Nat) (v short : Bool) (lag e : Nat) (s : State) : Out :=
  answer (decide (n < 64))
    (if s.dioMode n = dioPERIOD ∨ s.dioMode n = dioFREQ then (s.atEdge e).dioSeen n v short lag else s)

/-- PERIOD_TIMEOUT. -/
def execPeriodTimeout (n lag e : Nat) (s : State) : Out := answer (decide (n < 64)) ((s.atEdge e).periodTimeout n lag)

/-- CAPTURE_EDGE: a transition of a ball in CAPTURE mode. -/
def execCaptureEdge (n : Nat) (v short : Bool) (lag e : Nat) (s : State) : Out :=
  answer (decide (n < 64)) (if s.dioMode n = dioCAPTURE then (s.atEdge e).dioSeen n v short lag else s)

/-- ENCODER_TRANSITION: A and B of encoder `m` in one EDGE sample. -/
def execEncoderTransition (m : Nat) (a b : Bool) (e : Nat) (s : State) : Out :=
  answer (decide (m < 21)) ((s.atEdge e).encAB m a b)

/-- ENCODER_INDEX: a new level of Z. -/
def execEncoderIndex (m : Nat) (z : Bool) (e : Nat) (s : State) : Out :=
  answer (decide (m < 21)) ((s.atEdge e).encZ m z)

/-- PWM_PERIOD_START. -/
def execPwmPeriodStart (n e : Nat) (s : State) : Out := answer (decide (n < 64)) ((s.atEdge e).pwmPeriodStart n)

/-- PWM_EDGE: a rise (0), fall (1) or centre (2) time. -/
def execPwmEdge (n kind e : Nat) (s : State) : Out := answer (decide (n < 64)) ((s.atEdge e).pwmEdge n kind)

/-- PULSE_RISE. -/
def execPulseRise (n e : Nat) (s : State) : Out := answer (decide (n < 64)) ((s.atEdge e).pulseRise n)

/-- PULSE_FALL. -/
def execPulseFall (n e : Nat) (s : State) : Out := answer (decide (n < 64)) ((s.atEdge e).pulseFall n)

/-- ILK_EDGE: ball ILKj takes a level; a pulse shorter than 2.0 ns may have no effect (R400, R706). -/
def execIlkEdge (j : Nat) (v short : Bool) (e : Nat) (s : State) : Out :=
  let s := s.atEdge e
  answer (decide (j < 8)) (
    if short then (if Config.shortIlkSeen s.free then s.useFree.ilkEdge j v else s.useFree) else s.ilkEdge j v)

/-- ILK_CLR: a write of ILK.CLR. -/
def execIlkClr (w : Word) (s : State) : Out := .next (s.ilkClear w)

end Sys2Proof.Machine
end

