-- ==== Sys2Proof/Machine/Operands.lean ====
section
/-! DEFINITION. The RECIPES record: heads, steps, condition and action entries, and every operand form of a recipe
(R218 to R225).
Where the spec can be read in two ways the assumption log says what was read: entries 32 (DEDUCED unless marked there otherwise). -/

namespace Sys2Proof.Machine

def endDONE : Nat := 0xFFF0
def endFAULT : Nat := 0xFFF1
def endABORT : Nat := 0xFFF2

/-- A condition entry (R220). -/
structure StepCond where
  kind : Nat
  mode : Nat
  target : Nat
  source : Nat
  dwell : Nat
  a : Word
  b : Word
  deriving DecidableEq, Repr, Inhabited

/-- Fields of MODE. -/
def StepCond.op (c : StepCond) : Nat := c.mode % 8
def StepCond.qvalid (c : StepCond) : Bool := c.mode.testBit 3
def StepCond.asrc (c : StepCond) : Nat := c.mode / 16 % 4
def StepCond.bsrc (c : StepCond) : Nat := c.mode / 64 % 4

/-- An action entry (R221). -/
structure StepAct where
  slot : Nat
  flags : Nat
  value : Word
  rtime : Word
  deriving DecidableEq, Repr, Inhabited

/-- Fields of FLAGS. -/
def StepAct.ramp (a : StepAct) : Nat := a.flags % 4
def StepAct.vsrc (a : StepAct) : Nat := a.flags / 4 % 4
def StepAct.tsrc (a : StepAct) : Nat := a.flags / 16 % 2
def StepAct.edge (a : StepAct) : Bool := a.flags.testBit 5

/-- A step (R219), with its offset in the record's body. -/
structure RStep where
  off : Nat
  nact : Nat
  flags : Nat
  duration : Word
  timeoutTgt : Nat
  abortStep : Nat
  conds : List StepCond
  acts : List StepAct
  deriving DecidableEq, Repr, Inhabited

/-- Fields of FLAGS. -/
def RStep.atExit (s : RStep) : Bool := s.flags.testBit 0
def RStep.nospec (s : RStep) : Bool := s.flags.testBit 1
def RStep.dsrc (s : RStep) : Nat := s.flags / 4 % 2

def stepCondAt (b : List Byte) (o : Nat) : StepCond :=
  ⟨uAt b o 1, uAt b (o + 1) 1, uAt b (o + 2) 2, uAt b (o + 4) 2, uAt b (o + 6) 2, wAt b (o + 8), wAt b (o + 12)⟩

def stepActAt (b : List Byte) (o : Nat) : StepAct := ⟨uAt b o 2, uAt b (o + 2) 2, wAt b (o + 4), wAt b (o + 8)⟩

/-- The step at body offset `o`. -/
def stepAt (b : List Byte) (o : Nat) : RStep :=
  let n := uAt b (o + 2) 1
  { off := o, nact := n, flags := uAt b (o + 3) 1, duration := wAt b (o + 4), timeoutTgt := uAt b (o + 8) 2,
    abortStep := uAt b (o + 10) 2, conds := (List.range 4).map (fun i => stepCondAt b (o + 16 + 16 * i)),
    acts := (List.range n).map (fun i => stepActAt b (o + 80 + 12 * i)) }

/-- The offset of step `n` from offset `o` on, by the NACT of each step before it. -/
def stepOff (b : List Byte) : Nat → Nat → Nat
  | 0, o => o
  | n + 1, o => stepOff b n (o + 80 + 12 * uAt b (o + 2) 1)

/-- The recipe head (R218). -/
def recSteps (r : Rec) : Nat := uAt r.body 0 2
def recAbort (r : Rec) : Nat := uAt r.body 2 2
def recNparam (r : Rec) : Nat := uAt r.body 4 1
def recNodelost (r : Rec) : Nat := uAt r.body 5 1 % 4
def recReq (r : Rec) : List Nat :=
  ((List.range 8).map (fun i => uAt r.body (8 + 2 * i) 2)).filter (fun k => k != 0xFFFF)
def recAbortMax (r : Rec) : Nat := uAt r.body 0x18 4

/-- Step `n` of a recipe. -/
def recStep (r : Rec) (n : Nat) : RStep := stepAt r.body (stepOff r.body n 32)

/-- The used conditions of a step with their indices. -/
def RStep.used (s : RStep) : List (StepCond × Nat) := s.conds.zipIdx.filter (fun x => x.1.kind != 0)

/-- Whether a step can time out at all. -/
def RStep.times (s : RStep) : Bool := s.dsrc == 1 || s.duration != 0xFFFFFFFF

/-- The distinct targets of a step in the order of R228 and R256. -/
def RStep.targets (s : RStep) : List Nat :=
  ((s.used.map (fun x => x.1.target)) ++ (if s.times then [s.timeoutTgt] else [])).eraseDups

/-- Prepared (R228). -/
def RStep.prepared (s : RStep) : Bool :=
  !s.nospec && decide (1 ≤ s.targets.length) && decide (s.targets.length ≤ 2)

/-! Operands (R223, R224). -/

/-- A value operand: its value, and whether its source slot, if it has one, was good (R232). -/
def State.valueOperand (s : State) (params : List Word) (src : Nat) (w : Word) : Word × Bool :=
  if src = 0 then (w, true)
  else if src = 1 then (params.getD (fld w 3 0) 0, true)
  else
    let v := s.slot (fld w 12 0)
    (v.val, v.good)

/-- A time operand in us. -/
def timeOperand (params : List Word) (src : Nat) (w : Word) : Word := if src = 0 then w else params.getD (fld w 3 0) 0

/-- Whether parameter value `w` lies within its bounds (R226). -/
def ParamDef.inBounds (p : ParamDef) (w : Word) : Bool :=
  if p.typ = 0 then fle p.min w && fle w p.max else decide (p.min.toNat ≤ w.toNat) && decide (w.toNat ≤ p.max.toNat)

/-- The PARAMS records of a recipe. -/
def Image.paramsOf (im : Image) (recipe : Nat) : List ParamDef :=
  (im.params.map (·.2)).filter (fun p => p.recipe == recipe)

/-- The PARAMS record of a recipe and INDEX. -/
def Image.param? (im : Image) (recipe index : Nat) : Option ParamDef :=
  (im.paramsOf recipe).find? (fun p => p.index == index)

/-- The comparison of R238. -/
def compareHolds (op : Nat) (x a b : F32) : Bool :=
  match op with
  | 0 => flt a x
  | 1 => fle a x
  | 2 => flt x a
  | 3 => fle x a
  | 4 => fle a x && fle x b
  | _ => flt x a || flt b x

/-! Load (R218 to R225). -/

/-- The steps of a record one after another while they fit: the offset of each, the offset after the last, and whether
all `n` fit. -/
def walkSteps (b : List Byte) : Nat → Nat → List Nat × Nat × Bool
  | 0, o => ([], o, true)
  | n + 1, o =>
    if o + 80 ≤ b.length then
      let x := walkSteps b n (o + 80 + 12 * uAt b (o + 2) 1)
      (o :: x.1, x.2)
    else ([], o, false)

/-- The form of a RECIPES record (R218, R225). -/
def recipeForm (r : Rec) : List Finding :=
  let b := r.body
  let at_ := fun (ok : Bool) (o : Nat) => need ok (atOff 10 secRECIPES (r.off + 8 + o))
  need (decide (r.key ≤ 1023)) (atOff 10 secRECIPES r.off) ++ need (r.kind == 0) (atOff 10 secRECIPES (r.off + 2)) ++
  need (decide (32 ≤ b.length)) (atOff 10 secRECIPES (r.off + 4)) ++
  (let w := walkSteps b (recSteps r) 32
   w.1.flatMap (fun o => at_ (uAt b o 2 == 80 + 12 * uAt b (o + 2) 1) o ++ at_ (decide (uAt b (o + 2) 1 ≤ 64)) (o + 2)) ++
   at_ (decide (b.length < 32) || (w.2.2 && w.2.1 == b.length)) (min w.2.1 b.length))

/-- What a recipe's operands are judged against. -/
structure RecipeCtx where
  im : Image
  key : Nat
  nparam : Nat
  nsteps : Nat
  base : Nat

/-- A check of a field at body offset `o`. -/
def RecipeCtx.at_ (c : RecipeCtx) (step : Nat) (ok : Bool) (o : Nat) : List Finding :=
  need ok (atOff step secRECIPES (c.base + o))

/-- The failures of an operand of type `typ` (0 value, 1 time) with source `src`, at offset `o` (R223, R225). -/
def operandCheck (c : RecipeCtx) (typ src : Nat) (w : Word) (o : Nat) : List Finding :=
  if src = 0 then c.at_ 14 (typ == 1 || !fIsNan w) o
  else if src = 1 then
    let i := fld w 3 0
    c.at_ 14 (fld w 31 4 == 0) o ++ c.at_ 17 (decide (i < c.nparam)) o ++
    c.at_ 14 (match c.im.param? c.key i with | some p => p.typ == typ | none => true) o
  else if src = 2 ∧ typ = 0 then c.at_ 15 (decide (w.toNat ≤ 8191)) o
  else c.at_ 14 false o

/-- Whether a target is an end code. -/
def isEndCode (t : Nat) : Bool := t == endDONE || t == endFAULT || t == endABORT

/-- A TARGET is a step or an end code (R222, R225). -/
def targetCheck (c : RecipeCtx) (t o : Nat) : List Finding :=
  c.at_ 17 (decide (t < c.nsteps) || isEndCode t) o

/-- An ABORTSTEP is a step or 0xFFFF: an end code fails its range, any other value its reference (R222, R225). -/
def abortStepCheck (c : RecipeCtx) (t o : Nat) : List Finding :=
  c.at_ 14 (!isEndCode t) o ++ c.at_ 17 (t == 0xFFFF || isEndCode t || decide (t < c.nsteps)) o

/-- The failures of a condition entry at offset `o`. -/
def stepCondCheck (c : RecipeCtx) (r : Rec) (q : StepCond) (o : Nat) : List Finding :=
  let cmp := q.kind == 2
  let two := cmp && decide (4 ≤ q.op)
  if q.kind = 0 then zeroFields 14 secRECIPES r o [1, 1, 2, 2, 2, 4, 4]
  else
    c.at_ 14 (decide (q.kind ≤ 4)) o ++
    c.at_ 14 (if cmp then decide (q.op ≤ 5) && decide (q.asrc ≤ 2) && decide (q.bsrc ≤ 2) && (two || q.bsrc == 0)
      else if q.kind = 3 then q.mode == q.asrc * 16 && decide (q.asrc ≤ 1) else q.mode == 0) (o + 1) ++
    targetCheck c q.target (o + 2) ++
    (if cmp then c.at_ 15 (decide (q.source ≤ 8191)) (o + 4)
     else if q.kind = 1 then
       c.at_ 14 (decide (q.source ≤ 31)) (o + 4) ++
       c.at_ 17 ((List.range 8).any (fun t => c.im.has secCAPTURE (4 * t + q.source / 8) 0)) (o + 4)
     else if q.kind = 4 then
       c.at_ 17 (match c.im.rec? secCAN q.source 1 with
         | some x => bit (wAt x.body 0) 31 && !bit (wAt x.body 0) 30
         | none => false) (o + 4)
     else c.at_ 14 (q.source == 0) (o + 4)) ++
    c.at_ 14 (cmp || q.dwell == 0) (o + 6) ++
    (if cmp then operandCheck c 0 q.asrc q.a (o + 8)
     else if q.kind = 3 then operandCheck c 1 q.asrc q.a (o + 8) else c.at_ 14 (q.a == 0) (o + 8)) ++
    (if two then
       operandCheck c 0 q.bsrc q.b (o + 12) ++ c.at_ 14 (q.asrc != 0 || q.bsrc != 0 || !flt q.b q.a) (o + 12)
     else c.at_ 14 (q.b == 0) (o + 12))

/-- The failures of an action entry at offset `o`, with the slots of the actions before it. -/
def stepActCheck (c : RecipeCtx) (a : StepAct) (before : List Nat) (o : Nat) : List Finding :=
  let step := a.ramp == 0
  c.at_ 15 (decide (a.slot ≤ 8191)) o ++ c.at_ 14 (!before.contains a.slot) o ++
  c.at_ 14 (decide (a.ramp ≤ 2) && decide (a.vsrc ≤ 2) && decide (a.flags < 64) && (!step || a.tsrc == 0) &&
    (step || !a.edge)) (o + 2) ++
  c.at_ 17 (!a.edge || (List.range 64).any (fun n =>
    fld (c.im.reg (R.DIO_MODE n)) 31 28 == 2 && bit (c.im.reg (R.DIO_SRC n)) 31 &&
      fld (c.im.reg (R.DIO_SRC n)) 12 0 == a.slot)) (o + 2) ++
  operandCheck c 0 a.vsrc a.value (o + 4) ++
  (if step then c.at_ 14 (a.rtime == 0) (o + 8) else operandCheck c 1 a.tsrc a.rtime (o + 8))

/-- The failures of a step. -/
def recStepCheck (c : RecipeCtx) (r : Rec) (s : RStep) : List Finding :=
  let o := s.off
  c.at_ 14 (decide (s.flags < 8)) (o + 3) ++ operandCheck c 1 s.dsrc s.duration (o + 4) ++
  targetCheck c s.timeoutTgt (o + 8) ++
  abortStepCheck c s.abortStep (o + 10) ++
  zeroField 14 secRECIPES r (o + 12) 4 ++
  s.conds.zipIdx.flatMap (fun x => stepCondCheck c r x.1 (o + 16 + 16 * x.2)) ++
  s.acts.zipIdx.flatMap (fun x =>
    stepActCheck c x.1 ((s.acts.take x.2).map (·.slot)) (o + 80 + 12 * x.2))

/-- The failures of a RECIPES record (R225). -/
def recipeCheck (im : Image) (r : Rec) : List Finding :=
  let n := recSteps r
  let c : RecipeCtx := ⟨im, r.key, recNparam r, n, r.off + 8⟩
  let ps := im.paramsOf r.key
  let ab := recAbort r
  c.at_ 14 (decide (1 ≤ n) && decide (n ≤ 4096)) 0 ++
  abortStepCheck c ab 2 ++
  c.at_ 14 (decide (c.nparam ≤ 16)) 4 ++
  c.at_ 17 (ps.length == c.nparam && (List.range c.nparam).all (fun i => (im.param? r.key i).isSome)) 4 ++
  c.at_ 14 (recNodelost r != 3 && decide (uAt r.body 5 1 < 4)) 5 ++ zeroField 14 secRECIPES r 6 2 ++
  (List.range 8).flatMap (fun i =>
    let k := uAt r.body (8 + 2 * i) 2
    c.at_ 17 (k == 0xFFFF || im.has secNODES k 0) (8 + 2 * i)) ++
  zeroField 14 secRECIPES r 0x1C 4 ++
  (walkSteps r.body (min 4096 n) 32).1.flatMap (fun o => recStepCheck c r (stepAt r.body o))

end Sys2Proof.Machine
end

