-- ==== Sys2Proof/Machine/Lane.lean ====
section
/-! DEFINITION. The recipe sequencer and the flying start (R215 to R276, R712). Times are EDGE counts; a step entry in
the middle of a tick stages its first writes at once (`mid`), any other leaves them to the tick's ramp stage.
Where the spec can be read in two ways the assumption log says what was read: entries 67 to 69 (DEDUCED unless marked there otherwise). -/

namespace Sys2Proof.Machine

def lnIDLE : Nat := 0
def lnRUN : Nat := 1
def lnHOLD : Nat := 2
def lnABORTING : Nat := 3
def lnDONE : Nat := 4
def lnFAULT : Nat := 5

/-- In RUN or ABORTING: steps run and exits are watched. -/
def Lane.runs (l : Lane) : Bool := l.state == lnRUN || l.state == lnABORTING

/-- In RUN, HOLD or ABORTING. -/
def Lane.live (l : Lane) : Bool := l.runs || l.state == lnHOLD

/-- The recipe of lane `t`. -/
def State.laneRec (s : State) (t : Nat) : Rec := ((s.image.rec? secRECIPES (s.lane t).recipe 0).getD ⟨0, 0, 0, []⟩)

/-- The current step. -/
def State.laneStep (s : State) (t : Nat) : RStep := recStep (s.laneRec t) (s.lane t).step

/-- The first step of the current step's abort sequence, if one exists (R243). -/
def State.abortStep? (s : State) (t : Nat) : Option Nat :=
  let a := (s.laneStep t).abortStep
  let a := if a = 0xFFFF then recAbort (s.laneRec t) else a
  if a = 0xFFFF then none else some a

/-- The step that a target enters from the current step, if it enters one (R222, R243, R244). -/
def State.targetStep? (s : State) (t target : Nat) : Option Nat :=
  if target = endABORT then (if (s.lane t).state = lnABORTING then none else s.abortStep? t)
  else if target = endDONE ∨ target = endFAULT then none
  else some target

/-- The word of SEQ.EXIT for an exit of the current step (R255, R712). -/
def State.exitWord (s : State) (t cause target : Nat) : Word :=
  BitVec.ofNat 32 (cause * 2 ^ 28 + (s.lane t).step * 65536 + (s.targetStep? t target).getD target)

/-- Refresh the registers that show a lane's state (R231, R254, R265). -/
def State.laneShow (s : State) (t : Nat) : State :=
  let l := s.lane t
  let s := s.setReg (R.SEQ_STAT t)
    (BitVec.ofNat 32 (l.endCode * 1024 + l.abortSeq.toNat * 256 + l.holdPend.toNat * 128 + l.faultCause * 16 + l.state))
  let s := (s.setReg (R.SEQ_STEP t) (BitVec.ofNat 32 l.step)).setReg64 (R.SEQ_ENTRYLO t) (BitVec.ofNat 64 l.ke)
  (s.setReg (R.SEQ_ENTRYNS t) (BitVec.ofNat 32 (l.teOff * 5 / 2))).setReg (R.SEQ_EXIT t) l.exitReg

/-- The present moment as lane `t` sees it: a lane on a failed tile stands still (R37, R321). -/
def State.laneClock (s : State) (t : Nat) : Nat := (s.lane t).stopAt.getD s.now

/-- Whether lane `t` takes part in execution now (R37). -/
def State.laneOn (s : State) (t : Nat) : Bool := s.running && s.tileUsable t

/-- Elapsed time in EDGE cycles (R237). -/
def State.laneElapsed (s : State) (t : Nat) : Nat :=
  let l := s.lane t
  (if l.state = lnHOLD then l.heldAt else s.laneClock t) - l.te - l.heldFor

/-- Change of state (R252). -/
def State.laneState (s : State) (t st : Nat) : State :=
  let l := s.lane t
  if l.state = st then s
  else
    (s.modLane t (fun l => { l with state := st, faultCause := 0 })).raise 0xE101 t (BitVec.ofNat 32 t)
      (BitVec.ofNat 32 (l.state * 256 + st)) (BitVec.ofNat 32 l.recipe) s.tickLo

/-! Banks (R256 to R261). -/

/-- The slots or parameters that a value operand reads. -/
def operandIn (want src : Nat) (w : Word) : List Nat :=
  if src ≠ want then [] else if src = 1 then [fld w 3 0] else [fld w 12 0]

/-- Parameters (1) or slots (2) that the edge part of a bank for a successor samples (R259). -/
def RStep.edgeIns (x : RStep) (want : Nat) : List Nat :=
  (x.acts.filter StepAct.edge).flatMap (fun a => operandIn want a.vsrc a.value)

/-- The same for the tick part: every operand, and v0 of each ramp. -/
def RStep.tickIns (x : RStep) (want : Nat) : List Nat :=
  x.acts.flatMap (fun a => operandIn want a.vsrc a.value ++ (if a.ramp = 0 then [] else
    operandIn want a.tsrc a.rtime ++ (if want = 2 then [a.slot] else []))) ++
  x.used.flatMap (fun c =>
    if c.1.kind = 2 then operandIn want c.1.asrc c.1.a ++ operandIn want c.1.bsrc c.1.b
    else if c.1.kind = 3 then operandIn want c.1.asrc c.1.a else []) ++
  operandIn want x.dsrc x.duration

/-- The successor that bank `b` of lane `t` serves, if its target enters a step. -/
def State.bankStep? (s : State) (t : Nat) (b : Bank) : Option RStep :=
  (s.targetStep? t b.target).map (recStep (s.laneRec t))

/-- Whether the successor of a bank has edge-committed actions. -/
def State.bankEdges (s : State) (t : Nat) (b : Bank) : Bool :=
  match s.bankStep? t b with
  | none => false
  | some x => x.acts.any StepAct.edge

/-- A part that started or changed at `since` is complete at `now`: after its largest build time, or as reported. -/
def partDone (since now most : Nat) (done : Option Nat) : Bool :=
  decide (since + most ≤ now) || (match done with | some d => decide (since ≤ d) && decide (d ≤ now) | none => false)

/-- The edge part of a bank is complete at the present moment (R257, R259, R260). -/
def State.bankReady (s : State) (t : Nat) (b : Bank) : Bool := !s.bankEdges t b || partDone b.since (s.laneClock t) 16 b.done

/-- The tick part is complete. -/
def State.bankTickReady (s : State) (t : Nat) (b : Bank) : Bool :=
  (s.bankStep? t b).isNone || partDone b.tsince (s.laneClock t) 640 b.tdone

/-- A bank holds a built part for the current visit (R271). -/
def State.bankBuilt (s : State) (t : Nat) (b : Bank) : Bool :=
  !s.bankEdges t b || decide ((s.lane t).te + 16 ≤ s.now) || b.done.isSome || b.tdone.isSome || b.doneNext.isSome ||
    b.tdoneNext.isSome

/-- Discard the banks but the one for `kept`, counting false starts (R264, R271). -/
def State.laneDiscard (s : State) (t : Nat) (kept : Option Nat) : State :=
  let n := ((s.lane t).banks.filter (fun b => some b.target != kept && s.bankBuilt t b)).length
  (s.bumpBy (R.SEQ_FALSESTART t) n).modLane t (fun l => { l with banks := [] })

/-- Start the banks of the current step from EDGE count `e` on (R256, R259). -/
def State.laneBanks (s : State) (t e : Nat) : State :=
  let x := s.laneStep t
  s.modLane t (fun l => { l with banks := if x.prepared then x.targets.map (fun g => ⟨g, e, e, none, none, none, none⟩) else [] })

/-- The latest of `since` and the arrivals of changes to what is sampled. -/
def lastArrival (since : Nat) (ins : List Nat) (arr : List (Nat × Nat)) : Nat :=
  arr.foldl (fun a x => if ins.contains x.1 then max a x.2 else a) since

/-- The banks for the tick that begins now: started at the latest of TE, the boundary before and the return from a warm
restart (R274), changed by the writes just committed, given by slot and arrival, and by the PARAMSETs just committed
(R259). -/
def State.laneRebuild (s : State) (t : Nat) (arr : List (Nat × Nat)) : State :=
  let l := s.lane t
  if !(l.live && decide (l.ke < s.tick)) then s
  else
    let start := max l.specAt (max l.te (s.now - s.tickEdges))
    let since := fun (slots params : List Nat) => lastArrival (lastArrival start slots arr) params l.paramAt
    s.modLane t (fun l =>
      { l with
        paramAt := []
        banks := l.banks.map (fun b =>
          let x := s.bankStep? t b
          { target := b.target,
            since := match x with | none => start | some x => since (x.edgeIns 2) (x.edgeIns 1),
            tsince := match x with | none => start | some x => since (x.tickIns 2) (x.tickIns 1),
            done := b.doneNext, tdone := b.tdoneNext, doneNext := none, tdoneNext := none }) })

/-- The commit stage is armed (R261). -/
def State.laneArmed (s : State) (t : Nat) : Bool :=
  let l := s.lane t
  l.runs && (s.laneStep t).prepared && !l.holdPend && decide (l.ke < s.tick)

/-- SEQ.SPECSTATE (R275). -/
def State.specState (s : State) (t : Nat) : Word :=
  let l := s.lane t
  if !l.live then BitVec.ofNat 32 (l.notReady * 65536)
  else
    let x := s.laneStep t
    let code := fun (i : Nat) => match l.banks[i]? with
      | none => 0
      | some b => if s.bankReady t b && s.bankTickReady t b then 2 else 1
    BitVec.ofNat 32 (l.notReady * 65536 + code 1 * 1024 + code 0 * 256 +
      (if x.prepared then x.targets.length else 0) * 16 + (s.laneArmed t).toNat * 4 + x.prepared.toNat * 2)

/-! Actions and ramps (R232 to R236). -/

/-- The value of write `i` of a ramp (R233). -/
def Ramp.value (r : Ramp) (i : Nat) : F32 :=
  if r.n ≤ i then r.v1
  else
    let f := fdiv (fOfInt (i : Int)) (fOfInt (r.n : Int))
    let d := fsub r.v1 r.v0
    if r.scurve then
      let u := fma (0xC0000000 : F32) f (0x40400000 : F32)
      fma d (fmul (fmul f f) u) r.v0
    else fma d f r.v0

/-- The next write of a ramp (R232, R233). -/
def State.rampWrite (s : State) (t : Nat) (r : Ramp) : State :=
  let v := r.value (r.i + 1)
  s.stage (writerOf clsLane t) r.slot v (r.srcOk && fIsFin v).toNat

/-- Every running ramp of lane `t` makes its next write; those that have made their last are gone. -/
def State.laneWrites (s : State) (t : Nat) : State :=
  if !(s.lane t).runs then s
  else
    let s := (s.lane t).ramps.foldl (fun s r => s.rampWrite t r) s
    s.modLane t (fun l => { l with ramps := (l.ramps.map (fun r => { r with i := r.i + 1 })).filter (fun r => decide (r.i < r.n)) })

/-- Ramp generators in use (R235). -/
def Lane.gens (l : Lane) : Nat := (l.ramps.filter (fun r => decide (2 ≤ r.n))).length

/-- The place of the ramp to evict: the earliest last write, then the one started first (R235). -/
def evictAt (l : List Ramp) : Option Nat :=
  (l.zipIdx.foldl (fun (best : Option (Nat × Nat)) x =>
    if x.1.n < 2 then best
    else
      match best with
      | none => some (x.1.n - x.1.i, x.2)
      | some b => if x.1.n - x.1.i < b.1 then some (x.1.n - x.1.i, x.2) else best) none).map (·.2)

/-- A new ramp or single write among those of the entering step, `old` being the ramps from before it (R234, R235).
A ramp that it evicts becomes a single write of its v1. -/
def State.startRamp (s : State) (t : Nat) (r : Ramp) (old new : List Ramp) : State × List Ramp × List Ramp :=
  let old := old.filter (fun q => q.slot != r.slot)
  if 2 ≤ r.n ∧ 128 ≤ ((old ++ new).filter (fun q => decide (2 ≤ q.n))).length then
    match evictAt old with
    | none => (s, old, new ++ [r])
    | some i =>
      let q := old.getD i r
      let s := (s.bump (R.SEQ_RAMPEVICT t)).raiseCounted t 0xE102 t (BitVec.ofNat 32 t) (BitVec.ofNat 32 q.slot) s.tickLo 0
      (s, modifyAt old i (fun q => { q with v0 := q.v1, n := 1, i := 0 }), new ++ [r])
  else (s, old, new ++ [r])

/-- The ramp or single write of an action, resolved now (R224, R233). -/
def State.actRamp (s : State) (t : Nat) (a : StepAct) : Ramp :=
  let ps := (s.lane t).params
  let v := s.valueOperand ps a.vsrc a.value
  let rt := (timeOperand ps a.tsrc a.rtime).toNat
  let n := if a.ramp = 0 then 1 else max 1 ((rt * 200 + s.period - 1) / max 1 s.period)
  ⟨a.slot, a.ramp == 2, (s.slot a.slot).val, v.1, v.2, n, 0⟩

/-- A mask of the bits in a list. -/
def maskBits (l : List Nat) : Nat := l.foldl (fun a i => a ||| 2 ^ i) 0

/-- TRIGGER conditions that are true (R237). -/
def State.trigsTrue (s : State) (t : Nat) : Nat :=
  maskBits (((s.laneStep t).used.filter (fun c =>
    c.1.kind == 1 && (s.condSt (4 * t + c.1.source / 8) (c.1.source % 8)).st)).map (·.2))

/-- Enter step `idx` now, in the present tick (R224, R229, R231, R236); `stop` ends running ramps first (R243). A TRIGGER
that is true already is met at TE (R237). The
registers show the step from B(KE+1), as R231 and R265 have it (DEDUCED for an entry at a boundary). -/
def State.laneEnter (s : State) (t idx : Nat) (stop mid : Bool) : State :=
  let ps := (s.lane t).params
  let x := recStep (s.laneRec t) idx
  let s := s.modLane t (fun l =>
    { l with
      step := idx, te := s.now, ke := s.tick, teOff := s.off, heldFor := 0, next := none, exit := none, early := 0,
      dwell := [none, none, none, none], stepCnt := satAdd l.stepCnt 1,
      duration := timeOperand ps x.dsrc x.duration,
      operA := x.conds.map (fun c => if c.kind = 3 then timeOperand ps c.asrc c.a else (s.valueOperand ps c.asrc c.a).1),
      operB := x.conds.map (fun c => (s.valueOperand ps c.bsrc c.b).1),
      ramps := if stop then [] else l.ramps })
  let r := x.acts.foldl (fun (p : State × List Ramp × List Ramp) a =>
    p.1.startRamp t (p.1.actRamp t a) p.2.1 p.2.2) (s, (s.lane t).ramps, [])
  let evicted := r.2.1.filter (fun q => q.n == 1)
  let s := if mid then (evicted ++ r.2.2).foldl (fun s q => s.rampWrite t q) r.1 else r.1
  let done := fun (l : List Ramp) =>
    if mid then (l.map (fun q => { q with i := q.i + 1 })).filter (fun q => decide (q.i < q.n)) else l
  let kept := if mid then r.2.1.filter (fun q => q.n != 1) else r.2.1
  let s := (s.modLane t (fun l => { l with ramps := kept ++ done r.2.2 })).laneBanks t s.now
  s.modLane t (fun l => { l with early := s.trigsTrue t })

/-- The lane ends in DONE or FAULT (R216, R254). -/
def State.laneEnd (s : State) (t st endCode fault : Nat) : State :=
  (s.laneState t st).modLane t (fun l =>
    { l with
      ramps := [], banks := [], exit := none, next := none, early := 0, holdPend := false, abortSeq := false, faultCause := fault,
      endCode := if endCode = 0 then l.endCode else endCode })

/-- Enter the abort step `a`. -/
def State.laneToAbort (s : State) (t a : Nat) (mid : Bool) : State :=
  let s := (s.laneState t lnABORTING).modLane t (fun l => { l with abortSeq := true, abortTe := s.now })
  s.laneEnter t a true mid

/-- Act on an exit's target now (R215, R231, R243, R244). -/
def State.laneTake (s : State) (t target : Nat) (mid : Bool) : State :=
  let ab := (s.lane t).state == lnABORTING
  if target = endDONE then s.laneEnd t lnDONE (if ab then 2 else 1) 0
  else if target = endFAULT then s.laneEnd t lnFAULT 0 1
  else if target = endABORT then
    if ab then s.laneEnd t lnFAULT 0 3
    else
      match s.abortStep? t with
      | none => s.laneEnd t lnDONE 2 0
      | some a => s.laneToAbort t a mid
  else s.laneEnter t target false mid

/-! Exits (R230, R237 to R241, R244, R260, R264, R265). -/

/-- Whether exits are no longer taken: the moment lies after tx (R244). -/
def State.pastAbortMax (s : State) (t : Nat) : Bool :=
  let m := recAbortMax (s.laneRec t)
  (s.lane t).state == lnABORTING && m != 0 && decide ((s.lane t).abortTe + m * edgesPerUs < s.now)

/-- The edge part of a bank reaches the DIO level registers (R265). -/
def State.edgeCommit (s : State) (t : Nat) (x : RStep) : State :=
  (x.acts.filter StepAct.edge).foldl (fun s a => s.dioEdgeCommit a.slot (s.actRamp t a).v1) s

/-- A ready exit of a prepared step commits its bank (R264, R265). -/
def State.laneCommit (s : State) (t cause target : Nat) (mid : Bool) : State :=
  let s := s.laneDiscard t (some target)
  let s := match s.targetStep? t target with
    | none => s
    | some i => s.edgeCommit t (recStep (s.laneRec t) i)
  (s.modLane t (fun l => { l with exitReg := s.exitWord t cause target })).laneTake t target mid

/-- An exit that commits no bank: its target is entered at the next boundary (R229, R260). -/
def State.laneLater (s : State) (t cause target : Nat) : State :=
  let late := s.laneArmed t
  (s.laneDiscard t none).modLane t (fun l =>
    { l with exit := some ⟨cause, target⟩, notReady := if late then min 0xFFFF (l.notReady + 1) else l.notReady })

/-- The exit of a step with a hold pending (R241, R272). -/
def State.laneExitHold (s : State) (t cause target : Nat) : State :=
  let w := s.exitWord t cause target
  ((s.laneDiscard t none).laneState t lnHOLD).modLane t (fun l =>
    { l with holdPend := false, next := some target, exitReg := w, heldAt := s.now })

/-- The exit that wins among a mask of conditions and the timeout in bit 4: its cause and target (R239, R255). -/
def State.winner (s : State) (t mask : Nat) : Option (Nat × Nat) :=
  let x := s.laneStep t
  ((List.range 5).find? (fun i => mask.testBit i)).map (fun i =>
    (i + 1, if i = 4 then x.timeoutTgt else (x.conds.getD i default).target))

/-- Exits by the conditions in `mask` are met now (R230, R239, R244). -/
def State.laneExit (s : State) (t mask : Nat) (mid : Bool) : State :=
  let l := s.lane t
  if !l.runs || l.exit.isSome || mask = 0 || s.pastAbortMax t then s
  else if s.tick ≤ l.ke then s.modLane t (fun l => { l with early := l.early ||| mask })
  else
    match s.winner t mask with
    | none => s
    | some (cause, target) =>
      if l.holdPend then s.laneExitHold t cause target
      else if s.laneArmed t && l.banks.any (fun b => b.target == target && s.bankReady t b) then
        s.laneCommit t cause target mid
      else s.laneLater t cause target

/-- The EDGE count at which each timer of the step and its timeout is due, with its bit. -/
def State.laneDues (s : State) (t : Nat) : List (Nat × Nat) :=
  let l := s.lane t
  let x := s.laneStep t
  let at_ := fun (w : Word) => l.te + l.heldFor + w.toNat * edgesPerUs
  ((x.conds.zipIdx.filter (fun c => c.1.kind == 3)).map (fun c => (at_ (l.operA.getD c.2 0), c.2))) ++
  (if l.duration = 0xFFFFFFFF then [] else [(at_ l.duration, 4)])

/-- Timers and timeout that are due at the present moment. -/
def State.timersDue (s : State) (t : Nat) : Nat :=
  maskBits (((s.laneDues t).filter (fun d => decide (d.1 ≤ s.now))).map (·.2))

/-- What is met now beside COMPAREs and CAN frames: timers and the timeout that are due, and TRIGGERs that are true. -/
def State.exitsNow (s : State) (t : Nat) : Nat := s.timersDue t ||| s.trigsTrue t

/-- A time exit that was due before the present moment takes place at its own time (R237). -/
def State.laneTimed (s : State) (t : Nat) : State :=
  let l := s.lane t
  if !l.runs || l.exit.isSome || decide (s.tick ≤ l.ke) then s
  else
    match ((s.laneDues t).map (·.1)).min? with
    | none => s
    | some d =>
      if s.now ≤ d then s
      else
        let u := s.atEdge (d - s.edgeBase)
        { u.laneExit t (u.timersDue t) true with off := s.off }

/-- Watch lane `t` at the present moment in the middle of a tick, with further conditions met in `mask`. -/
def State.laneWatch (s : State) (t mask : Nat) : State :=
  if !s.laneOn t then s
  else
    let s := s.laneTimed t
    s.laneExit t (mask ||| s.exitsNow t) true

/-- Watch every lane now. -/
def State.lanesWatch (s : State) : State := forUpTo 8 (fun t s => s.laneWatch t 0) s

/-- Object `o` of CANc accepted a frame that ended at EDGE count `ended` (R237). -/
def State.lanesCan (s : State) (c o ended : Nat) : State :=
  forUpTo 8 (fun t s =>
    if !s.laneOn t then s
    else
      let s := s.laneTimed t
      s.laneWatch t (if (s.lane t).te ≤ ended then
        maskBits (((s.laneStep t).used.filter (fun q => q.1.kind == 4 && q.1.source == 128 * c + o)).map (·.2)) else 0)) s

/-- The COMPARE conditions at a boundary: those met, and the dwells that run (R237, R238). -/
def State.laneCompare (s : State) (t : Nat) : State × Nat :=
  let l := s.lane t
  (s.laneStep t).used.foldl (fun (p : State × Nat) c =>
    if c.1.kind ≠ 2 then p
    else
      let v := s.slot c.1.source
      let ok := compareHolds c.1.op v.val (l.operA.getD c.2 0) (l.operB.getD c.2 0) && (!c.1.qvalid || v.good)
      let d := if ok then some ((l.dwell.getD c.2 none).getD s.now) else none
      let met := match d with | some b => decide (c.1.dwell * edgesPerMs ≤ s.now - b) | none => false
      (p.1.modLane t (fun l => { l with dwell := modifyAt l.dwell c.2 (fun _ => d) }),
        if met then p.2 ||| 2 ^ c.2 else p.2)) (s, 0)

/-- Watch lane `t` at the present boundary (R230, R237). -/
def State.laneAtBoundary (s : State) (t : Nat) : State :=
  if !(s.lane t).runs || (s.lane t).exit.isSome then s
  else
    let (s, m) := s.laneCompare t
    s.laneExit t ((s.lane t).early ||| m ||| s.exitsNow t) false

/-! Letters and reactions (R240 to R245, R251). -/

/-- A HOLD at the present boundary (R240, R241). -/
def State.laneHold (s : State) (t : Nat) : State :=
  let l := s.lane t
  if l.state ≠ lnRUN then s
  else
    (match l.exit with
      | some x =>
        let w := s.exitWord t x.cause x.target
        (s.laneState t lnHOLD).modLane t (fun l =>
          { l with exit := none, next := some x.target, exitReg := w, heldAt := s.now })
      | none =>
        if (s.laneStep t).atExit then s.modLane t (fun l => { l with holdPend := true })
        else
          (s.laneState t lnHOLD).modLane t (fun l =>
            { l with heldAt := s.now, dwell := [none, none, none, none], early := 0 })).laneShow t

/-- A RESUME at the present boundary (R242). -/
def State.laneResume (s : State) (t : Nat) : State :=
  let l := s.lane t
  if l.state = lnRUN then (s.modLane t (fun l => { l with holdPend := false })).laneShow t
  else if l.state = lnHOLD then
    let s := s.laneState t lnRUN
    match l.next with
    | some g => ((s.modLane t (fun l => { l with next := none })).laneShow t).laneTake t g false
    | none => (s.modLane t (fun l => { l with heldFor := l.heldFor + (s.now - l.heldAt) })).laneShow t
  else s

/-- An abort cause at the present boundary: 6 letter, 7 SAFE, 8 node loss (R215, R243, R255, R712). -/
def State.laneAbort (s : State) (t cause : Nat) : State :=
  let l := s.lane t
  if l.state = lnRUN ∨ l.state = lnHOLD then
    let w := s.exitWord t cause endABORT
    let s := (s.laneDiscard t none).modLane t (fun l =>
      { l with exit := none, next := none, holdPend := false, exitReg := w })
    match s.abortStep? t with
    | none => s.laneEnd t lnDONE 2 0
    | some a => s.laneToAbort t a false
  else if (l.state = lnDONE ∨ l.state = lnFAULT) ∧ cause = 6 then (s.laneState t lnIDLE).laneShow t
  else s

/-- A RUN letter starts recipe `r` with parameter values at the present boundary (R227, R251). -/
def State.laneStart (s : State) (t r : Nat) (params : List Word) : State :=
  let s := s.modLane t (fun l =>
    { l with
      recipe := r, params := params, stepCnt := 0, notReady := 0, ramps := [], banks := [], next := none, exit := none,
      holdPend := false, abortSeq := false, paramAt := [], lostNode := false })
  (s.laneState t lnRUN).laneEnter t 0 false false

/-- A PARAMSET for lane `t` whose counter write finished at EDGE count `fin` (R227, R259). -/
def State.laneParams (s : State) (t fin : Nat) (ps : List (Nat × Word)) : State :=
  s.modLane t (fun l =>
    let new := ps.foldl (fun q x => modifyAt q x.1 (fun _ => x.2)) l.params
    let changed := (List.range 16).filter (fun i => new.getD i 0 != l.params.getD i 0)
    { l with params := new, paramAt := l.paramAt ++ changed.map (fun i => (i, fin)) })

/-- Entry into SAFE (R59). -/
def State.lanesSafe (s : State) : State := forEach s.tiles (fun t s => s.laneAbort t 7) s

/-- Entry `e` of CANc has left the census (R245). -/
def State.laneNodeLost (s : State) (c e : Nat) : State :=
  forUpTo 8 (fun t s =>
    if s.tileUsable t && (s.lane t).live && (recReq (s.laneRec t)).contains (64 * c + e) then
      (s.raise 0xE103 t (BitVec.ofNat 32 t) (BitVec.ofNat 32 (64 * c + e)) (BitVec.ofNat 32 (s.lane t).step) s.tickLo).modLane t
        (fun l => { l with lostNode := true })
    else s) s

/-- The reaction to a node loss at a boundary (R245). -/
def State.laneNodeReact (s : State) (t : Nat) : State :=
  if !(s.lane t).lostNode then s
  else
    let m := recNodelost (s.laneRec t)
    let s := s.modLane t (fun l => { l with lostNode := false })
    if (s.lane t).state = lnABORTING then s
    else if m = 1 then s.laneHold t
    else if m = 2 ∧ (s.lane t).live then s.laneAbort t 8
    else s

/-! Boundaries, load and warm restart. -/

/-- The successor of an exit met before is entered at the present boundary (R229). -/
def State.lanePending (s : State) (t : Nat) : State :=
  match (s.lane t).exit with
  | none => s
  | some x =>
    let w := s.exitWord t x.cause x.target
    (s.modLane t (fun l => { l with exit := none, exitReg := w })).laneTake t x.target false

/-- An abort sequence longer than ABORTMAX ends at the first boundary after tx (R244). -/
def State.laneAbortMax (s : State) (t : Nat) : State :=
  if s.pastAbortMax t then
    let w := BitVec.ofNat 32 (9 * 2 ^ 28 + (s.lane t).step * 65536 + endFAULT)
    ((s.laneDiscard t none).modLane t (fun l => { l with exitReg := w })).laneEnd t lnFAULT 0 2
  else s

/-- What precedes the checkpoint at a boundary: reactions, entries that wait, ABORTMAX. -/
def State.lanesBegin (s : State) : State :=
  forEach s.tiles (fun t s => ((s.laneNodeReact t).lanePending t).laneAbortMax t) s

/-- What follows the conditions at a boundary: banks, exits met, and every lane's writes. A step entered at this boundary
is watched from it on. -/
def State.lanesRun (s : State) (arr : List (Nat × Nat)) : State :=
  forEach s.tiles (fun t s =>
    if !(s.lane t).live then s
    else ((((s.laneRebuild t arr).laneAtBoundary t).laneAtBoundary t).laneWrites t)) s

/-- Time exits of the tick that ends, each at its own time. -/
def State.lanesTimed (s : State) : State := if !s.running then s else forEach s.tiles (fun t s => s.laneTimed t) s

/-- Every lane's registers at a boundary. -/
def State.lanesShow (s : State) : State :=
  s.tiles.foldl (fun s t => if (s.lane t).state = lnIDLE then s else s.laneShow t) s

/-- T0 of a warm restart (R274). -/
def State.lanesT0 (s : State) : State := forEach s.tiles (fun t s => s.laneDiscard t none) s

/-- A ramp at B(r) after a checkpoint of B(j) (R246). -/
def Ramp.rebase (r : Ramp) (v0 : F32) (j k : Nat) : Ramp :=
  let kend := j + (r.n - r.i) - 1
  if k ≤ kend then { r with v0 := v0, n := kend - k + 1, i := 0 } else { r with v0 := r.v1, n := 1, i := 0 }

/-- Lanes after their restoration from the checkpoint of B(j), at the present boundary (R246, R274). -/
def State.lanesRestored (s : State) (j : Nat) : State :=
  forEach s.tiles (fun t s =>
    let s := if (s.lane t).runs then
        s.modLane t (fun l =>
          { l with
            ramps := l.ramps.map (fun r => r.rebase (s.slot r.slot).val j s.tick)
            dwell := [none, none, none, none], early := 0 })
      else s
    let s := s.modLane t (fun l => { l with specAt := s.now })
    let l := s.lane t
    let s := if l.live && l.exit.isNone && l.next.isNone then s.laneBanks t s.now else s
    if l.state = lnIDLE then s else s.laneShow t) s

/-- Every lane at a load that does not resume state (R215, R253, R275, R276). -/
def State.loadLanes (s : State) : State :=
  let s := forUpTo 8 (fun t s => s.laneState t lnIDLE) s
  let s := s.modArch (fun a => { a with lanes := List.replicate 8 {} })
  s.tiles.foldl (fun s t => ((s.laneShow t).setReg (R.SEQ_RAMPEVICT t) 0).setReg (R.SEQ_FALSESTART t) 0) s

/-! The lane's commands. An exit that is met is taken with whatever else is met in its EDGE cycle, by the order of R239. -/

/-- TRIGGER_CONDITION_MET: condition `i` of the current step of lane `t`, a TRIGGER that is true. -/
def execTriggerConditionMet (t i e : Nat) (s : State) : Out :=
  let s := s.atEdge e
  answer (decide (t < 8) && decide (i < 4)) (
    if !s.laneOn t then s
    else
      let s := s.laneTimed t
      if (s.trigsTrue t).testBit i then s.laneExit t (s.exitsNow t) true else s)

/-- TIMER_CONDITION: the elapsed time reaches the operand of condition `i`, a TIMER. -/
def execTimerCondition (t i e : Nat) (s : State) : Out :=
  let s := s.atEdge e
  answer (decide (t < 8) && decide (i < 4)) (
    if !s.laneOn t then s
    else
      let s := s.laneTimed t
      if (s.timersDue t).testBit i then s.laneExit t (s.exitsNow t) true else s)

/-- STEP_TIMEOUT: the elapsed time reaches the resolved DURATION. -/
def execStepTimeout (t e : Nat) (s : State) : Out :=
  let s := s.atEdge e
  answer (decide (t < 8)) (
    if !s.laneOn t then s
    else
      let s := s.laneTimed t
      if (s.timersDue t).testBit 4 then s.laneExit t (s.exitsNow t) true else s)

/-- STEP_EXIT: the exits that are met now; the winning one is taken. -/
def execStepExit (t e : Nat) (s : State) : Out := answer (decide (t < 8)) ((s.atEdge e).laneWatch t 0)

/-- STEP_ENTER: at a boundary, the successor of an exit that entered nothing yet. -/
def execStepEnter (t : Nat) (s : State) : Out :=
  answer (decide (t < 8)) (if s.laneOn t then s.lanePending t else s)

/-- BANK_BUILD_COMPLETE: the edge part or tick part of bank `b` is complete for the present tick, or for the next one. -/
def execBankBuildComplete (t b : Nat) (edge next : Bool) (e : Nat) (s : State) : Out :=
  let s := s.atEdge e
  answer (decide (t < 8) && decide (b < 2)) (s.modLane t (fun l =>
    { l with banks := modifyAt l.banks b (fun x =>
        match edge, next with
        | true, false => { x with done := some s.now }
        | false, false => { x with tdone := some s.now }
        | true, true => { x with doneNext := some s.now }
        | false, true => { x with tdoneNext := some s.now }) }))

/-- ABORTMAX_EXCEEDED, at a boundary. -/
def execAbortmaxExceeded (t : Nat) (s : State) : Out :=
  answer (decide (t < 8)) (if s.laneOn t then s.laneAbortMax t else s)

/-- NODE_LOST_REACTION, at a boundary. -/
def execNodeLostReaction (t : Nat) (s : State) : Out :=
  answer (decide (t < 8)) (if s.laneOn t then s.laneNodeReact t else s)

end Sys2Proof.Machine
end

