-- ==== Sys2Proof/Machine/Convert.lean ====
section
/-! DEFINITION. Events of the analog die, of CAN and of trigger engines that reach the lanes as well (R237, R245, R354,
R482, R496 to R503).
Where the spec can be read in two ways the assumption log says what was read: entries 70 (DEDUCED unless marked there otherwise). -/

namespace Sys2Proof.Machine

/-- A conversion of core `c` completes: its value is staged, its raw word reaches the engines, and lanes see the
conditions that it made true (R237, R289, R354). -/
def State.adcDone (s : State) (c : Nat) (code : Int) : State :=
  let s := s.lanesTimed
  match s.adcResult c code with
  | (s, none) => s
  | (s, some x) => (s.acqSample c x).lanesWatch

/-- Lanes take note of entries that left the census between `a` and `s` (R245). -/
def State.noteLeft (a s : State) : State :=
  forEach (s.can.left.drop a.can.left.length) (fun x s => s.laneNodeLost x.1 x.2) s

/-- A frame on CANc ends; lanes see the acceptance (R237, R482). -/
def State.canFrame (s : State) (c lag : Nat) (f : CanFrame) : State :=
  match s.canReceive c lag f with
  | (t, none) => s.noteLeft t
  | (t, some o) => (s.noteLeft t).lanesCan c o s.now

/-- A Septed frame of a kind from node `n` (R496). -/
def septedOf (kind n : Nat) (fdf : Bool) (dlc : Nat) (b : List Byte) : CanFrame :=
  ⟨0x1FFF0000 + 256 * kind + n, true, fdf, fdf, false, false, dlc, b⟩

/-- ADC_CONVERSION_DONE: core `c` delivers a code. -/
def execAdcConversionDone (c : Nat) (code : Int) (e : Nat) (s : State) : Out :=
  answer (decide (c < 16)) ((s.atEdge e).adcDone c code)

/-- TRIGGER_OCCURRENCE: the conditions in mask `m` of engine `e` become true. -/
def execTriggerOccurrence (e m at_ : Nat) (s : State) : Out :=
  answer (decide (e < 32)) ((((s.atEdge at_).lanesTimed).triggerOccurrence e m).lanesWatch)

/-- CAN_FRAME_RECEIVE. -/
def execCanFrameReceive (c : Nat) (f : CanFrame) (lag wait e : Nat) (s : State) : Out :=
  answer (decide (c < 4)) (((s.atEdge e).waited 7 wait).canFrame c lag f)

/-- SEPTED_ANNOUNCE from node `n` with its 20 bytes of payload. -/
def execSeptedAnnounce (c n : Nat) (b : List Byte) (e : Nat) (s : State) : Out :=
  answer (decide (c < 4)) ((s.atEdge e).canFrame c 0 (septedOf 2 n true 11 b))

/-- SEPTED_HEARTBEAT from node `n` with its 4 bytes of payload. -/
def execSeptedHeartbeat (c n : Nat) (b : List Byte) (e : Nat) (s : State) : Out :=
  answer (decide (c < 4)) ((s.atEdge e).canFrame c 0 (septedOf 3 n false 4 b))

/-- SEPTED_LEAVE from node `n` with its byte of payload. -/
def execSeptedLeave (c n : Nat) (b : List Byte) (e : Nat) (s : State) : Out :=
  answer (decide (c < 4)) ((s.atEdge e).canFrame c 0 (septedOf 4 n false 1 b))

/-- NODE_ABSENCE_TIMEOUT of entry `en` of CANc. -/
def execNodeAbsenceTimeout (c en e : Nat) (s : State) : Out :=
  let s := s.atEdge e
  answer (decide (c < 4) && decide (en < 64)) (s.noteLeft (s.cenAbsent c en))

/-- NODE_LEAVE_STALE: at a boundary, the objects of bound entries that have left write STALE and lanes react. -/
def execNodeLeaveStale (s : State) : Out :=
  .next (forUpTo 8 (fun t s => if s.laneOn t then s.laneNodeReact t else s) s.canLeft)

end Sys2Proof.Machine
end

