-- ==== Sys2Proof/Machine/Clock.lean ====
section
/-! DEFINITION. Clock domains and crossings as far as software sees them (R642 to R657).
Where the spec can be read in two ways the assumption log says what was read: entries 79 (DEDUCED unless marked there otherwise). -/

namespace Sys2Proof.Machine

/-- NET.STAT.LINK of port `p` (R510, item 3). -/
def State.showLink (s : State) (p : Nat) : State :=
  let ctrl := s.reg (R.NET_CTRL p)
  let w := s.reg (R.NET_STAT p)
  s.setReg (R.NET_STAT p) (setBit w 3 (bit w 0 && (bit w 1 || !bit ctrl 30) && (bit w 2 || !bit ctrl 29)))

/-- The lane of port `p` loses lock; SYNC falls when the loss lasts more than 10 us (R655). -/
def State.lockLoss (s : State) (p : Nat) (long : Bool) : State :=
  let s := s.putFld R.CLK_STAT (3 + p) (3 + p) 0
  if long then (s.putFld (R.NET_STAT p) 0 0 0).showLink p else s

/-- Lock returns and the handshake of R653 runs; the PCS reports synchronisation and auto-negotiation. -/
def State.lockReturn (s : State) (p : Nat) (sync anDone : Bool) : State :=
  let s := (s.putFld R.CLK_STAT (3 + p) (3 + p) 1).bump R.CLK_FIFORST
  ((s.putFld (R.NET_STAT p) 0 0 sync.toNat).putFld (R.NET_STAT p) 1 1 anDone.toNat).showLink p

/-- A code-group error on port `p`, delivered or merged (R647, R651): the domain exists only while its lane is locked. -/
def State.codeGroupError (s : State) (p : Nat) (merged : Bool) : State :=
  if !s.bitOf R.CLK_STAT (3 + p) then s
  else if merged then s.bump (R.CLK_MERGE (3 + p))
  else s.bump (if p = 0 then R.CLK_CGERRA else R.CLK_CGERRB)

/-- RX_LOCK_LOSS. -/
def execRxLockLoss (p : Nat) (long : Bool) (e : Nat) (s : State) : Out :=
  answer (decide (p < 2)) ((s.atEdge e).lockLoss p long)

/-- RX_LOCK_RETURN. -/
def execRxLockReturn (p : Nat) (sync anDone : Bool) (e : Nat) (s : State) : Out :=
  answer (decide (p < 2)) ((s.atEdge e).lockReturn p sync anDone)

/-- CODE_GROUP_ERROR. -/
def execCodeGroupError (p : Nat) (merged : Bool) (e : Nat) (s : State) : Out :=
  answer (decide (p < 2)) ((s.atEdge e).codeGroupError p merged)

end Sys2Proof.Machine
end

