-- ==== Sys2Proof/Machine/ControlLaws.lean ====
section
/-! DEFINITION. The gain-table law and the observer law (R190 to R214): a law record's fields, its load checks, its
cost, and one execution as a function of the law state. A law record is the body of its LAWS record.
Where the spec can be read in two ways the assumption log says what was read: entries 20, 82 (DEDUCED unless marked there otherwise). -/

namespace Sys2Proof.Machine

/-- The law state of R199, gain table and observer together. SAT is 0 none, 1 HI, 2 LO per output. -/
structure LawSt where
  xfer : Bool
  yvalid : Bool
  nonfin : Bool
  nfcnt : Word
  ulast : List F32
  sat : List Nat
  gti : F32
  gtd : F32
  gtyprev : F32
  gtkp : F32
  gtki : F32
  obz : F32
  obb : List F32
  obx : List F32
  obr : List F32
  deriving DecidableEq, Repr

/-- Element `i` of a list of patterns, +0.0 past its end. -/
def f32At (l : List F32) (i : Nat) : F32 := l.getD i 0

/-! The gain-table record (R203). -/

def gtKITAB (b : List Byte) : Bool := bit (wAt b 0) 16
def gtNBP (b : List Byte) : Nat := uAt b 3 1
def gtKI (b : List Byte) : F32 := wAt b 4
def gtKD (b : List Byte) : F32 := wAt b 8
def gtDFILT (b : List Byte) : F32 := wAt b 0x0C
def gtKFF (b : List Byte) : F32 := wAt b 0x10
def gtULO (b : List Byte) : F32 := wAt b 0x14
def gtUHI (b : List Byte) : F32 := wAt b 0x18
def gtRMAX (b : List Byte) : F32 := wAt b 0x1C
def gtE (b : List Byte) (j : Nat) : F32 := wAt b (0x24 + 12 * j)
def gtKP (b : List Byte) (j : Nat) : F32 := wAt b (0x28 + 12 * j)
def gtKIT (b : List Byte) (j : Nat) : F32 := wAt b (0x2C + 12 * j)

/-- The slope of a gain table between breakpoints `j` and `j + 1` (R205). -/
def gtSlope (b : List Byte) (g : Nat → F32) (j : Nat) : F32 :=
  fdiv (fsub (g (j + 1)) (g j)) (fsub (gtE b (j + 1)) (gtE b j))

/-- R206. -/
def gtLook (b : List Byte) (g : Nat → F32) (e : F32) : F32 :=
  let n := gtNBP b
  if fle e (gtE b 0) then g 0
  else if fle (gtE b (n - 1)) e then g (n - 1)
  else
    let j := ((List.range n).filter (fun j => fle (gtE b j) e)).getLastD 0
    fma (gtSlope b g j) (fsub e (gtE b j)) (g j)

/-! The observer record (R209). -/

def obN (b : List Byte) : Nat := uAt b 0 1
def obM (b : List Byte) : Nat := uAt b 1 1
def obP (b : List Byte) : Nat := uAt b 2 1
def obPREDICT (b : List Byte) : Bool := uAt b 3 1 % 2 == 1
def obINTEG (b : List Byte) : Bool := uAt b 3 1 / 2 % 2 == 1
def obIMEAS (b : List Byte) : Nat := uAt b 4 1
def obBDECAY (b : List Byte) : F32 := wAt b 8
def obA (b : List Byte) (s c : Nat) : F32 := wAt b (0x010 + 4 * (8 * s + c))
def obB (b : List Byte) (s i : Nat) : F32 := wAt b (0x110 + 4 * (4 * s + i))
def obC (b : List Byte) (j c : Nat) : F32 := wAt b (0x190 + 4 * (8 * j + c))
def obL (b : List Byte) (s j : Nat) : F32 := wAt b (0x210 + 4 * (4 * s + j))
def obK (b : List Byte) (i c : Nat) : F32 := wAt b (0x290 + 4 * (8 * i + c))
def obKI (b : List Byte) (i : Nat) : F32 := wAt b (0x310 + 4 * i)
def obNSP (b : List Byte) (i : Nat) : F32 := wAt b (0x320 + 4 * i)
def obKFF (b : List Byte) (i : Nat) : F32 := wAt b (0x330 + 4 * i)
def obULO (b : List Byte) (i : Nat) : F32 := wAt b (0x340 + 4 * i)
def obUHI (b : List Byte) (i : Nat) : F32 := wAt b (0x350 + 4 * i)
def obRMAX (b : List Byte) (i : Nat) : F32 := wAt b (0x360 + 4 * i)
def obX0 (b : List Byte) (s : Nat) : F32 := wAt b (0x370 + 4 * s)

/-! Both laws. A record's KIND is 0 for the gain table and 1 for the observer (R198). -/

/-- The number of outputs that a record declares. -/
def lawP (r : Rec) : Nat := if r.kind = 0 then 1 else obP r.body

/-- The number of measurements that a record declares. -/
def lawM (r : Rec) : Nat := if r.kind = 0 then 1 else obM r.body

def lawULO (r : Rec) (i : Nat) : F32 := if r.kind = 0 then gtULO r.body else obULO r.body i
def lawUHI (r : Rec) (i : Nat) : F32 := if r.kind = 0 then gtUHI r.body else obUHI r.body i
def lawRMAX (r : Rec) (i : Nat) : F32 := if r.kind = 0 then gtRMAX r.body else obRMAX r.body i

/-- CELL.COST of a cell that names the record (R214). -/
def lawCost (r : Rec) : Nat :=
  if r.kind = 0 then (if gtKITAB r.body then 48 else 40)
  else
    let n := obN r.body
    let m := obM r.body
    let p := obP r.body
    if obPREDICT r.body then 2 * n * n + n * (2 * m + 3 * p) + 24 else n * n + 2 * n * (m + p) + 24

/-- The output limits of output `i` (R172, R207, R211). -/
def lawLimits (r : Rec) (i : Nat) (x : F32) : F32 := fclamp x (lawULO r i) (lawUHI r i)

/-- The output rate limit about the last output (R172, R207, R211). -/
def lawRate (r : Rec) (i : Nat) (ulast x : F32) : F32 :=
  fclamp x (fsub ulast (lawRMAX r i)) (fadd ulast (lawRMAX r i))

/-- SAT of an output written as `w` where `u` was computed (R200). -/
def satOf (w u : F32) : Nat := if flt w u then 1 else if flt u w then 2 else 0

/-- What one execution in AUTO or CASCADE gives: the outputs, whether a limit changed any, and the new law state. -/
structure LawOut where
  w : List F32
  clipped : Bool
  st : LawSt
  deriving DecidableEq, Repr

/-- The filtered derivative of R207. -/
def gtDeriv (b : List Byte) (st : LawSt) (y : F32) : F32 :=
  let dy := if st.yvalid then fsub y st.gtyprev else 0
  let g := fmul (gtKD b) dy
  let h := fsub (fneg g) st.gtd
  fma (gtDFILT b) h st.gtd

/-- One execution of the gain-table law (R207); nothing when the execution is non-finite (R194). -/
def gtRun (r : Rec) (st : LawSt) (y sp ff c : F32) : Option LawOut :=
  let b := r.body
  let e := fsub sp y
  let kp := gtLook b (gtKP b) e
  let ki := if gtKITAB b then gtLook b (gtKIT b) e else gtKI b
  let dn := gtDeriv b st y
  let u0 := fma (gtKFF b) ff (fadd (fmul kp e) dn)
  let ulast := f32At st.ulast 0
  let sat := st.sat.getD 0 0
  let it1 := fclamp (fma ki e st.gti) (gtULO b) (gtUHI b)
  let dir := fsign ki * fsign e
  let it2 := if (sat == 1 && decide (0 < dir)) || (sat == 2 && decide (dir < 0)) then st.gti else it1
  let it := if st.xfer then fclamp (fsub c u0) (gtULO b) (gtUHI b) else it2
  let u := if st.xfer then c else fadd u0 it
  let w := if st.xfer then c else lawRate r 0 ulast (lawLimits r 0 u)
  if !fIsNan u && [it, dn, kp, ki, w].all fIsFin then
    some { w := [w], clipped := !feq w u,
           st := { st with gti := it, gtd := dn, gtyprev := y, yvalid := true, ulast := st.ulast.set 0 w, gtkp := kp,
                           gtki := ki, xfer := false, nonfin := false, sat := st.sat.set 0 (satOf w u) } }
  else none

/-- `acc` plus the products of `f q` and `v q` for q below `n`, each fused (R211). -/
def fdot (n : Nat) (f v : Nat → F32) (acc : F32) : F32 := (List.range n).foldl (fun a q => fma (f q) (v q) a) acc

/-- The innovations and the next estimate of R211. -/
def obEstimate (b : List Byte) (st : LawSt) (y : List F32) : List F32 × List F32 :=
  let r := (List.range (obM b)).map (fun j => fsub (f32At y j) (fdot (obN b) (obC b j) (f32At st.obx) 0))
  let xn := (List.range (obN b)).map (fun s =>
    fdot (obM b) (obL b s) (f32At r) (fdot (obP b) (obB b s) (f32At st.ulast)
      (fdot (obN b) (obA b s) (f32At st.obx) 0)))
  (r, xn)

/-- The estimate one step further under PREDICT (R211). -/
def obPredict (b : List Byte) (st : LawSt) (xn : List F32) : List F32 :=
  (List.range (obN b)).map (fun s => fdot (obP b) (obB b s) (f32At st.ulast) (fdot (obN b) (obA b s) (f32At xn) 0))

/-- freeze(e) of R211. -/
def obFreeze (b : List Byte) (st : LawSt) (e : F32) : Bool :=
  (List.range (obP b)).any (fun i =>
    let k := fsign (obKI b i)
    k != 0 && ((st.sat.getD i 0 == 1 && decide (0 < k * fsign e)) || (st.sat.getD i 0 == 2 && decide (k * fsign e < 0))))

/-- A list of patterns followed by +0.0 up to length `n` (R212). -/
def padTo (n : Nat) (l : List F32) : List F32 := l ++ List.replicate (n - l.length) 0

/-- One execution of the observer law (R211, R212); nothing when the execution is non-finite (R194). -/
def obRun (r : Rec) (st : LawSt) (y : List F32) (sp ff : F32) (c : List F32) : Option LawOut :=
  let b := r.body
  let p := obP b
  let est := obEstimate b st y
  let xn := est.2
  let xf := if obPREDICT b then obPredict b st xn else xn
  let e := fsub sp (f32At y (obIMEAS b))
  let zn := if obINTEG b && !obFreeze b st e then fadd st.obz e else st.obz
  let uh := fun i =>
    fma (obKFF b i) ff (fma (obNSP b i) sp (fma (obKI b i) zn (fneg (fdot (obN b) (obK b i) (f32At xf) 0))))
  let u := (List.range p).map (fun i => if st.xfer then f32At c i else fadd (uh i) (f32At st.obb i))
  let w := (List.range p).map (fun i =>
    if st.xfer then f32At c i else lawRate r i (f32At st.ulast i) (lawLimits r i (f32At u i)))
  let bn := (List.range p).map (fun i =>
    if st.xfer then fsub (f32At c i) (uh i) else fmul (f32At st.obb i) (obBDECAY b))
  if !u.any fIsNan && (xn ++ est.1 ++ bn ++ w ++ [zn]).all fIsFin then
    some { w := w, clipped := (List.range p).any (fun i => !feq (f32At w i) (f32At u i)),
           st := { st with obx := padTo 8 xn, obz := zn, obb := padTo 4 bn, obr := padTo 4 est.1, ulast := padTo 4 w,
                           xfer := false, nonfin := false,
                           sat := (List.range 4).map (fun i => if i < p then satOf (f32At w i) (f32At u i) else 0) } }
  else none

/-- One execution in AUTO or CASCADE (R194, R207, R211); nothing when it is non-finite. -/
def lawRun (r : Rec) (st : LawSt) (y : List F32) (sp ff : F32) (c : List F32) : Option LawOut :=
  if !(y.all fIsFin && fIsFin sp && fIsFin ff) then none
  else if r.kind = 0 then gtRun r st (f32At y 0) sp ff (f32At c 0)
  else obRun r st y sp ff c

/-- NONFIN and CELL.NFCNT of a non-finite execution (R195, R196). -/
def LawSt.mark (st : LawSt) : LawSt := { st with nonfin := true, nfcnt := satAdd st.nfcnt 1 }

/-- Replace the first elements of a list. -/
def overlay (l w : List F32) : List F32 := w ++ l.drop w.length

/-- Tracking (R208, R213) with outputs `w`, where `finite` says whether everything else read was finite. A computed
tracking state that is not finite is handled like a non-finite measurement (R196; DEDUCED, log 20). -/
def lawTrack (r : Rec) (st : LawSt) (y : List F32) (finite : Bool) (w : List F32) : LawSt :=
  let st1 := { st with ulast := overlay st.ulast w }
  if !(finite && y.all fIsFin) then st1.mark
  else if r.kind = 0 then
    let dn := gtDeriv r.body st (f32At y 0)
    if fIsFin dn then
      { st1 with gtd := dn, gtyprev := f32At y 0, yvalid := true, sat := [0, 0, 0, 0], nonfin := false }
    else st1.mark
  else
    let est := obEstimate r.body st y
    if (est.1 ++ est.2).all fIsFin then
      { st1 with obx := padTo 8 est.2, obr := padTo 4 est.1, sat := [0, 0, 0, 0], nonfin := false }
    else st1.mark

/-! Load checks (R198, R204, R210, R711). -/

/-- The form of a LAWS record (R198). -/
def lawForm (r : Rec) : List Finding :=
  need (decide (r.key ≤ 1023)) (atOff 10 secLAWS r.off) ++
  (if r.kind = 0 then
    formLen secLAWS r 804 ++ need (uAt r.body 2 1 < 2) (atOff 10 secLAWS (r.off + 10)) ++ zeroField 10 secLAWS r 0x20 4
   else if r.kind = 1 then
    formLen secLAWS r 912 ++ need (uAt r.body 3 1 < 4) (atOff 10 secLAWS (r.off + 11)) ++ zeroField 10 secLAWS r 5 3 ++
      zeroField 10 secLAWS r 0x0C 4
   else [atOff 10 secLAWS (r.off + 2)])

/-- The failures of R204 that a body offset names. -/
def gtRange (r : Rec) : List Finding :=
  let b := r.body
  let at_ := fun (ok : Bool) (o : Nat) => need ok (atOff 14 secLAWS (r.off + 8 + o))
  let n := gtNBP b
  let used := fun (j : Nat) =>
    at_ (fIsFin (gtE b j) && (j == 0 || flt (gtE b (j - 1)) (gtE b j))) (0x24 + 12 * j) ++
    at_ (fIsFin (gtKP b j) && (j == 0 || fIsFin (gtSlope b (gtKP b) (j - 1)))) (0x28 + 12 * j) ++
    at_ (fIsFin (gtKIT b j) && (gtKITAB b || gtKIT b j == 0) &&
      (j == 0 || !gtKITAB b || fIsFin (gtSlope b (gtKIT b) (j - 1)))) (0x2C + 12 * j)
  at_ (uAt b 0 1 == 1) 0 ++ at_ (uAt b 1 1 == 1) 1 ++ at_ (decide (2 ≤ n) && decide (n ≤ 64)) 3 ++
  at_ (fIsFin (gtKI b) && (!gtKITAB b || gtKI b == 0)) 4 ++ at_ (fIsFin (gtKD b)) 8 ++
  at_ (flt 0 (gtDFILT b) && fle (gtDFILT b) 0x3F800000) 0x0C ++ at_ (fIsFin (gtKFF b)) 0x10 ++
  at_ (fIsFin (gtULO b)) 0x14 ++ at_ (fIsFin (gtUHI b) && (!fIsFin (gtULO b) || flt (gtULO b) (gtUHI b))) 0x18 ++
  at_ (flt 0 (gtRMAX b)) 0x1C ++
  (List.range 64).flatMap (fun j => if j < n then used j else zeroFields 14 secLAWS r (0x24 + 12 * j) [4, 4, 4])

/-- The failures of R210: each table as body offset, rows, stride, used rows and used columns. -/
def obRange (r : Rec) : List Finding :=
  let b := r.body
  let at_ := fun (ok : Bool) (o : Nat) => need ok (atOff 14 secLAWS (r.off + 8 + o))
  let n := obN b
  let m := obM b
  let p := obP b
  let table := fun (o rows stride ur uc : Nat) =>
    (List.range rows).flatMap (fun i => (List.range stride).flatMap (fun j =>
      let a := o + 4 * (stride * i + j)
      at_ (if i < ur ∧ j < uc then
             (if o = 0x360 then flt 0 (wAt b a)
              else fIsFin (wAt b a) && (o != 0x310 || obINTEG b || wAt b a == 0))
           else wAt b a == 0) a))
  at_ (decide (1 ≤ n) && decide (n ≤ 8)) 0 ++ at_ (decide (1 ≤ m) && decide (m ≤ 4)) 1 ++
  at_ (decide (1 ≤ p) && decide (p ≤ 4)) 2 ++ at_ (decide (obIMEAS b < m)) 4 ++
  at_ (fle 0 (obBDECAY b) && flt (obBDECAY b) 0x3F800000) 8 ++
  table 0x010 8 8 n n ++ table 0x110 8 4 n p ++ table 0x190 4 8 m n ++ table 0x210 8 4 n m ++ table 0x290 4 8 p n ++
  table 0x310 1 4 1 p ++ table 0x320 1 4 1 p ++ table 0x330 1 4 1 p ++ table 0x340 1 4 1 p ++ table 0x350 1 4 1 p ++
  table 0x360 1 4 1 p ++ table 0x370 1 8 1 n ++
  (List.range p).flatMap (fun i =>
    at_ (!(fIsFin (obULO b i) && fIsFin (obUHI b i)) || flt (obULO b i) (obUHI b i)) (0x350 + 4 * i))

/-- The range failures of a LAWS record. -/
def lawRange (r : Rec) : List Finding := if r.kind = 0 then gtRange r else obRange r

end Sys2Proof.Machine
end

