-- ==== Sys2Proof/Machine/Cells.lean ====
section
/-! DEFINITION. Loop cells: admission, execution, modes, following error, and the CELLMODE letter (R147 to R189).
Where the spec can be read in two ways the assumption log says what was read: entries 21 (DEDUCED unless marked there otherwise). -/

namespace Sys2Proof.Machine

def modeOFF : Nat := 0
def modeMANUAL : Nat := 1
def modeAUTO : Nat := 2
def modeCASCADE : Nat := 3
def modeTRACK : Nat := 4

/-- The CFG registers of a cell in ascending address order (R148). -/
def cellCfg (n : Nat) : List Nat :=
  [R.CELL_CTRL n, R.CELL_RATE n] ++ (List.range 4).map (R.CELL_MEAS n) ++
  [R.CELL_SP n, R.CELL_FF n, R.CELL_CASC n, R.CELL_TRK n] ++ (List.range 4).map (R.CELL_OUT n) ++
  (List.range 4).map (R.CELL_SAFEVAL n) ++ [R.CELL_FEL n, R.CELL_FET n]

/-- Whether the loaded image configures cell `n` (R147). -/
def State.cellConfigured (s : State) (n : Nat) : Bool := s.loaded && s.image.has secCELLS n 0

/-- The law record that cell `n` names. -/
def State.cellLaw (s : State) (n : Nat) : Rec :=
  ((s.image.recKey? secLAWS (s.fldOf (R.CELL_CTRL n) 9 0))).getD ⟨0, 0, 0, []⟩

def State.cellNout (s : State) (n : Nat) : Nat := s.fldOf (R.CELL_CTRL n) 21 20 + 1
def State.cellNmeas (s : State) (n : Nat) : Nat := s.fldOf (R.CELL_CTRL n) 19 18 + 1
def State.cellPrio (s : State) (n : Nat) : Nat := s.fldOf (R.CELL_CTRL n) 31 30
def State.cellMode (s : State) (n : Nat) : Nat := s.fldOf (R.CELL_STAT n) 2 0
def State.cellFeReact (s : State) (n : Nat) : Nat := s.fldOf (R.CELL_CTRL n) 29 28
def State.cellOutSlot (s : State) (n i : Nat) : Nat := s.fldOf (R.CELL_OUT n i) 12 0

/-- The law state of a cell as its registers hold it (R199, R200). -/
def State.lawSt (s : State) (n : Nat) : LawSt :=
  let w := s.reg (R.CELL_LSTAT n)
  { xfer := bit w 1, yvalid := bit w 3, nonfin := bit w 2, nfcnt := s.reg (R.CELL_NFCNT n),
    ulast := (List.range 4).map (fun i => s.reg (R.CELL_ULAST n i)),
    sat := (List.range 4).map (fun i => fld w (9 + 2 * i) (8 + 2 * i)),
    gti := s.reg (R.CELL_GTI n), gtd := s.reg (R.CELL_GTD n), gtyprev := s.reg (R.CELL_GTYPREV n),
    gtkp := s.reg (R.CELL_GTKP n), gtki := s.reg (R.CELL_GTKI n), obz := s.reg (R.CELL_OBZ n),
    obb := (List.range 4).map (fun i => s.reg (R.CELL_OBB n i)),
    obx := (List.range 8).map (fun i => s.reg (R.CELL_OBX n i)),
    obr := (List.range 4).map (fun i => s.reg (R.CELL_OBR n i)) }

/-- CELL.LSTAT of a law state. -/
def LawSt.lstat (st : LawSt) (kind : Nat) : Word :=
  BitVec.ofNat 32 ((List.range 4).foldl (fun a i => a + st.sat.getD i 0 * 2 ^ (8 + 2 * i)) 0 +
    8 * (st.yvalid && kind == 0).toNat + 4 * st.nonfin.toNat + 2 * st.xfer.toNat + kind)

/-- Write a list of words to registers. -/
def State.setRegs (s : State) (addr : Nat → Nat) (l : List Word) : State :=
  l.zipIdx.foldl (fun s x => s.setReg (addr x.2) x.1) s

/-- Write a law state to the registers of its law (R199). -/
def State.putLawSt (s : State) (n kind : Nat) (st : LawSt) : State :=
  let s := ((s.setReg (R.CELL_LSTAT n) (st.lstat kind)).setReg (R.CELL_NFCNT n) st.nfcnt).setRegs (R.CELL_ULAST n) st.ulast
  if kind = 0 then
    ((((s.setReg (R.CELL_GTI n) st.gti).setReg (R.CELL_GTD n) st.gtd).setReg (R.CELL_GTYPREV n) st.gtyprev).setReg
      (R.CELL_GTKP n) st.gtkp).setReg (R.CELL_GTKI n) st.gtki
  else
    (((s.setReg (R.CELL_OBZ n) st.obz).setRegs (R.CELL_OBB n) st.obb).setRegs (R.CELL_OBX n) st.obx).setRegs
      (R.CELL_OBR n) st.obr

/-! Admission (R165). -/

/-- The configured cells of tile `t` that execute in tick `k`, by PRIO and then index. -/
def State.dueSet (s : State) (t k : Nat) : List Nat :=
  let l := ((List.range 64).map (fun i => 64 * t + i)).filter
    (fun n => s.cellConfigured n && rateDue (s.reg (R.CELL_RATE n)) k)
  (List.range 4).flatMap (fun p => l.filter (fun n => s.cellPrio n == p))

/-- The number of cells at the front of an order whose costs fit in `cap`; everything from the first that does not fit
is skipped. -/
def fitCount (cost : Nat → Nat) (cap : Nat) : Nat → List Nat → Nat
  | _, [] => 0
  | sum, n :: r => if sum + cost n > cap then 0 else fitCount cost cap (sum + cost n) r + 1

/-- CELL.COST as a number. -/
def State.cellCost (s : State) (n : Nat) : Nat := (s.reg (R.CELL_COST n)).toNat

/-- The lane-cycles of a tile in a tick (R162). -/
def State.tileCap (s : State) : Nat := 16 * s.period

/-- The admitted and the skipped cells of tile `t` in tick `k`. -/
def State.admission (s : State) (t k : Nat) : List Nat × List Nat :=
  let due := s.dueSet t k
  due.splitAt (fitCount s.cellCost s.tileCap 0 due)

/-- The demand of tile `t` in tick `k` (R188). -/
def State.demand (s : State) (t k : Nat) : Nat := (s.dueSet t k).foldl (fun a n => a + s.cellCost n) 0

/-! Modes (R171 to R175, R181, R202). -/

/-- The following-error timer reset (R181, R182). -/
def State.feReset (s : State) (n : Nat) : State :=
  (s.modCellX n (fun x => { x with running := false, start := 0, tripped := false })).setReg (R.CELL_FETIME n) 0

/-- The values the cell's output slots committed. -/
def State.cellCommitted (s : State) (n : Nat) : List F32 :=
  (List.range (s.cellNout n)).map (fun i => (s.slot (s.cellOutSlot n i)).val)

/-- A pending mode change takes effect, with a transfer from whatever mode the cell is in (R174, R184, R202). -/
def State.applyMode (s : State) (n : Nat) : State :=
  match (s.cellX n).pending with
  | none => s
  | some p =>
    let t := (s.modCellX n (fun x => { x with pending := none })).putFld (R.CELL_STAT n) 2 0 p.mode
    if p.mode = modeAUTO ∨ p.mode = modeCASCADE then t.orReg (R.CELL_LSTAT n) 2
    else
      let t := t.feReset n
      if p.mode = modeMANUAL then t.setRegs (R.CELL_MANOUT n) (p.manual.getD (s.cellCommitted n))
      else if p.mode = modeOFF then t.clrReg (R.CELL_LSTAT n) 8
      else t

/-- One group of a committed CELLMODE letter (R174, R175, R180, R184). A letter that names the mode the cell is in, with no
change pending and no reaction latched, starts no transfer: manual values it gives stand at once. -/
def State.commitMode (s : State) (n mode : Nat) (manual : Option (List F32)) : State :=
  let x := s.cellX n
  let old := match x.pending with | some p => p.mode | none => s.cellMode n
  let s := s.raise 0xE002 (n / 64) (BitVec.ofNat 32 n) (BitVec.ofNat 32 old) (BitVec.ofNat 32 mode) s.tickLo
  let fe := s.bitOf (R.CELL_STAT n) 10
  let s := if fe || old == mode then s.feReset n else s
  let s := if fe then s.clrReg (R.CELL_STAT n) 0x400 else s
  let s := s.modCellX n (fun x => { x with held := [] })
  if fe || x.pending.isSome || old != mode then s.modCellX n (fun x => { x with pending := some ⟨mode, manual⟩ })
  else
    match manual with
    | some m => s.setRegs (R.CELL_MANOUT n) m
    | none => s

/-! One execution. -/

/-- What an execution does: the outputs with their CLIPPED flags, HOLD, SAFEVAL and non-finite marks, the cause mask of
R197 and the new law state. -/
structure CellRun where
  w : List F32
  clip : List Bool
  stale : Bool
  subst : Bool
  mask : Nat
  st : LawSt
  deriving DecidableEq, Repr

/-- Outputs under the output limits, and the rate limit where asked, with CLIPPED for each (R172). -/
def limited (r : Rec) (ulast : List F32) (rate : Bool) (l : List F32) : List F32 × List Bool :=
  let w := l.zipIdx.map (fun (x, i) =>
    let y := lawLimits r i x
    if rate then lawRate r i (f32At ulast i) y else y)
  (w, (w.zip l).map (fun (a, b) => !feq a b && !(fIsNan a && fIsNan b)))

/-- The cause mask of the values read (R197). -/
def causeMask (y : List F32) (sp ff : F32) : Nat :=
  y.zipIdx.foldl (fun a x => a + (!fIsFin x.1).toNat * 2 ^ x.2) 0 + 16 * (!fIsFin sp).toNat + 32 * (!fIsFin ff).toNat

/-- An execution that writes given outputs and tracks (R196, R208, R213). -/
def trackRun (r : Rec) (st : LawSt) (y : List F32) (sp ff : F32) (w : List F32) (clip : List Bool)
    (stale subst : Bool) : CellRun :=
  let st2 := lawTrack r st y (fIsFin sp && fIsFin ff) w
  let m := causeMask y sp ff
  ⟨w, clip, stale, subst, if st2.nonfin then (if m = 0 then 128 else m) else 0, st2⟩

/-- An execution in AUTO or CASCADE with no reaction latched (R194, R195). -/
def autoRun (r : Rec) (st : LawSt) (y : List F32) (sp ff : F32) (c : List F32) : CellRun :=
  match lawRun r st y sp ff c with
  | some o => ⟨o.w, List.replicate o.w.length o.clipped, false, false, 0, o.st⟩
  | none =>
    let m := causeMask y sp ff
    ⟨st.ulast.take (lawP r), List.replicate (lawP r) false, false, false, if m = 0 then 128 else m, st.mark⟩

/-- Supervision of the following error in an execution at tick `k` (R181, R182): the timer, FEXC, and whether it trips. -/
def State.supervise (s : State) (n k : Nat) (e : F32) : State × Bool :=
  if !s.bitOf (R.CELL_CTRL n) 27 then (s, false)
  else if fIsNan e || flt (s.reg (R.CELL_FEL n)) (fabs e) then
    let x := s.cellX n
    let start := if x.running then x.start else k
    let ft := k - start
    let trip := decide (s.fldOf (R.CELL_FET n) 23 0 ≤ ft) && !x.tripped
    let s := s.modCellX n (fun x => { x with running := true, start := start, tripped := x.tripped || trip })
    ((s.setReg (R.CELL_FETIME n) (satWord ft)).orReg (R.CELL_STAT n) 0x200, trip)
  else (s.feReset n, false)

/-- A trip (R183, R185). -/
def State.feTrip (s : State) (n k : Nat) (e : F32) : State :=
  let re := s.cellFeReact n
  let s := s.bump (R.CELL_FECNT n)
  let s := if re = 0 then s else s.orReg (R.CELL_STAT n) 0x400
  let s := if re = 1 ∧ (s.cellX n).held.isEmpty then s.modCellX n (fun x => { x with held := s.cellCommitted n }) else s
  s.raiseLimited n 0xE003 (n / 64) (BitVec.ofNat 32 n) e (BitVec.ofNat 32 k) (BitVec.ofNat 32 re)

/-- Outputs under a latched HOLD or SAFEVAL reaction (R183). -/
def State.reactionRun (s : State) (n : Nat) (r : Rec) (y : List F32) (sp ff : F32) : CellRun :=
  let st := s.lawSt n
  if s.cellFeReact n = 1 then
    let w := (s.cellX n).held
    trackRun r st y sp ff w (w.map (fun _ => false)) true false
  else
    let l := limited r st.ulast false ((List.range (s.cellNout n)).map (fun i => s.reg (R.CELL_SAFEVAL n i)))
    trackRun r st y sp ff l.1 l.2 false true

/-- Write the outputs of an execution and its law state (R176, R195 to R197). -/
def State.finishRun (s : State) (n k kind : Nat) (reads : List Slot) (c : CellRun) : State :=
  let s := s.putLawSt n kind c.st
  let s := (c.w.zip c.clip).zipIdx.foldl (fun s x =>
    s.stageVia (s.reg (R.CELL_OUT n x.2)) (writerOf clsCell n) x.1.1
      (cellFlags reads c.stale c.subst (c.mask != 0) x.1.2)) s
  if c.mask = 0 then s
  else s.raiseCounted n 0xE004 (n / 64) (BitVec.ofNat 32 n) (BitVec.ofNat 32 c.mask) (BitVec.ofNat 32 k) 0

/-- An execution in AUTO or CASCADE: supervision, then the law or a latched reaction. -/
def State.runLaw (s : State) (n k : Nat) (r : Rec) (meas : List Slot) (ff : Option Slot) (sp : Slot) : State :=
  let y := meas.map (·.val)
  let ffv := match ff with | some v => v.val | none => 0
  let e := fsub sp.val (f32At y (s.fldOf (R.CELL_CTRL n) 17 16))
  let sv := s.supervise n k e
  let s := if sv.2 then sv.1.feTrip n k e else sv.1
  let run := if s.bitOf (R.CELL_STAT n) 10 then s.reactionRun n r y sp.val ffv
    else autoRun r (s.lawSt n) y sp.val ffv (s.cellCommitted n)
  s.finishRun n k r.kind (meas ++ ff.toList ++ [sp]) run

/-- An execution in TRACK (R172, R196). -/
def State.runTrack (s : State) (n k : Nat) (r : Rec) (meas : List Slot) (ff : Option Slot) : State :=
  let y := meas.map (·.val)
  let ffv := match ff with | some v => v.val | none => 0
  let tr := (List.range (s.cellNout n)).map (fun i => s.slot (s.fldOf (R.CELL_TRK n) 12 0 + i))
  let vals := tr.map (·.val)
  let st := s.lawSt n
  let run :=
    if vals.all fIsFin then
      let l := limited r st.ulast false vals
      trackRun r st y 0 ffv l.1 l.2 false false
    else
      ⟨st.ulast.take (s.cellNout n), vals.map (fun _ => false), false, false, 64 + causeMask y 0 ffv, st.mark⟩
  s.finishRun n k r.kind (meas ++ ff.toList ++ tr) run

/-- An execution in MANUAL (R172, R196). -/
def State.runManual (s : State) (n k : Nat) (r : Rec) (meas : List Slot) (ff : Option Slot) : State :=
  let ffv := match ff with | some v => v.val | none => 0
  let st := s.lawSt n
  let l := limited r st.ulast true ((List.range (s.cellNout n)).map (fun i => s.reg (R.CELL_MANOUT n i)))
  s.finishRun n k r.kind (meas ++ ff.toList) (trackRun r st (meas.map (·.val)) 0 ffv l.1 l.2 false false)

/-- One admitted execution of cell `n` in tick `k` (R166, R172 to R177). -/
def State.cellExec (s : State) (n k : Nat) : State :=
  let s := s.applyMode n
  let s := ((s.bump (R.CELL_EXECCNT n)).setReg (R.CELL_LASTTICK n) (BitVec.ofNat 32 k)).clrReg (R.CELL_STAT n) 0x300
  let r := s.cellLaw n
  let meas := (List.range (s.cellNmeas n)).map (fun i => s.slot (s.fldOf (R.CELL_MEAS n i) 12 0))
  let ff := s.bound (s.reg (R.CELL_FF n))
  let m := s.cellMode n
  if m = modeAUTO then s.runLaw n k r meas ff (s.slot (s.fldOf (R.CELL_SP n) 12 0))
  else if m = modeCASCADE then s.runLaw n k r meas ff (s.slot (s.fldOf (R.CELL_CASC n) 12 0))
  else if m = modeTRACK then s.runTrack n k r meas ff
  else if m = modeMANUAL then s.runManual n k r meas ff
  else s

/-- A skip of cell `n` in tick `k` (R169, R170). -/
def State.cellSkip (s : State) (n k : Nat) : State :=
  let t := n / 64
  let s := if s.cellMode n = modeOFF then s
    else (List.range 4).foldl (fun s i =>
      let b := s.reg (R.CELL_OUT n i)
      let v := s.slot (fld b 12 0)
      if bit b 31 then s.stageQ (writerOf clsCell n) (fld b 12 0) v.val (skippedQual n v.qual) else s) s
  let s := ((s.orReg (R.CELL_STAT n) 0x100).bump (R.CELL_SKIPCNT n)).bump (R.CLUS_SKIPCNT (n / 16))
  s.raiseCounted t 0xE001 t (BitVec.ofNat 32 n) 0 (BitVec.ofNat 32 k) (BitVec.ofNat 32 (s.demand t k))

/-- The cells of one tile in tick `k` (R161, R165). -/
def State.tileCells (s : State) (t k : Nat) : State :=
  let a := s.admission t k
  forEach a.1 (fun n s => s.cellExec n k) (forEach a.2 (fun n s => s.cellSkip n k) s)

/-- The cells of every usable tile in tick `k`. -/
def State.runCells (s : State) (k : Nat) : State := forEach s.tiles (fun t s => s.tileCells t k) s

/-- The bits of cluster `q` among a list of cells. -/
def clusterBits (q : Nat) (l : List Nat) : Word :=
  BitVec.ofNat 32 ((l.filter (fun n => n / 16 == q)).foldl (fun a n => a + 2 ^ (n % 16)) 0)

/-- The due and skip figures of tick `k`, shown once its commit has taken place (R187, R188). -/
def State.publishTile (s : State) (t k : Nat) : State :=
  let a := s.admission t k
  let d := satWord (s.demand t k)
  let s := (List.range 4).foldl (fun s i =>
    let q := 4 * t + i
    (s.setReg (R.CLUS_DUE q) (clusterBits q (a.1 ++ a.2))).setReg (R.CLUS_SKIP q) (clusterBits q a.2)) s
  let s := (s.setReg (R.TILE_LASTDEM t) d).maxReg (R.TILE_PEAK t) d
  if a.2.isEmpty then s else s.bump (R.TILE_SKIPTICKS t)

/-! Load (R148, R151 to R156, R158, R167, R201, R205). -/

/-- The registers of a CELLS record. -/
def cellWords (r : Rec) : List (Nat × Nat × Word) := r.words (cellCfg r.key)

/-- The form of a CELLS record (R148). -/
def cellForm (r : Rec) : List Finding :=
  need (decide (r.key ≤ 511)) (atOff 10 secCELLS r.off) ++ need (r.kind == 0) (atOff 10 secCELLS (r.off + 2)) ++
  formLen secCELLS r 80

/-- The presence, range, slot and reference failures of a CELLS record (R151 to R156, R710, R711). A count that differs
from the law record's is charged to the field that declares it there, which lies at the higher offset: KIND of a gain table,
M or P of an observer. -/
def cellCheck (s : State) (im : Image) (r : Rec) : List Finding :=
  let w := fun i => wAt r.body (4 * i)
  let at_ := fun (step : Nat) (ok : Bool) (i : Nat) => need ok (atOff step secCELLS (r.off + 8 + 4 * i))
  let ctrl := w 0
  let nm := fld ctrl 19 18
  let no := fld ctrl 21 20
  let im0 := fld ctrl 26 24
  let law := im.recKey? secLAWS (fld ctrl 9 0)
  need (s.usableBit (unitTile (r.key / 64))) ⟨12, r.off, unitTile (r.key / 64), secCELLS⟩ ++
  imageBits secCELLS (cellWords r) ++
  at_ 14 (decide (fld ctrl 29 28 ≤ 2) && decide (im0 ≤ 4) && decide (fld ctrl 17 16 ≤ nm)) 0 ++
  at_ 14 (decide (1 ≤ fld (w 1) 10 0) && decide (fld (w 1) 10 0 ≤ 1024) && decide (fld (w 1) 25 16 < fld (w 1) 10 0)) 1 ++
  (List.range 4).flatMap (fun i => at_ 14 (bit (w (2 + i)) 31 == decide (i ≤ nm)) (2 + i)) ++
  at_ 14 (im0 != modeAUTO || bit (w 6) 31) 6 ++ at_ 14 (im0 != modeCASCADE || bit (w 8) 31) 8 ++
  at_ 14 (im0 != modeTRACK || bit (w 9) 31) 9 ++
  (List.range 4).flatMap (fun i => at_ 14 (bit (w (10 + i)) 31 == decide (i ≤ no)) (10 + i)) ++
  (List.range 4).flatMap (fun i => at_ 14 (!fIsNan (w (14 + i))) (14 + i)) ++
  at_ 14 (!bit ctrl 27 || (fIsFin (w 18) && flt 0 (w 18))) 18 ++
  at_ 15 (!bit (w 9) 31 || decide (fld (w 9) 12 0 + no ≤ 8191)) 9 ++
  match law with
  | none => at_ 17 false 0
  | some l =>
    need (lawM l == nm + 1) (atOff 17 secLAWS (l.off + if l.kind = 0 then 2 else 9)) ++
    need (lawP l == no + 1) (atOff 17 secLAWS (l.off + if l.kind = 0 then 2 else 10))

/-- Cells of the image in tile `t` with their costs. -/
def Image.tileCosts (im : Image) (t : Nat) : List (Nat × Nat) :=
  ((im.sec secCELLS).filter (fun r => r.key / 64 == t)).map (fun r =>
    (fld (wAt r.body 0) 31 30,
     match im.recKey? secLAWS (fld (wAt r.body 0) 9 0) with | some l => lawCost l | none => 0))

/-- W_t and W0_t (R167). -/
def Image.worst (im : Image) (t : Nat) : Nat := (im.tileCosts t).foldl (fun a x => a + x.2) 0
def Image.worst0 (im : Image) (t : Nat) : Nat := (im.tileCosts t).foldl (fun a x => if x.1 = 0 then a + x.2 else a) 0

/-- The budget check of the present tiles (R111, R167). -/
def budgetCheck (s : State) (im : Image) : List Finding :=
  let c := 16 * fld (im.reg R.DEV_TBASE) 17 0
  (List.range 8).flatMap (fun t =>
    if !s.presentBit (unitTile t) then []
    else
      let w := im.worst t
      let w0 := im.worst0 t
      let ok := if im.overcommit.testBit t then decide (2 * w ≤ 3 * c) else decide (w ≤ c)
      if !ok then [⟨19, t, t * 65536 + 1000 * w / c, 0⟩]
      else need (decide (w0 ≤ c)) ⟨19, t, t * 65536 + 1000 * w0 / c, 0⟩)

/-- Configure one cell (R148, R158, R201, R205), after the slots have their initial values. -/
def State.loadCell (s : State) (r : Rec) : State :=
  let n := r.key
  let s := s.setImage (cellWords r)
  let l := s.cellLaw n
  let mode := s.fldOf (R.CELL_CTRL n) 26 24
  let outs := padTo 4 (s.cellCommitted n)
  let s := (s.setReg (R.CELL_COST n) (satWord (lawCost l))).setReg (R.CELL_STAT n) (BitVec.ofNat 32 mode)
  let s := (s.setRegs (R.CELL_ULAST n) outs).setRegs (R.CELL_MANOUT n) outs
  let s := s.setReg (R.CELL_LSTAT n) (BitVec.ofNat 32 (2 * (mode == modeAUTO || mode == modeCASCADE).toNat + l.kind))
  if l.kind = 0 then
    let js := List.range (gtNBP l.body - 1)
    let s := s.setRegs (R.CELL_GTSKP n) (js.map (gtSlope l.body (gtKP l.body)))
    if gtKITAB l.body then s.setRegs (R.CELL_GTSKI n) (js.map (gtSlope l.body (gtKIT l.body))) else s
  else s.setRegs (R.CELL_OBX n) ((List.range 8).map (obX0 l.body))

/-- The tile figures of a load (R187, R188): those of a failed tile can be read too (R37). -/
def State.loadTile (s : State) (t : Nat) : State :=
  let im := s.image
  let s := (List.range 4).foldl (fun s i =>
    s.setReg (R.CLUS_CONF (4 * t + i)) (clusterBits (4 * t + i) ((im.sec secCELLS).map (·.key)))) s
  ((s.setReg (R.TILE_BUDCFG t) (BitVec.ofNat 32 (im.overcommit / 2 ^ t % 2))).setReg (R.TILE_WORST t)
    (satWord (im.worst t))).setReg (R.TILE_WORSTP0 t) (satWord (im.worst0 t))

/-- Configure every cell and every tile's figures. -/
def State.loadCells (s : State) : State :=
  forEach ((List.range 8).filter (fun t => s.presentBit (unitTile t))) (fun t s => s.loadTile t)
    (forEach (s.image.sec secCELLS) (fun r s => s.loadCell r) s)

/-- Whether `a` lies among the budget, cluster and cell registers of a tile (R30, R188). -/
def isCellReg (a : Nat) : Bool :=
  decide (0x1000000 ≤ a) && decide (a < 0x1800000) &&
    (let o := a % 0x100000
     (decide (0xF00 ≤ o) && decide (o < 0x10000)) || decide (0x30000 ≤ o))

/-- No cell is configured any more: the registers of every cell read their reset values, and no cluster or tile has a cell
(R147, R187, R188). -/
def State.unloadCells (s : State) : State :=
  { s.modArch (fun a => { a with cells := [] }) with regs := s.regs.filter (fun x => !isCellReg x.1) }

end Sys2Proof.Machine
end

