-- ==== Sys2Proof/Machine/Hash.lean ====
section
/-! DEFINITION. SHA-512 (FIPS 180-4), the hash of R104, R108, R124, R585 and R586. -/

namespace Sys2Proof.Machine

/-- The `n` 64-bit words of a number, the most significant first. -/
def shaWords (n v : Nat) : List DWord := (List.range n).map (fun i => BitVec.ofNat 64 (v >>> (64 * (n - 1 - i))))

/-- Round constants 0 to 15, as one number. -/
def shaRow0 : Nat :=
  0x428A2F98D728AE227137449123EF65CDB5C0FBCFEC4D3B2FE9B5DBA58189DBBC3956C25BF348B53859F111F1B605D019923F82A4AF194F9BAB1C5ED5DA6D8118D807AA98A303024212835B0145706FBE243185BE4EE4B28C550C7DC3D5FFB4E272BE5D74F27B896F80DEB1FE3B1696B19BDC06A725C71235C19BF174CF692694

/-- Round constants 16 to 31, as one number. -/
def shaRow1 : Nat :=
  0xE49B69C19EF14AD2EFBE4786384F25E30FC19DC68B8CD5B5240CA1CC77AC9C652DE92C6F592B02754A7484AA6EA6E4835CB0A9DCBD41FBD476F988DA831153B5983E5152EE66DFABA831C66D2DB43210B00327C898FB213FBF597FC7BEEF0EE4C6E00BF33DA88FC2D5A79147930AA72506CA6351E003826F142929670A0E6E70

/-- Round constants 32 to 47, as one number. -/
def shaRow2 : Nat :=
  0x27B70A8546D22FFC2E1B21385C26C9264D2C6DFC5AC42AED53380D139D95B3DF650A73548BAF63DE766A0ABB3C77B2A881C2C92E47EDAEE692722C851482353BA2BFE8A14CF10364A81A664BBC423001C24B8B70D0F89791C76C51A30654BE30D192E819D6EF5218D69906245565A910F40E35855771202A106AA07032BBD1B8

/-- Round constants 48 to 63, as one number. -/
def shaRow3 : Nat :=
  0x19A4C116B8D2D0C81E376C085141AB532748774CDF8EEB9934B0BCB5E19B48A8391C0CB3C5C95A634ED8AA4AE3418ACB5B9CCA4F7763E373682E6FF3D6B2B8A3748F82EE5DEFB2FC78A5636F43172F6084C87814A1F0AB728CC702081A6439EC90BEFFFA23631E28A4506CEBDE82BDE9BEF9A3F7B2C67915C67178F2E372532B

/-- Round constants 64 to 79, as one number. -/
def shaRow4 : Nat :=
  0xCA273ECEEA26619CD186B8C721C0C207EADA7DD6CDE0EB1EF57D4F7FEE6ED17806F067AA72176FBA0A637DC5A2C898A6113F9804BEF90DAE1B710B35131C471B28DB77F523047D8432CAAB7B40C724933C9EBE0A15C9BEBC431D67C49C100D4C4CC5D4BECB3E42B6597F299CFC657E2A5FCB6FAB3AD6FAEC6C44198C4A475817

/-- The 80 round constants. -/
def shaK : List DWord := [shaRow0, shaRow1, shaRow2, shaRow3, shaRow4].flatMap (shaWords 16)

/-- The initial hash value. -/
def shaInit : List DWord := shaWords 8
  0x6A09E667F3BCC908BB67AE8584CAA73B3C6EF372FE94F82BA54FF53A5F1D36F1510E527FADE682D19B05688C2B3E6C1F1F83D9ABFB41BD6B5BE0CD19137E2179

/-- The exclusive or of a word's rotations to the right. -/
def shaTurn (l : List Nat) (x : DWord) : DWord := l.foldl (fun y n => y ^^^ x.rotateRight n) 0

/-- The message padded to whole 128-byte blocks. -/
def shaPad (m : List Byte) : List Byte :=
  let z := (111 + 128 - m.length % 128) % 128
  m ++ [0x80] ++ List.replicate z 0 ++ beBytes 16 (8 * m.length)

/-- The message schedule: `n` further words behind the words `w`, which stand newest first; all words come back in order. -/
def shaSchedule : Nat → List DWord → List DWord
  | 0, w => w.reverse
  | n + 1, w =>
    let back := fun i => w.getD (i - 1) 0
    let wide := shaTurn [19, 61] (back 2) ^^^ (back 2 >>> 6)
    let near := shaTurn [1, 8] (back 15) ^^^ (back 15 >>> 7)
    shaSchedule n ((back 16 + near + back 7 + wide) :: w)

/-- One round on the working variables a to d and e to h, with the sum of its constant and its schedule word. -/
def shaRound : List DWord × List DWord → DWord → List DWord × List DWord
  | ([a, b, c, d], [e, f, g, h]), kw =>
    let choice := g ^^^ (e &&& (f ^^^ g))
    let most := (a &&& b) ||| (c &&& (a ||| b))
    let t := kw + choice + h + shaTurn [14, 18, 41] e
    ([t + most + shaTurn [28, 34, 39] a, a, b, c], [d + t, e, f, g])
  | v, _ => v

/-- One block into the hash value. -/
def shaBlock (hv : List DWord) (blk : List Byte) : List DWord :=
  let ws := (chunks 8 16 blk).map (fun b => BitVec.ofNat 64 (beNat b))
  let v := (List.zipWith (· + ·) shaK (shaSchedule 64 ws.reverse)).foldl shaRound (hv.take 4, hv.drop 4)
  List.zipWith (· + ·) hv (v.1 ++ v.2)

/-- Fold the blocks of a padded message, `n` of them. -/
def shaBlocks : Nat → List Byte → List DWord → List DWord
  | 0, _, hv => hv
  | n + 1, m, hv => shaBlocks n (m.drop 128) (shaBlock hv (m.take 128))

/-- SHA-512: 64 bytes. -/
def sha512 (m : List Byte) : List Byte :=
  let p := shaPad m
  (shaBlocks (p.length / 128) p shaInit).flatMap (fun w => beBytes 8 w.toNat)

end Sys2Proof.Machine
end

