-- ==== Sys2Proof/Machine/Ed25519.lean ====
section
/-! DEFINITION. Verification of PureEdDSA Ed25519 signatures (RFC 8032), as R107 and R128 ask.
Where the spec can be read in two ways the assumption log says what was read: entries 81 (DEDUCED unless marked there otherwise). -/

namespace Sys2Proof.Machine

/-- The field prime 2^255 - 19. -/
def edP : Nat := 2 ^ 255 - 19

/-- The group order. -/
def edL : Nat := 2 ^ 252 + 27742317777372353535851937790883648493

/-- `b ^ e` modulo `edP`, by the low `n` bits of `e`. -/
def edPow : Nat → Nat → Nat → Nat
  | 0, _, _ => 1
  | n + 1, b, e =>
    let r := edPow n (b * b % edP) (e / 2)
    if e % 2 = 1 then b * r % edP else r

/-- The inverse modulo `edP`. -/
def edInv (a : Nat) : Nat := edPow 255 a (edP - 2)

/-- The curve constant -121665/121666. -/
def edD : Nat := (edP - 121665) * edInv 121666 % edP

/-- A point in extended coordinates. -/
structure EdPoint where
  x : Nat
  y : Nat
  z : Nat
  t : Nat
  deriving DecidableEq, Repr

/-- The neutral point. -/
def edZero : EdPoint := ⟨0, 1, 1, 0⟩

/-- Difference modulo `edP`. -/
def edSub (a b : Nat) : Nat := (a + (edP - b % edP)) % edP

/-- The sum of two points (RFC 8032, 5.1.4), with the curve constant given. -/
def edAdd (d : Nat) (p q : EdPoint) : EdPoint :=
  let a := edSub p.y p.x * edSub q.y q.x % edP
  let b := (p.y + p.x) * (q.y + q.x) % edP
  let c := 2 * p.t * q.t % edP * d % edP
  let dd := 2 * p.z * q.z % edP
  let e := edSub b a
  let f := edSub dd c
  let g := (dd + c) % edP
  let h := (b + a) % edP
  ⟨e * f % edP, g * h % edP, f * g % edP, e * h % edP⟩

/-- `k` times a point, by the low `n` bits of `k`. -/
def edMul (d : Nat) : Nat → Nat → EdPoint → EdPoint
  | 0, _, _ => edZero
  | n + 1, k, p =>
    let r := edMul d n (k / 2) (edAdd d p p)
    if k % 2 = 1 then edAdd d p r else r

/-- Whether two points are equal. -/
def edEq (p q : EdPoint) : Bool :=
  p.x * q.z % edP == q.x * p.z % edP && p.y * q.z % edP == q.y * p.z % edP

/-- The x of a point with this y and sign, if there is one (RFC 8032, 5.1.3). -/
def edRecoverX (d y : Nat) (sign : Bool) : Option Nat :=
  let u := edSub (y * y % edP) 1
  let v := (d * (y * y % edP) + 1) % edP
  let x2 := u * edInv v % edP
  if x2 = 0 then (if sign then none else some 0)
  else
    let x := edPow 255 x2 ((edP + 3) / 8)
    let x := if x * x % edP = x2 then x else x * edPow 255 2 ((edP - 1) / 4) % edP
    if x * x % edP ≠ x2 then none
    else if (x % 2 == 1) == sign then some x else some (edP - x)

/-- The point that 32 bytes encode, if they encode one. -/
def edDecode (d : Nat) (b : List Byte) : Option EdPoint :=
  let v := leNat b
  let y := v % 2 ^ 255
  if y ≥ edP then none
  else
    match edRecoverX d y (v.testBit 255) with
    | none => none
    | some x => some ⟨x, y, 1, x * y % edP⟩

/-- Whether `sig` (64 bytes) is a signature of `msg` under `pub` (32 bytes): RFC 8032, 5.1.7, with the
group equation multiplied by the cofactor as that section states it. -/
def edVerify (pub msg sig : List Byte) : Bool :=
  let d := edD
  let r := sig.take 32
  let s := leNat (sig.drop 32)
  if pub.length ≠ 32 ∨ sig.length ≠ 64 ∨ s ≥ edL then false
  else
    let by' := 4 * edInv 5 % edP
    match edDecode d pub, edDecode d r, edRecoverX d by' false with
    | some a, some rp, some bx =>
      let base : EdPoint := ⟨bx, by', 1, bx * by' % edP⟩
      let k := leNat (sha512 (r ++ pub ++ msg)) % edL
      let lhs := edMul d 4 8 (edMul d 253 s base)
      let rhs := edAdd d (edMul d 4 8 rp) (edMul d 4 8 (edMul d 253 k a))
      edEq lhs rhs
    | _, _, _ => false

end Sys2Proof.Machine
end

