-- ==== Sys2Proof/Machine/Regs.lean ====
section
/-! DEFINITION. Which unit instance a register belongs to (R2, R29, R30, R35). -/

namespace Sys2Proof.Machine

/-- The presence bit of the unit instance that register `a` belongs to, if it belongs to one of R35. -/
def regUnit? (a : Nat) : Option Nat :=
  if 0x1000000 ≤ a then some (unitTile (min 7 ((a - 0x1000000) / 0x100000)))
  else if 0x318000 ≤ a then
    if 0x318000 ≤ a ∧ a < 0x318100 then some (unitTile ((a - 0x318000) / 32)) else none
  else if 0x310400 ≤ a then some (unitDacGroup (min 3 ((a - 0x310400) / 128)))
  else if 0x310000 ≤ a then some (unitDacGroup ((a - 0x310000) / 256))
  else if 0x300000 ≤ a then some (unitAdc ((a - 0x300000) / 0x1000))
  else if 0x200000 ≤ a then some (unitStride (min 7 ((a - 0x200000) / 0x10000)))
  else if 0x100000 ≤ a then some (unitCan (min 3 ((a - 0x100000) / 0x10000)))
  else if 0x80000 ≤ a ∧ a < 0x90000 then some unitSafe
  else if 0x40000 ≤ a ∧ a < 0x60000 then some (unitPort ((a - 0x40000) / 0x10000))
  else none

/-- Whether the unit of register `a` is present (R2). -/
def State.regPresent (s : State) (a : Nat) : Bool :=
  match regUnit? a with
  | some u => s.presentBit u
  | none => true

/-- The unit of register `a`, if it is not usable (R40, R43). -/
def State.regUnusable (s : State) (a : Nat) : Option Nat :=
  match regUnit? a with
  | some u => if s.usableBit u then none else some u
  | none => none

/-- The SEAL mask of a register: ADC.CHSEL has none outside the GW-4810 (R358). -/
def State.sealMask (s : State) (r : RegRow) : Word :=
  if r.base = 0x300008 ∧ s.part ≠ .gw4810 then 0 else r.sl

/-- Whether `a` is a register with a field that a REGWRITE letter may write (R139). -/
def State.regLetter (s : State) (a : Nat) : Bool :=
  a % 4 == 0 &&
    match regRow? a with
    | some r => r.rw ||| r.w1c ||| r.wo ||| s.sealMask r != 0
    | none => false

end Sys2Proof.Machine
end

