-- ==== Sys2Proof/Machine/Profile.lean ====
section
/-! DEFINITION. Profile planning of an axis (R411, R418 to R422, R424, R425). Every step is binary32 in the order the
rules write it; positions are 32.32 modulo 2^64.
Where the spec can be read in two ways the assumption log says what was read: entries 56 (DEDUCED unless marked there otherwise). -/

namespace Sys2Proof.Machine

/-- A binary32 value in 32.32, to nearest even (R411); a value beyond the range wraps. -/
def to32 (x : F32) : DWord := BitVec.ofInt 64 (vRoundInt (vMul (fv x) (.fin false 1 32)))

/-- The signed value of a position, in units of 2^-32 counts. -/
def posInt (d : DWord) : Int := signedOf 64 d.toNat

/-- float() of a position (R417). -/
def posF (i : Int) : F32 := f32Of (.fin (decide (i < 0)) i.natAbs (-32))

/-- Whole counts as a position. -/
def countsPos (w : Word) : DWord := BitVec.ofNat 64 (w.toNat * 2 ^ 32)

/-- The sign of an integer: -1, 0 or 1. -/
def isign (i : Int) : Int := if i < 0 then -1 else if i = 0 then 0 else 1

/-- `x` with the sign of a direction. -/
def fdir (σ : Int) (x : F32) : F32 := if σ < 0 then fneg x else x

def f2 : F32 := 0x40000000
def f6 : F32 := 0x40C00000
def f8 : F32 := 0x41000000
def fHalf : F32 := 0x3F000000

/-- Limits and tolerances that a plan uses. -/
structure AxisCfg where
  amax : F32
  dmax : F32
  jmax : F32
  tol : F32
  homed : Bool
  slneg : Int
  slpos : Int
  ts : F32
  deriving DecidableEq, Repr

/-- A speed change (R418). -/
structure Phase where
  tj : F32
  tc : F32
  t : F32
  dist : F32
  deriving DecidableEq, Repr

/-- phase(va, vb, lim, j) (R418). -/
def phase (va vb lim j : F32) : Phase :=
  let dv := fabs (fsub vb va)
  let long := fle (fdiv (fmul lim lim) j) dv
  let tj := if long then fdiv lim j else fsqrt (fdiv dv j)
  let tc := if long then fsub (fdiv dv lim) tj else 0
  let t := fadd (fmul f2 tj) tc
  ⟨tj, tc, t, fmul (fmul (fadd va vb) fHalf) t⟩

/-- The state of a segment `τ` seconds after its start (R420). -/
def Seg.at (g : Seg) (τ : F32) : DWord × F32 × F32 :=
  let a := fadd g.a (fmul g.jerk τ)
  let v := fadd (fadd g.v (fmul g.a τ)) (fdiv (fmul g.jerk (fmul τ τ)) f2)
  if g.code = 4 then
    let q := g.p + to32 (fmul g.v τ)
    let q := match g.lim with
      | none => q
      | some l =>
        let past := posInt (q - l)
        if (if flt g.v 0 then past < 0 else 0 < past) then l else q
    (q, g.v, 0)
  else
    let d := fadd (fadd (fmul g.v τ) (fdiv (fmul g.a (fmul τ τ)) f2)) (fdiv (fmul g.jerk (fmul (fmul τ τ) τ)) f6)
    (g.p + to32 d, v, a)

/-- Segments one after another from a state, those of zero duration left out, and the state at their end (R420). -/
def chain (p : DWord) (v a : F32) : List (F32 × F32 × Nat) → List Seg × DWord × F32 × F32
  | [] => ([], p, v, a)
  | (dur, jerk, code) :: r =>
    if flt 0 dur then
      let g : Seg := ⟨dur, jerk, p, v, a, code, none⟩
      let e := g.at dur
      let x := chain e.1 e.2.1 e.2.2 r
      (g :: x.1, x.2)
    else chain p v a r

/-- Move a chain's positions. -/
def Seg.shift (g : Seg) (d : DWord) : Seg := { g with p := g.p + d, lim := g.lim.map (· + d) }

/-- The down phase from `v` in direction `σ`: segments 5 to 7. -/
def downSegs (σ : Int) (f : Phase) (j : F32) : List (F32 × F32 × Nat) :=
  [(f.tj, fneg (fdir σ j), 5), (f.tc, 0, 6), (f.tj, fdir σ j, 7)]

/-- The lead-in that removes an acceleration (R419). -/
def leadIn (a0 j : F32) : List (F32 × F32 × Nat) :=
  if feq a0 0 then [] else [(fdiv (fabs a0) j, fneg (fdir (fsign a0) j), 8)]

/-- The state after the lead-in, with the acceleration at 0. -/
def afterLead (c : AxisCfg) (p : DWord) (v a : F32) : List Seg × DWord × F32 :=
  let x := chain p v a (leadIn a c.jmax)
  (x.1, x.2.1, x.2.2.1)

/-- Segments 5 to 7 that bring a speed to rest, and the point where it stops (R419, R422). -/
def stopSegs (c : AxisCfg) (p : DWord) (v : F32) : List Seg × DWord :=
  let x := chain p v 0 (downSegs (fsign v) (phase (fabs v) 0 c.dmax c.jmax) c.jmax)
  (x.1, x.2.1)

/-- The cruise distance d4 for a cruise speed (R419). -/
def cruiseDist (c : AxisCfg) (dist vs ve vc : F32) : F32 :=
  let up := phase vs vc (if fle vs vc then c.amax else c.dmax) c.jmax
  fsub (fsub dist up.dist) (phase vc ve c.dmax c.jmax).dist

/-- `n` bisection steps that keep `lo` where `ok` holds. -/
def bisect (ok : F32 → Bool) : Nat → F32 → F32 → F32
  | 0, lo, _ => lo
  | n + 1, lo, hi =>
    let mid := fmul (fadd lo hi) fHalf
    if ok mid then bisect ok n mid hi else bisect ok n lo mid

def fmax2 (a b : F32) : F32 := if flt a b then b else a
def fmin2 (a b : F32) : F32 := if flt b a then b else a

/-- The end velocity after R425, and the cruise speed of R419. -/
def speeds (c : AxisCfg) (dist vs vj vlim : F32) : F32 × F32 :=
  let ok := fun (ve vc : F32) => fle 0 (cruiseDist c dist vs ve vc)
  if ok vj vlim then (vj, vlim)
  else
    let ve := if ok vj (fmax2 vs vj) then vj else bisect (fun e => ok e (fmax2 vs e)) 24 0 vj
    (ve, if ok ve vlim then vlim else bisect (ok ve) 24 (fmax2 vs ve) vlim)

/-- The seven segments from `p0` with speed `vs` toward `x`, cruising at `vc` and ending at `ve` (R420). -/
def sevenSegs (c : AxisCfg) (σ : Int) (p0 x : DWord) (vs vc ve : F32) : List Seg :=
  let rise := fle vs vc
  let up := phase vs vc (if rise then c.amax else c.dmax) c.jmax
  let ju := fdir (if rise then σ else -σ) c.jmax
  let a := chain p0 (fdir σ vs) 0 [(up.tj, ju, 1), (up.tc, 0, 2), (up.tj, fneg ju, 3)]
  let d := chain 0 (fdir σ vc) 0 (downSegs σ (phase vc ve c.dmax c.jmax) c.jmax)
  let p4 := a.2.1
  let p5 := x - d.2.1
  let t4 := fdiv (posF (σ * posInt (p5 - p4))) vc
  a.1 ++ (if flt 0 t4 then [⟨t4, 0, p4, fdir σ vc, 0, 4, some p5⟩] else []) ++ d.1.map (fun g => g.shift p5)

/-- Total duration of segments. -/
def totalTime (l : List Seg) : F32 := l.foldl (fun t g => fadd t g.dur) 0

/-- A plan of given segments. -/
def planOf (l : List Seg) (x : DWord) (ve base : F32) : Plan := ⟨l, totalTime l, x, ve, false, 0, base⟩

/-- Where the stop-first rule applies, the stop's segments and the point of rest (R419). -/
def stopFirst (c : AxisCfg) (p x : DWord) (v : F32) : Option (List Seg × DWord) :=
  let d := posInt (x - p)
  let σ := if d = 0 then fsign v else isign d
  let u := fdir σ v
  if flt u 0 || flt (posF d.natAbs) (phase u 0 c.dmax c.jmax).dist then some (stopSegs c p v) else none

/-- The direction in which a plan arrives at its target. -/
def approach (c : AxisCfg) (p x : DWord) (v a : F32) : Int :=
  let l := afterLead c p v a
  match stopFirst c l.2.1 x l.2.2 with
  | some s => isign (posInt (x - s.2))
  | none => isign (posInt (x - l.2.1))

/-- The plan of R419 toward `x` with end velocity at most `vj`, and the point of a stop it makes first. -/
def mkPlan (c : AxisCfg) (p x : DWord) (v a vlim vj base : F32) : Plan × Option DWord :=
  let l := afterLead c p v a
  let d0 := posInt (x - l.2.1)
  if d0 = 0 ∧ feq l.2.2 0 then (planOf l.1 x 0 base, none)
  else
    let s := stopFirst c l.2.1 x l.2.2
    let (pre, q, vs0) := match s with
      | some s => (l.1 ++ s.1, s.2, (0 : F32))
      | none => (l.1, l.2.1, l.2.2)
    let d := posInt (x - q)
    let rest := s.map (·.2)
    if d = 0 then (planOf pre x 0 base, rest)
    else
      let σ := isign d
      let vs := fdir σ vs0
      let e := speeds c (posF d.natAbs) vs vj vlim
      (planOf (pre ++ sevenSegs c σ q x vs e.2 e.1) x (if feq e.1 0 then 0 else fdir σ e.1) base, rest)

/-- A controlled stop: a plan to the point where segments 5 to 7 end (R422). -/
def mkStop (c : AxisCfg) (p : DWord) (v a : F32) : Plan :=
  let l := afterLead c p v a
  let s := if feq l.2.2 0 then ([], l.2.1) else stopSegs c l.2.1 l.2.2
  planOf (l.1 ++ s.1) s.2 0 0

/-- A hard stop (R422). -/
def mkHard (c : AxisCfg) (p : DWord) (v base : F32) : Plan :=
  let σ := fsign v
  let d := to32 (fdiv (fmul v v) (fmul f2 c.dmax))
  let x := if σ = 0 then p else if σ < 0 then p - d else p + d
  ⟨[⟨fdiv (fabs v) c.dmax, 0, p, v, if σ = 0 then 0 else fneg (fdir σ c.dmax), 9, none⟩], fdiv (fabs v) c.dmax, x, 0,
    true, 0, base⟩

/-- The segment of a plan at time `t`, and the time since its start; the end of a segment belongs to it, as in the
worked example after R447. -/
def locate (t : F32) : F32 → List Seg → Option (Seg × F32)
  | _, [] => none
  | acc, g :: r =>
    if fle t (fadd acc g.dur) || r.isEmpty then some (g, fsub t acc) else locate t (fadd acc g.dur) r

/-- Whether moving in direction `σ` a point lies beyond a soft limit (R424, R432). -/
def AxisCfg.beyond (c : AxisCfg) (σ : Int) (p : DWord) : Bool :=
  c.homed && (if σ < 0 then decide (posInt p < c.slneg) else decide (0 < σ) && decide (c.slpos < posInt p))

/-- The greatest binary32 value of bit pattern at most `hi` for which `ok` holds, by bisection on the pattern. -/
def greatest (ok : F32 → Bool) : Nat → Nat → Nat → F32
  | 0, lo, _ => BitVec.ofNat 32 lo
  | n + 1, lo, hi =>
    if hi ≤ lo + 1 then (if ok (BitVec.ofNat 32 hi) then BitVec.ofNat 32 hi else BitVec.ofNat 32 lo)
    else
      let mid := (lo + hi) / 2
      if ok (BitVec.ofNat 32 mid) then greatest ok n mid hi else greatest ok n lo mid

/-- A cube root (R190, R424). -/
def fcbrt (x : F32) : F32 := f32Of (vRoot 3 30 (fv x))

/-- Halve a reversing junction's speed until its turn-around point stays inside the soft limits (R424). -/
def halveJunction (c : AxisCfg) (σ : Int) (x : DWord) : Nat → F32 → F32
  | 0, v =>
    let d := to32 (phase v 0 c.dmax c.jmax).dist
    if c.beyond σ (if σ < 0 then x - d else x + d) then 0 else v
  | n + 1, v =>
    let d := to32 (phase v 0 c.dmax c.jmax).dist
    if c.beyond σ (if σ < 0 then x - d else x + d) then halveJunction c σ x n (fmul v fHalf) else v

/-- The junction velocity at `x`, reached in direction `σ`, between moves of speed limits `v1` and `v2`, the second
toward `x2` (R424). A second move of no length has no direction, and the first ends at rest. -/
def junction (c : AxisCfg) (σ : Int) (x x2 : DWord) (v1 v2 : F32) : F32 :=
  let d2 := posInt (x2 - x)
  let vm := fmin2 v1 v2
  let d := c.dmax
  let j := c.jmax
  let jj := fmul j j
  let ddd := fmul (fmul d d) d
  if d2 = 0 ∨ σ = 0 then 0
  else if isign d2 = σ then
    let len := posF d2.natAbs
    let ok := fun (v : F32) => fle (phase v 0 d j).dist len
    if ok vm then vm else greatest ok 32 0 vm.toNat
  else if feq c.tol 0 then 0
  else
    let b := if fle c.tol (fdiv ddd jj) then fcbrt (fmul (fmul c.tol c.tol) j)
      else fmul (fsub (fsqrt (fadd (fdiv (fmul ddd d) jj) (fmul (fmul f8 d) c.tol))) (fdiv (fmul d d) j)) fHalf
    halveJunction c σ x 24 (fmin2 vm b)

end Sys2Proof.Machine
end

