-- ==== Sys2Proof/Machine/Motion.lean ====
section
/-! DEFINITION. Axes: execution, queue and blending, commands, limits, homing, the states of an axis, and the load
(R409 to R447).
Where the spec can be read in two ways the assumption log says what was read: entries 57 to 59 (DEDUCED unless marked there otherwise). -/

namespace Sys2Proof.Machine

def axNOTCONF : Nat := 0
def axOFFLINE : Nat := 1
def axIDLE : Nat := 2
def axMOVING : Nat := 3
def axSTOPPING : Nat := 4
def axHOMING : Nat := 5
def axBRAKETEST : Nat := 6

/-- Axis `n`. -/
def State.axis (s : State) (n : Nat) : Axis := s.arch.axes.getD n {}

/-- Change axis `n`. -/
def State.modAxis (s : State) (n : Nat) (f : Axis → Axis) : State :=
  { s with arch := { s.arch with axes := modifyAt s.arch.axes n f } }

/-- Whether axis `n` is configured (R409, R438). -/
def State.axisConf (s : State) (n : Nat) : Bool := (s.axis n).st != axNOTCONF

/-- Fields of AXIS.CTRL (R413). -/
def State.axFbsrc (s : State) (n : Nat) : Nat := s.fldOf (R.AXIS_CTRL n) 31 30
def State.axSlotCmd (s : State) (n : Nat) : Bool := s.bitOf (R.AXIS_CTRL n) 29
def State.axHomeMeth (s : State) (n : Nat) : Nat := s.fldOf (R.AXIS_CTRL n) 27 26
def State.axInitHomed (s : State) (n : Nat) : Bool := s.bitOf (R.AXIS_CTRL n) 25
/-- The search direction σh (R435). -/
def State.axHomeDir (s : State) (n : Nat) : Int := if s.bitOf (R.AXIS_CTRL n) 28 then 1 else -1

/-- Ts (R421). -/
def State.axTs (s : State) (n : Nat) : F32 :=
  fmul (fOfInt (s.fldOf (R.AXIS_RATE n) 10 0 * s.period : Nat)) 0x31ABCC77

/-- What plans of axis `n` use. -/
def State.axCfg (s : State) (n : Nat) : AxisCfg :=
  { amax := s.reg (R.AXIS_AMAX n), dmax := s.reg (R.AXIS_DMAX n), jmax := s.reg (R.AXIS_JMAX n),
    tol := s.reg (R.AXIS_BLENDTOL n), homed := (s.axis n).homed,
    slneg := posInt (countsPos (s.reg (R.AXIS_SLNEG n))), slpos := posInt (countsPos (s.reg (R.AXIS_SLPOS n))),
    ts := s.axTs n }

/-- A record of an axis code (R443). -/
def State.axEvent (s : State) (n code : Nat) (p1 p2 p3 : Word) : State :=
  s.raiseLimited n code n (BitVec.ofNat 32 n) p1 p2 p3

/-- Set a bit of AXIS.EVT (R446). -/
def State.axEvt (s : State) (n i : Nat) : State := s.orReg (R.AXIS_EVT n) (BitVec.ofNat 32 (2 ^ i))

/-- Every move leaves the queue without completing, and groups that wait are gone with it (R423). -/
def State.dropQueue (s : State) (n : Nat) (groups : Bool) : State :=
  let x := s.axis n
  let waiting := if groups then (x.cmds.filter (fun c => !c.stop)).length else 0
  (s.bumpBy (R.AXIS_DROPCNT n) (x.queue.length + waiting)).modAxis n (fun x =>
    { x with queue := [], active := false, cmds := if groups then [] else x.cmds })

/-! Stops (R422, R430, R432, R441). -/

/-- The side of a direction for an event: 0 negative, 1 positive. -/
def sideOf (σ : Int) : Word := if σ < 0 then 0 else 1

/-- A hard stop from the state of the previous execution, `soft` when it is made for a soft limit (R422, R432). -/
def State.hardStop (s : State) (n : Nat) (soft : Bool) (v : F32) (p : DWord) (base : F32) : State :=
  let c := s.axCfg n
  let pl := mkHard c p v base
  let σ := fsign v
  let past := c.beyond σ pl.x && !c.beyond σ p
  let s := s.modAxis n (fun x => { x with plan := some pl, tgt := pl.x, st := axSTOPPING })
  if soft || past then (s.axEvt n 4).axEvent n 0xF003 (sideOf σ) (if past then 1 else 0) s.tickLo else s

/-- Whether the axis makes a hard stop already. -/
def Axis.hardStops (x : Axis) : Bool := match x.plan with | some pl => pl.hard | none => false

/-- A hard stop now; that of an axis between two moves or homing steps ends at its next execution. -/
def State.hardNow (s : State) (n : Nat) : State :=
  let x := s.axis n
  if x.hardStops then s else s.hardStop n false x.v x.p 0

/-- A controlled stop, or the hard stop of R432 where its path would pass a soft limit. -/
def State.controlledStop (s : State) (n st : Nat) : State :=
  let x := s.axis n
  let c := s.axCfg n
  match x.plan with
  | none => s.modAxis n (fun x => { x with plan := some (planOf [] x.p 0 0), tgt := x.p, st := st })
  | some pl =>
    if pl.hard then s
    else
      let q := mkStop c x.p x.v x.a
      if c.beyond (fsign x.v) q.x && !c.beyond (fsign x.v) x.p then s.hardStop n true x.v x.p 0
      else s.modAxis n (fun x => { x with plan := some q, tgt := q.x, st := st })

/-! Activation and completion (R423 to R425). -/

/-- The first move of the queue becomes active from a state, with its junction fixed now. -/
def State.activate (s : State) (n : Nat) (p : DWord) (v a base : F32) : State :=
  match (s.axis n).queue with
  | [] => s
  | m :: rest =>
    let c := s.axCfg n
    let vj := match rest with
      | m2 :: _ => if m2.blend then junction c (approach c p m.target v a) m.target m2.target m.vlim m2.vlim else 0
      | [] => 0
    let r := mkPlan c p m.target v a m.vlim vj base
    let s := s.modAxis n (fun x =>
      { x with plan := some r.1, tgt := m.target, st := axMOVING, active := true, moveId := m.id })
    match r.2 with
    | some q =>
      if c.beyond (fsign v) q && !c.beyond (fsign v) p then
        (s.hardStop n true v p base).modAxis n (fun x => { x with active := false })
      else s
    | none => s

/-- The active move completes. -/
def State.moveDone (s : State) (n : Nat) : State :=
  s.modAxis n (fun x =>
    match x.queue with
    | m :: r => { x with doneId := m.id, moveCnt := satAdd x.moveCnt 1, queue := r, active := false }
    | [] => x)

/-! Homing (R435 to R437). -/

/-- Homing fails: the axis is at rest. -/
def State.homeFailed (s : State) (n : Nat) (cause : Word) : State :=
  let h := (s.axis n).hstep
  let s := (s.axEvt n 6).axEvent n 0xF006 cause (BitVec.ofNat 32 h) s.tickLo
  s.modAxis n (fun x => { x with st := axIDLE, hstep := 0, hfail := none, hinit := false })

/-- The last step of a method has ended with reference `r` (R436). -/
def State.homeDone (s : State) (n : Nat) (r : DWord) : State :=
  let ofs := countsPos (s.reg (R.AXIS_HOMEPOS n)) - r
  let d := ofs - (s.axis n).ofs
  let s := s.modAxis n (fun x =>
    { x with href := r, ofs := ofs, homed := true, p := x.p + d, act := x.act + d, tgt := x.tgt + d,
             st := axIDLE, hstep := 0, seg := 0, plan := none })
  s.axEvent n 0xF005 (hi32 r) (lo32 r) s.tickLo

/-- A homing step goes on: its plan is built at the next execution. -/
def State.homeStep (s : State) (n h : Nat) : State :=
  s.modAxis n (fun x => { x with hstep := h, hinit := true })

/-- A plan has ended at rest: the axis is at `x` with no velocity (R421, R438). -/
def State.atRest (s : State) (n : Nat) (q : DWord) : State :=
  let s := s.modAxis n (fun x => { x with p := q, v := 0, a := 0, seg := 0, plan := none })
  let x := s.axis n
  if x.st = axMOVING then
    let s := if x.active then s.moveDone n else s
    s.modAxis n (fun x => { x with st := if x.queue.isEmpty then axIDLE else axMOVING })
  else if x.st = axSTOPPING then
    let s := match x.stopId with
      | some i => s.modAxis n (fun x => { x with doneId := i, stopId := none })
      | none => s
    match x.hfail with
    | some c => s.homeFailed n c
    | none => s.modAxis n (fun x => { x with st := axIDLE })
  else if x.st = axHOMING then
    match x.hfail with
    | some c => s.homeFailed n c
    | none =>
      if x.hstep = 2 then (if s.axHomeMeth n = 2 then s.homeDone n x.hrefNew else s.homeStep n 3)
      else if x.hstep = 4 then s.homeDone n x.hrefNew
      else s.homeFailed n 1
  else s

/-! Evaluation (R420 to R422, R432). -/

/-- Evaluate the plan at time `t`; at a junction the successor is evaluated at the time left over. -/
def State.evalPlan (n : Nat) : Nat → F32 → State → State
  | 0, _, s => s
  | fuel + 1, t, s =>
    match (s.axis n).plan with
    | none => s
    | some pl =>
      let c := s.axCfg n
      if pl.hard then
        let σ := fsign ((pl.segs.map (·.v)).headD 0)
        let q := match pl.segs with | g :: _ => g.at t | [] => (pl.x, 0, 0)
        let p0 := (s.axis n).p
        let lim : DWord := BitVec.ofInt 64 (if σ < 0 then c.slneg else c.slpos)
        let moving := flt 0 (fdir σ q.2.1)
        let e := if moving then q.1 else pl.x
        if c.beyond σ e && !c.beyond σ p0 then (s.modAxis n (fun x => { x with clip := true })).atRest n lim
        else if moving then s.modAxis n (fun x => { x with p := q.1, v := q.2.1, a := q.2.2, seg := 9 })
        else s.atRest n pl.x
      else if flt t pl.tend then
        match locate t 0 pl.segs with
        | none => s
        | some (g, τ) =>
          let q := g.at τ
          s.modAxis n (fun x => { x with p := q.1, v := q.2.1, a := q.2.2, seg := g.code })
      else if feq pl.ve 0 || (s.axis n).queue.length < 2 then s.atRest n pl.x
      else
        let left := fsub t pl.tend
        evalPlan n fuel left ((s.moveDone n).activate n pl.x pl.ve 0 left)

/-- The next execution of the plan (R421). -/
def State.runPlan (s : State) (n : Nat) : State :=
  match (s.axis n).plan with
  | none => s
  | some pl =>
    let s := s.modAxis n (fun x => { x with plan := some { pl with m := pl.m + 1 } })
    s.evalPlan n 33 (fadd pl.base (fmul (fOfInt (pl.m + 1 : Nat)) (s.axTs n)))

/-! Feedback (R415, R438, R439, R456). -/

/-- Whether a Stride port runs (R452, R463). -/
def State.strideOn (s : State) (d : Nat) : Bool :=
  s.loaded && s.usableBit (unitStride d) && s.bitOf (R.STRIDE_CTRL d) 31 && s.image.has secSTRIDE d 0

def State.ndrv (s : State) (d : Nat) : Nat := min 4 (s.fldOf (R.STRIDE_CTRL d) 18 16)

/-- The port and drive-table entry that name axis `n`. -/
def State.axEntry (s : State) (n : Nat) : Option (Nat × Nat) :=
  ((List.range 32).find? (fun i =>
    s.strideOn (i / 4) && decide (i % 4 < s.ndrv (i / 4)) && s.fldOf (R.STRIDE_DADDR (i / 4) (i % 4)) 21 16 == n)).map
    (fun i => (i / 4, i % 4))

/-- Entry `e` of port `d`. -/
def State.strideEntry (s : State) (d e : Nat) : StrideEntry :=
  ((s.arch.stride.getD d {}).entries).getD e {}

/-- Whether the drive of a Stride axis is on the link. -/
def State.axLinked (s : State) (n : Nat) : Bool :=
  match s.axEntry n with
  | some (d, e) => (s.strideEntry d e).st == 2
  | none => false

/-- EV_AXIS_OFFLINE or EV_AXIS_ONLINE. -/
def State.axLinkEvent (s : State) (n code : Nat) : State :=
  let (d, e) := (s.axEntry n).getD (0, 0)
  s.axEvent n code (BitVec.ofNat 32 d) (BitVec.ofNat 32 (s.fldOf (R.STRIDE_DADDR d e) 4 0)) s.tickLo

/-- Entry into OFFLINE (R439). -/
def State.axOffline (s : State) (n : Nat) : State :=
  let s := s.dropQueue n true
  let keep := s.axInitHomed n
  let s := s.modAxis n (fun x =>
    { x with st := axOFFLINE, v := 0, a := 0, seg := 0, plan := none, hstep := 0, hfail := none, hinit := false,
             stopId := none, homed := keep, ofs := if keep then x.ofs else 0, replan := false })
  (s.axEvt n 10).axLinkEvent n 0xF007

/-- The actual position of an execution (R415), and where it forms the set-point (R438, R439). -/
def State.axFeedback (s : State) (n : Nat) : State :=
  let x := s.axis n
  let src := s.axFbsrc n
  let enc := s.reg (R.ENC_COUNT (s.fldOf (R.AXIS_ENC n) 12 0))
  let first := !x.started
  let act :=
    if src = 0 then x.p
    else if src = 2 then (if first then countsPos enc + x.ofs else x.act + countsPos (enc - x.enc))
    else if x.fresh then x.fb + x.ofs else x.act
  let s := s.modAxis n (fun x => { x with act := act, enc := enc, started := true, clip := false })
  let s := if first then s.modAxis n (fun x => { x with p := act }) else s
  if src ≠ 1 then s
  else if s.axLinked n then
    if x.st = axOFFLINE then
      (s.modAxis n (fun x => { x with p := act, st := axIDLE })).axLinkEvent n 0xF008
    else s
  else if x.st = axOFFLINE then s
  else s.axOffline n

/-! Limits (R430, R431). -/

/-- DEB of the ball of a binding, if it is enabled. -/
def State.axLevel (s : State) (b : Word) : Bool := bit b 31 && s.bitOf (R.DIO_STAT (fld b 12 0)) 8

/-- The limits that are active or whose chatter flag is set: bit 0 negative, bit 1 positive. -/
def State.axLims (s : State) (n : Nat) : Nat :=
  (s.axLevel (s.reg (R.AXIS_LIMNEG n)) || s.bitOf (R.AXIS_EVT n) 2).toNat +
    2 * (s.axLevel (s.reg (R.AXIS_LIMPOS n)) || s.bitOf (R.AXIS_EVT n) 3).toNat

/-- Whether the axis's velocity or its active move points in a direction. -/
def Axis.points (x : Axis) (σ : Int) : Bool :=
  fsign x.v == σ || (x.active && isign (posInt (x.tgt - x.p)) == σ)

/-- The check of one limit: 0 negative, 1 positive. -/
def State.axLimit (s : State) (n i : Nat) : State :=
  let x := s.axis n
  let σ : Int := if i = 0 then -1 else 1
  let exempt := x.st == axHOMING && s.axHomeMeth n == 0 && s.axHomeDir n == σ
  if !(x.lims.testBit i) || exempt || !x.points σ then s
  else
    let s := s.dropQueue n false
    let s := if x.st = axHOMING then s.modAxis n (fun x => { x with hfail := some 2 }) else s
    let s := s.hardNow n
    (s.axEvt n i).axEvent n 0xF001 (sideOf σ) (hi32 x.p) s.tickLo

/-- A LIMIT_CHATTER report for ball `b` (R431). -/
def State.axChatter (s : State) (b : Nat) : State :=
  forUpTo 64 (fun n s =>
    if !s.axisConf n then s
    else
      let bound := fun (a : Nat) => s.bitOf a 31 && s.fldOf a 12 0 == b
      let note := fun (s : State) (i : Nat) (p : Word) => (s.axEvt n i).axEvent n 0xF002 p 0 s.tickLo
      let s := if bound (R.AXIS_LIMNEG n) then note s 2 0 else s
      let s := if bound (R.AXIS_LIMPOS n) then note s 3 1 else s
      if bound (R.AXIS_HOMESW n) then note s 7 2 else s) s

/-- Reports that the DIO unit has made reach the axes. -/
def State.flushChatter (s : State) : State :=
  let l := s.dio.chatter
  l.foldl (fun s b => s.axChatter b) (s.modDio (fun d => { d with chatter := [] }))

/-! Commands (R426 to R429). -/

/-- One group of a MOVE letter at an execution. -/
def State.axGroup (s : State) (n : Nat) (c : MoveCmd) : State :=
  if c.stop then
    let x := s.axis n
    let s := s.dropQueue n false
    let s := s.modAxis n (fun x => { x with moveId := c.id, stopId := some c.id })
    if x.st = axHOMING then (s.modAxis n (fun x => { x with hfail := some 5 })).controlledStop n axSTOPPING
    else if x.st = axMOVING then s.controlledStop n axSTOPPING
    else if x.st = axSTOPPING then s
    else s.modAxis n (fun x => { x with doneId := c.id, stopId := none })
  else
    let s := if c.flush then s.dropQueue n false else s
    let x := s.axis n
    let from_ := match x.queue.getLast? with | some m => m.target | none => x.p
    let t := if c.rel then from_ + c.target else c.target
    s.modAxis n (fun x => { x with queue := x.queue ++ [⟨t, c.vlim, c.blend, c.id⟩] })

/-- Targets of the queue after groups, oldest first. -/
def queueAfter (p : DWord) : List DWord → List MoveCmd → List DWord
  | q, [] => q
  | q, c :: r =>
    if c.stop then queueAfter p [] r
    else
      let q := if c.flush then [] else q
      queueAfter p (q ++ [if c.rel then (q.getLast?.getD p) + c.target else c.target]) r

/-- Whether a target is refused: outside the soft limits while homed, or toward a limit that is active (R428). -/
def State.badTarget (s : State) (n : Nat) (from_ t : DWord) : Bool :=
  let c := s.axCfg n
  let σ := isign (posInt (t - from_))
  let lims := s.axLims n
  (c.homed && (decide (posInt t < c.slneg) || decide (c.slpos < posInt t))) ||
    (decide (σ < 0) && lims.testBit 0) || (decide (0 < σ) && lims.testBit 1)

/-- The STATE check of a group, with the groups before it in the letter (R428). -/
def State.groupState (s : State) (before : List MoveCmd) (c : MoveCmd) : Bool :=
  let x := s.axis c.axis
  let q := queueAfter x.p (x.queue.map (·.target)) (x.cmds ++ before)
  let q2 := queueAfter x.p q [c]
  let t := q2.getLast?.getD x.p
  s.axSlotCmd c.axis || x.st == axBRAKETEST || (x.st == axHOMING && !c.stop) ||
    (!c.stop && (decide (32 < q2.length) || (!c.rel && !x.homed) ||
      s.badTarget c.axis (if c.flush then x.p else q.getLast?.getD x.p) t))

/-- Whether a MOVE letter's groups pass the STATE checks. -/
def State.moveStateOk (s : State) : List MoveCmd → List MoveCmd → Bool
  | _, [] => true
  | done, c :: r => !s.groupState (done.filter (fun d => d.axis == c.axis)) c && s.moveStateOk (done ++ [c]) r

/-- A committed MOVE letter (R426). -/
def State.commitMove (s : State) (l : List MoveCmd) : State :=
  l.foldl (fun s c => s.modAxis c.axis (fun x => { x with cmds := x.cmds ++ [c] })) s

/-- A committed HOME letter for one axis (R427, R435). -/
def State.startHome (s : State) (n : Nat) : State :=
  let s := (s.clrReg (R.AXIS_EVT n) 0x7F).dropQueue n true
  let s := s.modAxis n (fun x =>
    { x with st := axHOMING, hstep := 1, hinit := true, homed := false, hsCount := 0, hfail := none, idx := none,
             stopId := none, plan := some (planOf [] x.p 0 0) })
  if s.axHomeMeth n = 2 then
    if s.axFbsrc n = 1 then s.modAxis n (fun x => { x with idxArm := true })
    else
      let m := s.fldOf (R.AXIS_ENC n) 12 0
      if m < 21 then s.clrReg (R.ENC_STAT m) 8 else s
  else s

/-- The value of a target slot (R429). -/
def State.axSlotTarget (s : State) (n : Nat) : State :=
  let x := s.axis n
  if !s.axSlotCmd n || s.dev = stSAFE || !x.homed then s
  else
    let v := s.slot (s.fldOf (R.AXIS_TGTSLOT n) 12 0)
    if x.taken = some v.val || !fIsFin v.val || !bit v.qual 0 then s
    else
      let i := vRoundInt (vMul (fv v.val) (.fin false 1 32))
      let c := s.axCfg n
      let far := decide (i < c.slneg) || decide (c.slpos < i)
      if far || x.st = axOFFLINE || x.st = axBRAKETEST || s.badTarget n x.p (to32 v.val) then s.axEvt n 9
      else
        (s.modAxis n (fun x => { x with taken := some v.val })).axGroup n
          ⟨n, to32 v.val, false, true, false, false, s.reg (R.AXIS_VMAX n), 0⟩

/-- Homing before the plan is evaluated: the step's plan, and the event that ends a search (R435). -/
def State.axHoming (s : State) (n : Nat) : State :=
  let x := s.axis n
  if x.st ≠ axHOMING then s
  else if s.bitOf (R.AXIS_EVT n) 7 && x.hfail.isNone then
    (s.modAxis n (fun x => { x with hfail := some 3 })).controlledStop n axSTOPPING
  else
    let σ := s.axHomeDir n
    let meth := s.axHomeMeth n
    let sw := s.axLevel (s.reg (if meth = 1 then R.AXIS_HOMESW n else if σ < 0 then R.AXIS_LIMNEG n else R.AXIS_LIMPOS n))
    let s := if !x.hinit then s
      else
        let back := x.hstep == 3
        let d := countsPos (s.reg (R.AXIS_HOMEMAX n))
        let t := if (if back then -σ else σ) < 0 then x.p - d else x.p + d
        let v := s.reg (if back || decide (2 ≤ meth) then R.AXIS_HVSLOW n else R.AXIS_HVFAST n)
        s.modAxis n (fun x => { x with hinit := false, tgt := t, plan := some (mkPlan (s.axCfg n) x.p t 0 0 v 0 0).1 })
    if x.hstep = 1 ∧ meth < 2 ∧ sw then
      (s.modAxis n (fun x => { x with hstep := 2 })).controlledStop n axHOMING
    else if x.hstep = 1 ∧ meth = 2 then
      let m := s.fldOf (R.AXIS_ENC n) 12 0
      let ref := if s.axFbsrc n = 1 then x.idx
        else if s.bitOf (R.ENC_STAT m) 3 then some (countsPos (s.reg (R.ENC_INDEX m))) else none
      match ref with
      | none => s
      | some r => (s.modAxis n (fun x => { x with hstep := 2, hrefNew := r })).controlledStop n axHOMING
    else if x.hstep = 3 ∧ !sw then
      (s.modAxis n (fun x => { x with hstep := 4, hrefNew := x.act - x.ofs })).controlledStop n axHOMING
    else s

/-- HARDSTOP homing after the following error is known (R435). -/
def State.axHardstop (s : State) (n : Nat) : State :=
  let x := s.axis n
  if !(x.st == axHOMING && s.axHomeMeth n == 3 && x.hstep == 1 && x.plan.isSome) then s
  else
    let k := if flt (s.reg (R.AXIS_HSFEL n)) (fabs x.ferr) then x.hsCount + 1 else 0
    let s := s.modAxis n (fun x => { x with hsCount := k })
    if k < max 1 (s.fldOf (R.AXIS_HSTICKS n) 15 0) then s
    else (s.modAxis n (fun x => { x with p := x.act, v := 0, a := 0 })).homeDone n (x.act - x.ofs)

/-- The following error of an execution (R434). -/
def State.axFollow (s : State) (n : Nat) : State :=
  let x := s.axis n
  let f := posF (posInt (x.p - x.act))
  let s := s.modAxis n (fun x => { x with ferr := f })
  let search := x.st == axHOMING && s.axHomeMeth n == 3
  if x.st = axOFFLINE || search || !flt (s.reg (R.AXIS_FEL n)) (fabs f) then s
  else
    let s := (s.axEvt n 5).axEvent n 0xF004 f (BitVec.ofNat 32 x.st) s.tickLo
    if x.plan.isNone && x.st != axMOVING && x.st != axHOMING then s
    else
      let s := s.dropQueue n false
      let s := if x.st = axHOMING then s.modAxis n (fun x => { x with hfail := some 4 }) else s
      s.hardNow n

/-- A plan from the actual position after a warm restart (R442). -/
def State.axReplan (s : State) (n : Nat) : State :=
  let x := s.axis n
  if !x.replan then s
  else
    let s := s.modAxis n (fun x => { x with replan := false, p := x.act, v := 0, a := 0 })
    let x := s.axis n
    if x.st = axMOVING then s.activate n x.p 0 0 0
    else
      let v := if x.st = axHOMING then
          s.reg (if x.hstep = 3 ∨ 2 ≤ s.axHomeMeth n then R.AXIS_HVSLOW n else R.AXIS_HVFAST n)
        else s.reg (R.AXIS_VMAX n)
      s.modAxis n (fun x => { x with plan := some (mkPlan (s.axCfg n) x.p x.tgt 0 0 v 0 0).1 })

/-- The slots of an execution (R417), and the set-point it issues (R416). -/
def State.axWrite (s : State) (n k : Nat) (kept : Bool) : State :=
  let x := s.axis n
  let w := writerOf clsAxis n
  let stale := kept || x.st == axOFFLINE
  let fb := flagsOf (!stale) stale false false false
  let s := s.stageVia (s.reg (R.AXIS_SPSLOT n)) w (posF (posInt x.p)) (flagsOf true false x.clip false false)
  let s := s.stageVia (s.reg (R.AXIS_ACTSLOT n)) w (posF (posInt x.act)) fb
  let s := s.stageVia (s.reg (R.AXIS_DEVSLOT n)) w (posF (posInt (x.act - x.p))) fb
  let s := s.stageVia (s.reg (R.AXIS_VELSLOT n)) w x.v qVALID
  s.modAxis n (fun x => { x with lastTick := BitVec.ofNat 32 k, fresh := false, pend := (x.p - x.ofs, x.v) })

/-- Begin the first move of a queue that no move precedes (R423). -/
def State.axBegin (s : State) (n : Nat) : State :=
  let x := s.axis n
  if (x.st == axIDLE || x.st == axMOVING) && !x.active then s.activate n x.p x.v x.a 0 else s

/-- One execution of axis `n` in tick `k` (R409). -/
def State.axisExec (s : State) (n k : Nat) : State :=
  let kept := s.axFbsrc n == 1 && !(s.axis n).fresh
  let s := s.axFeedback n
  let s := s.modAxis n (fun x => { x with lims := s.axLims n })
  let s := if (s.axis n).st = axOFFLINE then (s.dropQueue n true).axSlotTarget n
    else
      let s := s.axReplan n
      let l := (s.axis n).cmds
      let s := l.foldl (fun s c => s.axGroup n c) (s.modAxis n (fun x => { x with cmds := [] }))
      let s := (s.axSlotTarget n).axBegin n
      let s := (s.axHoming n).axLimit n 0
      (s.axLimit n 1).runPlan n
  ((s.axFollow n).axHardstop n).axWrite n k kept

/-- The axes that execute in tick `k` (R409). -/
def State.runAxes (s : State) (k : Nat) : State :=
  forUpTo 64 (fun n s =>
    if s.axisConf n && s.tileUsable (n / 8) && rateDue (s.reg (R.AXIS_RATE n)) k then s.axisExec n k else s) s

/-- Set-points reach the Stride ports at a boundary (R416). -/
def State.axIssue (s : State) : State :=
  { s with arch := { s.arch with axes := s.arch.axes.map (fun x => { x with issued := x.pend }) } }

/-- Entry into SAFE (R441). -/
def State.axesSafe (s : State) : State :=
  forUpTo 64 (fun n s =>
    let x := s.axis n
    if x.st = axMOVING then (s.dropQueue n false).hardNow n
    else if x.st = axHOMING then
      let s := (s.dropQueue n false).modAxis n (fun x => { x with hfail := some (Config.homeFailCause s.free) })
      s.useFree.hardNow n
    else s) s

/-- A resumed warm restart (R442). -/
def State.axesResume (s : State) : State :=
  forUpTo 64 (fun n s =>
    if (s.axis n).plan.isSome then
      (s.axEvt n 8).modAxis n (fun x => { x with replan := true, active := false })
    else s) s

/-- The island asks for a brake holding test: it begins while the axis is IDLE (R438, R440). -/
def State.brakeBegin (s : State) (n : Nat) : State :=
  if (s.axis n).st = axIDLE then s.modAxis n (fun x => { x with st := axBRAKETEST }) else s

/-- The test ends. -/
def State.brakeEnd (s : State) (n : Nat) : State :=
  if (s.axis n).st = axBRAKETEST then s.modAxis n (fun x => { x with st := axIDLE, tq := 0 }) else s

/-! Status registers (R444, R445, R447). -/

/-- AXIS.STAT. -/
def Axis.stat (x : Axis) : Word :=
  BitVec.ofNat 32 (x.queue.length * 2 ^ 24 + x.hstep * 4096 + x.seg * 256 + x.homed.toNat * 64 +
    (flt x.v 0).toNat * 32 + (x.lims.testBit 1).toNat * 16 + (x.lims.testBit 0).toNat * 8 + x.st)

/-- A status register of an axis that shows a field, by its offset. -/
def Axis.show? (x : Axis) (o : Nat) : Option Word :=
  match o with
  | 0x00 => some x.stat
  | 0x08 => some (lo32 x.p)
  | 0x0C => some (hi32 x.p)
  | 0x10 => some (lo32 x.act)
  | 0x14 => some (hi32 x.act)
  | 0x18 => some (lo32 x.tgt)
  | 0x1C => some (hi32 x.tgt)
  | 0x20 => some (lo32 x.ofs)
  | 0x24 => some (hi32 x.ofs)
  | 0x28 => some (lo32 x.href)
  | 0x2C => some (hi32 x.href)
  | 0x30 => some x.v
  | 0x34 => some x.a
  | 0x38 => some x.ferr
  | 0x3C => some x.moveId
  | 0x40 => some x.doneId
  | 0x44 => some x.moveCnt
  | 0x4C => some x.lastTick
  | 0x50 => some x.torque
  | _ => none

/-- A bit per local axis of tile `t` for which `f` holds. -/
def State.motBits (s : State) (t : Nat) (f : Axis → Bool) : Word :=
  BitVec.ofNat 32 ((List.range 8).foldl (fun a i => a + (f (s.axis (8 * t + i))).toNat * 2 ^ i) 0)

/-! Load (R410, R414, R444). -/

/-- The CFG registers of an axis in ascending address order. -/
def axisCfgRegs (n : Nat) : List Nat := (List.range 25).map (fun i => R.AXIS_CTRL n + 4 * i)

def axisWords (r : Rec) : List (Nat × Nat × Word) := r.words (axisCfgRegs r.key)

/-- The form of an AXES record (R410). -/
def axisForm (r : Rec) : List Finding :=
  need (decide (r.key ≤ 63)) (atOff 10 secAXES r.off) ++ need (r.kind == 0) (atOff 10 secAXES (r.off + 2)) ++
  formLen secAXES r 100

/-- The layout of CELL.RATE satisfies R17. -/
def rateOk (w : Word) : Bool :=
  decide (1 ≤ fld w 10 0) && decide (fld w 10 0 ≤ 1024) && decide (fld w 25 16 < fld w 10 0)

/-- A drive-table entry of the image that names axis `n`: the ports whose CTRL.EN is 1 (R414, R463). -/
def Image.strideNames (im : Image) (n : Nat) : Bool :=
  (List.range 8).any (fun d =>
    match im.rec? secSTRIDE d 0, im.rec? secSTRIDE d 1 with
    | some r0, some r1 =>
      bit (wAt r0.body 0) 31 &&
        (List.range (fld (wAt r0.body 0) 18 16)).any (fun e => fld (wAt r1.body (28 * e)) 21 16 == n)
    | _, _ => false)

/-- The failures of an AXES record (R414, R710). -/
def axisCheck (s : State) (im : Image) (r : Rec) : List Finding :=
  let w := fun i => wAt r.body (4 * i)
  let at_ := fun (step : Nat) (ok : Bool) (i : Nat) => need ok (atOff step secAXES (r.off + 8 + 4 * i))
  let ctrl := w 0
  let fb := fld ctrl 31 30
  let meth := fld ctrl 27 26
  let pos := fun i => fIsFin (w i) && flt 0 (w i)
  let mode := fun i => fld (im.reg (R.DIO_MODE (fld (w i) 12 0))) 31 28
  let ballOk := fun i => !bit (w i) 31 || (decide (fld (w i) 12 0 < 64) && mode i == dioLIMIT)
  let encOk := bit (w 19) 31 && decide (fld (w 19) 12 0 < 21) && bit (im.reg (R.ENC_CFG (fld (w 19) 12 0))) 31
  need (s.usableBit (unitTile (r.key / 8))) ⟨12, r.off, unitTile (r.key / 8), secAXES⟩ ++
  imageBits secAXES (axisWords r) ++
  at_ 14 (fb != 3) 0 ++ at_ 14 (meth != 2 || fb != 0) 0 ++ at_ 14 (rateOk (w 1)) 1 ++
  [2, 3, 4, 5].flatMap (fun i => at_ 14 (pos i) i) ++
  at_ 14 (fIsFin (w 6) && fle 0 (w 6)) 6 ++ at_ 14 (flt 0 (w 7)) 7 ++
  at_ 14 (decide (signedOf 32 (w 8).toNat < signedOf 32 (w 9).toNat)) 9 ++
  at_ 14 (flt 0 (w 13) && fle (w 13) (w 2)) 13 ++ at_ 14 (flt 0 (w 14) && fle (w 14) (w 2)) 14 ++
  at_ 14 (decide (1 ≤ (w 16).toNat) && decide ((w 16).toNat ≤ 2147483647)) 16 ++
  at_ 14 (meth != 3 || pos 17) 17 ++ at_ 14 (meth != 3 || fld (w 18) 15 0 != 0) 18 ++
  at_ 17 (meth != 0 || bit (w (if bit ctrl 28 then 11 else 10)) 31) (if bit ctrl 28 then 11 else 10) ++
  at_ 17 (meth != 1 || bit (w 12) 31) 12 ++ at_ 17 (ballOk 10) 10 ++ at_ 17 (ballOk 11) 11 ++
  at_ 17 (!bit (w 12) 31 || (decide (fld (w 12) 12 0 < 64) && (mode 12 == dioLIMIT || mode 12 == dioGPIOIN))) 12 ++
  at_ 17 (!(fb == 2 || meth == 2) || encOk) 19 ++ at_ 17 (fb != 1 || im.strideNames r.key) 0 ++
  at_ 17 (!bit ctrl 29 || bit (w 24) 31) 24

/-- Every axis at a load that does not resume state (R438, R444). -/
def State.loadAxes (s : State) : State :=
  let s := s.modArch (fun a => { a with axes := List.replicate 64 {} })
  let s := forUpTo 64 (fun n s => (s.setReg (R.AXIS_EVT n) 0).setReg (R.AXIS_DROPCNT n) 0) s
  forEach (s.image.sec secAXES) (fun r s =>
    let s := s.setImage (axisWords r)
    if s.tileUsable (r.key / 8) then
      s.modAxis r.key (fun _ => { st := axIDLE, homed := s.axInitHomed r.key })
    else s) s

/-- DIO_INPUT_TRANSITION: ball `n` takes level `v` at the synchroniser; a chatter report reaches the axes. -/
def execDioInputTransition (n : Nat) (v short : Bool) (lag e : Nat) (s : State) : Out :=
  answer (decide (n < 64)) ((s.atEdge e).dioSeen n v short lag).flushChatter

end Sys2Proof.Machine
end

