-- ==== Sys2Proof/Machine/Safe.lean ====
section
/-! DEFINITION. The safety island (R562 to R591) and its safe-data connections (R528 to R530). Channel 0 is A, 1 is B.
Where the spec can be read in two ways the assumption log says what was read: entries 48, 61, 75, 76 (DEDUCED unless marked there otherwise). -/

namespace Sys2Proof.Machine

def islBOOT : Nat := 0
def islUNCONF : Nat := 1
def islRUN : Nat := 2
def islFAULT : Nat := 3

/-- SAFE.STAT.ISTATE and SFAULT. -/
def State.istate (s : State) : Nat := s.fldOf R.SAFE_STAT 1 0
def State.sfault (s : State) : Bool := s.bitOf R.SAFE_STAT 4
def State.setIstate (s : State) (st : Nat) : State := s.putFld R.SAFE_STAT 1 0 st

/-- Change the island. -/
def State.modSafe (s : State) (f : Safe → Safe) : State := { s with safe := f s.safe }

/-- Island channel `x`. -/
def State.isl (s : State) (x : Nat) : IslCh := s.safe.chans.getD x {}
def State.modIsl (s : State) (x : Nat) (f : IslCh → IslCh) : State :=
  s.modSafe (fun q => { q with chans := modifyAt q.chans x f })

/-- Whether the island is present and usable (R40). -/
def State.hasIsland (s : State) : Bool := s.usableBit unitSafe

/-! The SAFETY record (R583). -/

def inMode (b : List Byte) (i : Nat) : Nat := uAt b (0x10 + 8 * i) 1
def inFilt (b : List Byte) (i : Nat) : Nat := uAt b (0x11 + 8 * i) 1
def inDisc (b : List Byte) (i : Nat) : Nat := uAt b (0x12 + 8 * i) 2
def eqOff (e : Nat) : Nat := 0x90 + 32 * e
def eqOp (b : List Byte) (e : Nat) : Nat := uAt b (eqOff e) 1
def eqN (b : List Byte) (e : Nat) : Nat := uAt b (eqOff e + 1) 1
def eqLatch (b : List Byte) (e : Nat) : Bool := (uAt b (eqOff e + 2) 1).testBit 0
def eqSafen (b : List Byte) (e : Nat) : Bool := (uAt b (eqOff e + 2) 1).testBit 1
def eqHolds (b : List Byte) (e : Nat) : Nat := uAt b (eqOff e + 3) 1
def eqChans (b : List Byte) (e : Nat) : Nat := uAt b (eqOff e + 4) 1
def eqDelay (b : List Byte) (e : Nat) : Nat := uAt b (eqOff e + 6) 2
def eqReset (b : List Byte) (e : Nat) : Nat := uAt b (eqOff e + 8) 2
def eqTerm (b : List Byte) (e i : Nat) : Nat := uAt b (eqOff e + 12 + 2 * i) 2
def chOff (c : Nat) : Nat := 0x290 + 32 * c
def chKind (b : List Byte) (c : Nat) : Nat := uAt b (chOff c) 1
def chTpi (b : List Byte) (c : Nat) : Nat := uAt b (chOff c + 4) 2
def chReq (b : List Byte) (c : Nat) : Nat := uAt b (chOff c + 6) 2
def chAxis (b : List Byte) (c : Nat) : Nat := uAt b (chOff c + 10) 1
def chHtint (b : List Byte) (c : Nat) : Nat := uAt b (chOff c + 12) 2
def chHtgrace (b : List Byte) (c : Nat) : Nat := uAt b (chOff c + 14) 2
def chHtq (b : List Byte) (c : Nat) : F32 := wAt b (chOff c + 16)
def chHtdev (b : List Byte) (c : Nat) : F32 := wAt b (chOff c + 20)
def hgOff (g : Nat) : Nat := 0x390 + 16 * g
def hgMask (b : List Byte) (g : Nat) : Nat := uAt b (hgOff g) 8
def hgLevel (b : List Byte) (g : Nat) : Nat := uAt b (hgOff g + 8) 1
def cnOff (c : Nat) : Nat := 0x3D0 + 32 * c
def cnTx (b : List Byte) (c : Nat) : Bool := (uAt b (cnOff c) 1).testBit 0
def cnRx (b : List Byte) (c : Nat) : Bool := (uAt b (cnOff c) 1).testBit 1
def cnPeer (b : List Byte) (c : Nat) : Nat := uAt b (cnOff c + 4) 4
def cnUid (b : List Byte) (c : Nat) : Nat := uAt b (cnOff c + 8) 8
def cnTxint (b : List Byte) (c : Nat) : Nat := uAt b (cnOff c + 16) 2
def cnWdt (b : List Byte) (c : Nat) : Nat := uAt b (cnOff c + 18) 2

/-- Channel `c` runs a holding test (R580). -/
def chTests (b : List Byte) (c : Nat) : Bool := chKind b c == 2 && chAxis b c != 0xFF

/-! Outputs. -/

/-- Channel `c` is energised: both switches are on (R575). -/
def State.energised (s : State) (c : Nat) : Bool := (s.isl 0).on.testBit c && (s.isl 1).on.testBit c

/-- Forced hold groups that are active, as a mask (R566, R573). -/
def State.holdGroups (s : State) : Nat :=
  let b := s.safe.cfg
  if s.istate = islFAULT then 15
  else if s.istate = islRUN then
    (List.range 32).foldl (fun a i =>
      if (((s.isl (i / 16)).eqs.getD (i % 16) {}).dem) then a ||| eqHolds b (i % 16) else a) 0 % 16
  else 0

/-- The level of a hold group. -/
def levelDrive (n : Nat) : Drive := match n with | 0 => .low | 1 => .high | _ => .hiZ

/-- Show the outputs that follow from the channels: SAFE_N and the balls under forced hold (R574). -/
def State.islShow (s : State) : State :=
  let b := s.safe.cfg
  let s := s.putFld R.SAFE_STAT 3 3 (s.istate == islRUN && (s.isl 0).safen && (s.isl 1).safen).toNat
  let g := s.holdGroups
  s.modDio (fun d => { d with forced := (bitsOf 4 g).flatMap (fun i =>
    (bitsOf 64 (hgMask b i)).map (fun n => (n, levelDrive (hgLevel b i)))) })

/-- Every channel de-energised. -/
def State.islOff (s : State) : State :=
  (s.modIsl 0 (fun c => { c with on := 0, safen := false })).modIsl 1 (fun c => { c with on := 0, safen := false })

/-- Test pulses and holding tests end without a result (R566, R579, R581). -/
def State.islStopTests (s : State) : State :=
  let s := forUpTo 8 (fun c s =>
    if (s.safe.holds.getD c {}).step = 0 then s
    else (s.modAxis (chAxis s.safe.cfg c) (fun x => { x with tq := 0 })).brakeEnd (chAxis s.safe.cfg c)) s
  s.modSafe (fun q =>
    { q with
      pulses := q.pulses.map (fun p => if p.phase = 0 then p else { p with phase := 0, drop := false, last := s.now })
      holds := q.holds.map (fun h => { h with step := 0 }) })

/-- An island fault (R564, R566). -/
def State.islFault (s : State) (cause : Nat) : State :=
  if !s.hasIsland || s.istate = islFAULT then s
  else
    let s := ((s.setIstate islFAULT).putFld R.SAFE_STAT 23 16 cause).putFld R.SAFE_STAT 4 4 1
    let s := s.islOff.islStopTests.islShow.raise 0x7001 noSource 0 0 0 0
    if s.dev = stRUN then { s with power := { s.power with safeDue := 4 } } else s

/-- A channel fault: the channel stays de-energised until the next cold start (R577). -/
def State.chanFault (s : State) (c code : Nat) (commanded bfb : Bool) : State :=
  let off := fun (q : IslCh) => { q with on := q.on &&& (255 - 2 ^ c) }
  let s := ((s.modIsl 0 off).modIsl 1 off).modSafe (fun q => { q with cfault := q.cfault ||| 2 ^ c })
  s.raise code c (BitVec.ofNat 32 c) (b2w commanded) (b2w bfb) s.tickLo

/-! Inputs (R568 to R570). -/

/-- The combination that gives 1, and the one that gives 0. -/
def oneComb (mode : Nat) : Nat := if mode = 1 then 3 else 1
def zeroComb (mode : Nat) : Nat := if mode = 1 then 0 else 2

/-- EV_SAFE_DISCREPANCY of input `i` at a combination. -/
def State.discrepancy (s : State) (i comb : Nat) : State :=
  s.raise 0x7003 i (BitVec.ofNat 32 i) (BitVec.ofNat 32 (comb % 2)) (BitVec.ofNat 32 (comb / 2)) s.tickLo

/-- An input after one more sample of its pair. -/
def IslIn.next (q : IslIn) (mode filt disc now comb : Nat) : IslIn :=
  if mode = 0 then {}
  else
    let n := if q.cnt ≠ 0 ∧ q.cand = comb then min 255 (q.cnt + 1) else 1
    let acc := if filt ≤ n then some comb else q.comb
    let one := acc == some (oneComb mode)
    let zero := acc == some (zeroComb mode)
    let dis := if acc.isNone || one || zero then none else some (q.dis.getD now)
    let past := match dis with | some t => decide (disc * edgesPerMs < now - t) | none => false
    let lock := (q.lock && !zero) || past
    { comb := acc, cand := comb, cnt := n, val := one && !lock, dis := dis, lock := lock }

/-- Channel `x` evaluates input `i`; the first channel to lock it out records that. -/
def State.islInput (s : State) (x i : Nat) : State :=
  let b := s.safe.cfg
  let comb := ((s.isl 0).raw.testBit i).toNat + 2 * ((s.isl 1).raw.testBit i).toNat
  let q := (s.isl x).ins.getD i {}
  let r := q.next (inMode b i) (inFilt b i) (inDisc b i) s.now comb
  let s := s.modIsl x (fun c => { c with ins := modifyAt c.ins i (fun _ => r) })
  if r.lock && !q.lock && !((s.isl (1 - x)).ins.getD i {}).lock then s.discrepancy i (r.comb.getD 0) else s

/-! Equations (R571 to R573). -/

/-- BITS of connection `c` (R582). -/
def State.connBits (s : State) (c : Nat) : Word :=
  let q := s.safe.conns.getD c {}
  if q.st = 1 ∧ (s.dev = stRUN ∨ s.dev = stSAFE) then q.bits else 0

/-- The value of a term for channel `x`. -/
def State.islTerm (s : State) (x t : Nat) : Bool :=
  let i := t % 4096
  let q := s.isl x
  let v := match t / 4096 % 8 with
    | 0 => (q.ins.getD i {}).val
    | 1 => bit (s.connBits (i / 32)) (i % 32)
    | 2 => (s.safe.conns.getD i {}).st == 1
    | 3 => (q.ins.getD i {}).lock
    | 4 => s.safe.cfault.testBit i
    | 5 => s.safe.brkfail.testBit i
    | 6 => s.safe.overdue.testBit i
    | _ => (q.eqs.getD i {}).dem
  v != t.testBit 15

/-- The term values of equation `e` as a mask. -/
def State.eqTerms (s : State) (x e : Nat) : Nat :=
  (List.range (min 8 (eqN s.safe.cfg e))).foldl (fun a i =>
    a + (s.islTerm x (eqTerm s.safe.cfg e i)).toNat * 2 ^ i) 0

/-- Logical states of the inputs of channel `x`. -/
def State.islInputs (s : State) (x : Nat) : Nat :=
  (List.range 16).foldl (fun a i => a + (((s.isl x).ins.getD i {}).val).toNat * 2 ^ i) 0

/-- An equation after an evaluation: its result `r`, its RESET term `v`, at EDGE count `now`. -/
def IslEq.next (q : IslEq) (latch : Bool) (delay now : Nat) (r v : Bool) : IslEq :=
  let fell := match q.rst with
    | some t => !v && decide (50 * edgesPerMs ≤ now - t) && decide (now - t ≤ 3000 * edgesPerMs)
    | none => false
  let held := latch && (r || (q.held && !fell))
  let dem := r || held
  let rise := dem && !q.dem
  let rose := if !dem then none else if rise then some now else q.rose
  let due := if rise then q.due ++ [now + delay * edgesPerMs] else q.due
  let acts := due.any (fun t => decide (t ≤ now)) ||
    (match rose with | some t => decide (t + delay * edgesPerMs ≤ now) | none => false)
  { dem := dem, held := held, rose := rose, due := due.filter (fun t => decide (now < t)), acts := acts,
    rst := if v then some (q.rst.getD now) else none }

/-- Channel `x` evaluates equation `e`; the first channel in which its demand rises records that (R572). -/
def State.islEquation (s : State) (x e : Nat) : State :=
  let b := s.safe.cfg
  let op := eqOp b e
  if op = 0 ∨ 2 < op then s
  else
    let m := s.eqTerms x e
    let n := min 8 (eqN b e)
    let r := if op = 1 then m == 2 ^ n - 1 else m != 0
    let q := (s.isl x).eqs.getD e {}
    let v := eqReset b e != 0xFFFF && s.islTerm x (eqReset b e)
    let p := q.next (eqLatch b e) (eqDelay b e) s.now r v
    let s := s.modIsl x (fun c => { c with eqs := modifyAt c.eqs e (fun _ => p) })
    if p.dem && !q.dem && !((s.isl (1 - x)).eqs.getD e {}).dem then
      s.raise 0x7002 noSource (BitVec.ofNat 32 e) (BitVec.ofNat 32 m) (BitVec.ofNat 32 (s.islInputs x)) s.tickLo
    else s

/-- Whether a demand de-energises channel `c` in island channel `x`. -/
def State.chanActed (s : State) (x c : Nat) : Bool :=
  (List.range 16).any (fun e => (((s.isl x).eqs.getD e {}).acts) && (eqChans s.safe.cfg e).testBit c)

/-- Whether a demand acts on channel `c` in either. -/
def State.chanDemand (s : State) (c : Nat) : Bool := s.chanActed 0 c || s.chanActed 1 c

/-- The command of island channel `x` to channel `c` (R576). -/
def State.chanCommand (s : State) (x c : Nat) : Bool :=
  s.istate == islRUN && chKind s.safe.cfg c != 0 && !s.safe.cfault.testBit c && !s.chanActed x c &&
    (s.safe.holds.getD c {}).step == 0 && s.safe.req.testBit c

/-- A test pulse against demands and release requests (R579). -/
def State.pulseCheck (s : State) (c : Nat) : State :=
  let p := s.safe.pulses.getD c {}
  let set := fun (f : IslPulse → IslPulse) => s.modSafe (fun q => { q with pulses := modifyAt q.pulses c f })
  if p.phase = 1 ∧ (s.chanDemand c ∨ !s.safe.req.testBit c) then set (fun p => { p with drop := true })
  else if p.phase = 2 ∧ (s.chanDemand c ∨ s.safe.req.testBit c) then
    set (fun p => { p with phase := 0, drop := false, last := s.now })
  else s

/-! Holding tests (R580, R581). -/

def State.hold (s : State) (c : Nat) : IslHold := s.safe.holds.getD c {}
def State.modHold (s : State) (c : Nat) (f : IslHold → IslHold) : State :=
  s.modSafe (fun q => { q with holds := modifyAt q.holds c f })

/-- Set or clear a channel's bit in one of the island's masks. -/
def maskPut (m c : Nat) (v : Bool) : Nat := if v then m ||| 2 ^ c else m &&& (255 - 2 ^ c)

/-- The test of channel `c` moves to step 4 (R581). -/
def State.holdLast (s : State) (c : Nat) : State :=
  (s.modHold c (fun h => { h with step := 4 })).modAxis (chAxis s.safe.cfg c) (fun x => { x with tq := 0 })

/-- The record and the registers of a test that ends with a result. -/
def State.holdResult (s : State) (c : Nat) (pass : Bool) : State :=
  let d := (s.hold c).dev
  let s := s.setReg (R.SAFE_HTDEV c) d
  let s := if pass then
      (s.setReg (R.SAFE_HTLAST c) (s.reg R.PWR_OPSEC)).modSafe (fun q =>
        { q with brkfail := maskPut q.brkfail c false, due := maskPut q.due c false, overdue := maskPut q.overdue c false })
    else s.modSafe (fun q => { q with brkfail := maskPut q.brkfail c true })
  s.raise 0x7006 c (BitVec.ofNat 32 c) (Config.brakeResult pass) d s.tickLo

/-- A test is aborted where a demand acts, the axis is OFFLINE or the device is not in RUN (R581). -/
def State.holdAbort (s : State) (c : Nat) : State :=
  let h := s.hold c
  if 1 ≤ h.step ∧ h.step ≤ 3 ∧
      (s.chanDemand c ∨ (s.axis (chAxis s.safe.cfg c)).st = axOFFLINE ∨ s.dev ≠ stRUN ∨ s.warm.phase ≠ .none) then
    s.holdLast c
  else s

/-- The check at an execution of axis `n` (R581). -/
def State.holdCheck (s : State) (n : Nat) : State :=
  forUpTo 8 (fun c s =>
    let h := s.hold c
    if (h.step = 2 ∨ h.step = 3) ∧ chAxis s.safe.cfg c = n then
      let d := fabs (posF (posInt ((s.axis n).act - h.p0)))
      let s := s.modHold c (fun h => { h with dev := fmax2 h.dev d })
      if fle d (chHtdev s.safe.cfg c) then s else (s.holdResult c false).holdLast c
    else s) s

/-- Every test whose axis executes in tick `k`. -/
def State.holdsRun (s : State) (k : Nat) : State :=
  forUpTo 8 (fun c s =>
    let n := chAxis s.safe.cfg c
    if (s.hold c).step ≠ 0 ∧ rateDue (s.reg (R.AXIS_RATE n)) k then s.holdCheck n else s) s

/-! The island cycle (R563). -/

/-- The vectors that the channels compare. -/
def State.islVector (s : State) (x : Nat) : List Bool × Nat × Bool :=
  ((s.isl x).eqs.map (·.dem), (s.isl x).on, (s.isl x).safen)

/-- Channel `x` drives its switches and its SAFE_N command. -/
def State.islDrive (s : State) (x : Nat) : State :=
  let on := maskBits ((List.range 8).filter (fun c => s.chanCommand x c))
  let safen := s.istate == islRUN && !(List.range 16).any (fun e =>
    eqSafen s.safe.cfg e && ((s.isl x).eqs.getD e {}).dem)
  s.modIsl x (fun c => { c with on := on, safen := safen })

/-- RUN with the configuration in `s.safe.cfg`: equations with LATCH 1 start in latched demand (R567). -/
def State.islRun (s : State) : State :=
  let b := s.safe.cfg
  let eqs := (List.range 16).map (fun e =>
    if (eqOp b e = 1 ∨ eqOp b e = 2) ∧ eqLatch b e then
      ({ dem := true, held := true, rose := some s.now } : IslEq) else {})
  let ch : IslCh := { eqs := eqs }
  (s.setIstate islRUN).modSafe (fun q =>
    { q with
      again := false, chans := [{ ch with raw := (s.isl 0).raw }, { ch with raw := (s.isl 1).raw }], differ := 0,
      req := 0, pulses := List.replicate 8 { last := s.now }, holds := List.replicate 8 {},
      conns := List.replicate 8 { since := s.now } })

/-- A failed in-service test of channel `x` (R637): a FAIL record of class 0x7 or 0x8, which an island in FAULT has
behind it. -/
def State.islTestFail (s : State) (x : Nat) (found : TestRec) : State :=
  if s.istate = islFAULT then s
  else s.writeRec { found with kind := 5, verdict := vdFAIL, inst := 0x7000 + 0x1000 * x + found.inst % 4 }

/-- One island cycle of channel `x`: it samples the levels `lv` of its half of the input pairs; `fault` is a cause of R564
that the channel's monitors found in it, 0 for none, and `found` what a failed in-service test found. -/
def State.islCycle (s : State) (x lv fault : Nat) (found : TestRec) : State :=
  if !s.hasIsland || s.istate = islBOOT then s
  else if fault ≠ 0 then (if fault = 3 then s.islTestFail x found else s).islFault fault
  else if s.istate = islUNCONF then (if s.safe.again then s.islRun.islShow else s)
  else
    let s := s.modIsl x (fun c => { c with raw := lv % 65536 })
    let s := forUpTo 16 (fun i s => s.islInput x i) s
    let s := forUpTo 16 (fun e s => s.islEquation x e) s
    let s := forUpTo 8 (fun c s => (s.holdAbort c).pulseCheck c) s
    let s := (s.islDrive x).islShow
    if s.istate ≠ islRUN then s
    else if s.islVector 0 = s.islVector 1 then s.modSafe (fun q => { q with differ := 0 })
    else if 1 ≤ s.safe.differ then s.islFault 1
    else s.modSafe (fun q => { q with differ := q.differ + 1 })

/-- Release requests at a boundary (R576); a hold latch keeps them through a warm restart (R73). -/
def State.islRequests (s : State) : State :=
  if s.warm.phase != .none then s
  else
    s.modSafe (fun q =>
      { q with
        req := maskBits ((List.range 8).filter (fun c =>
          let w := chReq q.cfg c
          let v := (s.slot (w % 8192)).val
          w.testBit 15 && (if fIsNan v then q.req.testBit c else fle 0x3F000000 v))) })

/-! Island states (R565). -/

/-- BOOT POST passed. -/
def State.islBooted (s : State) : State := if s.hasIsland && s.istate = islBOOT then s.setIstate islUNCONF else s

/-- A load accepts an image with this SAFETY section body, empty for none; `same` when its hash is the one in force. -/
def State.islLoad (s : State) (body : List Byte) (same : Bool) : State :=
  if !s.hasIsland || s.istate = islFAULT || (s.istate = islRUN && same) then s
  else
    let was := s.istate
    let s := (s.islOff.islStopTests).modSafe (fun q => { q with cfg := body, again := was == islRUN && !body.isEmpty })
    (if body.isEmpty || was == islRUN then s.setIstate islUNCONF else s.islRun).islShow

/-- The device enters RUN from READY: connections have no pair yet (R582) and stay in FAULT until two pairs have come, and
SFAULT takes effect (R566). -/
def State.islEntered (s : State) : State :=
  let s := s.modSafe (fun q => { q with conns := q.conns.map (fun c =>
    { c with st := if c.st = 2 then 2 else 0, pair := none, copies := [], good := 0, since := s.now }) })
  if s.sfault && s.dev = stRUN then { s with power := { s.power with safeDue := 4 } } else s

/-- A warm restart begins: it aborts the holding tests (R581). -/
def State.islT0 (s : State) : State :=
  forUpTo 8 (fun c s => if 1 ≤ (s.hold c).step ∧ (s.hold c).step ≤ 3 then s.holdLast c else s) s

/-- A cold start: what ENVM holds stays (R565, R585). -/
def Safe.cold (q : Safe) : Safe := { password := q.password, pwCount := q.pwCount, authSeq := q.authSeq }

/-! Test pulses and readback (R577 to R579). -/

/-- A test of channel `c` falls due and begins. -/
def State.pulseStart (s : State) (c : Nat) : State :=
  let p := s.safe.pulses.getD c {}
  if s.istate = islRUN ∧ chKind s.safe.cfg c ≠ 0 ∧ p.phase = 0 ∧ (s.hold c).step = 0 ∧ !s.chanDemand c ∧
      !s.safe.cfault.testBit c ∧ p.last + chTpi s.safe.cfg c * edgesPerMs ≤ s.now then
    s.modSafe (fun q => { q with pulses := modifyAt q.pulses c (fun p =>
      { p with phase := if s.energised c then 1 else 2, n := p.n + 1, drop := false }) })
  else s

/-- The pulse of channel `c` ends with BFB at `bfb`. -/
def State.pulseEnd (s : State) (c : Nat) (bfb : Bool) : State :=
  let p := s.safe.pulses.getD c {}
  if p.phase = 0 then s
  else
    let on := p.phase == 2
    let s := s.modSafe (fun q => { q with pulses := modifyAt q.pulses c (fun p =>
      { p with phase := 0, drop := false, last := s.now }) })
    if p.drop then s
    else if bfb == on then s.bump (R.SAFE_TPCNT c)
    else s.chanFault c 0x7005 on bfb

/-- BFB of channel `c` has differed from the command for longer than FBT. -/
def State.readback (s : State) (c : Nat) (bfb : Bool) : State :=
  if (s.istate = islRUN ∨ s.istate = islFAULT) ∧ chKind s.safe.cfg c ≠ 0 ∧ !s.safe.cfault.testBit c ∧ (s.safe.pulses.getD c {}).phase = 0 ∧
      bfb ≠ s.energised c then
    s.chanFault c 0x7004 (s.energised c) bfb
  else s

/-- The switches of channel `c` that conduct: BHS, BLS. Odd-numbered off-pulses turn BHS off, even-numbered ones BLS. -/
def State.switches (s : State) (c : Nat) : Bool × Bool :=
  let p := s.safe.pulses.getD c {}
  let h := (s.isl 0).on.testBit c
  let l := (s.isl 1).on.testBit c
  if p.phase = 2 then (true, true) else if p.phase = 1 then (h && p.n % 2 == 0, l && p.n % 2 == 1) else (h, l)

/-! Holding tests as commands. -/

/-- Seconds of PWR.OPSEC since the last passed test of channel `c`. -/
def State.sincePass (s : State) (c : Nat) : Nat := (s.reg R.PWR_OPSEC).toNat - (s.reg (R.SAFE_HTLAST c)).toNat

/-- The test becomes DUE (R580). -/
def State.holdDue (s : State) (c : Nat) : State :=
  if s.istate = islRUN ∧ chTests s.safe.cfg c ∧ chHtint s.safe.cfg c * 3600 ≤ s.sincePass c then
    s.modSafe (fun q => { q with due := maskPut q.due c true })
  else s

/-- The test becomes OVERDUE (R580). -/
def State.holdOverdue (s : State) (c : Nat) : State :=
  if s.istate = islRUN ∧ chTests s.safe.cfg c ∧ !s.safe.overdue.testBit c ∧
      (chHtint s.safe.cfg c + chHtgrace s.safe.cfg c) * 3600 ≤ s.sincePass c then
    (s.modSafe (fun q => { q with overdue := maskPut q.overdue c true })).raise 0x7007 c 0 0 0 0
  else s

/-- A due test starts (R580, R581). -/
def State.holdStart (s : State) (c : Nat) : State :=
  let n := chAxis s.safe.cfg c
  if s.istate = islRUN ∧ chTests s.safe.cfg c ∧ s.safe.due.testBit c ∧ (s.hold c).step = 0 ∧ s.dev = stRUN ∧
      s.warm.phase = .none ∧ !s.chanDemand c ∧ (s.axis n).st = axIDLE ∧ (s.safe.pulses.getD c {}).phase = 0 then
    ((s.modHold c (fun _ => { step := 1 })).brakeBegin n).modIsl 0 (fun q => { q with on := q.on &&& (255 - 2 ^ c) })
      |>.modIsl 1 (fun q => { q with on := q.on &&& (255 - 2 ^ c) })
  else s

/-- A step of the test ends (R581). -/
def State.holdStepEnd (s : State) (c : Nat) : State :=
  let b := s.safe.cfg
  let n := chAxis b c
  match (s.hold c).step with
  | 1 => (s.modHold c (fun h => { h with step := 2, p0 := (s.axis n).act })).modAxis n (fun x => { x with tq := chHtq b c })
  | 2 => (s.modHold c (fun h => { h with step := 3 })).modAxis n (fun x => { x with tq := fneg (chHtq b c) })
  | 3 => (s.holdResult c true).holdLast c
  | 4 => (s.modHold c (fun _ => {})).brakeEnd n
  | _ => s

/-- A delay of equation `e` has passed (R573). -/
def State.delayExpiry (s : State) (e : Nat) : State :=
  let m := eqChans s.safe.cfg e
  forUpTo 2 (fun x s =>
    let q := (s.isl x).eqs.getD e {}
    let p := q.next (eqLatch s.safe.cfg e) (eqDelay s.safe.cfg e) s.now q.dem q.rst.isSome
    if p.acts then
      s.modIsl x (fun c => { c with eqs := modifyAt c.eqs e (fun _ => { q with acts := true, due := p.due }),
                                    on := c.on &&& (255 - m) })
    else s) s

/-- The discrepancy timer of input `i` has passed DISC (R570). -/
def State.lockout (s : State) (i : Nat) : State :=
  let b := s.safe.cfg
  let past : IslIn → Bool := fun q => match q.dis with
    | some t => !q.lock && decide (inDisc b i * edgesPerMs < s.now - t)
    | none => false
  let put := fun (q : IslIn) => if past q then { q with lock := true, val := false } else q
  let a := (s.isl 0).ins.getD i {}
  let c := (s.isl 1).ins.getD i {}
  let t := (s.modIsl 0 (fun q => { q with ins := modifyAt q.ins i put })).modIsl 1
    (fun q => { q with ins := modifyAt q.ins i put })
  if (past a || past c) && !a.lock && !c.lock then t.discrepancy i ((if past a then a.comb else c.comb).getD 0) else t

/-! Safe data (R528 to R530, R582). -/

def State.conn (s : State) (c : Nat) : IslConn := s.safe.conns.getD c {}
def State.modConn (s : State) (c : Nat) (f : IslConn → IslConn) : State :=
  s.modSafe (fun q => { q with conns := modifyAt q.conns c f })

/-- DEV.UID as a number. -/
def State.uidLow (s : State) : Nat := (s.reg (R.DEV_UID 0)).toNat + 2 ^ 32 * (s.reg (R.DEV_UID 1)).toNat

/-- Whether connections work: in RUN or SAFE, and not while the ports are silent (R582). -/
def State.connsWork (s : State) : Bool := s.hasIsland && s.running && !s.safe.cfg.isEmpty

/-- The BITS of sent frames (R582). -/
def State.txBits (s : State) : Nat :=
  s.islInputs 0 + 65536 * (List.range 16).foldl (fun a e => a + (!((s.isl 0).eqs.getD e {}).dem).toNat * 2 ^ e) 0

/-- A safety frame's payload (R528). -/
def State.safetyFrame (s : State) (c ssq : Nat) : List Byte :=
  let w := s.txBits
  let h := leBytes 2 0x4453 ++ leBytes 1 1 ++ leBytes 1 c ++ leBytes 4 ssq ++ leBytes 4 w ++ leBytes 4 (2 ^ 32 - 1 - w) ++
    leBytes 8 s.uidLow
  h ++ leBytes 4 (crc32c h) ++ leBytes 4 (crc32iso h)

/-- Connection `c` sends (R528, R582). -/
def State.safetySend (s : State) (c : Nat) : State :=
  if !(s.connsWork && cnTx s.safe.cfg c) || s.runningPorts.isEmpty then s
  else
    let n := ((s.conn c).tx + 1) % 2 ^ 32
    let b := s.safetyFrame c n
    let ip := cnPeer s.safe.cfg c
    forEach s.runningPorts (fun p s => s.emitOn p (.safety p ip b)) (s.modConn c (fun q => { q with tx := n }))

/-- The connection goes to FAULT, recording a change (R582). -/
def State.connFault (s : State) (c cause : Nat) : State :=
  let q := s.conn c
  let s := s.modConn c (fun q => { q with st := 2, good := 0 })
  if q.st = 2 then s
  else s.raise 0x7008 noSource (BitVec.ofNat 32 c) (BitVec.ofNat 32 cause) (BitVec.ofNat 32 (q.pair.getD 0)) s.tickLo

/-- Whether a frame is valid for connection `c` on port `p` (R529). -/
def State.safetyValid (s : State) (c p : Nat) (b : List Byte) : Bool :=
  let h := b.take 24
  let n := uAt b 4 4
  b.length == 32 && uAt b 0 2 == 0x4453 && uAt b 2 1 == 1 && uAt b 16 8 == cnUid s.safe.cfg c &&
    uAt b 12 4 == 2 ^ 32 - 1 - uAt b 8 4 && uAt b 24 4 == crc32c h && uAt b 28 4 == crc32iso h &&
    (match (s.conn c).last.getD p none with
      | none => true
      | some l => let d := (n + 2 ^ 32 - l) % 2 ^ 32
                  decide (1 ≤ d) && decide (d < 2 ^ 31))

/-- A pair is complete: its SSEQ and BITS, and whether the copies agree (R530, R582). -/
def State.safetyPair (s : State) (c n : Nat) (bits : Word) (same : Bool) : State :=
  let s := s.modConn c (fun q =>
    { q with
      pair := some n, since := s.now, bits := bits,
      copies := q.copies.filter (fun x => let d := (x.2.1 + 2 ^ 32 - n) % 2 ^ 32; decide (1 ≤ d) && decide (d < 2 ^ 31)) })
  if !same then (s.bump (R.SAFE_MISMATCH c)).connFault c 0
  else
    let q := s.conn c
    let g := q.good + 1
    (s.bump (R.SAFE_RXOK c)).modConn c (fun q =>
      { q with good := g, st := if q.st = 2 then (if 2 ≤ g then 1 else 2) else 1 })

/-- A safety frame arrives on port `p` (R524, R529): a device without an island discards it (R530). -/
def State.safetyReceive (s : State) (p : Nat) (b : List Byte) : State :=
  let c := uAt b 3 1
  if !s.portRuns p then s
  else
    let s := (s.frameOn p).bump (if s.hasIsland then R.NET_RXCNT p else R.NET_RXDISC p)
    if !(s.connsWork && decide (c < 8) && cnRx s.safe.cfg c) then s
    else if !s.safetyValid c p b then s.bump (R.SAFE_RXERR c)
    else
      let n := uAt b 4 4
      let q := s.conn c
      let s := s.modConn c (fun q => { q with last := modifyAt q.last p (fun _ => some n), copies := q.copies ++ [(p, n, b)] })
      match q.copies.find? (fun x => x.1 != p && x.2.1 == n) with
      | none => s
      | some x => s.safetyPair c n (wAt b 8) (x.2.2 == b)

/-- The watchdog of connection `c` (R530, R582). -/
def State.safetyWatchdog (s : State) (c : Nat) : State :=
  let q := s.conn c
  if s.connsWork && cnRx s.safe.cfg c && q.st != 2 && decide (q.since + cnWdt s.safe.cfg c * edgesPerMs ≤ s.now) then
    (s.bump (R.SAFE_WDCNT c)).connFault c 1
  else s

/-! Registers that show the island (R590, R591): island channel A's view, and channels that both switch on. -/

def bits16 (f : Nat → Bool) : Nat := maskBits ((List.range 16).filter f)

def State.safeInput (s : State) : Word :=
  BitVec.ofNat 32 (s.islInputs 0 + 65536 * bits16 (fun i => ((s.isl 0).ins.getD i {}).lock))

def State.safeRaw (s : State) : Word :=
  let b := fun (k : Nat) => bits16 (fun i => (((s.isl 0).ins.getD i {}).comb.getD 0).testBit k)
  BitVec.ofNat 32 (b 0 + 65536 * b 1)

def State.safeDemand (s : State) : Word :=
  BitVec.ofNat 32 (bits16 (fun e => ((s.isl 0).eqs.getD e {}).dem) + 65536 * bits16 (fun e => ((s.isl 0).eqs.getD e {}).held))

def State.safeChan (s : State) : Word :=
  let q := s.safe
  BitVec.ofNat 32 (((s.isl 0).on &&& (s.isl 1).on) + 256 * q.cfault + 65536 * q.brkfail + 2 ^ 24 * q.overdue)

def State.safeConn (s : State) : Word :=
  let st := fun (v : Nat) => maskBits ((List.range 8).filter (fun c => (s.conn c).st == v))
  BitVec.ofNat 32 (st 1 + 256 * st 2 + 65536 * s.safe.due)

/-! Load (R583, R584). -/

/-- The form of a SAFETY record. -/
def safetyForm (r : Rec) : List Finding :=
  need (r.key == 0) (atOff 10 secSAFETY r.off) ++ need (r.kind == 0) (atOff 10 secSAFETY (r.off + 2)) ++ formLen secSAFETY r 0x4D4

/-- A check of the field at body offset `o`. -/
def safeAt (r : Rec) (step : Nat) (ok : Bool) (o : Nat) : List Finding := need ok (atOff step secSAFETY (r.off + 8 + o))

def within (x lo hi : Nat) : Bool := decide (lo ≤ x) && decide (x ≤ hi)

/-- The failures of a term of equation `e` at offset `o` (R571, R584). A connection that it names stands behind it, and a
connection without RX is charged to its own FLAGS (R711). -/
def termCheck (r : Rec) (e t o : Nat) : List Finding :=
  let b := r.body
  let i := t % 4096
  let kind := t / 4096 % 8
  let conn := if kind = 1 then i / 32 else i
  safeAt r 14 (match kind with
    | 0 | 3 => decide (i < 16) && inMode b i != 0
    | 1 => decide (i < 256)
    | 7 => decide (i < e)
    | _ => decide (i < 8)) o ++
  safeAt r 14 (!(kind == 1 || kind == 2) || decide (8 ≤ conn) || cnRx b conn) (cnOff conn)

/-- The failures of an input entry. -/
def inputCheck (r : Rec) (i : Nat) : List Finding :=
  let b := r.body
  let o := 0x10 + 8 * i
  if inMode b i = 0 then zeroFields 14 secSAFETY r o [1, 1, 2, 4]
  else
    safeAt r 14 (decide (inMode b i ≤ 2)) o ++ safeAt r 14 (decide (1 ≤ inFilt b i)) (o + 1) ++
    safeAt r 14 (within (inDisc b i) 1 1000) (o + 2) ++ zeroField 14 secSAFETY r (o + 4) 4

/-- The failures of an equation entry. Hold groups and channels that it names stand behind it, and a relation with one is
charged there (R711). -/
def equationCheck (r : Rec) (e : Nat) : List Finding :=
  let b := r.body
  let o := eqOff e
  if eqOp b e = 0 then zeroFields 14 secSAFETY r o [1, 1, 1, 1, 1, 1, 2, 2, 2, 2, 2, 2, 2, 2, 2, 2, 2, 4]
  else
    safeAt r 14 (decide (eqOp b e ≤ 2)) o ++ safeAt r 14 (within (eqN b e) 1 8) (o + 1) ++
    safeAt r 14 (decide (uAt b (o + 2) 1 < 4)) (o + 2) ++
    safeAt r 14 (decide (eqHolds b e < 16)) (o + 3) ++
    (bitsOf 4 (eqHolds b e)).flatMap (fun g => safeAt r 14 (hgMask b g != 0) (hgOff g)) ++
    (bitsOf 8 (eqChans b e)).flatMap (fun c => safeAt r 14 (chKind b c != 0) (chOff c)) ++ zeroField 14 secSAFETY r (o + 5) 1 ++
    safeAt r 14 (decide (eqDelay b e ≤ 10000)) (o + 6) ++
    (if eqReset b e = 0xFFFF then safeAt r 14 (!eqLatch b e) (o + 8)
     else safeAt r 14 (decide (eqReset b e < 0x7000)) (o + 8) ++ termCheck r e (eqReset b e) (o + 8)) ++
    zeroField 14 secSAFETY r (o + 10) 2 ++
    (List.range (min 8 (eqN b e))).flatMap (fun i => termCheck r e (eqTerm b e i) (o + 12 + 2 * i)) ++
    zeroField 14 secSAFETY r (o + 28) 4

/-- The failures of a channel entry. -/
def channelCheck (im : Image) (r : Rec) (c : Nat) : List Finding :=
  let b := r.body
  let o := chOff c
  let ax := chAxis b c
  if chKind b c = 0 then zeroFields 14 secSAFETY r o [1, 1, 2, 2, 2, 2, 1, 1, 2, 2, 4, 4, 2, 6]
  else
    safeAt r 14 (decide (chKind b c ≤ 2)) o ++ safeAt r 14 (within (uAt b (o + 1) 1) 10 50) (o + 1) ++
    safeAt r 14 (within (uAt b (o + 2) 2) 50 300) (o + 2) ++ safeAt r 14 (within (chTpi b c) 10 10000) (o + 4) ++
    safeAt r 15 (!(chReq b c).testBit 15 || decide (chReq b c % 32768 ≤ 8191)) (o + 6) ++
    safeAt r 14 (within (uAt b (o + 8) 2) 10 1000) (o + 8) ++ safeAt r 14 (decide (ax ≤ 63) || ax == 0xFF) (o + 10) ++
    zeroField 14 secSAFETY r (o + 11) 1 ++ safeAt r 14 (within (chHtint b c) 1 720) (o + 12) ++
    safeAt r 14 (decide (chHtgrace b c ≤ 168)) (o + 14) ++
    safeAt r 14 (fIsFin (chHtq b c) && !feq (chHtq b c) 0) (o + 16) ++
    safeAt r 14 (fIsFin (chHtdev b c) && flt 0 (chHtdev b c)) (o + 20) ++
    safeAt r 14 (within (uAt b (o + 24) 2) 100 5000) (o + 24) ++ zeroField 14 secSAFETY r (o + 26) 6 ++
    safeAt r 17 (ax == 0xFF || (chKind b c == 2 &&
      (match im.rec? secAXES ax 0 with | some x => fld (wAt x.body 0) 31 30 == 1 | none => false) &&
      !(List.range c).any (fun d => chKind b d != 0 && chAxis b d == ax))) (o + 10)

/-- The failures of a hold-group entry. -/
def holdGroupCheck (im : Image) (r : Rec) (g : Nat) : List Finding :=
  let b := r.body
  let o := hgOff g
  safeAt r 14 (decide (hgLevel b g ≤ 2)) (o + 8) ++ zeroField 14 secSAFETY r (o + 9) 7 ++
  (bitsOf 64 (hgMask b g)).flatMap (fun n =>
    let m := fld (im.reg (R.DIO_MODE n)) 31 28
    safeAt r 17 ((m == dioGPIOOUT || m == dioPWM || m == dioPULSE) &&
      !(List.range g).any (fun h => (hgMask b h).testBit n)) (o + 4 * (n / 32)))

/-- The failures of a connection entry. -/
def connectionCheck (r : Rec) (c : Nat) : List Finding :=
  let b := r.body
  let o := cnOff c
  let used := uAt b o 1 != 0
  safeAt r 14 (decide (uAt b o 1 < 4)) o ++ zeroField 14 secSAFETY r (o + 1) 3 ++
  safeAt r 14 (!used || within (cnTxint b c) 1 1000) (o + 16) ++
  safeAt r 14 (!used || (within (cnWdt b c) 2 10000 && decide (2 * cnTxint b c ≤ cnWdt b c))) (o + 18) ++
  zeroField 14 secSAFETY r (o + 20) 12

/-- The failures of a SAFETY record (R584). -/
def safetyCheck (s : State) (im : Image) (r : Rec) : List Finding :=
  let b := r.body
  need (crc32iso (b.take 0x4D0) == uAt b 0x4D0 4) (atOff 9 secSAFETY (r.off - 16)) ++
  need s.hasIsland ⟨12, r.off, 42, secSAFETY⟩ ++ safeAt r 14 (uAt b 0 2 == 1) 0 ++ zeroField 14 secSAFETY r 2 14 ++
  (List.range 16).flatMap (inputCheck r) ++ (List.range 16).flatMap (equationCheck r) ++
  (List.range 8).flatMap (channelCheck im r) ++ (List.range 4).flatMap (holdGroupCheck im r) ++
  (List.range 8).flatMap (connectionCheck r)

/-! Commands. -/

/-- ISLAND_CYCLE of channel `x` with the levels of its half of the input pairs, a cause its monitors found, and what a failed
in-service test found. -/
def execIslandCycle (x lv fault : Nat) (found : TestRec) (e : Nat) (s : State) : Out :=
  answer (decide (x < 2) && (fault == 0 || fault == 2 || fault == 3 || fault == 5 || fault == 6))
    ((s.atEdge e).islCycle x lv fault found)

/-- SFAULT_RISE: a high SFAULT takes the device from RUN to SAFE at the next boundary (R566). -/
def execSfaultRise (s : State) : Out :=
  .next (if s.sfault && s.dev = stRUN then { s with power := { s.power with safeDue := 4 } } else s)

/-- DISCREPANCY_LOCKOUT of input `i`. -/
def execDiscrepancyLockout (i e : Nat) (s : State) : Out := answer (decide (i < 16)) ((s.atEdge e).lockout i)

/-- DEMAND_DELAY_EXPIRY of equation `q`. -/
def execDemandDelayExpiry (q e : Nat) (s : State) : Out := answer (decide (q < 16)) ((s.atEdge e).delayExpiry q)

/-- READBACK_MISMATCH of channel `c`. -/
def execReadbackMismatch (c : Nat) (bfb : Bool) (e : Nat) (s : State) : Out := answer (decide (c < 8)) ((s.atEdge e).readback c bfb)

/-- SAFE_N_READBACK_FAULT (R564). -/
def execSafeNReadbackFault (e : Nat) (s : State) : Out := .next ((s.atEdge e).islFault 4)

/-- TEST_PULSE_START of channel `c`. -/
def execTestPulseStart (c e : Nat) (s : State) : Out := answer (decide (c < 8)) ((s.atEdge e).pulseStart c)

/-- TEST_PULSE_END of channel `c`, with the level of BFB. -/
def execTestPulseEnd (c : Nat) (bfb : Bool) (e : Nat) (s : State) : Out := answer (decide (c < 8)) ((s.atEdge e).pulseEnd c bfb)

/-- HOLDING_TEST_DUE of channel `c`. -/
def execHoldingTestDue (c : Nat) (s : State) : Out := answer (decide (c < 8)) (s.holdDue c)

/-- HOLDING_TEST_OVERDUE of channel `c`. -/
def execHoldingTestOverdue (c : Nat) (s : State) : Out := answer (decide (c < 8)) (s.holdOverdue c)

/-- HOLDING_TEST_START of channel `c`. -/
def execHoldingTestStart (c : Nat) (s : State) : Out := answer (decide (c < 8)) (s.holdStart c)

/-- HOLDING_TEST_STEP_END of channel `c`. -/
def execHoldingTestStepEnd (c : Nat) (s : State) : Out := answer (decide (c < 8)) (s.holdStepEnd c)

/-- SAFETY_FRAME_SEND of connection `c`. -/
def execSafetyFrameSend (c waitA waitB e : Nat) (s : State) : Out :=
  answer (decide (c < 8)) ((((s.atEdge e).waited 4 waitA).waited 5 waitB).safetySend c)

/-- SAFETY_FRAME_RECEIVE on port `p`. -/
def execSafetyFrameReceive (p : Nat) (b : List Byte) (e : Nat) (s : State) : Out :=
  answer (decide (p < 2)) ((s.atEdge e).safetyReceive p b)

/-- SAFETY_WATCHDOG of connection `c`. -/
def execSafetyWatchdog (c e : Nat) (s : State) : Out := answer (decide (c < 8)) ((s.atEdge e).safetyWatchdog c)

end Sys2Proof.Machine
end

