-- ==== Sys2Proof/Machine/Letter.lean ====
section
/-! DEFINITION. What a sealed letter says: its bytes (R126), its TLV records (R127), its catalogue row (R137) and the
body rules of each type (R138 and the chapters that R137 names).
Where the spec can be read in two ways the assumption log says what was read: entries 25 (DEDUCED unless marked there otherwise). -/

namespace Sys2Proof.Machine

/-! Bytes (R126, R128). -/

def letterHeader : Nat := 88
def letterSig : Nat := 64

/-- The letter that an arrived datagram's bytes spell. -/
def letterOf (org : Origin) (b : List Byte) : Letter :=
  let n := uAt b 8 4
  { org := org, version := uAt b 0 2, keyslot := uAt b 2 1, role := uAt b 3 1, typ := uAt b 4 2, seq := uAt b 0x10 8,
    uid := slice b 0x18 16, notBefore := uAt b 0x28 8, notAfter := uAt b 0x30 8, pubkey := slice b 0x38 32,
    body := slice b letterHeader n, sig := slice b (letterHeader + n) letterSig }

/-- Header and body of a letter whose reserved bytes are 0. -/
def signedBytes (l : Letter) : List Byte :=
  leBytes 2 l.version ++ leBytes 1 l.keyslot ++ leBytes 1 l.role ++ leBytes 2 l.typ ++ leBytes 2 0 ++
    leBytes 4 l.body.length ++ leBytes 4 0 ++ leBytes 8 l.seq ++ l.uid ++ leBytes 8 l.notBefore ++
    leBytes 8 l.notAfter ++ l.pubkey ++ l.body

/-- M of R128: "YCPLTR01", header and body. -/
def sealedMessage (l : Letter) : List Byte :=
  [0x59, 0x43, 0x50, 0x4C, 0x54, 0x52, 0x30, 0x31].map (BitVec.ofNat 8) ++ signedBytes l

/-- Two copies are the same letter (R522). -/
def sameLetter (a b : Letter) : Bool := a.keyslot == b.keyslot && a.seq == b.seq && a.sig == b.sig

/-! The catalogue (R137). -/

def ltSTART : Nat := 0x0101
def ltRUN : Nat := 0x0102
def ltHOLD : Nat := 0x0103
def ltRESUME : Nat := 0x0104
def ltABORT : Nat := 0x0105
def ltPARAMSET : Nat := 0x0106
def ltSNAPPOLICY : Nat := 0x0107
def ltCELLMODE : Nat := 0x0108
def ltMOVE : Nat := 0x0109
def ltHOME : Nat := 0x010A
def ltCALIBRATE : Nat := 0x0201
def ltCLEARLOG : Nat := 0x0202
def ltSTORE : Nat := 0x0203
def ltRELOAD : Nat := 0x0204
def ltCLEARSAFE : Nat := 0x0205
def ltSLEEP : Nat := 0x0206
def ltTIMERESTEP : Nat := 0x0207
def ltREGWRITE : Nat := 0x0208
def ltSAFEAUTH : Nat := 0x0301
def ltLIFECYCLE : Nat := 0x0401
def ltKEYSET : Nat := 0x0402
def ltKEYREVOKE : Nat := 0x0403
def ltBIST : Nat := 0x0404
def ltFUSE : Nat := 0x0405
def ltPWRSTAGE : Nat := 0x0406

def roleOPERATE : Nat := 1
def roleMAINTAIN : Nat := 2
def roleSAFETY : Nat := 3
def rolePROVISION : Nat := 4

/-- The role of a type. -/
def letterRole (typ : Nat) : Option Nat :=
  if ltSTART ≤ typ ∧ typ ≤ ltHOME then some roleOPERATE
  else if ltCALIBRATE ≤ typ ∧ typ ≤ ltREGWRITE then some roleMAINTAIN
  else if typ = ltSAFEAUTH then some roleSAFETY
  else if ltLIFECYCLE ≤ typ ∧ typ ≤ ltPWRSTAGE then some rolePROVISION
  else none

/-- The device states in which a type takes effect. -/
def letterStates (typ : Nat) : List Nat :=
  if typ = ltSTART then [stREADY]
  else if typ = ltABORT then [stRUN, stSAFE]
  else if typ = ltSNAPPOLICY then [stREADY, stRUN, stSAFE]
  else if typ < ltCALIBRATE then [stRUN]
  else if typ = ltCALIBRATE then [stREADY, stSAFE]
  else if typ = ltCLEARSAFE then [stSAFE]
  else if typ = ltSLEEP then [stREADY, stSAFE, stHALT]
  else if typ < ltLIFECYCLE then [stREADY, stRUN, stSAFE, stHALT]
  else [stREADY, stHALT]

/-! TLV records (R127). -/

/-- A record: its tag, its body offset and its value. -/
structure Tlv where
  tag : Nat
  off : Nat
  val : List Byte
  deriving DecidableEq, Repr

def Tlv.u (t : Tlv) : Nat := leNat t.val

/-- The records from offset `o`, and the offset of one that does not fit the body or whose padding is not 0. -/
def scanTlvs (b : List Byte) : Nat → Nat → List Tlv × Option Nat
  | 0, _ => ([], none)
  | n + 1, o =>
    if b.length ≤ o then ([], none)
    else
      let len := uAt b (o + 2) 2
      let stop := o + 4 + (len + 3) / 4 * 4
      if b.length < o + 4 ∨ b.length < stop ∨ (slice b (o + 4 + len) (stop - (o + 4 + len))).any (fun x => x != 0) then
        ([], some o)
      else
        let x := scanTlvs b n stop
        (⟨uAt b o 2, o, slice b (o + 4) len⟩ :: x.1, x.2)

/-- The records of a body. -/
def tlvsOf (b : List Byte) : List Tlv × Option Nat := scanTlvs b (b.length / 4 + 1) 0

/-- A place in a type's tag table: the tag, whether it is required, and its LEN and range. -/
structure TagSpec where
  tag : Nat
  req : Bool
  ok : List Byte → Bool

/-- Take one group in table order: its records, the rest, and the offset of a record that breaks the table. -/
def takeGroup (stop : Nat) : List TagSpec → List Tlv → List Tlv × List Tlv × Option Nat
  | [], ts => ([], ts, none)
  | sp :: r, [] => if sp.req then ([], [], some stop) else takeGroup stop r []
  | sp :: r, t :: ts =>
    if t.tag = sp.tag then
      if sp.ok t.val then
        let x := takeGroup stop r ts
        (t :: x.1, x.2)
      else ([], ts, some t.off)
    else if sp.req then ([], t :: ts, some t.off)
    else takeGroup stop r (t :: ts)

/-- Take up to `n` groups; whatever is left over offends. -/
def takeGroups (stop : Nat) (sp : List TagSpec) : Nat → List Tlv → List (List Tlv) × Option Nat
  | _, [] => ([], none)
  | 0, t :: _ => ([], some t.off)
  | n + 1, t :: ts =>
    let g := takeGroup stop sp (t :: ts)
    match g.2.2 with
    | some o => ([g.1], some o)
    | none =>
      if g.1 = [] then ([], some t.off)
      else
        let x := takeGroups stop sp n g.2.1
        (g.1 :: x.1, x.2)

/-- A body read by a table of up to `n` groups: the groups, and the offsets at which its form breaks. -/
def readBody (sp : List TagSpec) (n : Nat) (b : List Byte) : List (List Tlv) × List Nat :=
  let x := tlvsOf b
  let stop := x.2.getD b.length
  let g := takeGroups stop sp n x.1
  let missing := if x.1 = [] ∧ sp.any (fun t => t.req) then [stop] else []
  (g.1, x.2.toList ++ g.2.toList ++ missing)

/-- The record of a tag in a group. -/
def tagIn (g : List Tlv) (t : Nat) : Option Tlv := g.find? (fun x => x.tag == t)

/-- The value of a tag in a group, 0 where it is absent. -/
def tagNat (g : List Tlv) (t : Nat) : Nat := match tagIn g t with | some x => x.u | none => 0

/-- The offset of a tag's record if `bad` holds of its value. -/
def tagBad (g : List Tlv) (t : Nat) (bad : Tlv → Bool) : List Nat :=
  match tagIn g t with
  | some x => if bad x then [x.off] else []
  | none => []

/-- The offsets of keys that stand earlier in the list too. -/
def repeats : List (Nat × Nat) → List Nat
  | [] => []
  | (k, _) :: r => (r.filter (fun x => x.1 == k)).map (·.2) ++ repeats r

/-- Offsets of a tag whose value repeats that of an earlier group. -/
def groupRepeats (l : List (List Tlv)) (t : Nat) : List Nat :=
  repeats (l.filterMap (fun g => (tagIn g t).map (fun x => (x.u, x.off))))

/-- A value of 4 bytes with a property. -/
def is4 (p : Nat → Bool) (v : List Byte) : Bool := v.length == 4 && p (leNat v)

def atMost (n : Nat) (v : Nat) : Bool := decide (v ≤ n)

/-- A value of 8 × m bytes, m from 1 to `n`. -/
def isPairs (n : Nat) (v : List Byte) : Bool := v.length % 8 == 0 && decide (8 ≤ v.length) && decide (v.length ≤ 8 * n)

/-- The pairs of words in a value. -/
def pairsOf (v : List Byte) : List (Nat × Word) :=
  (List.range (v.length / 8)).map (fun i => (uAt v (8 * i) 4, wAt v (8 * i + 4)))

/-! Tag tables. -/

/-- The tag table of a type and the largest number of groups; a type without a body has none. -/
def letterTags (typ : Nat) : List TagSpec × Nat :=
  if typ = ltRUN then
    ([⟨1, true, is4 (atMost 7)⟩, ⟨2, true, is4 (atMost 1023)⟩, ⟨3, false, isPairs 16⟩], 8)
  else if typ = ltPARAMSET then ([⟨1, true, is4 (atMost 7)⟩, ⟨3, true, isPairs 16⟩], 8)
  else if typ = ltHOLD ∨ typ = ltRESUME ∨ typ = ltABORT then ([⟨1, true, is4 (fun v => decide (1 ≤ v) && decide (v ≤ 255))⟩], 1)
  else if typ = ltSNAPPOLICY then
    ([⟨1, true, is4 (fun v => v != 1 && decide (v < 2 ^ 24))⟩, ⟨2, false, is4 (fun _ => true)⟩], 1)
  else if typ = ltCELLMODE then
    ([⟨1, true, is4 (atMost 511)⟩, ⟨2, true, is4 (atMost 4)⟩, ⟨3, false, fun v => v.length == 16⟩], 32)
  else if typ = ltMOVE then
    ([⟨1, true, is4 (atMost 63)⟩, ⟨2, false, fun v => v.length == 8⟩, ⟨3, false, is4 (atMost 15)⟩,
      ⟨4, false, is4 (fun _ => true)⟩, ⟨5, false, is4 (fun _ => true)⟩], 16)
  else if typ = ltHOME then ([⟨1, true, is4 (atMost 63)⟩], 16)
  else if typ = ltCALIBRATE then ([⟨1, true, is4 (fun _ => true)⟩, ⟨2, true, fun v => v.length == 8⟩], 64)
  else if typ = ltCLEARLOG then ([⟨1, true, is4 (fun v => decide (v < 2 ^ 24))⟩], 1)
  else if typ = ltSTORE then
    ([⟨1, true, is4 (fun v => decide (v % 256 ≤ 1) && decide (v / 256 ≤ 2))⟩, ⟨2, true, is4 (fun _ => true)⟩,
      ⟨3, false, fun v => v.length % 256 == 0 && decide (256 ≤ v.length) && decide (v.length ≤ 1024)⟩], 1)
  else if typ = ltTIMERESTEP then
    ([⟨1, false, fun v => v.length == 12 && decide (uAt v 0 8 < 2 ^ 48) && decide (uAt v 8 4 < nsPerSec)⟩,
      ⟨2, false, is4 (fun v => decide (-1000 ≤ signedOf 32 v) && decide (signedOf 32 v ≤ 1000))⟩], 1)
  else if typ = ltREGWRITE then ([⟨1, true, isPairs 32⟩], 1)
  else if typ = ltSAFEAUTH then
    let pw := fun (v : List Byte) => decide (8 ≤ v.length) && decide (v.length ≤ 64) &&
      v.all (fun b => decide (0x20 ≤ b.toNat) && decide (b.toNat ≤ 0x7E))
    ([⟨1, false, fun v => v.length == 64⟩, ⟨2, false, pw⟩, ⟨3, false, pw⟩], 1)
  else if typ = ltLIFECYCLE then ([⟨1, true, is4 (atMost 4)⟩], 1)
  else if typ = ltKEYSET then
    ([⟨1, true, is4 (atMost 3)⟩, ⟨2, true, is4 (fun v => decide (1 ≤ v) && decide (v ≤ 15))⟩,
      ⟨3, true, fun v => v.length == 32⟩], 1)
  else if typ = ltKEYREVOKE then ([⟨1, true, is4 (atMost 3)⟩], 1)
  else if typ = ltBIST then ([⟨1, true, is4 (fun v => decide (1 ≤ v) && decide (v ≤ 63))⟩], 1)
  else if typ = ltFUSE then ([⟨1, true, fun v => v.length == 8⟩], 32)
  else if typ = ltPWRSTAGE then
    ([⟨1, true, is4 (fun v => decide (v % 32 ≤ 24) && BitVec.ofNat 32 v &&& ~~~(0x00FF011F : Word) == 0)⟩], 1)
  else ([], 0)

/-- The groups of a letter's body and the offsets at which its form breaks. -/
def letterBody (l : Letter) : List (List Tlv) × List Nat :=
  let t := letterTags l.typ
  if t.2 = 0 then ([], if l.body.length = 0 then [] else [0]) else readBody t.1 t.2 l.body

/-- The value of a body's first record with a tag, whatever the form of the others. -/
def bodyTag (l : Letter) (t : Nat) : Option (List Byte) := ((tlvsOf l.body).1.find? (fun x => x.tag == t)).map (·.val)

/-- A KEYSET letter for slot 0 (R121, R123). -/
def keysetZero (l : Letter) : Bool := l.typ == ltKEYSET && bodyTag l 1 == some (leBytes 4 0)

/-- The first group of a body. -/
def bodyGroup (l : Letter) : List Tlv := (letterBody l).1.headD []

/-! Values and bounds (step 8 of R133). -/

/-- The local engines whose TRIGGER conditions a recipe has (R237, R249). -/
def recEngines (r : Rec) : List Nat :=
  ((walkSteps r.body (min 4096 (recSteps r)) 32).1.flatMap (fun o =>
    ((stepAt r.body o).used.filter (fun x => x.1.kind == 1)).map (fun x => x.1.source / 8))).eraseDups

/-- Whether parameter pairs break R249: an INDEX of 16 or more or one repeated; for a recipe, one at or above NPARAM or a
value outside its bounds. -/
def Image.paramsBad (im : Image) (recipe : Option Rec) (ps : List (Nat × Word)) : Bool :=
  ps.any (fun p => decide (16 ≤ p.1)) || (repeats (ps.map (fun p => (p.1, 0)))) != [] ||
    match recipe with
    | none => false
    | some r => ps.any (fun p => decide (recNparam r ≤ p.1) ||
        match im.param? r.key p.1 with | some d => !d.inBounds p.2 | none => true)

/-- The recipe that a lane runs, if it is in RUN or HOLD (R249). -/
def State.laneRecipe? (s : State) (t : Nat) : Option Rec :=
  let st := (s.lane t).state
  if (st = lnRUN ∨ st = lnHOLD) ∧ s.tileUsable t then s.image.rec? secRECIPES (s.lane t).recipe 0 else none

/-- The offending offsets of a RUN group. -/
def State.runBad (s : State) (g : List Tlv) : List Nat :=
  match tagIn g 2 with
  | none => []
  | some r =>
    match s.image.rec? secRECIPES r.u 0 with
    | none => [r.off]
    | some q =>
      (if (recEngines q).any (fun e => !s.image.has secCAPTURE (4 * tagNat g 1 + e) 0) then [r.off] else []) ++
        tagBad g 3 (fun x => s.image.paramsBad (some q) (pairsOf x.val))

/-- The offending offsets of a CELLMODE group (R179). -/
def State.cellmodeBad (s : State) (g : List Tlv) : List Nat :=
  let n := tagNat g 1
  let en := fun (a : Nat) => s.bitOf a 31
  let here := s.tileUsable (n / 64)
  tagBad g 1 (fun _ => here && !s.cellConfigured n) ++
    tagBad g 2 (fun x => here && s.cellConfigured n &&
      ((x.u == modeCASCADE && !en (R.CELL_CASC n)) || (x.u == modeTRACK && !en (R.CELL_TRK n)) ||
        (x.u == modeAUTO && !en (R.CELL_SP n)))) ++
    tagBad g 3 (fun x => (tagNat g 2 != modeMANUAL) || (wordsOf x.val).any fIsNan)

/-- Flags of a MOVE group (R426). -/
def moveSTOP (g : List Tlv) : Bool := (tagNat g 3).testBit 3

/-- The offending offsets of a MOVE group that ends before offset `stop` (R426, R428). -/
def State.moveBad (s : State) (g : List Tlv) (stop : Nat) : List Nat :=
  let n := tagNat g 1
  let here := s.tileUsable (n / 8)
  tagBad g 1 (fun _ => here && !s.axisConf n) ++ tagBad g 2 (fun _ => moveSTOP g) ++
    (if moveSTOP g || (tagIn g 2).isSome then [] else [((g.drop 1).head?.map (·.off)).getD stop]) ++
    tagBad g 4 (fun x => here && s.axisConf n &&
      !(flt 0 (BitVec.ofNat 32 x.u) && fle (BitVec.ofNat 32 x.u) (s.reg (R.AXIS_VMAX n))))

/-- Where each group of a body ends: the offset of the next one's first record, or the end of the body. -/
def groupEnds (stop : Nat) : List (List Tlv) → List Nat
  | [] => []
  | _ :: r => ((r.head?.bind (·.head?)).map (·.off)).getD stop :: groupEnds stop r

/-- An item of a CALIBRATE group (R369). -/
def calItemOf (g : List Tlv) : CalItem :=
  let v := match tagIn g 2 with | some x => x.val | none => []
  ⟨BitVec.ofNat 32 (tagNat g 1), wAt v 0, wAt v 4⟩

/-- STORE's operation: 0 BEGIN, 1 DATA, 2 FINISH. -/
def storeOp (g : List Tlv) : Nat := tagNat g 1 / 256

/-- The flash slot size (R83). -/
def State.slotSize (s : State) : Nat := min (s.flash.density / 2) 0x4000000

/-- The offending offsets of a STORE body (R138, R140). -/
def State.storeBad (s : State) (g : List Tlv) (stop : Nat) : List Nat :=
  let op := storeOp g
  let off := tagNat g 2
  let n := match tagIn g 3 with | some x => x.val.length | none => 0
  if op = 0 then tagBad g 3 (fun _ => true)
  else
    (if (tagIn g 3).isNone then [stop] else []) ++
      (if op = 1 then tagBad g 2 (fun _ => off % 256 != 0 || decide (off < 256) || decide (s.slotSize < off + n))
       else tagBad g 2 (fun _ => off != 0) ++ tagBad g 3 (fun _ => n != 256))

/-- SHA-512 of SALT and password (R585). -/
def passwordHash (salt pw : List Byte) : List Byte := sha512 (salt ++ pw)

/-- Tag 0x0002 of a SAFEAUTH letter is a password that does not match the stored one (R587). -/
def State.passwordWrong (s : State) (g : List Tlv) : Bool :=
  match tagIn g 2, s.safe.password with
  | some x, some p => passwordHash p.2 x.val != p.1
  | _, _ => false

/-- The offending offsets of a SAFEAUTH body (R586, R587). -/
def State.safeauthBad (s : State) (g : List Tlv) (stop : Nat) : List Nat :=
  (if (tagIn g 1).isNone && (tagIn g 3).isNone then [0] else []) ++
    (match s.safe.password with
     | none => tagBad g 2 (fun _ => true)
     | some _ =>
       if (tagIn g 2).isNone then [((tagIn g 3).map (·.off)).getD stop] else tagBad g 2 (fun _ => s.passwordWrong g))

/-- The next state of the lifecycle, or ENDED (R119). -/
def State.lifeMoveOk (s : State) (target : Nat) : Bool := target != s.life && (target == s.life + 1 || target == 4)

/-- A key slot that verifies (R124). -/
def State.keySlot (s : State) (n : Nat) : KeySlot := s.letters.keys.getD n {}

/-- A slot that is programmed, not revoked and enabled for PROVISION. -/
def KeySlot.provisions (k : KeySlot) : Bool := k.programmed && !k.revoked && k.mask.testBit 3

/-- Some slot other than `n` can still provision (R125). -/
def State.provisionLeft (s : State) (n : Nat) : Bool :=
  (List.range 4).any (fun i => i != n && (s.keySlot i).provisions)

/-- The repairs of a FUSE body. -/
def repairsOf (l : Letter) : List Repair := ((letterBody l).1.filterMap (tagIn · 1)).map (fun t => repairAt t.val)

/-- A REGWRITE value that gives ADC.CHSEL an input or gain that R345 does not allow (R359). -/
def State.chselBad (s : State) (a : Nat) (w : Word) : Bool :=
  s.singleSelect && (List.range 16).any (fun c => a == R.ADC_CHSEL c) && !adcSelOk w

/-- The offending offsets of a letter's body: form, values and bounds (R127, step 8 of R133). A second PWRSTAGE is refused
here, with BOUNDS: R48 gives the record one programming and no code (DESIGN CHOICE, log 24). -/
def State.bodyBad (s : State) (l : Letter) : List Nat :=
  let x := letterBody l
  let gs := x.1
  let g := gs.headD []
  let stop := ((tlvsOf l.body).2).getD l.body.length
  x.2 ++
    (if l.typ = ltRUN then groupRepeats gs 1 ++ gs.flatMap s.runBad
     else if l.typ = ltPARAMSET then
       groupRepeats gs 1 ++
         gs.flatMap (fun g => tagBad g 3 (fun t => s.image.paramsBad (s.laneRecipe? (tagNat g 1)) (pairsOf t.val)))
     else if l.typ = ltSNAPPOLICY then tagBad g 2 (fun t => decide (max 1 (tagNat g 1) ≤ t.u))
     else if l.typ = ltCELLMODE then groupRepeats gs 1 ++ gs.flatMap s.cellmodeBad
     else if l.typ = ltMOVE then (gs.zip (groupEnds stop gs)).flatMap (fun (g, o) => if x.2.contains o then [] else s.moveBad g o)
     else if l.typ = ltHOME then
       groupRepeats gs 1 ++ gs.flatMap (fun g => tagBad g 1 (fun t => s.tileUsable (t.u / 8) && !s.axisConf t.u))
     else if l.typ = ltCALIBRATE then
       groupRepeats gs 1 ++ gs.flatMap (fun g =>
         tagBad g 1 (fun _ => !(calItemOf g).known) ++
           tagBad g 2 (fun _ => (calItemOf g).known && !(calItemOf g).inBounds))
     else if l.typ = ltSTORE then (if x.2 = [] then s.storeBad g stop else [])
     else if l.typ = ltREGWRITE then tagBad g 1 (fun t => (pairsOf t.val).any (fun p => !s.regLetter p.1 || s.chselBad p.1 p.2))
     else if l.typ = ltSAFEAUTH then s.safeauthBad g stop
     else if l.typ = ltLIFECYCLE then tagBad g 1 (fun t => !s.lifeMoveOk t.u)
     else if l.typ = ltKEYSET then tagBad g 1 (fun t => (s.keySlot t.u).programmed)
     else if l.typ = ltKEYREVOKE then tagBad g 1 (fun t => !s.provisionLeft t.u)
     else if l.typ = ltFUSE then
       gs.flatMap (fun g => tagBad g 1 (fun t => !s.repairOk (repairAt t.val))) ++
         repeats (gs.filterMap (fun g => (tagIn g 1).map (fun t => (uAt t.val 0 4, t.off))))
     else if l.typ = ltPWRSTAGE then tagBad g 1 (fun _ => s.power.record.isSome)
     else [])

/-! Instances (step 9 of R133, R43). -/

/-- The unit bits that make a letter's named instances unusable, in body order. -/
def State.letterAbsent (s : State) (l : Letter) : List Nat :=
  let gs := (letterBody l).1
  let unusable := fun (u : Nat) => if s.usableBit u then [] else [u]
  if l.typ = ltRUN ∨ l.typ = ltPARAMSET then gs.flatMap (fun g => unusable (unitTile (tagNat g 1)))
  else if l.typ = ltHOLD ∨ l.typ = ltRESUME ∨ l.typ = ltABORT then
    (bitsOf 8 (tagNat (bodyGroup l) 1)).flatMap (fun t => unusable (unitTile t))
  else if l.typ = ltCELLMODE then gs.flatMap (fun g => unusable (unitTile (tagNat g 1 / 64)))
  else if l.typ = ltMOVE ∨ l.typ = ltHOME then
    gs.flatMap (fun g =>
      let n := tagNat g 1
      if s.usableBit (unitTile (n / 8)) && (s.axis n).st != axOFFLINE then [] else [unitTile (n / 8)])
  else if l.typ = ltCALIBRATE then gs.flatMap (fun g => unusable (calItemOf g).unit)
  else if l.typ = ltREGWRITE then
    match tagIn (bodyGroup l) 1 with
    | some t => (pairsOf t.val).flatMap (fun p => (s.regUnusable p.1).toList)
    | none => []
  else []

/-! Lifecycle (step 7 of R133, R121, R122). -/

/-- Whether the lifecycle permits a letter. -/
def State.lifePermits (s : State) (l : Letter) : Bool :=
  let g := bodyGroup l
  let target := tagIn g 1
  (match letterRole l.typ with
   | some 4 =>
     match s.life with
     | 0 => l.typ == ltLIFECYCLE || keysetZero l
     | 1 => true
     | 2 => l.typ == ltLIFECYCLE || l.typ == ltKEYSET || l.typ == ltKEYREVOKE
     | 3 => l.typ != ltPWRSTAGE
     | _ => false
   | _ => decide (1 ≤ s.life) && decide (s.life ≤ 3)) &&
  (l.typ != ltLIFECYCLE ||
    match target with
    | none => true
    | some t =>
      (!(s.life == 0 && t.u == 1) || (s.keySlot 0).provisions) && (!(s.life == 1 && t.u == 2) || s.power.record.isSome))

end Sys2Proof.Machine
end

