-- ==== Sys2Proof/Machine/Seal.lean ====
section
/-! DEFINITION. The command queue, the verifier, the standby comparison and the counter writes (R129 to R136, R142,
R522, R523). What a letter does at its commit stands in Machine/Commit.lean.
Where the spec can be read in two ways the assumption log says what was read: entries 23, 46 (DEDUCED unless marked there otherwise). -/

namespace Sys2Proof.Machine

/-! Paths (R519, R535). -/

def pathSILENT : Nat := 0
def pathALIVE : Nat := 1
def pathLOST : Nat := 2
def pathOFF : Nat := 3

/-- The state of path `p`. -/
def State.path (s : State) (p : Nat) : Nat := s.fldOf R.BATON_STAT (3 + 2 * p) (2 + 2 * p)

/-- Whether letters are compared with a standby copy: the baton exists and the standby path is ALIVE (R521, R523). -/
def State.standbyAlive (s : State) : Bool := s.hasBaton && s.path (1 - s.holder) == pathALIVE

/-! Refusal codes (R136). -/

def rfNOSEAL : Nat := 1
def rfBADSEAL : Nat := 2
def rfREPLAY : Nat := 3
def rfWRONGDEV : Nat := 4
def rfEXPIRED : Nat := 5
def rfROLE : Nat := 6
def rfBOUNDS : Nat := 7
def rfBUSY : Nat := 8
def rfABSENT : Nat := 9
def rfSTATE : Nat := 10

/-- Change keys, counters and letters. -/
def State.modSeal (s : State) (f : Seal → Seal) : State := { s with letters := f s.letters }

/-! Replies and refusals (R135, R142). -/

/-- What is read of a letter for its reply: KEYSLOT, TYPE and SEQ. -/
structure LetterId where
  keyslot : Nat
  typ : Nat
  seq : Nat
  deriving DecidableEq, Repr

def letterId (l : Letter) : LetterId := ⟨l.keyslot, l.typ, l.seq⟩

/-- A LETTER_REPLY (R142). -/
def State.letterReply (s : State) (o : Origin) (result detail : Nat) (x : LetterId) : State :=
  s.reply o 4 (leBytes 1 result ++ leBytes 1 x.keyslot ++ leBytes 2 x.typ ++ leBytes 4 detail ++ leBytes 8 x.seq ++
    leBytes 8 s.tick)

/-- SEAL.LAST (R145). -/
def State.noteLast (s : State) (x : LetterId) (result : Nat) : State :=
  s.setReg R.SEAL_LAST (BitVec.ofNat 32 (x.typ % 65536 * 65536 + x.keyslot % 256 * 256 + result))

/-- EV_SEAL_REFUSED (R135). -/
def State.refusalEvent (s : State) (code typ keyslot seq count : Nat) : State :=
  s.raise 0x3001 noSource (BitVec.ofNat 32 code) (BitVec.ofNat 32 (typ * 256 + keyslot)) (BitVec.ofNat 32 seq)
    (satWord count)

/-- A refusal in the run of its code and port (R135). -/
def State.refusalRun (s : State) (code port : Nat) (x : LetterId) : State :=
  let mine := fun (r : RefusalRun) => r.code == code && r.port == port
  if s.letters.runs.any mine then
    s.modSeal (fun q => { q with runs := q.runs.map (fun r =>
      if mine r then
        (if r.joined = 0 then { r with typ := x.typ, keyslot := x.keyslot, seq := x.seq, joined := 1 }
         else { r with joined := r.joined + 1 })
      else r) })
  else
    (s.refusalEvent code x.typ x.keyslot x.seq 1).modSeal (fun q =>
      { q with runs := q.runs ++ [⟨code, port, x.typ, x.keyslot, x.seq, 0⟩] })

/-- A run closes 1 s after its latest refusal (R135). -/
def State.runClose (s : State) (code port : Nat) : State :=
  let mine := fun (r : RefusalRun) => r.code == code && r.port == port
  match s.letters.runs.find? mine with
  | none => s
  | some r =>
    let s := s.modSeal (fun q => { q with runs := q.runs.filter (fun x => !mine x) })
    if r.joined = 0 then s else s.refusalEvent code r.typ r.keyslot r.seq r.joined

/-- A letter is refused (R133, R135, R142, R145). -/
def State.refuse (s : State) (o : Origin) (code detail : Nat) (x : LetterId) : State :=
  (((s.bump R.SEAL_REFCNT).noteLast x code).refusalRun code o.port x).letterReply o code detail x

/-! Arrival (R132). -/

/-- Letters accepted and not yet committed or refused: SEAL.QDEPTH. -/
def State.queueDepth (s : State) : Nat :=
  s.letters.queue.length + s.letters.awaiting.length + s.letters.writing.length + s.letters.waiting.length

/-- What is readable of a letter of any length: KEYSLOT, else 0xFF; TYPE and SEQ, else 0 (R142). -/
def readableId (b : List Byte) : LetterId :=
  ⟨if 3 ≤ b.length then uAt b 2 1 else 0xFF, if 6 ≤ b.length then uAt b 4 2 else 0, if 24 ≤ b.length then uAt b 16 8 else 0⟩

/-- The first check that a letter's form fails on arrival. -/
def formRefusal (b : List Byte) : Option Nat :=
  if b.length < letterHeader + letterSig then some rfNOSEAL
  else if uAt b 0 2 ≠ 1 ∨ uAt b 6 2 ≠ 0 ∨ uAt b 0xC 4 ≠ 0 ∨ b.length ≠ letterHeader + uAt b 8 4 + letterSig then
    some rfBADSEAL
  else none

/-- The copies held or compared that are the same letter as `l`. -/
def copyMatches (l : Letter) (h : Held) : Bool := sameLetter l (letterOf h.copy.org h.copy.bytes)

/-- A baton-path letter arrives at the command queue; a held standby result serves it from now on (R524). -/
def State.letterArrive (s : State) (a : Arrived) : State :=
  match formRefusal a.bytes with
  | some code => s.refuse a.org code 0 (readableId a.bytes)
  | none =>
    let l := letterOf a.org a.bytes
    if 64 ≤ s.queueDepth then (s.bump R.SEAL_BUSYCNT).refuse a.org rfBUSY 0 (letterId l)
    else
      let s := s.modSeal (fun q => { q with queue := grantInsert (fun x => portReq x.org.port x.at_) a q.queue })
      s.modNet (fun n =>
        { n with held := n.held.filter (fun h => !copyMatches l h), results := n.results ++ n.held.filter (copyMatches l) })

/-! The checks (R133). -/

/-- The high mark of a slot (R129). -/
def State.highMark (s : State) (slot : Nat) : Nat :=
  let mine := fun (l : Letter) => if l.keyslot = slot then [l.seq] else []
  (s.letters.awaiting.flatMap (fun x => mine x.letter) ++ s.letters.writing.flatMap (fun x => mine x.letter) ++
    s.letters.waiting.flatMap (fun x => mine x.1)).foldl max (s.letters.counters.getD slot 0).toNat

/-- The letter of R123: whatever else its body holds, it names slot 0 and its key is the PUBKEY of the header. -/
def State.selfSigned (s : State) (l : Letter) : Bool :=
  s.life == 0 && keysetZero l && l.keyslot == 0 && bodyTag l 3 == some l.pubkey

/-- Step 2. -/
def State.keyFits (s : State) (l : Letter) : Bool :=
  s.selfSigned l ||
    (let k := s.keySlot l.keyslot
     k.programmed && !k.revoked && k.hash == (sha512 l.pubkey).take 32)

/-- DEV.UID0 to DEV.UID3 as bytes. -/
def State.uidBytes (s : State) : List Byte := (List.range 4).flatMap (fun i => wBytes (s.reg (R.DEV_UID i)))

/-- The first of steps 1 to 4 that fails, with SEQ tested against `mark`. -/
def State.earlyFail (s : State) (mark : Nat) (l : Letter) : Option Nat :=
  if l.uid ≠ s.uidBytes then some 1
  else if !s.keyFits l then some 2
  else if !edVerify l.pubkey (sealedMessage l) l.sig then some 3
  else if l.seq ≤ mark then some 4
  else none

/-- The refusal of a failed early step. -/
def earlyCode (step : Nat) : Nat := if step = 1 then rfWRONGDEV else if step = 4 then rfREPLAY else rfBADSEAL

/-- Step 5. -/
def State.inWindow (s : State) (l : Letter) : Bool :=
  (l.notBefore == 0 && l.notAfter == 0) ||
    (s.timeValid && decide (l.notBefore ≤ s.secAt s.now) && decide (s.secAt s.now ≤ l.notAfter))

/-- Step 6. -/
def State.roleFits (s : State) (l : Letter) : Bool :=
  letterRole l.typ == some l.role && (s.selfSigned l || (s.keySlot l.keyslot).mask.testBit (l.role - 1))

/-- Whether steps 5 to 7 pass. -/
def State.middlePass (s : State) (l : Letter) : Bool := s.inWindow l && s.roleFits l && s.lifePermits l

/-- The outcome of steps 5 to 9. -/
def State.laterSteps (s : State) (l : Letter) : Verdict :=
  if !s.inWindow l then .refuse rfEXPIRED 0
  else if !s.roleFits l then .refuse rfROLE 0
  else if !s.lifePermits l then .refuse rfSTATE 0
  else
    match s.bodyBad l with
    | o :: r => .refuse rfBOUNDS (r.foldl min o)
    | [] =>
      match s.letterAbsent l with
      | u :: _ => .refuse rfABSENT u
      | [] => .pass

/-- The standby verifier's result: the first failing step among 1, 2, 3, 4 and 8, or 0 for PASS (R522). -/
def State.standbyVerify (s : State) (l : Letter) : Nat :=
  match s.earlyFail (s.letters.counters.getD l.keyslot 0).toNat l with
  | some n => n
  | none => if s.bodyBad l = [] then 0 else 8

/-- A failed password at step 8 (R587). -/
def State.passwordFail (s : State) (l : Letter) : State :=
  if l.typ = ltSAFEAUTH ∧ s.middlePass l ∧ s.passwordWrong (bodyGroup l) then
    (s.bump R.SAFE_PWFAIL).raise 0x7009 noSource 0 0 0 0
  else s

/-! The wait for the standby result (R523). -/

/-- BATON.SKEW in EDGE cycles. -/
def State.skew (s : State) : Nat := s.fldOf R.BATON_SKEW 13 0 * edgesPerUs

/-- The standby result for a letter. -/
def State.resultFor (s : State) (l : Letter) : Option Held := s.net.results.find? (copyMatches l)

/-- Forget the standby results for a letter. -/
def State.dropResult (s : State) (l : Letter) : State :=
  s.modNet (fun n => { n with results := n.results.filter (fun h => !copyMatches l h) })

/-- Whether a standby result agrees. -/
def agrees (l : Letter) (h : Held) : Bool := h.result == 0 && h.crc == crc32c (signedBytes l)

/-- Queue a counter write. -/
def State.startWrite (s : State) (l : Letter) (v : Verdict) : State :=
  (s.dropResult l).modSeal (fun q => { q with writing := q.writing ++ [⟨l, v, false⟩] })

/-- A mismatch (R523). -/
def State.mismatch (s : State) (l : Letter) (h : Held) : State :=
  ((s.bump R.BATON_MISMATCH).raise 0x5004 s.holder (BitVec.ofNat 32 l.seq) (Config.standbyResult 0)
    (Config.standbyResult h.result) 0).startWrite l (.refuse rfBADSEAL 0)

/-- Judge one waiting letter: the state, and the letter if it still waits for those before it. -/
def State.judge (s : State) (w : Await) : State × Option Await :=
  if w.go.isSome then (s, some w)
  else
    let go : Await := { w with go := some .pass }
    if !s.hasBaton then (s, some go)
    else
      match s.resultFor w.letter with
      | some h => if agrees w.letter h then (s, some go) else (s.mismatch w.letter h, none)
      | none =>
        if !s.standbyAlive then (s, some go)
        else if w.at_ + s.skew ≤ s.now then (s.bump R.BATON_SOLO, some go)
        else (s, some w)

/-- Judge the waiting letters in arrival order. -/
def State.judgeAll : List Await → State → State × List Await
  | [], s => (s, [])
  | w :: r, s =>
    let x := s.judge w
    let y := State.judgeAll r x.1
    (y.1, x.2.toList ++ y.2)

/-- Begin the counter writes of the letters at the front that may go, in arrival order. -/
def State.drain : List Await → State → State
  | [], s => s
  | w :: r, s =>
    match w.go with
    | some v => State.drain r ((s.modSeal (fun q => { q with awaiting := r })).startWrite w.letter v)
    | none => s

/-- Judge all waiting letters and begin what may begin. -/
def State.settle (s : State) : State :=
  let x := State.judgeAll s.letters.awaiting s
  State.drain x.2 (x.1.modSeal (fun q => { q with awaiting := x.2 }))

/-- The verifier takes the next letter (R133). One that arrived on the baton path before the baton moved away and would pass is
of the standby path now: the commit stage does not take it, and it is discarded as R524 discards a copy (R525; DEDUCED, log 46). -/
def State.letterVerify (s : State) : State :=
  match s.letters.queue with
  | [] => s
  | a :: r =>
    let s := s.modSeal (fun q => { q with queue := r })
    let l := letterOf a.org a.bytes
    match s.earlyFail (s.highMark l.keyslot) l with
    | some n => (s.dropResult l).refuse l.org (earlyCode n) 0 (letterId l)
    | none =>
      match s.laterSteps l with
      | .pass =>
        if s.hasBaton && l.org.port != s.holder then (s.dropResult l).orphanOn l.org.port
        else (s.modSeal (fun q =>
          { q with awaiting := q.awaiting ++ [⟨l, a.at_, if a.solo then some .pass else none⟩] })).settle
      | v => (s.startWrite l v).passwordFail l

/-- A counter write ends (R130, R131, R134). -/
def State.counterWritten (s : State) : State :=
  match s.letters.writing with
  | [] => s
  | v :: r =>
    let l := v.letter
    let s := s.modSeal (fun q =>
      { q with writing := r,
               counters := modifyAt q.counters l.keyslot (fun c => BitVec.ofNat 64 (max c.toNat l.seq)) })
    match v.verdict with
    | .pass => s.modSeal (fun q => { q with waiting := q.waiting ++ [(l, s.now)] })
    | .refuse code detail => s.refuse l.org code detail (letterId l)
    | .drop => s

/-- T0 of a warm restart (R73, R78, R130): only a counter write that is in progress goes on. -/
def State.lettersT0 (s : State) (writing : Bool) : State :=
  s.modSeal (fun q =>
    { q with queue := [], awaiting := [], waiting := [], series := none,
             writing := if writing then (q.writing.take 1).map (fun v => { v with verdict := .drop }) else [] })

/-! Commands. -/

/-- LETTER_VERIFY. -/
def execLetterVerify (e : Nat) (s : State) : Out := .next (s.atEdge e).letterVerify

/-- COUNTER_WRITE_DONE, with the cycles the write waited (R337, R338). No counter write ends while the port serves another
class. -/
def execCounterWriteDone (wait e : Nat) (s : State) : Out :=
  let s := s.atEdge e
  .next (if s.envmServes 3 then ((s.waited 0 wait).counterWritten).envmDone 3 else s)

/-- REFUSAL_RUN_CLOSE. -/
def execRefusalRunClose (code port : Nat) (s : State) : Out := answer (decide (port < 2)) (s.runClose code port)

/-- BATON_SKEW_TIMEOUT. -/
def execBatonSkewTimeout (e : Nat) (s : State) : Out := .next (s.atEdge e).settle

end Sys2Proof.Machine
end

