-- ==== Sys2Proof/Machine/Net.lean ====
section
/-! DEFINITION. Ports, heartbeats, path states and the baton (R509 to R527, R531 to R535).
Where the spec can be read in two ways the assumption log says what was read: entries 45 to 47 (DEDUCED unless marked there otherwise). -/

namespace Sys2Proof.Machine

/-! Paths. -/

/-- Set the state of path `p`. -/
def State.setPath (s : State) (p st : Nat) : State := s.putFld R.BATON_STAT (3 + 2 * p) (2 + 2 * p) st

/-- BATON.HBINT in EDGE cycles. -/
def State.hbint (s : State) : Nat := s.fldOf R.BATON_HBINT 19 0 * edgesPerUs

/-- BATON.MISSA or BATON.MISSB (R519). -/
def State.missed (s : State) (p : Nat) : Nat :=
  if s.path p = pathALIVE ∨ s.path p = pathLOST then (s.now - (s.port p).tl) / max 1 s.hbint else 0

/-- A device heartbeat's payload (R518). -/
def State.heartbeat (s : State) (p : Nat) : List Byte :=
  leBytes 1 1 ++ leBytes 1 p ++
    leBytes 1 ((decide (s.holder = p)).toNat + 2 * (s.port p).restartHb.toNat + 4 * (s.bitOf R.BATON_STAT 1).toNat) ++
    leBytes 1 0 ++ leBytes 4 (s.port p).hbSeq ++ leBytes 8 s.tick ++ leBytes 4 (s.missed 0) ++ leBytes 4 (s.missed 1) ++
    leBytes 4 (s.fldOf R.BATON_HBINT 19 0) ++ leBytes 4 0

/-- Send a heartbeat on port `p` (R514, R517): it carries no trailer. -/
def State.sendHeartbeat (s : State) (p : Nat) : State :=
  if !s.portRuns p || (s.hostDest p).isNone then s
  else
    (s.originate p 8 0 none (s.heartbeat p)).modPort p (fun q => { q with hbSeq := q.hbSeq + 1, restartHb := false })

/-- Heartbeats on every running port. -/
def State.heartbeatAll (s : State) : State := (s.sendHeartbeat 0).sendHeartbeat 1

/-- A letter that waits proceeds without a comparison. -/
def Await.solo (w : Await) : Await := { w with go := match w.go with | some v => some v | none => some .pass }

/-- The baton moves to path `q`: cause 0 loss, 1 command (R520, R524, R525). -/
def State.moveBaton (s : State) (q cause : Nat) : State :=
  let held := s.net.held
  let s := (s.putFld R.BATON_STAT 0 0 q).bump R.BATON_MOVES
  let s := s.raise 0x5003 q (BitVec.ofNat 32 q) (BitVec.ofNat 32 cause) (satWord held.length) s.tickLo
  let s := (s.modSeal (fun x => { x with awaiting := x.awaiting.map Await.solo })).settle
  let s := s.modNet (fun n => { n with held := [] })
  let s := held.foldl (fun s h => s.letterArrive { h.copy with at_ := s.now, solo := true }) s
  s.heartbeatAll

/-- The loss case of R520. -/
def State.batonCheck (s : State) : State :=
  let h := s.holder
  if s.hasBaton ∧ (s.path h = pathSILENT ∨ s.path h = pathLOST) ∧ s.path (1 - h) = pathALIVE then s.moveBaton (1 - h) 0
  else s

/-- BATON.CTRL.MOVE (R520). -/
def State.batonMove (s : State) : State :=
  if s.hasBaton ∧ s.path (1 - s.holder) = pathALIVE then s.moveBaton (1 - s.holder) 1 else s

/-- EV_BATON_PATH_LOST, EV_BATON_PATH_ALIVE or EV_BATON_BOTH_LOST (R519, R526). -/
def State.pathEvent (s : State) (code p : Nat) : State :=
  s.raise code p (BitVec.ofNat 32 p) (BitVec.ofNat 32 (s.port p).hostSeq) s.tickLo 0

/-- A payload of 32 bytes that follows R518 for a host on path `p`. -/
def hostHeartbeatOk (p : Nat) (b : List Byte) : Bool :=
  b.length == 32 && uAt b 0 1 == 0 && uAt b 1 1 == p && uAt b 2 2 == 0 && (slice b 8 24).all (fun x => x == 0)

/-- NET.STAT.HOSTARP: whether ARP has resolved the next hop that the host destination has now (R512). -/
def State.showArp (s : State) (p : Nat) : State :=
  s.putFld (R.NET_STAT p) 4 4 (match s.nextHop p with | some ip => ((s.port p).resolved.contains ip).toNat | none => 0)

/-- A host heartbeat arrives (R516, R519, R520, R526). -/
def State.hostHeartbeat (s : State) (o : Origin) (b : List Byte) : State :=
  let p := o.port
  if !s.portRuns p then s
  else
    let s := s.frameOn p
    if !(hostHeartbeatOk p b && (s.reg (R.NET_HOSTIP p) == 0 || (s.reg (R.NET_HOSTIP p)).toNat == o.ip)) then
      s.bump (R.NET_RXDISC p)
    else
      let old := s.path p
      let s := ((s.bump (R.NET_RXCNT p)).bump (R.NET_HBRX p)).setReg (R.NET_HBLAST p) s.tickLo
      let s := s.modPort p (fun q => { q with tl := s.now, hostSeq := uAt b 4 4, learned := some (o.ip, o.udp) })
      let s := s.showArp p
      let s := (s.setPath p pathALIVE).putFld R.BATON_STAT 1 1 0
      let s := if old = pathLOST then s.pathEvent 0x5002 p else s
      s.batonCheck

/-- Path `p` has been silent for KMISS intervals (R519, R520, R526); the silence of a warm restart loses no path (R527). -/
def State.pathLost (s : State) (p : Nat) : State :=
  if s.path p ≠ pathALIVE ∨ !(s.warm.phase == .none || s.warm.phase == .firstTick) ∨ s.now < (s.port p).tl + s.fldOf R.BATON_CFG 7 0 * s.hbint then s
  else
    let s := (s.setPath p pathLOST).pathEvent 0x5001 p
    let s :=
      if s.path (1 - p) = pathALIVE then s.batonCheck
      else
        let t := (s.putFld R.BATON_STAT 1 1 1).pathEvent 0x5006 p
        t.modNet (fun n => { n with reactDue := decide (s.dev = stRUN) })
    s.settle

/-- The reaction to the loss of both paths, at a boundary (R526). -/
def State.bothLostReact (s : State) : State :=
  if !s.net.reactDue then s
  else
    let s := s.modNet (fun n => { n with reactDue := false })
    if s.dev ≠ stRUN then s
    else match s.fldOf R.BATON_CFG 9 8 with
      | 1 => forUpTo 8 (fun t s => s.laneHold t) s
      | 2 => { s with power := { s.power with safeDue := 3 } }
      | _ => s

/-! Standby copies (R522 to R524). -/

/-- Whether the baton copy of a letter is in the queue or waits for its result. -/
def State.batonCopyHere (s : State) (l : Letter) : Bool :=
  s.letters.queue.any (fun a => sameLetter l (letterOf a.org a.bytes)) || s.letters.awaiting.any (fun w => sameLetter l w.letter)

/-- A letter arrives on the standby path. -/
def State.standbyArrive (s : State) (a : Arrived) : State :=
  if (formRefusal a.bytes).isSome then s
  else
    let l := letterOf a.org a.bytes
    let h : Held := ⟨a, s.standbyVerify l, crc32c (signedBytes l), a.at_, false, false⟩
    if l.seq ≤ (s.letters.counters.getD l.keyslot 0).toNat then s.bump R.BATON_ORPHAN
    else if s.batonCopyHere l then (s.modNet (fun n => { n with results := n.results ++ [h] })).settle
    else if 64 ≤ s.net.held.length then s.bump R.BATON_ORPHAN
    else s.modNet (fun n => { n with held := n.held ++ [h] })

/-- SKEW ends for held copies (R524). -/
def State.heldTimeout (s : State) : State :=
  let ends := fun (h : Held) => decide (h.at_ + s.skew ≤ s.now)
  let gone := s.net.held.filter (fun h => ends h && h.frameSince)
  let rest := (s.net.held.filter (fun h => !(ends h && h.frameSince))).map (fun h => { h with skewEnded := h.skewEnded || ends h })
  (s.modNet (fun n => { n with held := rest })).orphan gone

/-- A LETTER datagram arrives (R132, R515, R521, R522). -/
def State.letterReceive (s : State) (o : Origin) (b : List Byte) : State :=
  match s.accept o true with
  | (s, false) => s
  | (s, true) =>
    let a : Arrived := { org := o, bytes := b, at_ := s.now }
    if s.hasBaton && o.port != s.holder then s.standbyArrive a else s.letterArrive a

/-! Ports (R510 to R515). -/

/-- Whether port `p` is to run (R510). -/
def State.portEnabled (s : State) (p : Nat) : Bool :=
  s.usableBit (unitPort p) && s.bitOf (R.NET_CTRL p) 31 &&
    (s.dev == stREADY || s.dev == stRUN || s.dev == stSAFE || s.dev == stHALT)

/-- Kinds of frames that are not UDP: ARP request, ARP reply, ICMP echo reply, PRP supervision. -/
def ethARPREQ : Nat := 0
def ethARPREP : Nat := 1
def ethECHO : Nat := 2
def ethPRP : Nat := 3

/-- The next hops that port `p` needs (R512, R537): the host's, and those of the PTP peers on the time port in UDP mode. -/
def State.wantedHops (s : State) (p : Nat) : List Nat :=
  ((s.nextHop p).toList ++
    (if s.ptpUdp && p == s.timePort then ((List.range 4).filter s.peerOn).filterMap s.peerHop else [])).eraseDups

/-- An ARP request for each next hop of port `p` (R512, R537). -/
def State.arpResolve (s : State) (p : Nat) : State :=
  if !s.portRuns p then s else forEach (s.wantedHops p) (fun ip s => s.emitOn p (.eth p 0x0806 ethARPREQ ip [])) s

/-- Port start (R510, R512, R519, R520): the baton is given at the first start after a load. -/
def State.portStart (s : State) (p : Nat) (sync anDone : Bool) : State :=
  if !s.portEnabled p || (s.port p).started then s
  else
    let first := !(s.port 0).started && !(s.port 1).started
    let s := s.modPort p (fun q => { started := true, startAt := s.now, restartHb := q.restartHb })
    let s := if p = s.timePort then s.timeStart else s
    let s := ((s.setReg (R.NET_STAT p) (BitVec.ofNat 32 (sync.toNat + 2 * anDone.toNat))).showLink p).setPath p pathSILENT
    let s :=
      if !first then s
      else s.putFld R.BATON_STAT 0 0 (if s.portEnabled (1 - p) then s.fldOf R.BATON_CFG 16 16 else p)
    s.arpResolve p

/-- The level of PHYRST_A or PHYRST_B: low until 10 ms after the port's start (R510). -/
def State.phyrst (s : State) (p : Nat) : Bool := (s.port p).started && decide ((s.port p).startAt + 10 * edgesPerMs ≤ s.now)

/-- The level of BTN_A or BTN_B (R521). -/
def State.batonBall (s : State) (p : Nat) : Bool :=
  decide (s.holder = p) && ((s.port 0).started || (s.port 1).started) && (s.hasBaton || p == 0)

/-- A poll of PHY register 1 (R510). -/
def State.mdioPoll (s : State) (p : Nat) (link : Bool) : State :=
  if s.portRuns p && s.bitOf (R.NET_CTRL p) 29 then (s.putFld (R.NET_STAT p) 2 2 link.toNat).showLink p else s

/-- A frame that no other step takes (R509, R512, R513): supervision frames are counted, others discarded. -/
def State.frameDiscard (s : State) (p : Nat) (supervision : Bool) : State :=
  if !s.portRuns p then s
  else (s.frameOn p).bump (if supervision then R.NET_RXCNT p else R.NET_RXDISC p)

/-- An ARP request for `target` (R512). -/
def State.arpRequest (s : State) (o : Origin) (target : Nat) : State :=
  s.onFrame o (fun s =>
    if (s.reg (R.NET_IPADDR o.port)).toNat = target then s.emitOn o.port (.eth o.port 0x0806 ethARPREP o.ip []) else s)

/-- An ARP reply (R512): one for a next hop that the port needs resolves it. -/
def State.arpReply (s : State) (o : Origin) : State :=
  if !(s.wantedHops o.port).contains o.ip then s.frameDiscard o.port false
  else s.onFrame o (fun s =>
    (s.modPort o.port (fun q => { q with resolved := if q.resolved.contains o.ip then q.resolved else o.ip :: q.resolved })).showArp
      o.port)

/-- An ICMP echo request whose IPv4 datagram has `len` bytes (R512). -/
def State.icmpEcho (s : State) (o : Origin) (len : Nat) (data : List Byte) : State :=
  if 1500 < len then s.frameDiscard o.port false
  else s.onFrame o (fun s => s.emitOn o.port (.eth o.port 0x0800 ethECHO o.ip data))

/-- The UDP ports of YCP and of safe data (R141, R512). -/
def udpYCP : Nat := 47100
def udpSAFE : Nat := 47101

/-- The YCP header that starts a datagram's payload is one that the device takes (R141): YVER, an MTYPE that a host sends, and
a LEN that agrees with the UDP length. -/
def ycpHeaderOk (b : List Byte) : Bool :=
  decide (8 ≤ b.length) && uAt b 0 1 == 1 && [1, 2, 5, 8, 9].contains (uAt b 1 1) && uAt b 2 2 + 8 == b.length

/-- Whether the port passes a datagram on (R141, R512). -/
def State.datagramOk (s : State) (g : Datagram) : Bool :=
  (s.reg (R.NET_IPADDR g.org.port)).toNat == g.dest && !g.options && !g.fragment && decide (g.length ≤ 1500) &&
    (g.dport == udpSAFE || (g.dport == udpYCP && ycpHeaderOk g.data))

/-- A datagram that the port does not pass on is discarded (R141, R512); any other is the matter of its own command. -/
def State.datagramDiscard (s : State) (g : Datagram) : State :=
  if s.datagramOk g then s else s.frameDiscard g.org.port false

/-- PRP supervision frames (R513). -/
def State.prpSupervise (s : State) : State :=
  if s.duplicates then (s.emitOn 0 (.eth 0 0x88FB ethPRP 0 [])).emitOn 1 (.eth 1 0x88FB ethPRP 0 []) else s

/-- A duplicate (R515). -/
def State.dupDiscard (s : State) (o : Origin) (letter : Bool) : State :=
  if s.isDup o letter then (s.accept o letter).1 else s

/-! Restarts (R527). -/

/-- T0 of a warm restart: held copies and pending comparisons are discarded, and the next heartbeat of each port is the first
after it (R518). -/
def State.netT0 (s : State) : State :=
  s.modNet (fun n =>
    { n with held := [], results := [], reactDue := false, ports := n.ports.map (fun q => { q with restartHb := true }) })

/-- B(r) of a warm restart (R517, R527, R531): TL(p) of every ALIVE path is B(r). -/
def State.netResume (s : State) : State :=
  let s := forUpTo 2 (fun p s =>
    if s.path p = pathALIVE then (s.modPort p (fun q => { q with tl := s.now })).setReg (R.NET_HBLAST p) s.tickLo else s) s
  s.heartbeatAll

/-- The ports stop (R58). A port that has sent no heartbeat since a warm restart still owes that mark (R518). -/
def State.netOff (s : State) : State :=
  let s := s.modNet (fun n => { n with ports := n.ports.map (fun q => { restartHb := q.restartHb }), held := [], results := [], reactDue := false })
  (s.setPath 0 pathOFF).setPath 1 pathOFF

/-! Load (R511, R531 to R534). -/

/-- The CFG registers of a NET record. -/
def netCfg (r : Rec) : List Nat :=
  if r.kind = 0 then
    [R.NET_CTRL, R.NET_MACLO, R.NET_MACHI, R.NET_IPADDR, R.NET_NETMASK, R.NET_GATEWAY, R.NET_HOSTIP, R.NET_HOSTPORT].map
      (fun f => f r.key)
  else [R.BATON_CFG, R.BATON_HBINT, R.BATON_SKEW]

def netWords (r : Rec) : List (Nat × Nat × Word) := r.words (netCfg r)

/-- The form of a NET record. -/
def netForm (r : Rec) : List Finding :=
  need (decide (r.kind ≤ 1)) (atOff 10 secNET (r.off + 2)) ++
  need (decide (r.key ≤ (if r.kind = 0 then 1 else 0))) (atOff 10 secNET r.off) ++
  formLen secNET r (if r.kind = 0 then 32 else 12)

/-- The failures of a NET record (R511, R533, R534). -/
def netCheck (s : State) (im : Image) (r : Rec) : List Finding :=
  let w := fun i => wAt r.body (4 * i)
  let at_ := fun (ok : Bool) (i : Nat) => need ok (atOff 14 secNET (r.off + 8 + 4 * i))
  imageBits secNET (netWords r) ++
  (if r.kind = 0 then
     let host := ~~~(w 4)
     let sub := fun (a : Word) => a &&& w 4
     need (s.usableBit (unitPort r.key)) ⟨12, r.off, unitPort r.key, secNET⟩ ++
     at_ (!bit (w 1) 0) 1 ++ at_ (w 1 != 0 || w 2 != 0) 2 ++ at_ (w 3 != 0) 3 ++
     at_ (host &&& (host + 1) == 0) 4 ++
     at_ (!(decide (3 ≤ host.toNat) && (w 3 ||| w 4) == 0xFFFFFFFF)) 4 ++
     at_ (w 5 == 0 || sub (w 5) == sub (w 3)) 5 ++
     (if r.key = 1 then
        match im.rec? secNET 0 0 with
        | some q =>
          if bit (w 0) 31 && bit (wAt q.body 0) 31 then
            [1, 2, 3, 4].flatMap (fun i =>
              need (w i == wAt q.body (4 * i)) (atOff 14 secNET (max r.off q.off + 8 + 4 * i)))
          else []
        | none => []
      else [])
   else
     need s.hasBaton ⟨12, r.off, 74, secNET⟩ ++
     at_ (decide (2 ≤ fld (w 0) 7 0) && fld (w 0) 9 8 != 3) 0 ++
     at_ (within (fld (w 1) 19 0) 1000 1000000) 1 ++ at_ (within (fld (w 2) 13 0) 100 10000) 2)

/-- Set registers to their reset values. -/
def State.resetRegs (s : State) (l : List Nat) : State := l.foldl (fun s a => s.setReg a (regReset a)) s

/-- NET and BATON registers at a load that does not resume state. -/
def netClears : List Nat :=
  [0, 1].flatMap (fun p =>
    [R.NET_CTRL p, R.NET_MACLO p, R.NET_MACHI p, R.NET_IPADDR p, R.NET_NETMASK p, R.NET_GATEWAY p, R.NET_HOSTIP p,
     R.NET_HOSTPORT p, R.NET_STAT p, R.NET_RXCNT p, R.NET_TXCNT p, R.NET_RXDISC p, R.NET_DUPCNT p, R.NET_WRONGLAN p,
     R.NET_ARPFAIL p, R.NET_HBRX p, R.NET_HBLAST p]) ++
  [R.BATON_CFG, R.BATON_HBINT, R.BATON_SKEW, R.BATON_STAT, R.BATON_MOVES]

/-- The ports and the baton unit at a load that does not resume state. -/
def State.loadNet (s : State) : State :=
  let s := (s.resetRegs netClears).netOff
  (s.image.sec secNET).foldl (fun s r => s.setImage (netWords r)) s

/-- Ports in HALT with no image loaded: recovery addresses, and every baton register at its reset value (R60, R532). -/
def State.recoverNet (s : State) : State :=
  let s := (s.resetRegs (netClears ++ [R.BATON_ORPHAN, R.BATON_MISMATCH, R.BATON_SOLO])).netOff
  forUpTo 2 (fun p s =>
    if !s.usableBit (unitPort p) then s
    else
      ((((s.setReg (R.NET_CTRL p) 0xC0000000).setReg (R.NET_MACLO p) (BitVec.ofNat 32 s.net.recoveryMac)).setReg
        (R.NET_MACHI p) (BitVec.ofNat 32 (s.net.recoveryMac / 2 ^ 32 % 65536))).setReg (R.NET_IPADDR p)
        (BitVec.ofNat 32 s.net.recoveryIp)).setReg (R.NET_NETMASK p) 0xFFFFFF00) s

/-! Commands. -/

/-- A command about the frame of an origin: its port is A or B. -/
def onPort (o : Origin) (t : State) : Out := answer (decide (o.port < 2)) t

/-- LETTER_RECEIVE, with the cycles a letter waited at the command queue entry (R337). -/
def execLetterReceive (o : Origin) (b : List Byte) (wait e : Nat) (s : State) : Out :=
  onPort o (((s.atEdge e).waited 2 wait).letterReceive o b)

/-- STANDBY_VERIFY. -/
def execStandbyVerify (o : Origin) (b : List Byte) (e : Nat) (s : State) : Out :=
  onPort o ((s.atEdge e).letterReceive o b)

/-- HOST_HEARTBEAT. -/
def execHostHeartbeat (o : Origin) (b : List Byte) (e : Nat) (s : State) : Out := onPort o ((s.atEdge e).hostHeartbeat o b)

/-- DEVICE_HEARTBEAT. -/
def execDeviceHeartbeat (p wait e : Nat) (s : State) : Out :=
  answer (decide (p < 2)) (((s.atEdge e).waited (4 + p) wait).sendHeartbeat p)

/-- PATH_LOST. -/
def execPathLost (p e : Nat) (s : State) : Out := answer (decide (p < 2)) ((s.atEdge e).pathLost p)

/-- BOTH_LOST_REACTION. -/
def execBothLostReaction (s : State) : Out := .next s.bothLostReact

/-- BATON_MOVE. -/
def execBatonMove (e : Nat) (s : State) : Out := .next (s.atEdge e).batonMove

/-- HELD_COPY_TIMEOUT. -/
def execHeldCopyTimeout (e : Nat) (s : State) : Out := .next (s.atEdge e).heldTimeout

/-- PRP_SUPERVISION. -/
def execPrpSupervision (s : State) : Out := .next s.prpSupervise

/-- PORT_START. -/
def execPortStart (p : Nat) (sync anDone : Bool) (e : Nat) (s : State) : Out :=
  answer (decide (p < 2)) ((s.atEdge e).portStart p sync anDone)

/-- MDIO_POLL. -/
def execMdioPoll (p : Nat) (link : Bool) (s : State) : Out := answer (decide (p < 2)) (s.mdioPoll p link)

/-- ARP_REFRESH. -/
def execArpRefresh (p : Nat) (s : State) : Out := answer (decide (p < 2)) (s.arpResolve p)

/-- ARP_REQUEST. -/
def execArpRequest (o : Origin) (target e : Nat) (s : State) : Out := onPort o ((s.atEdge e).arpRequest o target)

/-- ARP_REPLY. -/
def execArpReply (o : Origin) (e : Nat) (s : State) : Out := onPort o ((s.atEdge e).arpReply o)

/-- ICMP_ECHO. -/
def execIcmpEcho (o : Origin) (len : Nat) (data : List Byte) (e : Nat) (s : State) : Out :=
  onPort o ((s.atEdge e).icmpEcho o len data)

/-- YCP_DISCARD. -/
def execYcpDiscard (g : Datagram) (e : Nat) (s : State) : Out := onPort g.org ((s.atEdge e).datagramDiscard g)

/-- RECEIVED_FRAME_DISCARD. -/
def execReceivedFrameDiscard (p : Nat) (supervision : Bool) (e : Nat) (s : State) : Out :=
  answer (decide (p < 2)) ((s.atEdge e).frameDiscard p supervision)

/-- DUPLICATE_DISCARD. -/
def execDuplicateDiscard (o : Origin) (letter : Bool) (e : Nat) (s : State) : Out :=
  onPort o ((s.atEdge e).dupDiscard o letter)

end Sys2Proof.Machine
end

