-- ==== Sys2Proof/Machine/Stride.lean ====
section
/-! DEFINITION. The Stride drive link: servo periods, replies, discovery, and the load (R448 to R468).
Where the spec can be read in two ways the assumption log says what was read: entries 62 (DEDUCED unless marked there otherwise). -/

namespace Sys2Proof.Machine

/-- Port `d`. -/
def State.sport (s : State) (d : Nat) : StridePort := s.arch.stride.getD d {}

/-- Change port `d`. -/
def State.modSport (s : State) (d : Nat) (f : StridePort → StridePort) : State :=
  { s with arch := { s.arch with stride := modifyAt s.arch.stride d f } }

/-- Change entry `e` of port `d`. -/
def State.modEntry (s : State) (d e : Nat) (f : StrideEntry → StrideEntry) : State :=
  s.modSport d (fun x => { x with entries := modifyAt x.entries e f })

/-- The address and axis of an entry (R467). -/
def State.strideAddr (s : State) (d e : Nat) : Nat := s.fldOf (R.STRIDE_DADDR d e) 4 0
def State.strideAxis (s : State) (d e : Nat) : Nat := s.fldOf (R.STRIDE_DADDR d e) 21 16

/-- WB and D(n) in ns (R453). -/
def strideWB (n : Nat) : Nat := 4280 + 6400 * n
def strideD (n : Nat) : Nat := 22280 + 18400 * n

/-- Tenths of ns since the period of port `d` started, if one has (R453). -/
def State.sinceTP (s : State) (d : Nat) : Option Nat := (s.sport d).opened.map (fun t => 25 * (s.now - t))

/-- Opening of reply slot `e` of a port with `n` entries, of the PROBE and of the announce slot, in ns from TP (R453). -/
def strideRs (n e : Nat) : Nat := strideWB n + 1000 + 12000 * e
def strideProbeAt (n : Nat) : Nat := strideWB n + 1000 + 12000 * n
def strideAnnAt (n : Nat) : Nat := strideWB n + 5000 + 12000 * n

/-- The level of DLDEd at `t` tenths of ns from TP (R453): high during the BROADCAST, and during the PROBE if the period
probes. -/
def strideDE (n : Nat) (probes : Bool) (t : Nat) : Bool :=
  decide (t < 10 * strideWB n) ||
    (probes && decide (10 * strideProbeAt n ≤ t) && decide (t < 10 * (strideProbeAt n + 3000)))

/-- Whether a frame that begins `a` and ends `b` tenths of ns from TP lies in the slot that opens at `open_` ns (R453, R454): it
begins within 500 ns and has ended when the slot closes. -/
def inStrideSlot (open_ a b : Nat) : Bool :=
  decide (10 * open_ ≤ a) && decide (a ≤ 10 * (open_ + 500)) && decide (b ≤ 10 * (open_ + 12000))

/-- The bytes of a frame after its delimiter: the payload and its CRC-16/IBM-3740, least significant byte first (R449). -/
def strideFrame (payload : List Byte) : List Byte := payload ++ leBytes 2 (crc16ibm payload)

/-- The payload of a received frame, if it has `len` bytes and its CRC is right. -/
def stridePayload? (len : Nat) (b : List Byte) : Option (List Byte) :=
  if b.length = len + 2 ∧ b = strideFrame (b.take len) then some (b.take len) else none

/-- Whether a port carries traffic now (R461). -/
def State.strideRuns (s : State) (d : Nat) : Bool := s.strideOn d && s.running

/-- The end of a period: entries whose ANNOUNCE matched become JOINING (R457). -/
def State.periodEnd (s : State) (d : Nat) : State :=
  s.modSport d (fun x => { x with entries := x.entries.map (fun e =>
    if e.join && e.st == 0 then { e with join := false, st := 1, miss := 0 } else { e with join := false }) })

/-- The CMD bits of an entry (R451). -/
def State.strideCmd (s : State) (d e : Nat) : Nat :=
  let x := s.axis (s.strideAxis d e)
  ((s.strideEntry d e).st == 2 && x.st != axOFFLINE).toNat + 2 * x.idxArm.toNat + 4 * (x.st == axBRAKETEST).toNat

/-- A broadcast's entry (R450, R451). -/
def State.strideSlot (s : State) (d e : Nat) : List Byte :=
  let x := s.axis (s.strideAxis d e)
  leBytes 1 (s.strideAddr d e) ++ leBytes 1 (s.strideCmd d e) ++ leBytes 2 0 ++ dBytes x.issued.1 ++ wBytes x.issued.2 ++
    wBytes (if x.st = axBRAKETEST then x.tq else 0)

/-- The BROADCAST of a period opened by tick `m` (R450). -/
def State.broadcast (s : State) (d m seq : Nat) : List Byte :=
  let n := s.ndrv d
  leBytes 1 1 ++ leBytes 1 seq ++ leBytes 1 n ++
    leBytes 1 ((s.dev == stSAFE).toNat + 2 * (s.sport d).restart.toNat) ++ leBytes 4 m ++
    (List.range n).flatMap (s.strideSlot d)

/-- Port `d` opens a servo period in the present tick k (R452, R457): that of tick m, whose boundary lies STARTOFS before. The
period before ends with it. -/
def State.servoStart (s : State) (d : Nat) : State :=
  let r := s.reg (R.STRIDE_RATE d)
  let ofs := (16 * s.fldOf (R.STRIDE_STARTOFS d) 15 0 + 4) / 5
  let back := ofs / max 1 s.tickEdges
  let m := s.tick - back
  if !(s.strideRuns d && decide (back ≤ s.tick) && rateDue r m) || (s.sport d).last == some m then s
  else
    let s := (s.atEdge (ofs % max 1 s.tickEdges)).periodEnd d
    let x := s.sport d
    let due := match x.roundAt with
      | none => true
      | some t => decide (t + 100 * edgesPerMs ≤ s.now)
    let todo := if due then (List.range (s.ndrv d)).filter (fun e => (s.strideEntry d e).st == 0) else x.todo
    let seq := m / max 1 (fld r 10 0) % 256
    let s := (s.emit (.stride d (strideFrame (s.broadcast d m seq)))).bump (R.STRIDE_PERIODS d)
    s.modSport d (fun x =>
      { x with opened := some s.now, seq := seq, last := some m, probe := todo.head?, probed := false, todo := todo.drop 1,
               roundAt := if due then some s.now else x.roundAt, restart := false,
               entries := x.entries.map (fun e => { e with got := false, closed := false }) })

/-- The PROBE of the period goes out once its time has come (R453, R457). -/
def State.probeSend (s : State) (d : Nat) : State :=
  match (s.sport d).probe, s.sinceTP d with
  | some e, some t =>
    if (s.sport d).probed || decide (t < 10 * strideProbeAt (s.ndrv d)) then s
    else
      let s := s.modSport d (fun x => { x with probed := true })
      s.emit (.stride d (strideFrame (leBytes 1 2 ++ leBytes 1 (s.strideAddr d e) ++ leBytes 2 0)))
  | _, _ => s

/-- The moment `n` EDGE cycles ago, in tenths of ns from TP. -/
def State.strideAgo (s : State) (d n : Nat) : Option Nat := (s.sinceTP d).map (fun t => t - 25 * n)

/-- A frame that began `n` EDGE cycles ago is ignored where DLDEd was high (R448). -/
def State.strideDeaf (s : State) (d n : Nat) : Bool :=
  match s.strideAgo d n with
  | some t => strideDE (s.ndrv d) (s.sport d).probe.isSome t
  | none => false

/-- A discarded frame that began `n` EDGE cycles ago (R448, R454). -/
def State.strideDiscard (s : State) (d n : Nat) : State :=
  if s.strideRuns d && !s.strideDeaf d n then s.bump (R.STRIDE_RXERR d) else s

/-- Whether a frame that began `a` EDGE cycles ago and ended `b` ago lies in the slot that opens at `open_` ns. -/
def State.strideTimed (s : State) (d open_ a b : Nat) : Bool :=
  match s.strideAgo d a, s.strideAgo d b with
  | some x, some y => inStrideSlot open_ x y
  | _, _ => false

/-- The payload of a REPLY that passes the checks of R454 in slot `e`. -/
def State.replyOk (s : State) (d e : Nat) (b : List Byte) (from_ end_ : Nat) : Option (List Byte) :=
  (stridePayload? 28 b).filter (fun b =>
    decide (e < s.ndrv d) && uAt b 0 1 == 3 && uAt b 1 1 == s.strideAddr d e && uAt b 2 1 == (s.sport d).seq &&
      !(s.strideEntry d e).got && !(s.strideEntry d e).closed && s.strideTimed d (strideRs (s.ndrv d) e) from_ end_)

/-- What an accepted REPLY does (R455, R458, R460). -/
def State.replyTaken (s : State) (d e : Nat) (b : List Byte) : State :=
  let st := wAt b 4
  let tq := wAt b 0x10
  let n := s.strideAxis d e
  let old := (s.strideEntry d e).st
  let s := s.modEntry d e (fun x => { x with got := true, miss := 0, st := if x.st = 1 then 2 else x.st })
  let s := if s.axisConf n && s.axFbsrc n == 1 then
      s.modAxis n (fun x =>
        { x with fb := BitVec.ofNat 64 (uAt b 8 8), fresh := true, torque := tq,
                 idx := if x.idxArm && bit st 3 then some (BitVec.ofNat 64 (uAt b 0x14 8)) else x.idx,
                 idxArm := x.idxArm && !bit st 3 })
    else s
  let s := (s.setReg (R.STRIDE_DSTATUS d e) st).putFld (R.STRIDE_DSTAT d e) 3 3 (bit st 1).toNat
  let w := writerOf clsStride (4 * d + e)
  let s := s.stageVia (s.reg (R.STRIDE_TQSLOT d e)) w tq qVALID
  let s := s.stageVia (s.reg (R.STRIDE_STSLOT d e)) w (fOfInt (fld st 15 0 : Nat)) qVALID
  let s := if bit st 1 then
      s.raiseLimited (4 * d + e) 0xB003 d (BitVec.ofNat 32 d) (BitVec.ofNat 32 e) st s.tickLo else s
  if old = 1 then
    s.raise 0xB001 d (BitVec.ofNat 32 d) (BitVec.ofNat 32 e) (BitVec.ofNat 32 (s.strideAddr d e)) s.tickLo
  else s

/-- A frame received in reply slot `e`, which began `from_` EDGE cycles ago and ended `end_` ago. -/
def State.strideReply (s : State) (d e : Nat) (b : List Byte) (from_ end_ : Nat) : State :=
  if !s.strideRuns d || s.strideDeaf d from_ then s
  else match s.replyOk d e b from_ end_ with
    | some p => s.replyTaken d e p
    | none => s.strideDiscard d from_

/-- What an ANNOUNCE of the probed entry `e` does (R457). -/
def State.announceTaken (s : State) (d e : Nat) (b : List Byte) : State :=
  let s := s.modSport d (fun x => { x with probe := none })
  let same := wAt b 4 == s.reg (R.STRIDE_DVEND d e) && wAt b 8 == s.reg (R.STRIDE_DTYPE d e) &&
    (!s.bitOf (R.STRIDE_DADDR d e) 31 ||
      (wAt b 0xC == s.reg (R.STRIDE_DSER_LO d e) && wAt b 0x10 == s.reg (R.STRIDE_DSER_HI d e)))
  if same then s.modEntry d e (fun x => { x with join := true })
  else (s.orReg (R.STRIDE_DSTAT d e) 4).raise 0xB004 d (BitVec.ofNat 32 d) (BitVec.ofNat 32 e) (wAt b 4) (wAt b 8)

/-- A frame that ends now in the announce slot and began `len` EDGE cycles ago (R454, R457). -/
def State.strideAnnounce (s : State) (d : Nat) (b : List Byte) (len : Nat) : State :=
  if !s.strideRuns d || s.strideDeaf d len then s
  else
    let s := s.probeSend d
    match (s.sport d).probe, stridePayload? 20 b with
    | some e, some p =>
      if uAt p 0 1 == 4 && uAt p 1 1 == s.strideAddr d e && s.strideTimed d (strideAnnAt (s.ndrv d)) len 0 then
        s.announceTaken d e p
      else s.strideDiscard d len
    | _, _ => s.strideDiscard d len

/-- Reply slot `e` of port `d` is open still, or has not opened. -/
def State.slotBusy (s : State) (d e : Nat) : Bool :=
  match s.sinceTP d with
  | some t => decide (t < 10 * (strideRs (s.ndrv d) e + 12000))
  | none => true

/-- An entry's reply slot closes (R454, R459). -/
def State.replyClose (s : State) (d e : Nat) : State :=
  let x := s.strideEntry d e
  if !(s.strideRuns d && decide (e < s.ndrv d)) || s.slotBusy d e || x.closed then s
  else if x.got then s.modEntry d e (fun x => { x with closed := true })
  else
    let gone := x.st != 0 && decide (s.fldOf (R.STRIDE_CTRL d) 7 0 ≤ x.miss + 1)
    let s := (s.bump (R.STRIDE_DMISS d e)).modEntry d e (fun x =>
      { x with closed := true, miss := x.miss + 1, st := if gone then 0 else x.st })
    if gone then
      s.raise 0xB002 d (BitVec.ofNat 32 d) (BitVec.ofNat 32 e) (BitVec.ofNat 32 (s.strideAddr d e)) s.tickLo
    else s

/-- Reply slot `e` closes; behind the last one the PROBE of a probe period follows (R453). -/
def State.slotClose (s : State) (d e : Nat) : State :=
  let s := s.replyClose d e
  if s.strideRuns d then s.probeSend d else s

/-- STRIDE.STAT (R465). -/
def State.strideStat (s : State) (d : Nat) : Word :=
  if !s.strideOn d then 0
  else
    let x := s.sport d
    let present := (List.range (s.ndrv d)).foldl (fun a e => a + ((s.strideEntry d e).st == 2).toNat * 2 ^ e) 0
    BitVec.ofNat 32 ((x.probe.isSome || !x.todo.isEmpty).toNat * 512 + (s.strideRuns d).toNat * 256 + present)

/-- STRIDE.DSTAT (R468). -/
def State.strideDstat (s : State) (d e : Nat) : Word :=
  setFld (s.reg (R.STRIDE_DSTAT d e)) 1 0 (s.strideEntry d e).st

/-- Entry into RUN or SAFE: a probe round starts in the first period (R457). -/
def State.strideEntered (s : State) : State :=
  if s.dev = stRUN ∨ s.dev = stSAFE then forUpTo 8 (fun d s => s.modSport d (fun x => { x with roundAt := none })) s
  else s

/-- T0 of a warm restart: the next broadcast is the first after it (R450). -/
def State.strideT0 (s : State) : State :=
  forUpTo 8 (fun d s => s.modSport d (fun x => { x with restart := true, opened := none, probe := none })) s

/-- A resumed warm restart (R461). -/
def State.strideResume (s : State) : State :=
  forUpTo 8 (fun d s => s.modSport d (fun x => { x with restart := true, opened := none, probe := none })) s

/-! Load (R456, R463 to R465). -/

/-- The words of a STRIDE record with their registers. -/
def strideWords (r : Rec) : List (Nat × Nat × Word) :=
  if r.kind = 0 then r.words [R.STRIDE_CTRL r.key, R.STRIDE_RATE r.key, R.STRIDE_STARTOFS r.key]
  else r.words ((List.range (r.body.length / 28)).flatMap (fun e =>
    (List.range 7).map (fun i => R.STRIDE_DADDR r.key e + 4 * i)))

/-- The form of a STRIDE record (R464). -/
def strideForm (im : Image) (r : Rec) : List Finding :=
  need (decide (r.key ≤ 7)) (atOff 10 secSTRIDE r.off) ++ need (decide (r.kind ≤ 1)) (atOff 10 secSTRIDE (r.off + 2)) ++
  if r.kind = 0 then formLen secSTRIDE r 12
  else match im.rec? secSTRIDE r.key 0 with
    | some r0 => formLen secSTRIDE r (28 * fld (wAt r0.body 0) 18 16)
    | none => need (r.body.length % 28 == 0) (atOff 10 secSTRIDE (r.off + 4))

/-- Every drive-table entry of the image: port, entry, offset of its record's body and its words. -/
def Image.strideEntries (im : Image) : List (Nat × Nat × Nat × Word) :=
  ((im.sec secSTRIDE).filter (fun r => r.kind == 1)).flatMap (fun r =>
    (List.range (r.body.length / 28)).map (fun e => (r.key, e, r.off + 8 + 28 * e, wAt r.body (28 * e))))

/-- The failures of a KIND 0 record (R464). -/
def strideCheck0 (s : State) (im : Image) (r : Rec) : List Finding :=
  let w := fun i => wAt r.body (4 * i)
  let at_ := fun (step : Nat) (ok : Bool) (i : Nat) => need ok (atOff step secSTRIDE (r.off + 8 + 4 * i))
  let en := bit (w 0) 31
  let n := fld (w 0) 18 16
  need (s.usableBit (unitStride r.key)) ⟨12, r.off, unitStride r.key, secSTRIDE⟩ ++
  imageBits secSTRIDE (strideWords r) ++
  at_ 14 (!en || (decide (1 ≤ n) && decide (n ≤ 4) && decide (1 ≤ fld (w 0) 7 0))) 0 ++ at_ 14 (rateOk (w 1)) 1 ++
  at_ 14 (decide (8 * fld (w 2) 15 0 + strideD n ≤ fld (w 1) 10 0 * 5 * fld (im.reg R.DEV_TBASE) 17 0)) 2 ++
  at_ 17 (!en || im.has secSTRIDE r.key 1) 0

/-- The failures of a KIND 1 record (R463, R464). -/
def strideCheck1 (s : State) (im : Image) (r : Rec) : List Finding :=
  let all := im.strideEntries
  let at_ := fun (step : Nat) (ok : Bool) (o : Nat) => need ok (atOff step secSTRIDE (r.off + 8 + o))
  let head := match im.rec? secSTRIDE r.key 0 with | some r0 => r0.off + 8 | none => 0
  let (en, div) := match im.rec? secSTRIDE r.key 0 with
    | some r0 => (bit (wAt r0.body 0) 31, fld (wAt r0.body 4) 10 0)
    | none => (false, 0)
  need (s.usableBit (unitStride r.key)) ⟨12, r.off, unitStride r.key, secSTRIDE⟩ ++
  imageBits secSTRIDE (strideWords r) ++
  need en (atOff 17 secSTRIDE (max (r.off + 8) head)) ++
  (List.range (r.body.length / 28)).flatMap (fun e =>
    let w := wAt r.body (28 * e)
    let addr := fld w 4 0
    let ax := fld w 21 16
    let here := r.off + 8 + 28 * e
    let before := all.filter (fun x => decide (x.2.2.1 < here))
    at_ 14 (decide (1 ≤ addr) && !before.any (fun x => x.1 == r.key && fld x.2.2.2 4 0 == addr) &&
      !before.any (fun x => fld x.2.2.2 21 16 == ax)) (28 * e) ++
    need (match im.rec? secAXES ax 0 with | some a => fld (wAt a.body 4) 10 0 == div | none => true)
      (atOff 14 secSTRIDE (max here (head + 4))) ++
    at_ 17 (match im.rec? secAXES ax 0 with | some a => fld (wAt a.body 0) 31 30 == 1 | none => false) (28 * e))

/-- The failures of a STRIDE record. -/
def strideCheck (s : State) (im : Image) (r : Rec) : List Finding :=
  if r.kind = 0 then strideCheck0 s im r else strideCheck1 s im r

/-- The ports at a load that does not resume state (R456, R465): what remains is whether a warm restart has passed since a
port's latest period (R450). -/
def State.loadStride (s : State) : State :=
  let s := s.modArch (fun a => { a with stride := a.stride.map (fun x => { restart := x.restart }) })
  let s := forUpTo 8 (fun d s =>
    let s := ((s.setReg (R.STRIDE_PERIODS d) 0).setReg (R.STRIDE_RXERR d) 0).setReg (R.STRIDE_SCHED d) 0
    forUpTo 4 (fun e s =>
      ((s.setReg (R.STRIDE_DSTAT d e) 0).setReg (R.STRIDE_DSTATUS d e) 0).setReg (R.STRIDE_DMISS d e) 0) s) s
  let s := forEach (s.image.sec secSTRIDE) (fun r s => s.setImage (strideWords r)) s
  forUpTo 8 (fun d s =>
    if (s.image.rec? secSTRIDE d 0).isSome then s.setReg (R.STRIDE_SCHED d) (BitVec.ofNat 32 (strideD (s.ndrv d))) else s) s

/-! Commands. -/

/-- SERVO_PERIOD_START. -/
def execServoPeriodStart (d : Nat) (s : State) : Out := answer (decide (d < 8)) (s.servoStart d)

/-- STRIDE_REPLY: a frame in reply slot `sl` of port `d`, `lag` EDGE cycles after its CRC, 0.1 to 0.4 µs (R453). -/
def execStrideReply (d sl : Nat) (b : List Byte) (len lag wait e : Nat) (s : State) : Out :=
  let lag := max 40 (min 160 lag)
  answer (decide (d < 8) && decide (sl < 4)) (((s.atEdge e).waited 7 wait).strideReply d sl b (len + lag) lag)

/-- STRIDE_ANNOUNCE: a frame in the announce slot. -/
def execStrideAnnounce (d : Nat) (b : List Byte) (len e : Nat) (s : State) : Out :=
  answer (decide (d < 8)) ((s.atEdge e).strideAnnounce d b len)

/-- STRIDE_FRAME_DISCARD. -/
def execStrideFrameDiscard (d len e : Nat) (s : State) : Out :=
  answer (decide (d < 8)) ((s.atEdge e).strideDiscard d len)

/-- REPLY_SLOT_CLOSE. -/
def execReplySlotClose (d sl e : Nat) (s : State) : Out :=
  answer (decide (d < 8) && decide (sl < 4)) ((s.atEdge e).slotClose d sl)

end Sys2Proof.Machine
end

