-- ==== Sys2Proof/Machine/Access.lean ====
section
/-! DEFINITION. Reads and writes of registers (R7 to R10, R18 to R20, R31, R139, R143, R144). Access port 0 is port A,
1 port B, 2 the maintenance port.
Where the spec can be read in two ways the assumption log says what was read: entries 39, 40 (DEDUCED unless marked there otherwise). -/

namespace Sys2Proof.Machine

/-! Copies and holds of an access port (R18). -/

/-- The copies of access port `p`. -/
def State.copies (s : State) (p : Nat) : Tab Word := if p < 2 then (s.port p).copies else s.maint.copies

/-- Replace the copies of access port `p`. -/
def State.setCopies (s : State) (p : Nat) (c : Tab Word) : State :=
  if p < 2 then s.modPort p (fun q => { q with copies := c }) else { s with maint := { s.maint with copies := c } }

/-- Every copy and hold is emptied (R18): those of R606 too. -/
def State.emptyCopies (s : State) : State :=
  let s := ((s.setCopies 0 []).setCopies 1 []).setCopies 2 []
  { s with evr := { s.evr with netHold := [], maintHold := [] } }

/-- Whether `a` is a word of a signal slot. -/
def isSig (a : Nat) : Bool := decide (0x400000 ≤ a) && decide (a < 0x420000)

/-- Whether `a` is a status register pair of an axis, by its offset 0x008 to 0x02F. -/
def isAxisPair (a : Nat) : Bool :=
  decide (0x1000000 ≤ a) && decide (a < 0x1800000) &&
    (let o := a % 0x100000
     decide (0x21000 ≤ o) && decide (o < 0x29000) && decide (8 ≤ o % 0x1000) && decide (o % 0x1000 < 0x30))

/-- Whether `a` is a register of a TCI input, by its offset from +0x00 of the input. -/
def tciOff? (a : Nat) : Option Nat := if 0x30100 ≤ a ∧ a < 0x30180 then some ((a - 0x30100) % 32) else none

/-- The registers that a read of `a` copies (R18, R20, R341, R411, R549, R550, R557). -/
def copiedBy (a : Nat) : List Nat :=
  if a = R.DEV_TICK_LO then [R.DEV_TICK_HI]
  else if a = R.TIME_NS then [R.TIME_SEC_LO, R.TIME_SEC_HI, R.TIME_TNS]
  else if a = R.TIME_BTICK_LO then [R.TIME_BTICK_HI, R.TIME_BSEC_LO, R.TIME_BSEC_HI, R.TIME_BNS]
  else if tciOff? a = some 0 then [a + 4, a + 8, a + 12]
  else if a = R.SNAP_NEWEST_LO ∨ a = R.SNAP_OLDER_LO then [a + 4]
  else if isAxisPair a && a % 8 == 0 then [a + 4]
  else if isSig a && a % 16 == 0 then [a + 4, a + 8, a + 12]
  else []

/-- Whether a read of `a` returns the port's copy: 0 while it is empty (R18; DEDUCED, log 40). -/
def isCopied (a : Nat) : Bool :=
  a == R.DEV_TICK_HI || a == R.TIME_SEC_LO || a == R.TIME_SEC_HI || a == R.TIME_TNS || a == R.TIME_BTICK_HI ||
    a == R.TIME_BSEC_LO || a == R.TIME_BSEC_HI || a == R.TIME_BNS || a == R.SNAP_NEWEST_HI || a == R.SNAP_OLDER_HI ||
    tciOff? a == some 4 || tciOff? a == some 8 || tciOff? a == some 12 || (isAxisPair a && a % 8 == 4)

/-! Live values. -/

/-- A word of a signal slot (R19). -/
def State.sigWord (s : State) (a : Nat) : Word :=
  let v := s.slot ((a - 0x400000) / 16)
  match a % 16 with
  | 0 => v.val
  | 4 => v.qual
  | 8 => lo32 v.stamp
  | _ => hi32 v.stamp

/-- SEAL.KEY, SEAL.SEQLO and SEAL.SEQHI of slot `n` (R145, R146). -/
def State.keyWord (s : State) (n o : Nat) : Word :=
  let k := s.letters.keys.getD n {}
  let c := s.letters.counters.getD n 0
  match o with
  | 0 => BitVec.ofNat 32 (k.revoked.toNat * 128 + k.programmed.toNat * 64 + k.mask % 16)
  | 4 => lo32 c
  | 8 => hi32 c
  | _ => 0

/-- The word of an epoch register pair (R341). -/
def epochOf (b : SnapBuf) : DWord := match b.epoch with | some k => BitVec.ofNat 64 k | none => 0xFFFFFFFFFFFFFFFF

/-- SNAP.NEWEST and SNAP.OLDER. -/
def State.snapNewest (s : State) : DWord := epochOf (s.snap.bufs.getD s.snap.newBuf {})
def State.snapOlder (s : State) : DWord := epochOf (s.snap.bufs.getD (1 - s.snap.newBuf) {})

/-- SNAP.STAT (R341). -/
def State.snapStat (s : State) : Word :=
  BitVec.ofNat 32 (s.snap.busy.isSome.toNat + 2 * (s.snap.bufs.getD 0 {}).epoch.isSome.toNat +
    4 * (s.snap.bufs.getD 1 {}).epoch.isSome.toNat + 8 * s.snap.newBuf)

/-- EVR.STAT (R613). -/
def State.evrStat (s : State) : Word :=
  let n := min 256 s.evr.queue.length
  BitVec.ofNat 32 (n * 65536 + (decide (n = 256)).toNat * 4 + s.evr.degraded.toNat * 2 + s.evr.frozen.toNat)

/-- The records in the main log: EVR.COUNT. -/
def State.evrCount (s : State) : Word := BitVec.ofNat 32 s.evr.main.length

/-- Live registers of the shared units below 0x0010_0000. -/
def State.liveShared (s : State) (a : Nat) : Word :=
  if a < 0x8000 then
    if a = R.DEV_ID then s.part.id
    else if a = R.DEV_PRESENT then s.part.present
    else if a = R.DEV_PRESENT2 then s.part.present2
    else if a = R.DEV_CAPS then s.part.caps
    else if a = R.DEV_TICK_LO then s.tickLo
    else if a = R.DEV_TICK_HI then hi32 (BitVec.ofNat 64 s.tick)
    else if a = R.PWR_STAGE then if s.life = 0 then 0x003B0104 else s.power.record.getD 0x003B0104
    else s.reg a
  else if a < 0x30000 then
    if a = R.SEAL_QDEPTH then BitVec.ofNat 32 s.queueDepth
    else if 0x20020 ≤ a ∧ a < 0x20060 then s.keyWord ((a - 0x20020) / 16) (a % 16)
    else s.reg a
  else if a < 0x40000 then
    if a = R.TIME_STAT then setFld (s.reg a) 9 8 s.pstate
    else if a = R.TIME_NS then BitVec.ofNat 32 (s.subNsAt s.now)
    else if a = R.TIME_SEC_LO then BitVec.ofNat 32 (s.secAt s.now)
    else if a = R.TIME_SEC_HI then BitVec.ofNat 32 (s.secAt s.now / 2 ^ 32)
    else if a = R.TIME_TNS then s.tnsAt s.now
    else s.reg a
  else if a < 0x70000 then
    if a = R.BATON_HELD then BitVec.ofNat 32 s.net.held.length
    else if a = R.BATON_MISSA then satWord (s.missed 0)
    else if a = R.BATON_MISSB then satWord (s.missed 1)
    else s.reg a
  else if a < 0x80000 then
    if a = R.EVR_STAT then s.evrStat
    else if a = R.EVR_OLDEST then BitVec.ofNat 32 s.evr.oldest
    else if a = R.EVR_NEWEST then BitVec.ofNat 32 s.evr.newest
    else if a = R.EVR_COUNT then s.evrCount
    else s.reg a
  else if a < 0x90000 then
    if a = R.SAFE_INPUT then s.safeInput
    else if a = R.SAFE_RAW then s.safeRaw
    else if a = R.SAFE_DEMAND then s.safeDemand
    else if a = R.SAFE_CHAN then s.safeChan
    else if a = R.SAFE_CONN then s.safeConn
    else if a = R.SAFE_HOLD then BitVec.ofNat 32 s.holdGroups
    else if a = R.SAFE_LOGCNT then BitVec.ofNat 32 s.evr.safety.length
    else s.reg a
  else if 0x90100 ≤ a ∧ a < 0x90200 ∧ a % 32 = 24 then s.chkDone ((a - 0x90100) / 32)
  else if a = R.MAINT_PTR then BitVec.ofNat 32 s.maint.ptr
  else if a = R.MAINT_PBSTATE then BitVec.ofNat 32 (s.maint.pba * 65536 + s.maint.pend.toNat)
  else if a = R.SNAP_STAT then s.snapStat
  else if a = R.SNAP_NEWEST_LO then lo32 s.snapNewest
  else if a = R.SNAP_NEWEST_HI then hi32 s.snapNewest
  else if a = R.SNAP_OLDER_LO then lo32 s.snapOlder
  else if a = R.SNAP_OLDER_HI then hi32 s.snapOlder
  else s.reg a

/-- Live registers of the buses, the analog die and the digital inputs and outputs. -/
def State.liveIo (s : State) (a : Nat) : Word :=
  if a < 0x200000 then
    let c := (a - 0x100000) / 0x10000
    if a % 0x10000 = 0x40 then BitVec.ofNat 32 (s.canPending c)
    else if 0x8000 ≤ a % 0x10000 ∧ a % 0x100 = 0xA0 then s.objStat c ((a % 0x10000 - 0x8000) / 0x100)
    else s.reg a
  else if a < 0x300000 then
    let d := (a - 0x200000) / 0x10000
    let o := a % 0x10000
    if o = 0x10 then s.strideStat d
    else if 0x120 ≤ o ∧ o % 64 = 0x20 then s.strideDstat d ((o - 0x120) / 64)
    else s.reg a
  else if a < 0x310000 then
    if a % 0x1000 = 0x10 then s.adcStat ((a - 0x300000) / 0x1000) else s.reg a
  else if a < 0x320000 then s.reg a
  else if a < 0x321000 then
    if a % 0x40 = 0x1C then s.dioStat ((a - 0x320000) / 0x40) else s.reg a
  else if a < 0x322000 then
    if a = R.ILK_STAT then s.ilkStat else if a = R.ILK_CLR then 0 else s.reg a
  else if a % 0x20 = 0x14 then s.encStat ((a - 0x322000) / 0x20)
  else s.reg a

/-- The configured cells of cluster `q`. -/
def State.clusterCells (s : State) (q : Nat) : List Nat :=
  ((List.range 16).map (fun c => 16 * q + c)).filter s.cellConfigured

/-- Live lane registers of tile `t` by offset (R253). -/
def State.liveLane (s : State) (t a : Nat) : Word :=
  let l := s.lane t
  let o := a % 0x100000
  if o = 0x04 then BitVec.ofNat 32 l.recipe
  else if o = 0x0C then BitVec.ofNat 32 (l.next.getD 0xFFFF)
  else if o = 0x1C then (if l.state = lnIDLE then 0 else satWord (s.laneElapsed t / edgesPerUs))
  else if o = 0x24 then BitVec.ofNat 32 l.gens
  else if o = 0x2C then l.stepCnt
  else if 0x40 ≤ o ∧ o < 0x80 then l.params.getD ((o - 0x40) / 4) 0
  else if o = 0x80 then s.specState t
  else s.reg a

/-- Live registers of a tile. -/
def State.liveTile (s : State) (a : Nat) : Word :=
  let t := (a - 0x1000000) / 0x100000
  let o := a % 0x100000
  if o < 0xF00 then s.liveLane t a
  else if o < 0x10000 then (if o = 0xF04 then BitVec.ofNat 32 s.tileCap else s.reg a)
  else if o < 0x20000 then
    if 0x10100 ≤ o ∧ o % 0x100 = 0x28 then s.capCond (4 * t + (o - 0x10100) / 0x100) else s.reg a
  else if o < 0x21000 then
    if o = 0x20000 then BitVec.ofNat 32 (maskBits ((List.range 8).filter (fun i => s.axisConf (8 * t + i))))
    else if o = 0x20004 then s.motBits t (fun x => x.st == axOFFLINE)
    else s.reg a
  else if o < 0x30000 then
    ((s.axis (8 * t + (o - 0x21000) / 0x1000)).show? (o % 0x1000)).getD (s.reg a)
  else if o < 0x40000 then
    let q := 4 * t + (o - 0x30000) / 0x1000
    if o % 0x1000 = 4 then satWord (((s.clusterCells q).map s.cellCost).foldl (· + ·) 0)
    else if o % 0x1000 = 0x14 then clusterBits q ((s.clusterCells q).filter (fun n => s.bitOf (R.CELL_STAT n) 10))
    else s.reg a
  else s.reg a

/-- The word that the register at `a` holds now, copies and holds apart: reserved and WO fields read 0. -/
def State.live (s : State) (a : Nat) : Word :=
  if a < 0x100000 then s.liveShared a
  else if a < 0x400000 then s.liveIo a
  else if isSig a then s.sigWord a
  else if a < 0x1000000 then s.reg a
  else s.liveTile a

/-! Reads. -/

/-- EVR.CURSOR and the window of access port `p` (R605, R606). -/
def State.evrWord (s : State) (p a : Nat) : State × Word :=
  if a = R.EVR_CURSOR then (s, s.cursor p)
  else
    let i := (a - 0x70100) / 4
    let s := if i = 0 then s.winFetch p else s
    let w := (if p < 2 then s.evr.netHold else s.evr.maintHold).getD i 0
    (if i = 63 then s.winAdvance p else s, w)

/-- Take the copies that a read of `a` takes: a read of any SIG.VAL drops the copies of the slot read before (R20). -/
def State.takeCopies (s : State) (p a : Nat) : State :=
  match copiedBy a with
  | [] => s
  | l =>
    let old := if isSig a then (s.copies p).filter (fun x => !isSig x.1) else s.copies p
    s.setCopies p (l.foldl (fun c b => tabInsert c b (s.live b)) old)

/-- The word that access port `p` reads at a register, with its side effects. -/
def State.readPresent (s : State) (p a : Nat) : State × Word :=
  if a = R.EVR_CURSOR || (decide (0x70100 ≤ a) && decide (a < 0x70200)) then s.evrWord p a
  else if isCopied a then (s, (tabFind (s.copies p) a).getD 0)
  else if isSig a && a % 16 != 0 then (s, (tabFind (s.copies p) a).getD (s.live a))
  else (s.takeCopies p a, s.live a)

/-- Whether an access to `a` is a bad access (R8, R31). -/
def badAddr (a : Nat) : Bool := a % 4 != 0 || ((regRow? a).isNone && !quietHole a)

/-- A read of `a` through access port `p`, as one aligned access or a bad one. -/
def State.readReg (s : State) (p a : Nat) : State × Word :=
  if badAddr a then (s.badAccess a, 0)
  else if (regRow? a).isNone || !s.regPresent a then (s, 0)
  else s.readPresent p a

/-- Reads of `n` words from `a` on. -/
def State.readWords (p : Nat) : Nat → Nat → State → State × List Word
  | 0, _, s => (s, [])
  | n + 1, a, s =>
    let x := s.readReg p a
    let y := State.readWords p n (a + 4) x.1
    (y.1, x.2 :: y.2)

/-- The entries of a READ payload: address and count (R143). -/
def readEntries (b : List Byte) : List (Nat × Nat) :=
  (chunks 8 (b.length / 8) b).map (fun e => (uAt e 0 4, uAt e 4 2))

/-- Whether a READ payload is well formed (R143). -/
def readOk (b : List Byte) : Bool :=
  b.length % 8 == 0 && decide (8 ≤ b.length) && decide (b.length ≤ 128) &&
    (chunks 8 (b.length / 8) b).all (fun e =>
      uAt e 0 4 % 4 == 0 && decide (1 ≤ uAt e 4 2) && decide (uAt e 4 2 ≤ 256) && uAt e 6 2 == 0) &&
    decide (((readEntries b).map (·.2)).foldl (· + ·) 0 ≤ 352)

/-- Every entry of a READ in order. -/
def State.readAll (p : Nat) (l : List (Nat × Nat)) (s : State) : State × List Word :=
  l.foldl (fun (x : State × List Word) e =>
    let y := State.readWords p e.2 e.1 x.1
    (y.1, x.2 ++ y.2)) (s, [])

/-- A READ request (R143, R144). -/
def State.readReq (s : State) (o : Origin) (b : List Byte) : State :=
  if !readOk b then s.reply o 3 (leBytes 4 1)
  else
    let x := State.readAll o.port (readEntries b) s
    x.1.reply o 3 (leBytes 4 0 ++ x.2.flatMap wBytes)

/-! Writes. -/

/-- A write by the access codes of R10 alone. -/
def State.writeMasked (s : State) (r : RegRow) (sealed_ : Bool) (a : Nat) (w : Word) : State :=
  let m := r.rw ||| (if sealed_ then s.sealMask r else 0)
  s.modReg a (fun v => ((v &&& ~~~m) ||| (w &&& m)) &&& ~~~(w &&& r.w1c))

/-- A write of a register that is there, by a write path: `sealed_` for one carried by a letter (R10). Access port `p`
selects the cursor of R605. -/
def State.writePresent (s : State) (p : Nat) (sealed_ : Bool) (r : RegRow) (a : Nat) (w : Word) : State :=
  if a = R.EVR_CURSOR then s.writeCursor p w
  else if a = R.EVR_FRZCTL then s.writeFrz w
  else if a = R.BATON_CTRL then (if sealed_ && bit w 0 then s.batonMove else s)
  else if a = R.ILK_CLR then s.ilkClear w
  else if 0x90100 ≤ a ∧ a < 0x90200 ∧ a % 32 = 0 then s.writeChk ((a - 0x90100) / 32) w
  else if 0x30200 ≤ a ∧ a < 0x30280 ∧ a % 32 = 0 then (if sealed_ then s.writeTpoCtrl ((a - 0x30200) / 32) w else s)
  else s.writeMasked r sealed_ a w

/-- A write of `w` at address `a` by a write path (R8, R10, R31). -/
def State.writeReg (s : State) (p : Nat) (sealed_ : Bool) (a : Nat) (w : Word) : State :=
  if badAddr a then s.badAccess a
  else
    match regRow? a with
    | none => s
    | some r => if s.regPresent a then s.writePresent p sealed_ r a w else s

/-! The commands. -/

/-- READ: a READ datagram. -/
def execRead (o : Origin) (b : List Byte) (e : Nat) (s : State) : Out :=
  onPort o ((s.atEdge e).onFrame o (fun s => s.readReq o b))

/-- A read by access port `p` of a register among those that `ok` admits. The maintenance port returns the word by RDL;
the copies are what the read leaves. -/
def State.readCmd (s : State) (ok : Bool) (p a e : Nat) : Out := answer (ok && decide (p < 3)) ((s.atEdge e).readReg p a).1

/-- TICK_LO_READ. -/
def execTickLoRead (p e : Nat) (s : State) : Out := s.readCmd true p R.DEV_TICK_LO e

/-- SIG_VAL_READ of slot `n`. -/
def execSigValRead (p n e : Nat) (s : State) : Out := s.readCmd (decide (n < 8192)) p (R.SIG_VAL n) e

/-- TIME_NS_READ. -/
def execTimeNsRead (p e : Nat) (s : State) : Out := s.readCmd true p R.TIME_NS e

/-- BTICK_LO_READ. -/
def execBtickLoRead (p e : Nat) (s : State) : Out := s.readCmd true p R.TIME_BTICK_LO e

/-- TCI_NS_READ of input `n`. -/
def execTciNsRead (p n e : Nat) (s : State) : Out := s.readCmd (decide (n < 4)) p (R.TCI_NS n) e

/-- LO_REGISTER_READ at `a`: SNAP.NEWEST_LO, SNAP.OLDER_LO or an axis _LO register; a read of another address is the
read that R18 to R31 give it. -/
def execLoRegisterRead (p a e : Nat) (s : State) : Out := s.readCmd true p a e

/-- Whether the lifecycle makes maintenance-port writes a write path (R121, R691). -/
def State.maintWrites (s : State) : Bool := s.life == 1 || s.life == 3

/-- BAD_ACCESS: an access that is not an aligned 32-bit one (`aligned` false), or one to `a` where no register lies. -/
def execBadAccess (a : Nat) (aligned : Bool) (e : Nat) (s : State) : Out :=
  let s := s.atEdge e
  .next (if !aligned || badAddr a then s.badAccess a else s)

end Sys2Proof.Machine
end

