-- ==== Sys2Proof/Machine/Maint.lean ====
section
/-! DEFINITION. The maintenance port and the Postbox (R686 to R702).
Where the spec can be read in two ways the assumption log says what was read: entries 41, 42, 80 (DEDUCED unless marked there otherwise). -/

namespace Sys2Proof.Machine

/-- Change the port. -/
def State.modMaint (s : State) (f : Maint → Maint) : State := { s with maint := f s.maint }

/-- MIRQ_N is low (R694). -/
def State.mirqLow (s : State) : Bool :=
  s.maintServed && (s.reg R.MAINT_IRQSTAT).toNat &&& s.fldOf R.MAINT_IRQCFG 3 0 != 0

/-- STATUS of a frame (R692). -/
def State.maintStatus (s : State) : Nat :=
  64 + 32 * s.maint.nextFrame.toNat + 16 * s.maint.nextWref.toNat + 8 * s.maint.nextBad.toNat +
    4 * s.maint.nextRst.toNat + 2 * s.mirqLow.toNat

/-- A frame whose action is `act`, which gives MSDO's data field: STATUS reports the frame before (R687). -/
def State.frame (s : State) (act : State → State × Nat) : State :=
  if !s.maintServed then s
  else
    let status := s.maintStatus
    let s := (s.modMaint (fun m => { m with nextFrame := false, nextWref := false, nextBad := false, nextRst := false })).bump
      R.MAINT_FRAMES
    let x := act s
    x.1.emit (.maint status (x.2 % 65536))

/-- The pointer advances by 4. -/
def State.ptrNext (s : State) : State := s.modMaint (fun m => { m with ptr := (m.ptr + 4) % 2 ^ 32 })

/-- The next STATUS shows BAD or WREF. -/
def State.nextBad (s : State) : State := s.modMaint (fun m => { m with nextBad := true })
def State.nextWref (s : State) : State := s.modMaint (fun m => { m with nextWref := true })

/-- RDL (R690). -/
def State.rdl (s : State) : State × Nat :=
  let a := s.maint.ptr
  let x := s.readReg 2 a
  let t := if badAddr a then x.1.nextBad else x.1
  (t.modMaint (fun m => { m with readHold := x.2.toNat / 65536 }), x.2.toNat % 65536)

/-- A register write by the maintenance port: a write path in PROVISIONED and RETURNED, and in every lifecycle state for
EVR.CURSOR and EVR.FRZCTL; any other is refused (R10, R607, R691). -/
def State.maintWrite (s : State) (a : Nat) (w : Word) : State :=
  if s.maintWrites || a == R.EVR_CURSOR || a == R.EVR_FRZCTL then
    (let t := s.writeReg 2 false a w
     if badAddr a then t.nextBad else t)
  else s.nextWref

/-- WRH (R691): whether the write is refused or not, the pointer advances (DEDUCED, log 42). -/
def State.wrh (s : State) (d : Nat) : State :=
  (s.maintWrite s.maint.ptr (BitVec.ofNat 32 (d % 65536 * 65536 + s.maint.writeHold))).ptrNext

/-! The Postbox. -/

/-- A binary32 value in Q4.12 (R697). -/
def q412 (x : F32) : Nat :=
  if fIsNan x then 0
  else if !fIsFin x then (if flt x 0 then 0x8000 else 0x7FFF)
  else toBits 16 (clampInt (vRoundInt (vMul (fv x) (vInt 4096))) (-32768) 32767)

/-- The value of the slot that a binding names, in Q4.12: 0 when it is not enabled. -/
def State.legacySlot (s : State) (a : Nat) : Nat :=
  match s.bound (s.reg a) with
  | some v => q412 v.val
  | none => 0

/-- The legacy map (R696). -/
def State.legacy (s : State) (p : Nat) : Nat :=
  if p = 0 then s.maint.wacc.toNat + 2 * (decide (s.dev = stRUN)).toNat + 4 * (decide (s.dev = stSAFE)).toNat +
    8 * s.faultLow.toNat
  else if p = 1 then fld s.part.id 31 16
  else if p = 2 then s.tick % 65536
  else if p < 0x40 then 0
  else if p < 0x80 then
    (if s.cellMode (p - 0x40) = modeAUTO then s.legacySlot (R.CELL_SP (p - 0x40))
     else if s.cellMode (p - 0x40) = modeCASCADE then s.legacySlot (R.CELL_CASC (p - 0x40))
     else 0)
  else if p < 0xC0 then s.legacySlot (R.CELL_MEAS (p - 0x80) 0)
  else if p < 0x100 then tabGet (fun _ => 0) s.maint.scratch p
  else 0

/-- PTR advances within its page, or takes PBA (R695). -/
def Maint.pbNext (m : Maint) : Maint :=
  let p := m.pbPtr / 64 * 64 + (m.pbPtr + 1) % 64
  if m.pend then { m with pbPtr := m.pba, pend := false } else { m with pbPtr := p }

/-- A store of the Postbox by lifecycle state (R698). -/
def State.pbStore (s : State) (p d : Nat) : State :=
  if s.maintWrites then
    (if 0xC0 ≤ p ∧ p < 0x100 then
      s.modMaint (fun m => { m with scratch := tabSet (fun _ => 0) m.scratch p d, wacc := true })
     else s.modMaint (fun m => { m with wacc := false }))
  else if s.life = 2 then
    (let s := ((s.modMaint (fun m => { m with wacc := true })).bump R.MAINT_PBDISC).orReg R.MAINT_IRQSTAT 8
     s.raise 0x9001 noSource (BitVec.ofNat 32 p) (BitVec.ofNat 32 d) (s.reg R.MAINT_PBDISC) s.tickLo)
  else (s.modMaint (fun m => { m with wacc := false })).nextWref

/-- PBD_RD and PBD_WR (R695). -/
def State.pbdRd (s : State) : State × Nat :=
  (s.modMaint (fun m => ({ m with rdbuf := s.legacy m.pbPtr }).pbNext), s.maint.rdbuf)

def State.pbdWr (s : State) (d : Nat) : State := (s.pbStore s.maint.pbPtr d).modMaint Maint.pbNext

/-- A warm restart sets the pointer, the holds and the Postbox state to 0 (R693); the scratch words stay (R696). -/
def State.maintT0 (s : State) : State :=
  s.modMaint (fun m => { scratch := m.scratch, nextRst := true })

/-! The commands. -/

/-- MAINT_FRAME_ERROR: a frame of the wrong length or with an unknown CMD (R687, R689). -/
def execMaintFrameError (e : Nat) (s : State) : Out :=
  .next ((s.atEdge e).frame (fun s => ((s.bump R.MAINT_FRAMEERR).modMaint (fun m => { m with nextFrame := true }), 0)))

/-- REGISTER_WRITE: a write of `w` at `a` by access port `p`. The write paths are the letters of ports A and B in the
lifecycle states that permit letters of role MAINTAIN (R121, R139), and the maintenance port while it is served (R10,
R686, R691); a write by no path has no effect. -/
def execRegisterWrite (p : Nat) (sealed_ : Bool) (a : Nat) (w : Word) (e : Nat) (s : State) : Out :=
  let s := s.atEdge e
  answer (decide (p < 3)) (
    if p = 2 then (if !sealed_ && s.maintServed then s.maintWrite a w else s)
    else if sealed_ && decide (1 ≤ s.life) && decide (s.life ≤ 3) then s.writeReg p true a w
    else s)

/-- NOP. -/
def execNop (e : Nat) (s : State) : Out := .next ((s.atEdge e).frame (fun s => (s, 0)))

/-- ADR with its command byte and DATA (R690). -/
def execAdr (cmd data e : Nat) (s : State) : Out :=
  .next ((s.atEdge e).frame (fun s =>
    (s.modMaint (fun m => { m with ptr := (cmd % 128 * 65536 + data % 65536) * 4 }), 0)))

/-- RDL. -/
def execRdl (e : Nat) (s : State) : Out := .next ((s.atEdge e).frame State.rdl)

/-- RDH (R690). -/
def execRdh (e : Nat) (s : State) : Out := .next ((s.atEdge e).frame (fun s => (s.ptrNext, s.maint.readHold)))

/-- WRL. -/
def execWrl (data e : Nat) (s : State) : Out :=
  .next ((s.atEdge e).frame (fun s => (s.modMaint (fun m => { m with writeHold := data % 65536 }), 0)))

/-- WRH. -/
def execWrh (data e : Nat) (s : State) : Out := .next ((s.atEdge e).frame (fun s => (s.wrh data, 0)))

/-- IRQACK (R689). -/
def execIrqack (data e : Nat) (s : State) : Out :=
  .next ((s.atEdge e).frame (fun s => (s.clrReg R.MAINT_IRQSTAT (BitVec.ofNat 32 (data % 16)), 0)))

/-- PBA_WR (R695). -/
def execPbaWr (data e : Nat) (s : State) : Out :=
  .next ((s.atEdge e).frame (fun s => (s.modMaint (fun m => { m with pba := data % 65536, pend := true }), 0)))

/-- PBD_RD. -/
def execPbdRd (e : Nat) (s : State) : Out := .next ((s.atEdge e).frame State.pbdRd)

/-- PBD_WR. -/
def execPbdWr (data e : Nat) (s : State) : Out := .next ((s.atEdge e).frame (fun s => (s.pbdWr (data % 65536), 0)))

end Sys2Proof.Machine
end

