-- ==== Sys2Proof/Machine/Snap.lean ====
section
/-! DEFINITION. The photo finish (R320 to R334) and the readout engine's datagrams (R313, R314, R316).
Where the spec can be read in two ways the assumption log says what was read: entries 43, 73 (DEDUCED unless marked there otherwise). -/

namespace Sys2Proof.Machine

/-- Change the snapshot engine. -/
def State.modSnap (s : State) (f : Snap → Snap) : State := { s with snap := f s.snap }

/-- SLOTCOUNT (R322). -/
def State.slotCount (s : State) : Nat := 8192 / max 1 s.tileCount

/-- Blocks placed at their word offsets, with words of 0 between them. -/
def layBlocks : Nat → List (Nat × List Word) → List Word
  | _, [] => []
  | at_, (o, ws) :: r => List.replicate (o - at_) 0 ++ ws ++ layBlocks (max at_ o + ws.length) r

/-- `n` live words from address `a`. -/
def State.liveWords (s : State) (a n : Nat) : List Word := (List.range n).map (fun i => s.live (a + 4 * i))

/-- A slot's entry at epoch `k` (R325). -/
def State.slotEntry (s : State) (k n : Nat) : List Word :=
  let v := s.slot n
  let age := if v.stamp = 0xFFFFFFFFFFFFFFFF then 0xFFFFFFFF else min 0xFFFFFFFF (k - v.stamp.toNat)
  [v.val, v.qual, BitVec.ofNat 32 age]

/-- The register blocks and slots of tile `t` by word offset (R323). -/
def State.snapBlocks (s : State) (t k : Nat) : List (Nat × List Word) :=
  let b := 0x1000000 + t * 0x100000
  [(0x40 / 4, s.liveWords b 34), (0x100 / 4, s.liveWords (b + 0xF00) 7)] ++
    (List.range 4).map (fun q => ((0x120 + 0x18 * q) / 4, s.liveWords (b + 0x30000 + q * 0x1000) 6)) ++
    [(0x180 / 4, s.liveWords (b + 0x10000) 12)] ++
    (List.range 4).map (fun e => ((0x1B0 + 0x30 * e) / 4, s.liveWords (b + 0x10100 + 0x100 * e) 12)) ++
    (List.range 8).map (fun a => ((0x400 + 0x80 * a) / 4, s.liveWords (b + 0x21000 + 0x1000 * a) 32)) ++
    (List.range 64).flatMap (fun c =>
      [((0x800 + 0xA0 * c) / 4, s.liveWords (b + 0x40080 + 0x1000 * c) 12),
       ((0x830 + 0xA0 * c) / 4, s.liveWords (b + 0x40100 + 0x1000 * c) 28)]) ++
    [(0x3000 / 4, (List.range s.slotCount).flatMap (fun i => s.slotEntry k (t * s.slotCount + i)))]

/-- The header of tile `t` but for its CRC (R324). -/
def State.snapHeader (s : State) (t k : Nat) (periodic requested : Bool) : List Word :=
  let flags := periodic.toNat + 2 * requested.toNat + 4 * (s.failedBit (unitTile t)).toNat +
    8 * (decide (s.dev = stSAFE)).toNat
  let b := leBytes 2 0x4650 ++ leBytes 2 flags ++ leBytes 1 t ++ leBytes 1 s.tileCount ++ leBytes 2 0 ++ leBytes 8 k ++
    wBytes (s.tnsAt s.edgeBase) ++ leBytes 2 (s.secAt s.edgeBase) ++ leBytes 2 0 ++
    leBytes 4 (0x3000 + 12 * s.slotCount) ++ leBytes 2 (t * s.slotCount) ++ leBytes 2 s.slotCount ++
    leBytes 8 (s.snap.seq + 1) ++ wBytes (s.reg R.PWR_STATE) ++ wBytes (s.reg R.DEV_TBASE) ++
    leBytes 12 0
  wordsOf b

/-- The words of tile `t`'s buffer from its start to LEN. -/
def State.snapWords (s : State) (t k : Nat) (periodic requested : Bool) : List Word :=
  let h := s.snapHeader t k periodic requested
  let d := layBlocks 16 (s.snapBlocks t k)
  h ++ [BitVec.ofNat 32 (crc32c ((h ++ d).flatMap wBytes))] ++ d

/-- Whether the policy wants a photo finish at B(k) (R327, R334). -/
def State.snapPeriodic (s : State) (k : Nat) : Bool :=
  let p := s.fldOf R.SNAP_POLICY 23 0
  let n := max 2 p
  p != 0 && k % n == s.fldOf R.SNAP_PHASE 23 0 % n

/-- Whether a request was accepted at least 1 us before the present boundary (R327). -/
def State.snapWaits (s : State) (r : Origin × Nat) : Bool := decide (r.2 + edgesPerUs ≤ s.edgeBase)

/-- The buffer that a new photo finish takes (R328). -/
def State.snapTarget (s : State) : Nat :=
  if (s.snap.bufs.getD s.snap.newBuf {}).epoch.isSome then 1 - s.snap.newBuf else Config.firstBuffer.toNat

/-- Take a photo finish at B(k). -/
def State.snapTake (s : State) (k : Nat) (periodic : Bool) : State :=
  let serves := (s.snap.reqs.filter s.snapWaits).map (·.1)
  let g := s.snapTarget
  let ws := (List.range s.tileCount).map (fun t => s.snapWords t k periodic (!serves.isEmpty))
  let s := s.modSnap (fun x => { x with
    bufs := modifyAt x.bufs g (fun _ => { epoch := none, words := ws }),
    busy := some ⟨g, k, serves⟩,
    seq := x.seq + 1,
    reqs := x.reqs.filter (fun r => !s.snapWaits r) })
  forUpTo 8 (fun t s => s.touch 0 (t * 0x20000 + g * 0x10000) 0x10000) (s.bump R.SNAP_TAKEN)

/-- The photo finish being taken is complete (R328, R330). -/
def State.snapReady (s : State) : State :=
  match s.snap.busy with
  | none => s
  | some p =>
    let s := s.modSnap (fun x => { x with
      bufs := modifyAt x.bufs p.target (fun b => { b with epoch := some p.epoch }), newBuf := p.target, busy := none })
    p.serves.foldl (fun s o => (s.bump R.SNAP_REQCNT).bulkData o bulkOK 0x10 0xFF true p.epoch 0 []) s

/-- The snapshot engine at B(k), after the commits: a photo finish of two ticks before is complete, then one may begin
(R327 to R329). -/
def State.snapBoundary (s : State) (k : Nat) : State :=
  let s := match s.snap.busy with
    | some p => if p.epoch + 2 ≤ k then s.snapReady else s
    | none => s
  if !(s.dev == stRUN || s.dev == stSAFE) then s
  else
    match s.snap.busy with
    | some _ => if s.snapPeriodic k then s.bump R.SNAP_SKIPCNT else s
    | none => if s.snapPeriodic k || s.snap.reqs.any s.snapWaits then s.snapTake k (s.snapPeriodic k) else s

/-- A SNAP_REQ with its payload, which waited `wait` cycles at the request list (R330). -/
def State.snapReq (s : State) (o : Origin) (b : List Byte) (wait : Nat) : State :=
  let no (s : State) (st : Nat) : State := s.bulkData o st 0x10 0xFF true 0 0 []
  if b ≠ [] then no s bulkMALFORMED
  else if !(s.dev == stRUN || s.dev == stSAFE) then no s bulkRANGE
  else if 8 ≤ ((s.snap.reqs.map (·.1)).filter (fun x => x.port == o.port)).length then no (s.bump R.SNAP_REQBUSY) bulkBUSY
  else (s.waited 6 wait).modSnap (fun x =>
    { x with reqs := grantInsert (fun r => portReq r.1.port r.2) (o, s.now) x.reqs })

/-- The buffer that holds an epoch. -/
def State.snapBuf? (s : State) (k : Nat) : Option Nat :=
  (List.range 2).find? (fun i => (s.snap.bufs.getD i {}).epoch == some k)

/-- A SNAP_READ (R333); an epoch that no buffer holds and that is not newer than SNAP.NEWEST is LOST (DEDUCED, log 43). -/
def State.snapRead (s : State) (b : Bulk) : State :=
  let t := Bulk.unit b
  if !bulkFormed b 0x11 || 7 < t || 0x10000 ≤ Bulk.offset b || Bulk.length b < 1 ||
      0x10000 - Bulk.offset b < Bulk.length b then s.bulkEnd b bulkMALFORMED
  else if !s.presentBit (unitTile t) then s.bulkEnd b bulkABSENT
  else if (s.snapBuf? (Bulk.pos b)).isSome then s.acceptRead b (Bulk.offset b) (Bulk.offset b + Bulk.length b) 0
  else s.bulkEnd b (if s.snapNewest.toNat < Bulk.pos b then bulkRANGE else bulkLOST)

/-- T0 of a warm restart: requests and buffers go (R331). -/
def State.snapT0 (s : State) : State :=
  s.modSnap (fun x => { x with reqs := [], busy := none, bufs := x.bufs.map (fun b => { b with epoch := none }) })

/-- A load that does not resume state: SNAP's and ARB's registers (R341). -/
def State.loadSnap (s : State) : State :=
  forUpTo 17 (fun i s => s.setReg (0xC0800 + 4 * i) 0) <| forUpTo 12 (fun i s => s.setReg (0xC0000 + 4 * i) 0)
    (s.modSnap (fun x => { x with reqs := [], busy := none, newBuf := 0, seq := 0, bufs := x.bufs.map (fun b => { b with epoch := none }) }))

/-! The readout engine. -/

/-- Whether the range of a request is lost (R314, R333). -/
def State.requestLost (s : State) (q : Readout) : Bool :=
  if Bulk.op q.bulk = 0x11 then (s.snapBuf? (Bulk.pos q.bulk)).isNone else s.readLost q

/-- The bytes of a request from `o`. -/
def State.requestBytes (s : State) (q : Readout) (o n : Nat) : List Byte :=
  if Bulk.op q.bulk = 0x11 then
    (match s.snapBuf? (Bulk.pos q.bulk) with
     | some i => (List.range n).map (fun j => s.snapByte (Bulk.unit q.bulk * 0x20000 + i * 0x10000 + o + j))
     | none => [])
  else s.readBytes q o n

/-- The port that the engine serves next: they alternate (R316). -/
def State.readPort (s : State) : Option Nat :=
  let p := 1 - s.acq.lastPort
  if (s.readouts p).isEmpty then (if (s.readouts (1 - p)).isEmpty then none else some (1 - p)) else some p

/-- A datagram's data are copied into the staging partition (R314). -/
def State.stageBytes (s : State) (d : List Byte) : State :=
  match s.image.part? 4 0 0 with
  | some p => s.dramWrite ((p.base + Config.stagingPage s.now % max 1 p.size) * dramPage) d
  | none => s

/-- Serve one datagram (R313, R314, R316), its cycles having waited `wait` cycles (R337). -/
def State.readoutServe (s : State) (wait : Nat) : State :=
  match s.readPort with
  | none => s
  | some p =>
    match s.readouts p with
    | [] => s
    | q :: r =>
      let s := s.waited 1 wait
      let s := if q.begun then s else s.maxReg R.MEM_RDOLATMAX (satWord ((s.now - q.arrived) / edgesPerUs))
      let put (s : State) (l : List Readout) : State :=
        s.modAcq (fun a => { a with reqs := modifyAt a.reqs p (fun _ => l), lastPort := p })
      if s.requestLost q then (put s r).bulkEnd q.bulk bulkLOST
      else
        let n := min 1440 (q.stop - q.next)
        let last := decide (q.stop ≤ q.next + n)
        let d := s.requestBytes q q.next n
        let s := s.stageBytes d
        let op := Bulk.op q.bulk
        (put s (if last then r else { q with next := q.next + n, begun := true } :: r)).bulkData q.bulk.org bulkOK
          (Bulk.op q.bulk) (Bulk.unit q.bulk) last (if op = 1 then q.next else Bulk.pos q.bulk)
          (if op = 3 then q.next else 0) d

/-! The commands. -/

/-- SNAP_READ. -/
def execSnapRead (b : Bulk) (e : Nat) (s : State) : Out :=
  onPort b.org ((s.atEdge e).onFrame b.org (fun s => s.snapRead b))

/-- READOUT_DATAGRAM. -/
def execReadoutDatagram (wait e : Nat) (s : State) : Out := .next ((s.atEdge e).readoutServe wait)

/-- SNAP_REQ with the payload of its datagram. -/
def execSnapReq (o : Origin) (b : List Byte) (wait e : Nat) (s : State) : Out :=
  onPort o ((s.atEdge e).onFrame o (fun s => s.snapReq o b wait))

/-- PHOTO_FINISH_READY: the engine stays busy at B(k+1) (R329), so that a photo finish taken at B(k) is ready after it. -/
def execPhotoFinishReady (e : Nat) (s : State) : Out :=
  let s := s.atEdge e
  .next (match s.snap.busy with
    | some p => if p.epoch < s.tick then s.snapReady else s
    | none => s)

end Sys2Proof.Machine
end

