-- ==== Sys2Proof/Machine/Modes.lean ====
section
/-! DEFINITION. Entry into READY, RUN, SAFE and HALT (R57 to R60), and T0 of a warm restart (R73).
Where the spec can be read in two ways the assumption log says what was read: entries 15, 19, 36 (DEDUCED unless marked there otherwise). -/

namespace Sys2Proof.Machine

/-- What entry into a device state does to every output (R58). -/
def State.entered (s : State) : State := s.dioEntered.dacAll.canEntered.strideEntered

/-- Entry into READY. -/
def State.enterReady (s : State) (warm : Bool) : State := (s.enter stREADY 0 warm).entered

/-- Entry into RUN: a cause of an earlier SAFE is forgotten. -/
def State.enterRun (s : State) : State :=
  let s := s.enter stRUN 0 false
  ({ s with power := { s.power with safeDue := 0 } } : State).entered

/-- Entry into SAFE with its cause (R59). -/
def State.enterSafe (s : State) (cause : Nat) : State :=
  let s := s.enter stSAFE cause false
  ({ s with power := { s.power with safeDue := 0 } } : State).lanesSafe.axesSafe.entered

/-- Entry into HALT with its cause: without an image the ports take their recovery addresses (R60). -/
def State.enterHalt (s : State) (cause : Nat) : State :=
  let s := s.enter stHALT cause false
  let s := { s with power := { s.power with safeDue := 0 }, counting := false, ticked := none }
  let s := s.entered
  if s.loaded then s else s.recoverNet

/-- A start condition in READY (R57): RUN, or SAFE when a unit has failed. -/
def State.startCondition (s : State) : State :=
  let s := if s.reg R.DEV_FAILED = 0 ∧ s.reg R.DEV_FAILED2 = 0 then s.enterRun else s.enterSafe 1
  s.islEntered

/-- A new warm restart while the previous one or its guard still stands (R77): HALT with CAUSE 0x13 before B(r+1), and
0x11 within one second after it. -/
def State.repeatCause (s : State) : Option Nat :=
  if s.warm.phase ≠ .none then some 0x13
  else match s.warm.released with
    | some t => if s.now < t + 1000 * edgesPerMs then some 0x11 else none
    | none => none

/-- The newest checkpoint, if any: a copy that is not complete is not the newest (R72, R73). -/
def State.newestCkpt (s : State) (complete : Bool) : Option Ckpt :=
  match s.ckpts with
  | [] => none
  | c :: r => if complete || s.ticked != some c.tick then some c else r.head?

/-- The newest checkpoint alone stands. -/
def State.keepCkpt (s : State) (complete : Bool) : State := { s with ckpts := (s.newestCkpt complete).toList }

/-- What the reset of the CORE, BUS and LINK domains discards and the hold latches keep at T0 (R73, R75, R78). `writing`
says whether the letter at the counter write has begun it. -/
def State.warmDrop (s : State) (writing : Bool) : State :=
  let s := ((s.lanesT0.lettersT0 writing).netT0.strideT0.islT0.chkT0.acqDiscard.adcDiscard.dacHold.dioHold.snapT0.maintT0).emptyCopies
  { s with staged := [], ticked := none }

/-- T0 of a warm restart (R73, R79). `complete` says whether the checkpoint of the present tick is complete. The tick number
j goes into the event as its bits [31:0] (DESIGN CHOICE, log 86). -/
def State.warmT0 (s : State) (complete writing : Bool) : State :=
  let s := s.keepCkpt complete
  let j := match s.ckpts with | c :: _ => c.tick | [] => s.tick
  let s := (s.warmDrop writing).bumpBy R.CLK_FIFORST 4
  let s := { s with
    warm := { s.warm with phase := .restoring, t0 := s.now, j := j, ticks := 0, resumed := false, from_ := s.dev } }
  (s.dacMoved.bump R.PWR_WRCNT).raise 0x1003 noSource (s.reg R.PWR_RSTCAUSE) (BitVec.ofNat 32 j) 0 0

/-- A restart that ends in HALT before B(r) has not resumed state: its second event (R79), with reason 4 for a hold timeout
and 5 for a fault during the restart (DESIGN CHOICE, log 17). -/
def State.haltEvent (s : State) (cause : Nat) : State :=
  if s.warm.phase = .restoring ∨ s.warm.phase = .restored then
    s.raise 0x1005 noSource (if cause = 0x12 then 4 else 5) 0 0 0
  else s

/-- A failed or repeated warm restart: HALT, whose outputs are at their safe values (R76, R77, R79). -/
def State.warmHalt (s : State) (cause : Nat) : State :=
  let s := s.haltEvent cause
  ({ s.dropCkpts with warm := { s.warm with phase := .none, released := none, safe := false } } : State).enterHalt cause

/-- Warm-restart causes, as bits of PWR.RSTCAUSE (R61, R65, R77): several that arise together cause one restart. Outside
READY, RUN and SAFE they begin none. -/
def State.warmCause (s : State) (bits : Nat) (complete writing : Bool) : State :=
  if s.dev ≠ stREADY ∧ s.dev ≠ stRUN ∧ s.dev ≠ stSAFE then s
  else
    let s := s.orReg R.PWR_RSTCAUSE (BitVec.ofNat 32 bits)
    if s.warm.phase = .restoring ∧ s.now = s.warm.t0 then s
    else match s.repeatCause with
    | some c => (if s.warm.phase = .none then s.warmDrop writing else s).warmHalt c
    | none => s.warmT0 complete writing

end Sys2Proof.Machine
end

