-- ==== Sys2Proof/Machine/Load.lean ====
section
/-! DEFINITION. The load of a configuration image (R81 to R118, R709 to R711).
Where the spec can be read in two ways the assumption log says what was read: entries 31 to 35, 44 (DEDUCED unless marked there otherwise). -/

namespace Sys2Proof.Machine

/-! The flash (R81 to R88). -/

/-- A table from key `a` on. -/
def tabFrom {α : Type} (a : Nat) : Tab α → Tab α
  | [] => []
  | (k, v) :: r => if k < a then tabFrom a r else (k, v) :: r

/-- What a table whose keys are at least `a` holds at `n` keys from `a` on, unlisted ones reading `d`. -/
def tabTake {α : Type} (d : α) : Nat → Nat → Tab α → List α
  | 0, _, _ => []
  | n + 1, _, [] => List.replicate (n + 1) d
  | n + 1, a, (k, v) :: r =>
    if k = a then v :: tabTake d n (a + 1) r else d :: tabTake d n (a + 1) ((k, v) :: r)

/-- `n` bytes of flash from byte `a`; erased flash reads 0xFF (PRESUMED, log 7). -/
def State.flashRead (s : State) (a n : Nat) : List Byte := tabTake 0xFF n a (tabFrom a s.flash.bytes)

/-- The first byte of slot `k` (R83). -/
def State.slotBase (s : State) (k : Nat) : Nat := k * s.slotSize

/-- Whether the flash can be prepared (R81, R83). -/
def State.flashReady (s : State) : Bool := s.flash.sfdp && decide (0x1000000 ≤ s.flash.density)

/-- The lowest of the flash addresses `bad` among `n` bytes from `a` (R88). -/
def badIn (bad : List Nat) (a n : Nat) : Option Nat :=
  (bad.filter (fun x => decide (a ≤ x) && decide (x < a + n))).foldl
    (fun m x => match m with | none => some x | some y => some (min x y)) none

/-- LENGTH of the HEADER section that a slot's first bytes spell, if TYPE, FORMAT and LENGTH are those of one (R85). -/
def State.headerLen (s : State) (slot : Nat) : Option Nat :=
  let h := s.flashRead (s.slotBase slot) 16
  let n := uAt h 4 4
  if uAt h 0 2 = 1 ∧ uAt h 2 2 = 1 ∧ 0x60 ≤ n ∧ n + 16 ≤ s.slotSize then some n else none

/-- A slot's bytes hold a well-formed HEADER section (R85). -/
def State.isCandidate (s : State) (slot : Nat) : Bool :=
  match s.headerLen slot with
  | none => false
  | some n =>
    let h := s.flashRead (s.slotBase slot) (16 + n)
    crc32c (h.drop 16) == uAt h 8 4 && uAt h 16 4 == 0x484C5246 && uAt h 20 2 == 1 && decide (uAt h 0x20 4 ≤ s.slotSize)

/-- The code and parameter with which a slot is rejected before the candidates are tried, if it is (R85). -/
def State.preReject (s : State) (bad : List Nat) (slot : Nat) : Option (Nat × Nat) :=
  if !s.flashReady then some (2, if s.flash.sfdp then s.slotBase slot else 0)
  else match badIn bad (s.slotBase slot) (16 + (s.headerLen slot).getD 0) with
    | some a => some (2, a)
    | none => if s.isCandidate slot then none else some (1, 0)

/-- The bytes of a candidate slot's image. -/
def State.slotImage (s : State) (slot : Nat) : List Byte :=
  s.flashRead (s.slotBase slot) (uAt (s.flashRead (s.slotBase slot) 0x24) 0x20 4)

/-- GENERATION of a slot's header. -/
def State.slotGen (s : State) (slot : Nat) : Nat := uAt (s.flashRead (s.slotBase slot) 0x20) 0x18 8

/-- The candidates in the order in which they are tried (R85). -/
def State.candidates (s : State) (bad : List Nat) : List Nat :=
  let c := [0, 1].filter (fun k => (s.preReject bad k).isNone)
  if c = [0, 1] ∧ s.slotGen 0 < s.slotGen 1 then [1, 0] else c

/-! The layout check (R89 to R92, R103, R709). -/

/-- The section types of R91 and those that every image has. -/
def secTypes : List Nat := (List.range 18).map (· + 1) ++ [secSEAL]
def secRequired : List Nat := [secHEADER, secUNITS, secDRAM, secSEAL]

/-- Whether directory entry `i` passes, whose predecessor's section has TYPE `t` and a header that ends at `stop` (R709).
An unknown TYPE, and a section that begins before the header of the one before it or the HEADER section ends, fail here
too (DESIGN CHOICE, log 87). -/
def dirEntryOk (b : List Byte) (len t stop i : Nat) : Bool :=
  let e := dirEntry b i
  e.2 % 64 == 0 && decide (e.2 < len) && decide (stop ≤ e.2) && secTypes.contains e.1 && decide (t < e.1) &&
    uAt b e.2 2 == e.1 && uAt b (0x72 + 8 * i) 2 == 0

/-- The first failing entry among `n` from entry `i`. -/
def dirFail (b : List Byte) (len : Nat) : Nat → Nat → Nat → Nat → Option Nat
  | 0, _, _, _ => none
  | n + 1, t, stop, i =>
    if dirEntryOk b len t stop i then
      dirFail b len n (dirEntry b i).1 ((dirEntry b i).2 + 16) (i + 1)
    else some i

/-- The failures of a section whose successor starts at `next` (item 2 of R709). A LENGTH of UNITS other than 24, of SEAL
other than 164, or one that runs into the next section is charged to LENGTH here (DESIGN CHOICE, log 87). -/
def sectLayout (b : List Byte) (x : Sect) (next : Option Nat) : List (Nat × Nat) :=
  let bad := fun (ok : Bool) (o : Nat) => if ok then [] else [(x.typ, x.off + o)]
  let stop := x.off + 16 + x.len
  let fixed := if x.typ = secUNITS then x.len == 24 else if x.typ = secSEAL then x.len == 164 else true
  let fits := match next with | some n => decide (stop ≤ n) | none => true
  bad (uAt b (x.off + 2) 2 == 1) 2 ++ bad (x.len % 4 == 0 && fixed && fits) 4 ++
    bad (x.count == 0 || !(x.typ == secHEADER || x.typ == secUNITS || x.typ == secSEAL)) 12 ++
    (match next with
     | some n =>
       match (slice b stop (n - stop)).findIdx? (fun v => v != 0) with
       | some i => [(x.typ, stop + i)]
       | none => []
     | none => [])

/-- The failures of the sections in image order. -/
def sectsLayout (b : List Byte) : List Sect → List (Nat × Nat)
  | [] => []
  | [x] => sectLayout b x none
  | x :: y :: r => sectLayout b x (some y.off) ++ sectsLayout b (y :: r)

/-- The first failure of step 5, as SECTION and parameter. A UID that is not 0 with BINDUID 0 and reserved FLAGS bits count
among the reserved bytes of the HEADER body (DESIGN CHOICE, log 87). -/
def layoutFail (b : List Byte) : Option (Nat × Nat) :=
  let len := uAt b 0x20 4
  let hlen := uAt b 4 4
  let n := dirCount b
  match dirFail b len (min n ((hlen - 0x60) / 8)) secHEADER (16 + hlen) 0 with
  | some i => some (secHEADER, 0x70 + 8 * i)
  | none =>
    if !(hlen == 0x60 + 8 * n && decide (3 ≤ n) && decide (n ≤ 18)) then some (secHEADER, 0x60)
    else
      let ss := sections b
      let sealOff := match sectOf ss secSEAL with | some x => x.off | none => 0
      let head := fun (ok : Bool) (o : Nat) => if ok then [] else [(secHEADER, o)]
      (sectsLayout b ss ++ ((secRequired.filter (fun t => (sectOf ss t).isNone)).map (fun t => (t, 0))) ++
        head (len == sealOff + 180) 0x20 ++ head (uAt b 0x16 2 < 4) 0x16 ++ head (uAt b 0x24 4 == 0) 0x24 ++
        head (uAt b 0x16 2 / 2 % 2 == 1 || uAt b 0x28 16 == 0) 0x28 ++ head (uAt b 0x62 14 == 0) 0x62).head?

/-! The record form (R93, R94, R96 to R100). -/

/-- The form of a section of fixed-size records. -/
def fixedForm (size : Nat) : Option Sect → List Finding
  | none => []
  | some x => need (x.len == size * x.count) (atOff 10 x.typ (x.off + 4))

/-- The form of a section's records from offset `o` to `stop` with `n` records left (R93, R94). -/
def envForm (b : List Byte) (x : Sect) (stop : Nat) : Nat → Nat → List Finding
  | 0, o => need (o == stop) (atOff 10 x.typ o)
  | n + 1, o =>
    if stop < o + 8 then [atOff 10 x.typ o]
    else
      let rl := uAt b (o + 4) 4
      if 8 ≤ rl ∧ rl % 4 = 0 ∧ o + rl ≤ stop then envForm b x stop n (o + rl) else [atOff 10 x.typ (o + 4)]

/-- Records that repeat the KEY and KIND of an earlier record of their section. -/
def envRepeats (t : Nat) : List Rec → List Rec → List Finding
  | _, [] => []
  | before, r :: rest =>
    need (!before.any (fun x => x.key == r.key && x.kind == r.kind)) (atOff 10 t r.off) ++ envRepeats t (before ++ [r]) rest

/-- The form of one record by its section's type. -/
def recForm (im : Image) (t : Nat) (r : Rec) : List Finding :=
  if t = secCELLS then cellForm r
  else if t = secLAWS then lawForm r
  else if t = secRECIPES then recipeForm r
  else if t = secTRACE then traceForm r
  else if t = secCAPTURE then capForm r
  else if t = secAXES then axisForm r
  else if t = secSTRIDE then strideForm im r
  else if t = secCAN then canForm r
  else if t = secNODES then nodeForm r
  else if t = secNET then netForm r
  else if t = secTIME then timeForm r
  else safetyForm r

/-- Every failure of step 10. -/
def recordForms (im : Image) : List Finding :=
  let b := im.bytes
  let ss := sections b
  fixedForm 8 (sectOf ss secREGS) ++ fixedForm 8 (sectOf ss secSIGNALS) ++ fixedForm 20 (sectOf ss secPARAMS) ++
  fixedForm 16 (sectOf ss secDRAM) ++
  envTypes.flatMap (fun t => match sectOf ss t with
    | none => []
    | some x =>
      envForm b x (x.off + 16 + x.len) x.count (x.off + 16) ++ (im.sec t).flatMap (recForm im t) ++ envRepeats t [] (im.sec t))

/-! Presence, REGS, ranges, slots, DRAM and parameters (steps 11 to 18). -/

/-- The UNITS section: what it requires and its reserved bytes (R95). -/
def unitsCheck (s : State) (im : Image) : List Finding :=
  match sectOf (sections im.bytes) secUNITS with
  | none => []
  | some x =>
    let b := im.bytes
    let o := x.off + 16
    let caps := wAt b (o + 8)
    let f := fun (n : Nat) => (⟨11, n, n, secUNITS⟩ : Finding)
    (List.range 64).flatMap (fun i => need (!bit (wAt b (o + i / 32 * 4)) (i % 32) || s.usableBit i) (f i)) ++
    need (decide (uAt b (o + 12) 1 ≤ fld s.part.caps 4 0)) (f 64) ++
    need (decide (uAt b (o + 13) 1 ≤ fld s.part.caps 7 5)) (f 69) ++
    need (!bit caps 10 || s.hasBaton) (f 74) ++ need (!bit caps 11 || s.hasDup) (f 75) ++
    need (caps &&& ~~~(0xC00 : Word) == 0) (atOff 14 secUNITS (o + 8)) ++
    need (uAt b (o + 15) 9 == 0) (atOff 14 secUNITS (o + 15))

/-- The reserved bytes of the SEAL body (R103). -/
def sealCheck (im : Image) : List Finding :=
  match sectOf (sections im.bytes) secSEAL with
  | none => []
  | some x => need (uAt im.bytes (x.off + 17) 3 == 0) (atOff 14 secSEAL (x.off + 17)) ++
      need (decide (uAt im.bytes (x.off + 16) 1 ≤ 3)) (atOff 14 secSEAL (x.off + 16))

/-- Whether a REGS record may name a register: one with a CFG field, of a unit that R96 lists. -/
def regsAddrOk (a : Nat) : Bool :=
  (a < 0x10000 || (decide (0x70000 ≤ a) && decide (a < 0x80000)) || (decide (0x90000 ≤ a) && decide (a < 0xA0000)) ||
    (decide (0xF0000 ≤ a) && decide (a < 0x100000)) || (decide (0x300000 ≤ a) && decide (a < 0x430000))) &&
  match regRow? a with
  | some r => r.cfg != 0
  | none => false

/-- The REGS records one by one (R96, R710). -/
def regsCheck (s : State) : List Nat → List (Nat × Nat × Word) → List Finding
  | _, [] => []
  | before, (o, a, w) :: rest =>
    (match s.regUnusable a with | some u => [⟨12, o, u, secREGS⟩] | none => []) ++
    need (regsAddrOk a && !before.contains a) ⟨13, o, a, secREGS⟩ ++
    need (cfgBitsOk a w || !regsAddrOk a) ⟨14, o, a, secREGS⟩ ++ regsCheck s (before ++ [a]) rest

/-- The ranges of the shared units' own registers (R34, R70, R612, R641). -/
def sharedRanges (im : Image) : List Finding :=
  let f := fun (ok : Bool) (a : Nat) => need ok (im.atRegs 14 [a])
  f (within (fld (im.reg R.DEV_TBASE) 17 0) 1000 200000) R.DEV_TBASE ++
  f (within (fld (im.reg R.PWR_HOLDCFG) 9 0) 50 1000) R.PWR_HOLDCFG ++
  f (decide (fld (im.reg R.EVR_CFG) 2 0 ≤ 4)) R.EVR_CFG ++
  f (within (fld (im.reg R.CHK_ISTCFG) 15 0) 100 60000) R.CHK_ISTCFG

/-- The SIGNALS records (R97). -/
def signalsCheck (im : Image) : List Finding :=
  im.signals.flatMap (fun (o, n, fl, _) =>
    need (decide (fl < 2)) (atOff 14 secSIGNALS (o + 2)) ++ need (decide (n ≤ 8191)) (atOff 15 secSIGNALS o))

/-- The PARAMS records with those before each (R98, R102). -/
def paramsCheck (im : Image) : List (Nat × ParamDef) → List (Nat × ParamDef) → List Finding
  | _, [] => []
  | before, (o, p) :: rest =>
    let nan := fun (w : Word) => p.typ == 0 && fIsNan w
    let le := fun (a b : Word) => if p.typ = 0 then fle a b else decide (a.toNat ≤ b.toNat)
    let num := !nan p.min && !nan p.max && !nan p.dflt
    need (decide (p.recipe ≤ 1023)) (atOff 14 secPARAMS o) ++ need (decide (p.index ≤ 15)) (atOff 14 secPARAMS (o + 2)) ++
    need (decide (p.typ ≤ 1)) (atOff 14 secPARAMS (o + 3)) ++ need (uAt im.bytes (o + 16) 4 == 0) (atOff 14 secPARAMS (o + 16)) ++
    need (im.has secRECIPES p.recipe 0) (atOff 17 secPARAMS o) ++
    need (!before.any (fun x => x.2.recipe == p.recipe && x.2.index == p.index)) (atOff 18 secPARAMS (o + 2)) ++
    need (!nan p.min) (atOff 18 secPARAMS (o + 4)) ++ need (!nan p.max) (atOff 18 secPARAMS (o + 8)) ++
    need (!nan p.dflt) (atOff 18 secPARAMS (o + 12)) ++
    need (!num || le p.min p.max) (atOff 18 secPARAMS (o + 8)) ++
    need (!num || !le p.min p.max || (le p.min p.dflt && le p.dflt p.max)) (atOff 18 secPARAMS (o + 12)) ++
    paramsCheck im (before ++ [(o, p)]) rest

/-- CKPTMIN (R101). -/
def State.ckptMin (s : State) : Nat := 2 * (64 * s.tileCount + 32)

/-- The DRAM records with those before each (R100, R101). -/
def dramCheck (s : State) (im : Image) : List (Nat × DramPart) → List (Nat × DramPart) → List Finding
  | _, [] => []
  | before, (o, p) :: rest =>
    let at_ := fun (ok : Bool) (x : Nat) => need ok (atOff 16 secDRAM (o + x))
    let unique := fun (same : DramPart → Bool) => !before.any (fun x => x.2.kind == p.kind && same x.2)
    let top := s.dramBytes / dramPage - 0x4000000 / dramPage
    need (!(p.kind == 1 || p.kind == 2) || decide (7 < p.tile) || s.tileUsable p.tile)
      ⟨12, o, unitTile p.tile, secDRAM⟩ ++
    at_ (within p.kind 1 4 && (!(p.kind == 3 || p.kind == 4) || unique (fun _ => true))) 0 ++
    at_ (p.kind != 1 || unique (fun x => x.tile == p.tile)) 1 ++
    at_ (p.kind != 2 || unique (fun x => x.tile == p.tile && x.engine == p.engine)) 2 ++
    at_ (if p.kind = 1 ∨ p.kind = 2 then decide (p.tile ≤ 7) else p.tile == 0) 1 ++
    at_ (if p.kind = 2 then decide (p.engine ≤ 3) else p.engine == 0) 2 ++
    at_ (if p.kind = 1 then decide (p.mode ≤ 1) else p.mode == 0) 3 ++
    at_ (decide (1 ≤ p.size) && decide (p.base + p.size ≤ top) && (p.kind != 3 || decide (s.ckptMin ≤ p.size)) &&
      !before.any (fun x => decide (x.2.base < p.base + p.size) && decide (p.base < x.2.base + x.2.size))) 8 ++
    at_ (uAt im.bytes (o + 12) 4 == 0) 12 ++ dramCheck s im (before ++ [(o, p)]) rest

/-- The failures of one enveloped record from step 12 on. -/
def recCheck (s : State) (im : Image) (t : Nat) (r : Rec) : List Finding :=
  if t = secCELLS then cellCheck s im r
  else if t = secLAWS then lawRange r
  else if t = secRECIPES then recipeCheck im r
  else if t = secTRACE then traceCheck s im r
  else if t = secCAPTURE then capCheck s im r
  else if t = secAXES then axisCheck s im r
  else if t = secSTRIDE then strideCheck s im r
  else if t = secCAN then canCheck s im r
  else if t = secNODES then nodeCheck s im r
  else if t = secNET then netCheck s im r
  else if t = secTIME then timeCheck s im r
  else safetyCheck s im r

/-- The section CRCs (step 9). -/
def crcChecks (b : List Byte) : List Finding :=
  (sections b).flatMap (fun x => need (crc32c (x.body b) == uAt b (x.off + 8) 4) (atOff 9 x.typ x.off))

/-- The failures of steps 9 to 20 (R112). -/
def imageChecks (s : State) (im : Image) : List Finding :=
  crcChecks im.bytes ++ recordForms im ++ unitsCheck s im ++ sealCheck im ++ regsCheck s [] im.regs ++ sharedRanges im ++
  analogCheck s im ++ dioCheck im ++ signalsCheck im ++ im.recs.flatMap (fun x => recCheck s im x.1 x.2) ++
  paramsCheck im [] im.params ++ dramCheck s im [] im.dram ++ acqDramCheck im ++
  need (im.dram.any (fun x => x.2.kind == 3)) (atOff 16 secDRAM im.dramOff) ++ budgetCheck s im ++ bandwidthCheck s im

/-! The seal of an image (R103 to R106). -/

/-- KEYSLOT, PUBKEY, IMAGE_HASH and SIGNATURE of a SEAL body. -/
def sealKeyslot (q : List Byte) : Nat := uAt q 0 1
def sealPubkey (q : List Byte) : List Byte := slice q 4 32
def sealHash (q : List Byte) : List Byte := slice q 0x24 64
def sealSig (q : List Byte) : List Byte := slice q 0x64 64

/-- Step 6. -/
def State.sealKeyOk (s : State) (q : List Byte) : Bool :=
  let k := s.keySlot (sealKeyslot q)
  decide (sealKeyslot q < 4) && k.provisions && k.hash == (sha512 (sealPubkey q)).take 32

/-- M of R105: "FRLIMG01", the HEADER section and the SEAL body up to the signature. -/
def imageMessage (header q : List Byte) : List Byte :=
  [0x46, 0x52, 0x4C, 0x49, 0x4D, 0x47, 0x30, 0x31] ++ header ++ q.take 0x64

/-- Step 8. -/
def sealVerifies (header q : List Byte) : Bool := edVerify (sealPubkey q) (imageMessage header q) (sealSig q)

/-- The SEAL body of an image. -/
def sealBody (b : List Byte) : List Byte := match sectOf (sections b) secSEAL with | some x => x.body b | none => []

/-- The HEADER section of an image. -/
def headerSection (b : List Byte) : List Byte := slice b 0 (16 + uAt b 4 4)

/-! Safety authorisation (R110, R588). -/

/-- A hash held in 16 registers. -/
def State.hashAt (s : State) (f : Nat → Nat) : List Byte := (List.range 16).flatMap (fun i => wBytes (s.reg (f i)))

/-- The hash of an image's SAFETY section, of the empty string where it has none (R585). -/
def safetyHash (im : Image) : List Byte :=
  match sectOf (sections im.bytes) secSAFETY with
  | some x => sha512 (slice im.bytes x.off (16 + x.len))
  | none => sha512 []

/-- Whether loading an image changes the safety section (R110). -/
def State.safetyChanges (s : State) (im : Image) : Bool :=
  let old := s.hashAt R.SAFE_HASH
  let held := old.any (fun b => b != 0)
  s.hasIsland && ((sectOf (sections im.bytes) secSAFETY).isSome || held) && old != safetyHash im

/-- Steps 21 and 22. -/
def State.safetySteps (s : State) (im : Image) : List Finding :=
  if !s.safetyChanges im then []
  else
    need (s.bitOf R.SAFE_STAT 8 && s.hashAt R.SAFE_PHASH == safetyHash im) ⟨21, 0, 0, secSAFETY⟩ ++
    need (decide (1 ≤ s.evr.safetyRoom)) ⟨22, 0, 0, secSAFETY⟩

/-- Set 16 registers to a hash. -/
def State.putHash (s : State) (f : Nat → Nat) (h : List Byte) : State :=
  forUpTo 16 (fun i s => s.setReg (f i) (wAt h (4 * i))) s

/-- A changed safety section is accepted: the authorisation is consumed and the change recorded (R110, R588). -/
def State.safetyAccept (s : State) (im : Image) : State :=
  let h := safetyHash im
  let old := s.reg (R.SAFE_HASH 0)
  let s := ((s.putHash R.SAFE_HASH h).putHash R.SAFE_PHASH []).putFld R.SAFE_STAT 8 8 0
  s.raise 0x7080 noSource (wAt h 0) (wAt h 4) old (BitVec.ofNat 32 s.safe.authSeq)

/-! The order of R112. -/

/-- The code of a step. -/
def stepCode (n : Nat) : Nat := [0, 2, 1, 3, 4, 5, 6, 7, 8, 9, 0xA, 0x16, 0x16, 0xB, 0xC, 0xD, 0xE, 0xF, 0x10, 0x11, 0x12, 0x13, 0x14, 0x15].getD n 0

/-- The failure of the load of slot `slot`, as step, parameter and SECTION: `bad` are flash addresses that cannot be
read, `ecc` a DRAM page of the configuration copy with an uncorrectable error. -/
def State.loadFail (s : State) (bad : List Nat) (ecc : Option Nat) (slot : Nat) : Option (Nat × Nat × Nat) :=
  let b := s.slotImage slot
  match badIn bad (s.slotBase slot) b.length with
  | some a => some (1, a, 0)
  | none =>
    if !(s.life == 1 || s.life == 2 || s.life == 3) then some (3, s.life, 0)
    else if uAt b 0x16 2 / 2 % 2 = 1 ∧ slice b 0x28 16 ≠ s.uidBytes then some (4, 0, 0)
    else match layoutFail b with
      | some (sec, par) => some (5, par, sec)
      | none =>
        let q := sealBody b
        if !s.sealKeyOk q then some (6, sealKeyslot q, secSEAL)
        else if sha512 (b.take (b.length - 180)) ≠ sealHash q then some (7, 0, secSEAL)
        else if !sealVerifies (headerSection b) q then some (8, 0, secSEAL)
        else
          let im := parseImage b
          match firstFinding (imageChecks s im ++ s.safetySteps im) with
          | some f => some (f.step, f.par, f.sec)
          | none => match ecc with
            | some p => some (23, p, 0)
            | none => none

/-- A slot is rejected (R114, R117). -/
def State.reject (s : State) (slot code sec par : Nat) : State :=
  let s := s.setReg (R.CFG_REJ0 + 4 * slot) (BitVec.ofNat 32 (sec * 65536 + code))
  let s := s.setReg (R.CFG_REJPAR0 + 4 * slot) (BitVec.ofNat 32 par)
  s.raise 0x2002 noSource (BitVec.ofNat 32 slot) (BitVec.ofNat 32 code) (BitVec.ofNat 32 sec) (BitVec.ofNat 32 par)

/-- The start of a load: CFG's registers begin anew, the flash is prepared and the slots examined (R82, R85, R115). -/
def State.loadBegin (s : State) (bad : List Nat) : State :=
  let s := s.resetRegs ([R.CFG_STATUS, R.CFG_REJ0, R.CFG_REJ1, R.CFG_REJPAR0, R.CFG_REJPAR1, R.CFG_GEN_LO, R.CFG_GEN_HI, R.CFG_LEN] ++
    (List.range 16).map R.CFG_HASH)
  let s := s.setReg R.CFG_CKPTMIN (BitVec.ofNat 32 s.ckptMin)
  let s := s.setReg R.CFG_FLASH (BitVec.ofNat 32
    (if s.flash.sfdp then s.slotSize / 0x100000 * 65536 + s.flash.tables.toNat else 0))
  let s := if s.flash.sfdp && !s.flash.tables then s.raise 0x2001 noSource 0 0 0 0 else s
  forUpTo 2 (fun k s => match s.preReject bad k with
    | some (code, par) => s.reject k code 0 par
    | none => s) s

/-- CFG shows the loaded image (R115, R116). -/
def State.showLoaded (s : State) (slot : Nat) (fallback : Bool) (b : List Byte) : State :=
  let q := sealBody b
  let s := s.setReg R.CFG_STATUS (BitVec.ofNat 32 (sealKeyslot q * 256 + fallback.toNat * 4 + 2 + slot))
  let s := ((s.setReg R.CFG_GEN_LO (wAt b 0x18)).setReg R.CFG_GEN_HI (wAt b 0x1C)).setReg R.CFG_LEN (wAt b 0x20)
  (s.putHash R.CFG_HASH (sealHash q)).raise 0x2003 noSource (BitVec.ofNat 32 slot) (wAt b 0x18) (wAt b 0x20) 0

/-- Registers that a load sets anew: those with CFG fields and every register of a tile. -/
def loadClears (a : Nat) : Bool :=
  (decide (0x1000000 ≤ a) && decide (a < 0x1800000)) ||
    match regRow? a with
    | some r => r.cfg != 0
    | none => false

/-- An accepted image takes effect (R22, R107). Of several SIGNALS records of one SLOT the last INIT stands, and MINMAX_OK of
any of them counts (DESIGN CHOICE, log 87). -/
def State.applyImage (s : State) (im : Image) : State :=
  let old := s.ilkActive
  let slots := im.signals.map (fun (_, n, _, v) => (n, { Slot.unwritten with val := v }))
  let s := { s.clearArch (fun a => !loadClears a) with
    image := im, staged := [], tick := 0, counting := false, ticked := none,
    warm := { s.warm with phase := .none, safe := false, released := none } }
  let s := s.modArch (fun a => { a with slots := tabSetMany (fun _ => Slot.unwritten) [] slots })
  let s := im.regs.foldl (fun s x => s.setReg x.2.1 x.2.2) (s.setReg R.SIG_MULTIWR 0)
  let s := s.loadCells.loadLanes.loadAcq.loadAnalog.loadAxes.loadStride.loadCan.loadTime.loadNet.loadSnap
  (s.loadDio old).touch 2 0 (max 1 im.bytes.length)

/-- A slot's image is accepted, and the device enters READY, and RUN or SAFE with AUTOSTART (R57, R92). -/
def State.loadAccept (s : State) (slot : Nat) (fallback : Bool) : State :=
  let b := s.slotImage slot
  let im := parseImage b
  let changes := s.safetyChanges im
  let s := (s.showLoaded slot fallback b).applyImage im
  let s := if changes then s.safetyAccept im else s
  let s := s.islLoad (match im.rec? secSAFETY 0 0 with | some r => r.body | none => []) (!changes)
  let s := s.enterReady false
  if im.flags % 2 = 1 then s.startCondition else s

/-- Try the candidates in order. -/
def State.tryLoad (s : State) (bad : List Nat) (ecc : Option Nat) : Bool → List Nat → State
  | _, [] =>
    let s := { s.dropCkpts with image := {}, warm := { s.warm with phase := .none, safe := false, released := none } }
    (s.unloadCells.touch 2 0 0x10000000).enterHalt 0x10
  | fallback, k :: r =>
    match s.loadFail bad ecc k with
    | some (st, par, sec) => (s.reject k (stepCode st) sec par).tryLoad bad ecc true r
    | none => s.loadAccept k fallback

/-- A load from LOAD (R85, R112). -/
def State.load (s : State) (bad : List Nat) (ecc : Option Nat) : State :=
  let s := s.emptyCopies.loadBegin bad
  (s.tryLoad bad ecc false (s.candidates bad)).orReg R.MAINT_IRQSTAT 4

/-- IMAGE_LOAD: the load that LOAD makes, with the flash addresses that cannot be read and a DRAM page of the
configuration copy with an uncorrectable error. -/
def execImageLoad (bad : List Nat) (ecc : Option Nat) (e : Nat) (s : State) : Out :=
  let s := s.atEdge e
  .next (if s.dev = stLOAD then s.load bad ecc else s)

end Sys2Proof.Machine
end

