-- ==== Sys2Proof/Machine/Power.lean ====
section
/-! DEFINITION. Supply, cold reset, the AON domain, POST and warm restart (R45 to R80, R626 to R628, R643).
Where the spec can be read in two ways the assumption log says what was read: entries 12 to 19, 65 (DEDUCED unless marked there otherwise). -/

namespace Sys2Proof.Machine

/-! What a cold reset leaves. -/

/-- Registers that OTP, ENVM or the AON domain hold through a cold start. -/
def coldRegs : List Nat :=
  [R.PWR_RSTCAUSE, R.PWR_OPSEC, R.PWR_CYCLES, R.PWR_AONLOST, R.PWR_LASTFAULT, R.SEAL_LIFE, R.EVR_NEXTSEQ, R.EVR_BADSLOTS,
   R.ANA_CALSRC0, R.ANA_CALSRC1, R.ANA_CALCNT, R.BIST_FUSEFREE] ++
  (List.range 4).map R.DEV_UID ++ (List.range 16).map R.SAFE_HASH ++ (List.range 16).map R.SAFE_PHASH

/-- What no cold reset clears beside registers (R65, R604): OTP, ENVM, flash, the AON domain and the levels of the inputs. -/
def State.coldBase (s : State) : State :=
  let e := s.evr
  { pending := s.pending, out := s.out, free := s.free, part := s.part, edgeBase := s.edgeBase, off := s.off,
    power := { s.power with limit := [0, 0, 0, 0], safeDue := 0 },
    flash := s.flash,
    letters := { keys := s.letters.keys, counters := s.letters.counters },
    evr := { main := e.main, safety := e.safety, mainBad := e.mainBad, safetyBad := e.safetyBad, mainPos := e.mainPos },
    net := { recoveryMac := s.net.recoveryMac, recoveryIp := s.net.recoveryIp },
    time := { base := s.now },
    ana := { envm := s.ana.envm },
    dio := { balls := s.dio.balls.map (fun b => { level := b.level, changed := b.changed }), ilk := s.dio.ilk },
    safe := s.safe.cold,
    integ := { fuses := s.integ.fuses } }

/-- The state that a cold reset leaves (R65, R604): everything else is as after power-on. The last passes of the holding tests
are those of the latest counter save (R580). -/
def State.coldKeep (s : State) : State :=
  let t := coldRegs.foldl (fun t a => t.setReg a (s.reg a)) s.coldBase
  let t := if s.hasIsland then
      forUpTo 8 (fun c t => t.setReg (R.SAFE_HTLAST c) (s.power.saved.getD (4 + c) 0)) t
    else t
  let t := t.setReg R.SAFE_STAT (s.reg R.SAFE_STAT &&& 0x300)
  (t.setReg R.CLK_STAT (s.reg R.CLK_STAT &&& 7)).calCold

/-! Rail sequencing (R52, R54). -/

/-- The rails as bits of PWR.RAILS, in the order in which they come up (R52): VIO33, VIO18, VANA, VCORE, VDRAM. -/
def railOrder : List Nat := [1, 2, 3, 0, 4]

/-- The steps of a shutdown (R54): VDRAM first, VIO33 last, and VCORE discharged before VIO18 falls. -/
def railFall : List RailStep := [.down 4, .down 0, .down 3, .discharged, .down 2, .down 1]

/-- One step of a rail sequence. -/
def State.railStep (s : State) (x : RailStep) : State :=
  let s := { s with power := { s.power with rails := s.power.rails ++ [x] } }
  match x with
  | .up r => s.putFld R.PWR_RAILS r r 1
  | .down r => s.putFld R.PWR_RAILS r r 0
  | .discharged => s

/-- A new rail sequence with its steps. -/
def State.railSteps (s : State) (l : List RailStep) : State :=
  l.foldl State.railStep { s with power := { s.power with rails := [] } }

/-- The rails come up in order (R52). -/
def State.railsUp (s : State) : State := s.railSteps (railOrder.map RailStep.up)

/-- The rails go down in reverse order (R54), where they are up. -/
def State.railsDown (s : State) : State := if s.reg R.PWR_RAILS = 0 then s else s.railSteps railFall

/-- The counters at BOOT (R68): the retained value where its bit of `ret` says that the retention check passes and it is
not below the ENVM copy, else the ENVM copy. -/
def State.restoreCounters (s : State) (ret : Nat) : State :=
  aonRegs.zipIdx.foldl (fun s x =>
    let c := s.power.saved.getD x.2 0
    if ret.testBit x.2 && decide (c.toNat ≤ (s.reg x.1).toNat) then s else s.setReg x.1 c) s

/-- The device stops for a cold reset with its causes, as bits of PWR.RSTCAUSE (R54, R57, R61, R604): the records still
queued are lost, the counters are saved if the save completes, the rails go down unless RESET_N alone holds the device,
and the power sequence goes to `ph`. -/
def State.coldDown (s : State) (causes : Nat) (save : Bool) (ph : PowerPhase) : State :=
  let s := s.bumpBy R.PWR_AONLOST s.evr.queue.length
  let s := if save then s.counterSave else s
  let s := if ph = .resetHeld then s else s.railsDown
  let s := s.coldKeep
  let s := { s with power := { s.power with
    phase := ph, saveDue := false, causes := s.power.causes ||| BitVec.ofNat 32 causes, pgood := (ph == PowerPhase.resetHeld) } }
  if ph = .keep then (s.enter stKEEP 0 false).setReg R.PWR_RAILS 0
  else if ph = .resetHeld then s.setReg R.PWR_RAILS 0x1F
  else s.setReg R.PWR_RAILS 0

/-- A cold-reset cause while the device is powered. -/
def State.coldCause (s : State) (causes : Nat) (save : Bool) (ph : PowerPhase) : State :=
  if s.power.phase = .keep then s else s.coldDown causes save ph

/-- Entry into BOOT (R57, R61, R67, R68, R541, R600): POR clears every other cause, and the time counter begins. -/
def State.enterBoot (s : State) : State :=
  let s := s.restoreCounters s.power.ret
  let c := s.power.causes
  let s := if bit c 0 then s.setReg R.PWR_RSTCAUSE 1 else s.orReg R.PWR_RSTCAUSE c
  let s := if s.power.fromOff then
      s.setReg R.PWR_CYCLES (BitVec.ofNat 32 ((s.fldOf R.PWR_CYCLES 19 0 + 1) % 2 ^ 20))
    else s
  let s := { s with power := { s.power with phase := .on, causes := 0, fromOff := false, pgood := true, ret := 15 },
                    time := { s.time with base := s.now } }
  let s := ((s.setReg R.PWR_STATE 1).setReg R.PWR_RAILS 0x1F).orReg R.CLK_STAT 3
  s.raise 0x1006 noSource (s.reg R.PWR_RSTCAUSE) (s.reg R.PWR_CYCLES) (s.reg R.PWR_AONLOST) (s.reg R.PWR_LASTFAULT)

/-- Rail sequencing starts from KEEP or from power-off, with the causes of leaving it and the retention checks that pass
(R57, R61, R67, R68). Only a BOOT that follows counts in PWR.CYCLES: a cold reset that turns the rails off without KEEP
is not taken for power-off (DESIGN CHOICE, log 86). -/
def State.leaveKeep (s : State) (causes ret : Nat) : State :=
  { s with power := { s.power with
    phase := .sequencing, fromOff := true, ret := ret, causes := s.power.causes ||| BitVec.ofNat 32 causes } }

/-- VIN becomes valid (R46): with no retained counter the next BOOT has cause POR (R61). -/
def State.vinValid (s : State) (ret : Nat) : State :=
  let por := !s.power.vin && s.power.phase == .keep && ret % 16 == 0
  { s with power := { s.power with
    vin := true, ovin := false, causes := s.power.causes ||| (if por then 1 else 0) } }

/-! Supply and reset commands. -/

/-- EN_RISE: EN rises, or VIN becomes valid (`vin`); `ret` has a bit for each AON counter whose retention check passes
(R57, R61). -/
def execEnRise (vin : Bool) (ret : Nat) (s : State) : Out :=
  let s := if vin then s.vinValid ret else { s with power := { s.power with en := true } }
  .next (if s.power.phase = .keep ∧ s.power.en ∧ s.power.vin ∧ !s.power.wakeNeeded then s.leaveKeep 0 ret else s)

/-- EN_FALL, with whether the power-fail save completes (R54, R66). -/
def execEnFall (saved : Bool) (s : State) : Out :=
  let s := { s with power := { s.power with en := false } }
  .next (s.coldCause 2 saved .keep)

/-- POWER_FAIL, with whether the power-fail save completes (R69). -/
def execPowerFail (saved : Bool) (s : State) : Out :=
  let s := { s with power := { s.power with vin := false } }
  .next (s.coldCause 8 saved .keep)

/-- OVIN_SHUTDOWN: VIN becomes invalid (R46, R57). -/
def execOvinShutdown (s : State) : Out :=
  let s := { s with power := { s.power with vin := false, ovin := true } }
  .next (s.coldCause 16 true .keep)

/-- OVIN_RECOVERY: VIN becomes valid again after an OVIN shutdown. -/
def execOvinRecovery (ret : Nat) (s : State) : Out :=
  .next (if !s.power.ovin then s
    else
      let s := s.vinValid ret
      if s.power.phase = .keep ∧ s.power.en ∧ !s.power.wakeNeeded then s.leaveKeep 0 ret else s)

/-- RESET_N_LOW for `ns` nanoseconds at least (R62): from 1 us a reset, below 200 ns nothing, between them either, as R706
leaves it. -/
def execResetNLow (ns : Nat) (s : State) : Out :=
  let glitch := decide (200 ≤ ns) && decide (ns < 1000)
  let hit := decide (1000 ≤ ns) || (glitch && Config.resetGlitch s.free)
  let s := if glitch then s.useFree else s
  .next (if !hit then s
    else
      let s := { s with power := { s.power with resetN := false } }
      if s.power.phase = .on ∨ s.power.phase = .bootHeld ∨ s.power.phase = .resetHeld then s.coldCause 4 false .resetHeld
      else { s with power := { s.power with causes := s.power.causes ||| 4 } })

/-- RESET_N_RELEASE. -/
def execResetNRelease (s : State) : Out :=
  let s := { s with power := { s.power with resetN := true } }
  .next (if s.power.phase = .resetHeld ∧ s.power.pgood then s.enterBoot else s)

/-- POWER_GOOD: the rails have come up and been in their windows for 1 ms and the PLL is locked (R52); BOOT begins unless
RESET_N is low. -/
def execPowerGood (s : State) : Out :=
  .next (if s.power.phase ≠ .sequencing then s
    else if s.power.resetN then s.railsUp.enterBoot
    else
      let s := s.railsUp
      ({ s with power := { s.power with phase := .resetHeld, pgood := true } } : State).setReg R.PWR_RAILS 0x1F)

/-- Whether PGOOD has risen. -/
def State.powered (s : State) : Bool := s.power.phase == .on || s.power.phase == .bootHeld || s.power.phase == .resetHeld

/-- RAIL_OUT_OF_WINDOW (R53). -/
def execRailOutOfWindow (s : State) : Out := .next (if s.powered then s.coldCause 32 true .railWait else s)

/-- RAIL_RETRY. -/
def execRailRetry (s : State) : Out :=
  .next (if s.power.phase = .railWait then { s with power := { s.power with phase := .sequencing } } else s)

/-- CURRENT_LIMIT_CYCLE of phase `n`; `again` says whether its cycle before was limited too (R51). -/
def execCurrentLimitCycle (n : Nat) (again : Bool) (s : State) : Out :=
  answer (decide (n < 4)) (
    let k := if again then s.power.limit.getD n 0 + 1 else 1
    let s := { s with power := { s.power with limit := modifyAt s.power.limit n (fun _ => k) } }
    if 64 ≤ k then s.coldCause 32 true .railWait else s)

/-- PHASE_NO_RIPPLE: a rail fault (R47). -/
def execPhaseNoRipple (s : State) : Out := .next (s.coldCause 32 true .railWait)

/-- TJ_HIGH (R55). -/
def execTjHigh (s : State) : Out :=
  .next (if s.powered then s.raiseLimited 0 0x1001 noSource 0 0 0 0 else s)

/-- THERMAL_RESET (R55). -/
def execThermalReset (s : State) : Out := .next (s.coldCause 64 true .thermalHold)

/-- THERMAL_RECOVER. -/
def execThermalRecover (s : State) : Out :=
  .next (if s.power.phase = .thermalHold then { s with power := { s.power with phase := .sequencing } } else s)

/-- CLOCK_LOSS of the reference (`reference`) or of the PLL's lock alone (R643). -/
def execClockLoss (reference : Bool) (s : State) : Out :=
  .next (if s.powered then
    (s.coldCause 128 true .sequencing).clrReg R.CLK_STAT (if reference then 3 else 1)
  else s)

/-- WAKE_RISE: after a SLEEP letter, KEEP is left with cause WAKE (R57, R61). An edge while EN is low or VIN invalid is
forgotten, and the need for one outlasts a loss of all power (DESIGN CHOICE, log 86). -/
def execWakeRise (ret : Nat) (s : State) : Out :=
  .next (if s.power.phase = .keep ∧ s.power.wakeNeeded ∧ s.power.en ∧ s.power.vin then
    ({ s with power := { s.power with wakeNeeded := false } } : State).leaveKeep 2048 ret
  else s)

/-! The AON domain. -/

/-- AON_CRYSTAL_STOP (R67). -/
def execAonCrystalStop (s : State) : Out :=
  .next (if s.dev = stKEEP || s.power.rcRecorded then s
    else
      let s := s.clrReg R.CLK_STAT 4
      ({ s with power := { s.power with rcRecorded := true } } : State).raise 0x1002 noSource 0 0 0 0)

/-- AON_CRYSTAL_START (R682). -/
def execAonCrystalStart (s : State) : Out :=
  .next (if s.dev = stKEEP then s
    else ({ s with power := { s.power with rcRecorded := false } } : State).orReg R.CLK_STAT 4)

/-- AON_SECOND, with the retries of the crossings that carry it (R67, R648). -/
def execAonSecond (retries e : Nat) (s : State) : Out :=
  let s := s.atEdge e
  .next (if s.dev = stKEEP then s
    else
      let s := (s.bump R.PWR_OPSEC).bumpBy R.CLK_RETRYCNT retries
      { s with power := { s.power with secondAt := s.now } })

/-- COUNTER_SAVE, with the cycles the write waited (R68, R338): while a write of a higher class is pending it is deferred, and
made once the port is free. -/
def execCounterSave (wait : Nat) (s : State) : Out :=
  .next (
    if s.dev = stKEEP then s
    else
      let s := s.waited 0 wait
      if !([2, 3, 5].any s.envmPending) then s.counterSave
      else ({ s with power := { s.power with saveDue := true } }).deferIf (!s.power.saveDue))

/-! POST (R57, R627, R632). -/

/-- BOOT_POST: ENVM and the known-answer tests of the configuration path pass or not, with the memories' results. -/
def execBootPost (envm path : Bool) (l : List TestRec) (s : State) : Out :=
  .next (if s.dev ≠ stBOOT ∨ s.power.phase ≠ .on then s
    else
      let l := asPost l
      let held := !envm || !path || (failsOf l).any (fun r => holdsBoot r.inst)
      let s := (s.emptyRecs 1).takeResults l
      let s := if envm then s.postEvents l held else s
      if held then { s with power := { s.power with phase := .bootHeld } }
      else s.islBooted.enter stTEST 0 false)

/-- TEST_POST. -/
def execTestPost (l : List TestRec) (s : State) : Out :=
  .next (if s.dev ≠ stTEST ∨ s.integ.bist.isSome then s
    else
      let l := asPost l
      (((s.takeResults l).postEvents l false).enter stLOAD 0 false))

/-- BIST_COMPLETE after `ms` milliseconds (R634): a load without resume follows, and a failure of the island, the
configuration path or ENVM holds the device in BOOT. -/
def execBistComplete (envm path : Bool) (l : List TestRec) (ms : Nat) (s : State) : Out :=
  .next (match s.integ.bist with
    | none => s
    | some mask =>
      let held := !envm || !path || (failsOf l).any (fun r => holdsBoot r.inst)
      let s := s.modInteg (fun g => { g with bist := none })
      let s := s.takeResults l
      let s := s.raise 0x8003 noSource (BitVec.ofNat 32 mask) (satWord (failsOf l).length) (satWord s.nrec) (satWord ms)
      if held then
        let s := s.enter stBOOT 0 false
        { s with power := { s.power with phase := .bootHeld } }
      else s.islBooted.enter stLOAD 0 false)

/-! Warm restart (R63, R64, R70 to R79, R86). -/

/-- WATCHDOG_EXPIRY, with the bits of other causes that arise with it, and whether the running tick's checkpoint was
complete and a letter's counter write had begun. -/
def execWatchdogExpiry (more : Nat) (complete writing : Bool) (e : Nat) (s : State) : Out :=
  let s := s.atEdge e
  .next (if s.dev = stRUN ∨ s.dev = stSAFE then s.warmCause (256 ||| (more &&& 0x700)) complete writing else s)

/-- FATAL_FAULT. -/
def execFatalFault (more : Nat) (complete writing : Bool) (e : Nat) (s : State) : Out :=
  .next ((s.atEdge e).warmCause (512 ||| (more &&& 0x700)) complete writing)

/-- Registers that a checkpoint holds (R72, R78, R310, R358, R461): those of the tiles but for the acquisition unit's, whose
positions stay as they are at T0, and SEQ.FALSESTART, which T0 raises; ADC.CHSEL; and STRIDE.DMISS. -/
def ckptReg (a : Nat) : Bool :=
  (decide (0x1000000 ≤ a) && decide (a < 0x1800000) &&
    (let o := a % 0x100000
     !(decide (0x10000 ≤ o) && decide (o < 0x20000)) && !((List.range 8).any (fun t => a == R.SEQ_FALSESTART t)))) ||
  (decide (0x300000 ≤ a) && decide (a < 0x310000) && a % 0x1000 == 8) ||
  (decide (0x200000 ≤ a) && decide (a < 0x280000) && decide (0x100 ≤ a % 0x10000) && a % 0x40 == 0x28)

/-- The checkpoint that the present state gives at tick `k`: it holds no bank (R274). -/
def State.checkpoint (s : State) (k : Nat) : Ckpt :=
  let lanes := s.arch.lanes.map (fun l => { l with banks := [] })
  ⟨k, { s.arch with lanes := lanes }, s.regs.filter (fun x => ckptReg x.1)⟩

/-- The architectural state as a checkpoint holds it. -/
def State.restoreFrom (s : State) (c : Ckpt) : State :=
  { s with arch := c.arch, regs := tabSetMany regReset (s.regs.filter (fun x => !ckptReg x.1)) (c.regs.filter (fun x => ckptReg x.1)) }

/-- The newest checkpoint, if one stands, is restored. -/
def State.restoreNewest (s : State) : State :=
  match s.ckpts with
  | c :: _ => s.restoreFrom c
  | [] => s

/-- Whether a warm restart may resume (R74, R86): the reason why not, or the slot it chose. -/
def State.resumeSlot (s : State) (bad : List Nat) (ckptBad : Bool) (ecc : Option Nat) : Nat ⊕ Nat :=
  if s.bitOf R.PWR_HOLDCFG 16 then .inl 1
  else if ckptBad || ecc.isSome || (s.ckpts.isEmpty && s.warm.from_ != stREADY) then .inl 3
  else match s.candidates bad with
    | [] => .inl 2
    | k :: _ =>
      let b := s.slotImage k
      let q := sealBody b
      let ok := (badIn bad (s.slotBase k + b.length - 180) 180).isNone && (s.life == 1 || s.life == 2 || s.life == 3) &&
        (uAt b 0x16 2 / 2 % 2 == 0 || slice b 0x28 16 == s.uidBytes) && s.sealKeyOk q && sealVerifies (headerSection b) q &&
        sealHash q == sealHash (sealBody s.image.bytes)
      if ok then .inr k else .inl 2

/-- State is not resumed (R74, R79, R86): the latched outputs go to their safe values, or to their cold defaults when the
configuration copy cannot be read, the copy is discarded, and a load follows from LOAD. -/
def State.noResume (s : State) (reason : Nat) (ecc : Option Nat) : State :=
  let s := s.raise 0x1005 noSource (BitVec.ofNat 32 reason) 0 0 0
  let s := match ecc with
    | some p =>
      let slot := s.fldOf R.CFG_STATUS 0 0
      s.reject slot 0x15 0 p
    | none => s
  let s := (({ s with image := {} } : State).touch 2 0 0x10000000).clrReg R.CFG_STATUS 2
  let s := { s.dropCkpts with
    counting := false, ticked := none, staged := [],
    warm := { s.warm with phase := .none, resumed := false, released := none, safe := ecc.isNone } }
  (s.netOff.enter stLOAD 0 false).entered

/-- Restoration ends (R74, R114): the chosen slot counts as loaded, and the state of the checkpoint stands. -/
def State.restoreDone (s : State) (bad : List Nat) (ckptBad : Bool) (ecc : Option Nat) (laps : List Nat) : State :=
  match s.resumeSlot bad ckptBad ecc with
  | .inl reason => s.noResume reason ecc
  | .inr k =>
    let s := ((s.loadBegin bad).showLoaded k false (s.slotImage k)).orReg R.MAINT_IRQSTAT 4
    let s := s.restoreNewest
    let s := forUpTo 32 (fun e s => s.lapResume e (laps.getD e 0)) s
    { s with warm := { s.warm with phase := .restored, resumed := true } }

/-- RESTORE_COMPLETE, with the flash addresses that cannot be read, whether the checkpoint has an uncorrectable error, a
page of the configuration copy that has one, and per trigger engine the frames of its lap from PRE on that reached DRAM. -/
def execRestoreComplete (bad : List Nat) (ckptBad : Bool) (ecc : Option Nat) (laps : List Nat) (e : Nat) (s : State) : Out :=
  let s := s.atEdge e
  .next (if s.warm.phase = .restoring then s.restoreDone bad ckptBad ecc laps else s)

/-- HOLD_TIMEOUT (R76). -/
def execHoldTimeout (e : Nat) (s : State) : Out :=
  let s := s.atEdge e
  .next (if (s.warm.phase = .restoring ∨ s.warm.phase = .restored) ∧
      s.warm.t0 + s.fldOf R.PWR_HOLDCFG 9 0 * edgesPerMs ≤ s.now then s.warmHalt 0x12 else s)

/-- A slot last written by an ADC core, a DIO ball or encoder, a CAN object or a Stride port, STALE (R78). -/
def Slot.resumed (v : Slot) : Slot :=
  if 1 ≤ fld v.qual 31 28 ∧ fld v.qual 31 28 ≤ 4 then { v with qual := (v.qual ||| 2) &&& 0xFFFFFFFE } else v

/-- Slots last written by an ADC core, a DIO ball or encoder, a CAN object or a Stride port are STALE until their writer
writes again (R78). -/
def State.staleSlots (s : State) : State :=
  s.modArch (fun a => { a with slots := a.slots.map (fun x => (x.1, x.2.resumed)) })

/-- B(r) of a resumed warm restart, after the tick number has advanced to r (R73, R78, R79). The event holds bits [31:0] of
r (DESIGN CHOICE, log 86). -/
def State.warmResume (s : State) : State :=
  let j := s.warm.j
  let r := s.tick
  let skip := r - j - 1
  let s := s.staleSlots
  let s := forEach (s.image.sec secCELLS) (fun x s => s.feReset x.key) s
  let s := ((s.lanesRestored j).axesResume.strideResume).canResume
  let s := if s.dev = stREADY then s else s.tiles.foldl (fun s t => s.traceResume t r) s
  let s := s.modDio (fun d => { d with debDue := true })
  let s := (s.setReg R.PWR_WRSKIP (satWord skip)).putFld R.PWR_STATE 8 8 1
  let s := s.raise 0x1004 noSource (BitVec.ofNat 32 r) (BitVec.ofNat 32 skip) 0 0
  ({ s with warm := { s.warm with phase := .firstTick } } : State).netResume

/-- B(r+1): the hold latches release (R73, R77, R80). PWR.WRTIME is rounded down to whole microseconds (DESIGN CHOICE,
log 86). -/
def State.warmRelease (s : State) : State :=
  let s := s.setReg R.PWR_WRTIME (satWord ((s.now - s.warm.t0) / edgesPerUs))
  { s with warm := { s.warm with phase := .none, released := some s.now } }

end Sys2Proof.Machine
end

