-- ==== Sys2Proof/Machine/Commit.lean ====
section
/-! DEFINITION. What a sealed letter does at its commit boundary (step 10 of R133, R134, R137, R142).
Where the spec can be read in two ways the assumption log says what was read: entries 23 to 29, 50 (DEDUCED unless marked there otherwise). -/

namespace Sys2Proof.Machine

/-! How a boundary begins (R15, R23, R134). -/

/-- Time moves to the next boundary, one TBASE after the latest (R14, R16). Time exits of the tick that ends take place
first (R237). -/
def State.nextEdge (s : State) : State :=
  let t := (s.atEdge s.tickEdges).lanesTimed
  { t with edgeBase := s.edgeBase + s.tickEdges, off := 0 }

/-- The tick number at a boundary (R15): 0 at the first one after RUN or SAFE is first entered, where the PWM counters start
too (R387); it goes on counting through a warm restart (R71). -/
def State.nextTick (s : State) : State :=
  if !(s.dev == stRUN || s.dev == stSAFE) then s
  else if s.counting then { s with tick := s.tick + 1 }
  else ({ s with tick := 0, counting := true } : State).modDio (fun d => { d with pwmBase := some s.now })

/-- The writes that commit at the present boundary, as slot and arrival. -/
def State.arrivals (s : State) : List (Nat × Nat) :=
  (s.staged.filter (fun x => decide (x.arrive < s.edgeBase))).map (fun x => (x.slot, x.arrive))

/-- Slot commits of the tick that has ended, and what becomes visible with them (R23, R187, R265). A write that reaches
the table after RUN is entered and before B(0) commits at B(0); the spec gives no tick before 0, and its stamp is 0
(DESIGN CHOICE, log 38). -/
def State.commits (s : State) : State :=
  let s := s.commitStaged (s.tick - 1)
  match s.ticked with
  | some k => s.tiles.foldl (fun s t => s.publishTile t k) s.lanesShow
  | none => s.lanesShow

/-- Whether letters commit at the present boundary: the states of R137, and not between T0 and B(r) of a warm restart
(R78). -/
def State.lettersCommit (s : State) : Bool :=
  (s.dev == stREADY || s.dev == stRUN || s.dev == stSAFE || s.dev == stHALT) &&
    (s.warm.phase == .none || s.warm.phase == .firstTick)

/-- The boundary begins (DESIGN CHOICE, log 38): time and the tick number move on, a restored device resumes at B(r), and
the slot commits take place. Its letters commit next; TICK_BOUNDARY completes it. -/
def State.openBoundary (s : State) : State :=
  if s.letters.half.isSome then s
  else
    let s := s.nextEdge.nextTick
    let release := s.warm.phase == .firstTick
    let s := if s.warm.phase = .restored then s.warmResume else s
    let h : Half := ⟨s.running, release, s.arrivals, s.landing⟩
    (if h.ticking then s.commits else s).modSeal (fun q => { q with half := some h })

/-! Letters. -/

/-- What a commit needs beside the letter: the EDGE count at which its counter write finished, whether the counter write
in progress has begun, and the key slots whose hash does not read back after programming (R125). -/
structure CommitEnv where
  fin : Nat
  writing : Bool
  otpBad : List Nat
  deriving DecidableEq, Repr

/-- A refusal at commit: code, DETAIL, and whether lane states caused it (R252). -/
structure CommitFail where
  code : Nat
  detail : Nat
  lanes : Bool := false
  deriving DecidableEq, Repr

/-! Refusals at commit. -/

/-- The lanes that a letter names, lowest first. -/
def letterLanes (l : Letter) : List Nat :=
  let gs := (letterBody l).1
  if l.typ = ltRUN ∨ l.typ = ltPARAMSET then (List.range 8).filter (fun t => gs.any (fun g => tagNat g 1 == t))
  else if l.typ = ltHOLD ∨ l.typ = ltRESUME ∨ l.typ = ltABORT then bitsOf 8 (tagNat (bodyGroup l) 1)
  else []

/-- The group of a body that names lane `t`. -/
def laneGroup (l : Letter) (t : Nat) : List Tlv := ((letterBody l).1.find? (fun g => tagNat g 1 == t)).getD []

/-- Whether the state of lane `t` refuses a letter (R250). -/
def State.laneRefuses (s : State) (l : Letter) (t : Nat) : Bool :=
  let st := (s.lane t).state
  let g := laneGroup l t
  if l.typ = ltRUN then
    !(st == lnIDLE || st == lnDONE) ||
      (match s.image.rec? secRECIPES (tagNat g 2) 0 with
       | some r => (recReq r).any (fun k => s.cenState (k / 64) (k % 64) != 1)
       | none => true)
  else if l.typ = ltHOLD then st != lnRUN
  else if l.typ = ltRESUME then !(st == lnRUN || st == lnHOLD)
  else if l.typ = ltPARAMSET then
    !(st == lnRUN || st == lnHOLD) ||
      (match tagIn g 3 with
       | some x => s.image.paramsBad (s.laneRecipe? t) (pairsOf x.val)
       | none => false)
  else false

/-- A group of a MOVE letter (R426). -/
def State.moveCmdOf (s : State) (g : List Tlv) : MoveCmd :=
  let n := tagNat g 1
  let f := tagNat g 3
  { axis := n, target := BitVec.ofNat 64 (match tagIn g 2 with | some x => uAt x.val 0 8 | none => 0),
    rel := f.testBit 0, flush := f.testBit 1, blend := f.testBit 2, stop := f.testBit 3,
    vlim := match tagIn g 4 with | some x => BitVec.ofNat 32 x.u | none => s.reg (R.AXIS_VMAX n),
    id := BitVec.ofNat 32 (tagNat g 5) }

/-- Whether the cause of SAFE has gone (R57, R526, R566). -/
def State.causeGone (s : State) : Bool :=
  s.reg R.DEV_FAILED == 0 && s.reg R.DEV_FAILED2 == 0 && !(s.cause == 3 && s.bitOf R.BATON_STAT 1) &&
    !(s.cause == 4 && s.sfault)

/-- The offset of the record that a STORE out of order breaks (R140). -/
def State.storeOrder (s : State) (g : List Tlv) : Option Nat :=
  let op := storeOp g
  let at_ := fun (t : Nat) => ((tagIn g t).map (·.off)).getD 0
  if op = 0 then none
  else match s.letters.series with
    | none => some (at_ 1)
    | some (slot, next) =>
      if slot ≠ tagNat g 1 % 256 then some (at_ 1)
      else if op = 1 ∧ tagNat g 2 < next then some (at_ 2)
      else none

/-- Step 10 in a permitted device state: what the lane, axis, cell and unit states refuse. -/
def State.stepTen (s : State) (l : Letter) : Option CommitFail :=
  let gs := (letterBody l).1
  let g := gs.headD []
  let when_ := fun (b : Bool) (f : CommitFail) => if b then some f else none
  if letterLanes l ≠ [] then
    match (letterLanes l).find? (s.laneRefuses l) with
    | some t => some ⟨rfSTATE, t, true⟩
    | none => none
  else if l.typ = ltMOVE then when_ (!s.moveStateOk [] (gs.map s.moveCmdOf)) ⟨rfSTATE, 0, false⟩
  else if l.typ = ltHOME then when_ (gs.any (fun g => (s.axis (tagNat g 1)).st != axIDLE)) ⟨rfSTATE, 0, false⟩
  else if l.typ = ltCLEARSAFE then when_ (!s.causeGone) ⟨rfSTATE, 0, false⟩
  else if l.typ = ltCLEARLOG then
    when_ (s.evr.clearCount (tagNat g 1)).isNone ⟨rfBOUNDS, 0, false⟩
  else if l.typ = ltSTORE then
    if s.loaded ∧ tagNat g 1 % 256 = s.fldOf R.CFG_STATUS 0 0 then some ⟨rfSTATE, tagNat g 1 % 256, false⟩
    else (s.storeOrder g).map (fun o => ⟨rfBOUNDS, o, false⟩)
  else if l.typ = ltTIMERESTEP then
    when_ (if g = [] then s.ptpMaster || !s.bitOf R.TIME_CTRL 31 else !s.ptpMaster) ⟨rfSTATE, 0, false⟩
  else if l.typ = ltSAFEAUTH then
    when_ (decide (5 ≤ (s.reg R.SAFE_PWFAIL).toNat) || ((tagIn g 3).isSome && decide (s.evr.safetyRoom = 0)))
      ⟨rfSTATE, 0, false⟩
  else none

/-- What refuses a letter at its commit: the device state (R137); whatever other letters have changed since its checks, so
that lifecycle, body and instances are judged again (R43, R119, R124, R125, R428, R633), a PARAMSET's values by R250; and
step 10. -/
def State.commitFail (s : State) (l : Letter) : Option CommitFail :=
  if !(letterStates l.typ).contains s.dev then some ⟨rfSTATE, 0, false⟩
  else if !s.lifePermits l then some ⟨rfSTATE, 0, false⟩
  else
    match (if l.typ = ltPARAMSET then (letterBody l).2 else s.bodyBad l) with
    | o :: r => some ⟨rfBOUNDS, r.foldl min o, false⟩
    | [] =>
      match s.letterAbsent l with
      | u :: _ => some ⟨rfABSENT, u, false⟩
      | [] => s.stepTen l

/-- A letter is refused at its commit: with EV_SEQ_REFUSED for each lane it names where lane states refuse it (R252), and
with SAFE.PWFAIL for a password that another letter has changed (R587). -/
def State.commitRefuse (s : State) (l : Letter) (f : CommitFail) : State :=
  let s := if l.typ = ltSAFEAUTH ∧ f.code = rfBOUNDS ∧ s.passwordWrong (bodyGroup l) then
      (s.bump R.SAFE_PWFAIL).raise 0x7009 noSource 0 0 0 0
    else s
  let s := s.refuse l.org f.code f.detail (letterId l)
  if f.lanes then
    forEach (letterLanes l) (fun t s =>
      s.raise 0xE104 t (BitVec.ofNat 32 t) (BitVec.ofNat 32 rfSTATE) (BitVec.ofNat 32 l.typ) s.tickLo) s
  else s

/-! Effects (R137). -/

/-- The parameter values of a RUN: those it gives, and the defaults (R226). -/
def State.runParams (s : State) (r : Nat) (ps : List (Nat × Word)) : List Word :=
  (List.range 16).map (fun i =>
    match ps.find? (fun p => p.1 == i) with
    | some p => p.2
    | none => match s.image.param? r i with | some d => d.dflt | none => 0)

/-- The pairs of tag 3 of a group. -/
def groupPairs (g : List Tlv) : List (Nat × Word) := match tagIn g 3 with | some x => pairsOf x.val | none => []

/-- START (R57). -/
def State.doStart (s : State) : State := s.startCondition

/-- RUN, HOLD, RESUME, ABORT and PARAMSET act on every lane they name (R251), in body order. -/
def State.doRun (s : State) (l : Letter) : State :=
  forEach (letterBody l).1 (fun g s =>
    s.laneStart (tagNat g 1) (tagNat g 2) (s.runParams (tagNat g 2) (groupPairs g))) s
def State.doHold (s : State) (l : Letter) : State := forEach (letterLanes l) (fun t s => s.laneHold t) s
def State.doResume (s : State) (l : Letter) : State := forEach (letterLanes l) (fun t s => s.laneResume t) s
def State.doAbort (s : State) (l : Letter) : State := forEach (letterLanes l) (fun t s => s.laneAbort t 6) s
def State.doParamset (s : State) (l : Letter) (fin : Nat) : State :=
  forEach (letterBody l).1 (fun g s => (s.laneParams (tagNat g 1) fin (groupPairs g)).laneShow (tagNat g 1)) s

/-- SNAPPOLICY (R334). -/
def State.doSnappolicy (s : State) (l : Letter) : State :=
  let g := bodyGroup l
  (s.setReg R.SNAP_POLICY (BitVec.ofNat 32 (tagNat g 1))).setReg R.SNAP_PHASE (BitVec.ofNat 32 (tagNat g 2))

/-- CELLMODE (R178 to R180). -/
def State.doCellmode (s : State) (l : Letter) : State :=
  forEach (letterBody l).1 (fun g s =>
    s.commitMode (tagNat g 1) (tagNat g 2) ((tagIn g 3).map (fun x => wordsOf x.val))) s

/-- MOVE (R426) and HOME (R427). -/
def State.doMove (s : State) (l : Letter) : State := s.commitMove ((letterBody l).1.map s.moveCmdOf)
def State.doHome (s : State) (l : Letter) : State := forEach (letterBody l).1 (fun g s => s.startHome (tagNat g 1)) s

/-- CALIBRATE (R365). -/
def State.doCalibrate (s : State) (l : Letter) : State := s.calibrate ((letterBody l).1.map calItemOf) l.seq

/-- CLEARLOG (R609). -/
def State.doClearlog (s : State) (l : Letter) : State :=
  match s.evr.clearCount (tagNat (bodyGroup l) 1) with
  | none => s
  | some n =>
    ({ s with evr := s.evr.clear n } : State).raise 0x6002 noSource (BitVec.ofNat 32 n) (BitVec.ofNat 32 l.keyslot)
      (BitVec.ofNat 32 l.seq) s.tickLo

/-- Bytes programmed into the flash from byte `a` on; erased flash reads 0xFF (PRESUMED, log 7). -/
def State.flashProgram (s : State) (a : Nat) (b : List Byte) : State :=
  { s with flash := { s.flash with bytes := tabSetMany (fun _ => 0xFF) s.flash.bytes (b.zipIdx.map (fun x => (a + x.2, x.1))) } }

/-- A slot erased. -/
def State.flashErase (s : State) (slot : Nat) : State :=
  let lo := s.slotBase slot
  let hi := lo + s.slotSize
  { s with flash := { s.flash with bytes := s.flash.bytes.filter (fun x => decide (x.1 < lo) || decide (hi ≤ x.1)) } }

/-- STORE (R84, R140). -/
def State.doStore (s : State) (l : Letter) : State :=
  let g := bodyGroup l
  let slot := tagNat g 1 % 256
  let data := match tagIn g 3 with | some x => x.val | none => []
  let open_ := fun (q : Option (Nat × Nat)) (s : State) => s.modSeal (fun m => { m with series := q })
  if storeOp g = 0 then open_ (some (slot, 256)) (s.flashErase slot)
  else if storeOp g = 1 then
    open_ (some (slot, tagNat g 2 + data.length)) (s.flashProgram (s.slotBase slot + tagNat g 2) data)
  else open_ none (s.flashProgram (s.slotBase slot) data)

/-- RELOAD (R57, R61, R140): in HALT a load from LOAD, else a warm restart. The checkpoint of the tick that ends at the
commit boundary is complete (R72). -/
def State.doReload (s : State) (writing : Bool) : State :=
  let s := s.modSeal (fun q => { q with series := none })
  if s.dev = stHALT then (s.netOff.enter stLOAD 0 false).entered else s.warmCause 1024 true writing

/-- CLEARSAFE (R57). -/
def State.doClearsafe (s : State) : State := s.enterRun

/-- SLEEP (R57, R66). -/
def State.doSleep (s : State) : State :=
  let s := s.coldDown 0 false .keep
  { s with power := { s.power with wakeNeeded := true } }

/-- TIME_RESTEP (R548). -/
def State.doTimeRestep (s : State) (l : Letter) : State :=
  let g := bodyGroup l
  if g = [] then s.timeFlag 5 true
  else
    let s := match tagIn g 1 with
      | some x => s.timeSet (uAt x.val 0 8) (uAt x.val 8 4)
      | none => s
    match tagIn g 2 with
    | some x => s.setReg R.TIME_UTCOFS (BitVec.ofNat 32 x.u)
    | none => s

/-- REGWRITE (R139). -/
def State.doRegwrite (s : State) (l : Letter) : State :=
  match tagIn (bodyGroup l) 1 with
  | some x => (pairsOf x.val).foldl (fun s p => s.writeReg l.org.port true p.1 p.2) s
  | none => s

/-- SALT of the next password (R585). -/
def State.nextSalt (s : State) : List Byte := (sha512 (s.uidBytes ++ leBytes 4 s.safe.pwCount)).take 16

/-- SAFEAUTH (R586, R588). PWCOUNT of the record is the count after the setting. Each of its two ENVM writes is deferred while
one of a higher class is pending (R338). -/
def State.doSafeauth (s : State) (l : Letter) : State :=
  let g := bodyGroup l
  let behind := s.envmPending 2 || s.envmPending 3
  let s := (s.deferIf (behind && (tagIn g 1).isSome)).deferIf (behind && (tagIn g 3).isSome)
  let s := match tagIn g 1 with
    | some x =>
      ((s.putHash R.SAFE_PHASH x.val).putFld R.SAFE_STAT 8 8 1).modSafe (fun q => { q with authSeq := l.seq })
    | none => s
  match tagIn g 3 with
  | none => s
  | some x =>
    let s := s.modSafe (fun q => { q with pwCount := (q.pwCount + 1) % 2 ^ 32 })
    let salt := s.nextSalt
    let s := (s.modSafe (fun q => { q with password := some (passwordHash salt x.val, salt) })).putFld R.SAFE_STAT 9 9 1
    s.raise 0x7081 noSource (BitVec.ofNat 32 s.safe.pwCount) (BitVec.ofNat 32 l.keyslot) (BitVec.ofNat 32 l.seq) 0

/-- LIFECYCLE (R119, R120): ENDED clears the AON counters and their copies (R80). -/
def State.doLifecycle (s : State) (l : Letter) : State :=
  let n := tagNat (bodyGroup l) 1
  let s := s.putFld R.SEAL_LIFE 2 0 n
  if n = 4 then
    let s := aonRegs.foldl (fun s a => s.setReg a 0) s
    { s with power := { s.power with saved := [0, 0, 0, 0] ++ s.power.saved.drop 4 } }
  else s

/-- KEYSET (R124, R125, R129). `good` says whether the hash reads back equal. -/
def State.doKeyset (s : State) (l : Letter) (good : Bool) : State :=
  let g := bodyGroup l
  let n := tagNat g 1
  let key := match tagIn g 3 with | some x => x.val | none => []
  let k : KeySlot := { hash := (sha512 key).take 32, mask := tagNat g 2, programmed := true, revoked := !good }
  let s := s.modSeal (fun q =>
    { q with keys := modifyAt q.keys n (fun o => { k with revoked := k.revoked || o.revoked }),
             counters := modifyAt q.counters n (fun _ => 0) })
  if good then s else s.raise 0x3003 noSource 0 0 0 0

/-- KEYREVOKE (R124). -/
def State.doKeyrevoke (s : State) (l : Letter) : State :=
  s.modSeal (fun q => { q with keys := modifyAt q.keys (tagNat (bodyGroup l) 1) (fun k => { k with revoked := true }) })

/-- BIST (R632, R634): TEST, the island in BOOT unless it has faulted (R565), the window empty, the selected tests running. -/
def State.doBist (s : State) (l : Letter) : State :=
  let mask := tagNat (bodyGroup l) 1
  let s := { s.dropCkpts with
    staged := [], counting := false, ticked := none,
    warm := { s.warm with phase := .none, released := none, safe := false } }
  let s := if s.hasIsland && s.istate != islFAULT then (s.islOff.islStopTests.setIstate islBOOT).islShow else s
  let s := (s.netOff.enter stTEST 0 false).entered
  let s := if mask.testBit 1 then s.clearDram else s
  ((s.emptyRecs 2).setReg R.BIST_FAILCNT 0).modInteg (fun g => { g with bist := some mask })

/-- FUSE (R633). -/
def State.doFuse (s : State) (l : Letter) : State := s.programFuses (repairsOf l)

/-- PWRSTAGE (R48). -/
def State.doPwrstage (s : State) (l : Letter) : State :=
  { s with power := { s.power with record := some (BitVec.ofNat 32 (tagNat (bodyGroup l) 1)) } }

/-- The effect of a letter by its type. -/
def State.letterEffect (s : State) (v : CommitEnv) (l : Letter) : State :=
  if l.typ = ltSTART then s.doStart
  else if l.typ = ltRUN then s.doRun l
  else if l.typ = ltHOLD then s.doHold l
  else if l.typ = ltRESUME then s.doResume l
  else if l.typ = ltABORT then s.doAbort l
  else if l.typ = ltPARAMSET then s.doParamset l v.fin
  else if l.typ = ltSNAPPOLICY then s.doSnappolicy l
  else if l.typ = ltCELLMODE then s.doCellmode l
  else if l.typ = ltMOVE then s.doMove l
  else if l.typ = ltHOME then s.doHome l
  else if l.typ = ltCALIBRATE then s.doCalibrate l
  else if l.typ = ltCLEARLOG then s.doClearlog l
  else if l.typ = ltSTORE then s.doStore l
  else if l.typ = ltRELOAD then s.doReload v.writing
  else if l.typ = ltCLEARSAFE then s.doClearsafe
  else if l.typ = ltSLEEP then s.doSleep
  else if l.typ = ltTIMERESTEP then s.doTimeRestep l
  else if l.typ = ltREGWRITE then s.doRegwrite l
  else if l.typ = ltSAFEAUTH then s.doSafeauth l
  else if l.typ = ltLIFECYCLE then s.doLifecycle l
  else if l.typ = ltKEYSET then s.doKeyset l (!v.otpBad.contains (tagNat (bodyGroup l) 1))
  else if l.typ = ltKEYREVOKE then s.doKeyrevoke l
  else if l.typ = ltBIST then s.doBist l
  else if l.typ = ltFUSE then s.doFuse l
  else if l.typ = ltPWRSTAGE then s.doPwrstage l
  else s

/-- Whether a type's reply goes out: SLEEP, and RELOAD that leads to LOAD or to T0, stop the ports at the commit (R58,
R75); in HALT, to which a repeated restart leads, they stay active (R77). -/
def State.letterReplied (s : State) (typ : Nat) : Bool :=
  typ != ltSLEEP && (typ != ltRELOAD || (s.dev != stHALT && s.repeatCause.isSome))

/-- A letter commits: its counts and record (R135, R145), its LETTER_REPLY (R142) and its effect. -/
def State.letterCommit (s : State) (v : CommitEnv) (l : Letter) : State :=
  let s := (s.bump R.SEAL_COMMITCNT).noteLast (letterId l) 0
  let s := if ltCALIBRATE ≤ l.typ then
      s.raise 0x3002 noSource (BitVec.ofNat 32 l.typ) (BitVec.ofNat 32 l.keyslot) (BitVec.ofNat 32 l.seq) 0
    else s
  let s := if s.letterReplied l.typ then s.letterReply l.org 0 0 (letterId l) else s
  s.letterEffect v l

/-- A letter past its counter write, at its commit boundary: it commits or is refused. -/
def State.letterAtCommit (s : State) (v : CommitEnv) (l : Letter) : State :=
  match s.commitFail l with
  | some f => s.commitRefuse l f
  | none => s.letterCommit v l

/-- The letters of a boundary in arrival order; those behind a letter that restarts or stops the device are dropped
(R78). -/
def State.commitAll (writing : Bool) (otpBad : List Nat) : List (Letter × Nat) → State → State
  | [], s => s
  | (l, fin) :: r, s =>
    let t := s.letterAtCommit ⟨fin, writing, otpBad⟩ l
    if t.dev = stKEEP ∨ t.warm.phase = .restoring then t else State.commitAll writing otpBad r t

/-- Every letter whose counter write finished before the present boundary takes its turn (R134). -/
def State.commitLetters (s : State) (writing : Bool) (otpBad : List Nat) : State :=
  let due := s.letters.waiting.takeWhile (fun x => decide (x.2 < s.now))
  State.commitAll writing otpBad due (s.modSeal (fun q => { q with waiting := q.waiting.drop due.length }))

/-! The letters' commands: each is the letter's turn at its commit boundary, which the first of them begins and
TICK_BOUNDARY completes (DESIGN CHOICE, log 38). `fin` is the EDGE count at which its counter write finished, `writing` says
whether the counter write in progress has begun, `good` whether a key's hash reads back. -/

/-- The command of a letter of type `typ`: no letter commits where R137 and R78 let none. -/
def State.letterCmd (s : State) (typ : Nat) (v : CommitEnv) (l : Letter) : Out :=
  let s := s.openBoundary
  .next (if s.lettersCommit then s.letterAtCommit v { l with typ := typ } else s)

/-- The command of a STORE letter with operation `op`: its tag 1 names the operation in bits 15:8. -/
def State.storeCmd (s : State) (op : Nat) (l : Letter) : Out :=
  s.letterCmd ltSTORE ⟨s.now, false, []⟩ { l with body := l.body.set 5 (BitVec.ofNat 8 op) }

/-- START. -/
def execStart (l : Letter) (s : State) : Out := s.letterCmd ltSTART ⟨s.now, false, []⟩ l
/-- RUN. -/
def execRun (l : Letter) (s : State) : Out := s.letterCmd ltRUN ⟨s.now, false, []⟩ l
/-- HOLD. -/
def execHold (l : Letter) (s : State) : Out := s.letterCmd ltHOLD ⟨s.now, false, []⟩ l
/-- RESUME. -/
def execResume (l : Letter) (s : State) : Out := s.letterCmd ltRESUME ⟨s.now, false, []⟩ l
/-- ABORT. -/
def execAbort (l : Letter) (s : State) : Out := s.letterCmd ltABORT ⟨s.now, false, []⟩ l
/-- PARAMSET. -/
def execParamset (l : Letter) (fin : Nat) (s : State) : Out := s.letterCmd ltPARAMSET ⟨fin, false, []⟩ l
/-- SNAPPOLICY. -/
def execSnappolicy (l : Letter) (s : State) : Out := s.letterCmd ltSNAPPOLICY ⟨s.now, false, []⟩ l
/-- CELLMODE. -/
def execCellmode (l : Letter) (s : State) : Out := s.letterCmd ltCELLMODE ⟨s.now, false, []⟩ l
/-- MOVE. -/
def execMove (l : Letter) (s : State) : Out := s.letterCmd ltMOVE ⟨s.now, false, []⟩ l
/-- HOME. -/
def execHome (l : Letter) (s : State) : Out := s.letterCmd ltHOME ⟨s.now, false, []⟩ l
/-- CALIBRATE. -/
def execCalibrate (l : Letter) (s : State) : Out := s.letterCmd ltCALIBRATE ⟨s.now, false, []⟩ l
/-- CLEARLOG. -/
def execClearlog (l : Letter) (s : State) : Out := s.letterCmd ltCLEARLOG ⟨s.now, false, []⟩ l
/-- STORE BEGIN. -/
def execStoreBegin (l : Letter) (s : State) : Out := s.storeCmd 0 l
/-- STORE DATA. -/
def execStoreData (l : Letter) (s : State) : Out := s.storeCmd 1 l
/-- STORE FINISH. -/
def execStoreFinish (l : Letter) (s : State) : Out := s.storeCmd 2 l
/-- RELOAD. -/
def execReload (l : Letter) (writing : Bool) (s : State) : Out := s.letterCmd ltRELOAD ⟨s.now, writing, []⟩ l
/-- CLEARSAFE. -/
def execClearsafe (l : Letter) (s : State) : Out := s.letterCmd ltCLEARSAFE ⟨s.now, false, []⟩ l
/-- SLEEP. -/
def execSleep (l : Letter) (s : State) : Out := s.letterCmd ltSLEEP ⟨s.now, false, []⟩ l
/-- TIME_RESTEP. -/
def execTimeRestep (l : Letter) (s : State) : Out := s.letterCmd ltTIMERESTEP ⟨s.now, false, []⟩ l
/-- REGWRITE. -/
def execRegwrite (l : Letter) (s : State) : Out := s.letterCmd ltREGWRITE ⟨s.now, false, []⟩ l
/-- SAFEAUTH. -/
def execSafeauth (l : Letter) (s : State) : Out := s.letterCmd ltSAFEAUTH ⟨s.now, false, []⟩ l
/-- LIFECYCLE. -/
def execLifecycle (l : Letter) (s : State) : Out := s.letterCmd ltLIFECYCLE ⟨s.now, false, []⟩ l
/-- KEYSET. -/
def execKeyset (l : Letter) (good : Bool) (s : State) : Out :=
  s.letterCmd ltKEYSET ⟨s.now, false, if good then [] else [0, 1, 2, 3]⟩ l
/-- KEYREVOKE. -/
def execKeyrevoke (l : Letter) (s : State) : Out := s.letterCmd ltKEYREVOKE ⟨s.now, false, []⟩ l
/-- BIST. -/
def execBist (l : Letter) (s : State) : Out := s.letterCmd ltBIST ⟨s.now, false, []⟩ l
/-- FUSE. -/
def execFuse (l : Letter) (s : State) : Out := s.letterCmd ltFUSE ⟨s.now, false, []⟩ l
/-- PWRSTAGE. -/
def execPwrstage (l : Letter) (s : State) : Out := s.letterCmd ltPWRSTAGE ⟨s.now, false, []⟩ l

end Sys2Proof.Machine
end

