-- ==== Sys2Proof/Machine/Tick.lean ====
section
/-! DEFINITION. TICK_BOUNDARY: everything that happens at a tick boundary (R15, R23, R24, R72, R73, R134, R161).
Where the spec can be read in two ways the assumption log says what was read: entries 11, 38 (DEDUCED unless marked there otherwise). -/

namespace Sys2Proof.Machine

/-- Entry into SAFE that fell due (R57, R526). -/
def State.safeBoundary (s : State) : State :=
  let s := s.bothLostReact
  if s.dev = stRUN ∧ s.power.safeDue ≠ 0 then s.enterSafe s.power.safeDue else s

/-- The checkpoint of the present boundary, and the one before it (R72). -/
def State.writeCkpt (s : State) : State := { s with ckpts := (s.checkpoint s.tick :: s.ckpts).take 2 }

/-- Sinks sample the committed values (R24). A hold latch keeps what it holds until B(r+1) (R73, R75). -/
def State.sinks (s : State) : State :=
  let s := s.dioSample.dacAll
  let s := if s.warm.phase = .none then s.canRequests s.tick else s
  s.canTimeouts.canLeft.axIssue.islRequests

/-- Inputs and counters latched at a boundary in the states in which boundaries are seen (R398, R550). -/
def State.latches (s : State) : State :=
  if s.dev == stREADY || s.dev == stRUN || s.dev == stSAFE || s.dev == stHALT then s.encLatch.latchBoundary s.tick else s

/-- A write that a cell or an axis makes in the present tick reaches the signal table some time within it (R161, R259). -/
def State.reachTable (s : State) (x : Staged) : Staged :=
  let c := x.writer / 4096
  if (c = clsCell ∨ c = clsAxis) ∧ x.arrive = s.now then
    { x with arrive := s.now + Config.tileWrite x.writer s.tick % max 1 s.tickEdges }
  else x

/-- The tiles run tick k (R161): lanes, axes and cells. -/
def State.runTiles (s : State) (arr : List (Nat × Nat)) : State :=
  let k := s.tick
  let s := (((s.lanesRun arr).runAxes k).holdsRun k).runCells k
  { s with ticked := some k, staged := s.staged.map s.reachTable }

/-- Nothing is recorded outside RUN and SAFE (R277). -/
def State.acqIdle (s : State) : State := if s.running then s else s.acqClose s.tick

/-- The rest of a boundary that has begun as `h` says: its letters, and what the sinks and the tiles do. A letter's clear of
SIG.MULTIWR comes before the boundary's own increments (R27, R159). `writing` says whether the counter write in progress has
begun, `otpBad` names key slots whose hash does not read back after programming. -/
def State.boundaryWork (s : State) (h : Half) (writing : Bool) (otpBad : List Nat) : State :=
  let s := if s.lettersCommit then s.commitLetters writing otpBad else s
  let s := if h.ticking then s.countMulti h.landed else s
  let s := if h.release && s.warm.phase == .firstTick then s.warmRelease else s
  if !(h.ticking && s.running) then (s.latches.acqIdle)
  else
    let s := (s.safeBoundary.lanesBegin.acqClose s.tick).writeCkpt.acqSamples s.tick
    ((((s.snapBoundary s.tick).sinks.latches).dioDebWrite).runTiles h.arr)

/-- A tick boundary: it begins unless a letter's command has begun it, and is completed. -/
def State.boundary (s : State) (writing : Bool) (otpBad : List Nat) : State :=
  let s := s.openBoundary
  let h := s.letters.half.getD ⟨false, false, [], []⟩
  (s.modSeal (fun q => { q with half := none })).boundaryWork h writing otpBad

/-- TICK_BOUNDARY, with whether the counter write in progress has begun and the key slots whose hash does not read back
after programming. -/
def execTickBoundary (writing : Bool) (otpBad : List Nat) (s : State) : Out := .next (s.boundary writing otpBad)

end Sys2Proof.Machine
end

