-- ==== Sys2Proof/Machine/Dispatch.lean ====
section
/-! DEFINITION. The meaning of every command. -/

namespace Sys2Proof.Machine

/-- The effect of a command on everything but the queue. -/
def exec (i : Instr) (s : State) : Host.Outcome State Fault Refusal :=
  match i with
  | .enRise vin ret => Sys2Proof.Machine.execEnRise vin ret s
  | .enFall saved => Sys2Proof.Machine.execEnFall saved s
  | .powerFail saved => Sys2Proof.Machine.execPowerFail saved s
  | .ovinShutdown => Sys2Proof.Machine.execOvinShutdown s
  | .ovinRecovery ret => Sys2Proof.Machine.execOvinRecovery ret s
  | .resetNLow ns => Sys2Proof.Machine.execResetNLow ns s
  | .resetNRelease => Sys2Proof.Machine.execResetNRelease s
  | .powerGood => Sys2Proof.Machine.execPowerGood s
  | .railOutOfWindow => Sys2Proof.Machine.execRailOutOfWindow s
  | .railRetry => Sys2Proof.Machine.execRailRetry s
  | .currentLimitCycle n again => Sys2Proof.Machine.execCurrentLimitCycle n again s
  | .phaseNoRipple => Sys2Proof.Machine.execPhaseNoRipple s
  | .tjHigh => Sys2Proof.Machine.execTjHigh s
  | .thermalReset => Sys2Proof.Machine.execThermalReset s
  | .thermalRecover => Sys2Proof.Machine.execThermalRecover s
  | .clockLoss reference => Sys2Proof.Machine.execClockLoss reference s
  | .wakeRise ret => Sys2Proof.Machine.execWakeRise ret s
  | .aonCrystalStop => Sys2Proof.Machine.execAonCrystalStop s
  | .aonSecond retries e => Sys2Proof.Machine.execAonSecond retries e s
  | .counterSave wait => Sys2Proof.Machine.execCounterSave wait s
  | .bootPost envm path l => Sys2Proof.Machine.execBootPost envm path l s
  | .testPost l => Sys2Proof.Machine.execTestPost l s
  | .imageLoad bad ecc e => Sys2Proof.Machine.execImageLoad bad ecc e s
  | .tickBoundary writing otpBad => Sys2Proof.Machine.execTickBoundary writing otpBad s
  | .watchdogExpiry more complete writing e => Sys2Proof.Machine.execWatchdogExpiry more complete writing e s
  | .fatalFault more complete writing e => Sys2Proof.Machine.execFatalFault more complete writing e s
  | .restoreComplete bad ckptBad ecc laps e => Sys2Proof.Machine.execRestoreComplete bad ckptBad ecc laps e s
  | .holdTimeout e => Sys2Proof.Machine.execHoldTimeout e s
  | .letterReceive o b wait e => Sys2Proof.Machine.execLetterReceive o b wait e s
  | .letterVerify e => Sys2Proof.Machine.execLetterVerify e s
  | .counterWriteDone wait e => Sys2Proof.Machine.execCounterWriteDone wait e s
  | .refusalRunClose code port => Sys2Proof.Machine.execRefusalRunClose code port s
  | .start l => Sys2Proof.Machine.execStart l s
  | .run l => Sys2Proof.Machine.execRun l s
  | .hold l => Sys2Proof.Machine.execHold l s
  | .resume l => Sys2Proof.Machine.execResume l s
  | .abort l => Sys2Proof.Machine.execAbort l s
  | .paramset l fin => Sys2Proof.Machine.execParamset l fin s
  | .snappolicy l => Sys2Proof.Machine.execSnappolicy l s
  | .cellmode l => Sys2Proof.Machine.execCellmode l s
  | .move l => Sys2Proof.Machine.execMove l s
  | .home l => Sys2Proof.Machine.execHome l s
  | .calibrate l => Sys2Proof.Machine.execCalibrate l s
  | .calibrationWriteDone ok wait => Sys2Proof.Machine.execCalibrationWriteDone ok wait s
  | .clearlog l => Sys2Proof.Machine.execClearlog l s
  | .storeBegin l => Sys2Proof.Machine.execStoreBegin l s
  | .storeData l => Sys2Proof.Machine.execStoreData l s
  | .storeFinish l => Sys2Proof.Machine.execStoreFinish l s
  | .reload l writing => Sys2Proof.Machine.execReload l writing s
  | .clearsafe l => Sys2Proof.Machine.execClearsafe l s
  | .sleep l => Sys2Proof.Machine.execSleep l s
  | .timeRestep l => Sys2Proof.Machine.execTimeRestep l s
  | .regwrite l => Sys2Proof.Machine.execRegwrite l s
  | .safeauth l => Sys2Proof.Machine.execSafeauth l s
  | .lifecycle l => Sys2Proof.Machine.execLifecycle l s
  | .keyset l good => Sys2Proof.Machine.execKeyset l good s
  | .keyrevoke l => Sys2Proof.Machine.execKeyrevoke l s
  | .bist l => Sys2Proof.Machine.execBist l s
  | .bistComplete envm path l ms => Sys2Proof.Machine.execBistComplete envm path l ms s
  | .fuse l => Sys2Proof.Machine.execFuse l s
  | .pwrstage l => Sys2Proof.Machine.execPwrstage l s
  | .read o b e => Sys2Proof.Machine.execRead o b e s
  | .ycpDiscard g e => Sys2Proof.Machine.execYcpDiscard g e s
  | .duplicateDiscard o letter e => Sys2Proof.Machine.execDuplicateDiscard o letter e s
  | .traceRead b e => Sys2Proof.Machine.execTraceRead b e s
  | .traceConsume b e => Sys2Proof.Machine.execTraceConsume b e s
  | .lapRead b e => Sys2Proof.Machine.execLapRead b e s
  | .lapConsume b e => Sys2Proof.Machine.execLapConsume b e s
  | .snapRead b e => Sys2Proof.Machine.execSnapRead b e s
  | .readoutDatagram wait e => Sys2Proof.Machine.execReadoutDatagram wait e s
  | .snapReq o b wait e => Sys2Proof.Machine.execSnapReq o b wait e s
  | .photoFinishReady e => Sys2Proof.Machine.execPhotoFinishReady e s
  | .evrSeek b cursor => Sys2Proof.Machine.execEvrSeek b cursor s
  | .evrFreeze b => Sys2Proof.Machine.execEvrFreeze b s
  | .evrUnfreeze b => Sys2Proof.Machine.execEvrUnfreeze b s
  | .freezeTimeout => Sys2Proof.Machine.execFreezeTimeout s
  | .hostHeartbeat o b e => Sys2Proof.Machine.execHostHeartbeat o b e s
  | .deviceHeartbeat p wait e => Sys2Proof.Machine.execDeviceHeartbeat p wait e s
  | .pathLost p e => Sys2Proof.Machine.execPathLost p e s
  | .bothLostReaction => Sys2Proof.Machine.execBothLostReaction s
  | .batonMove e => Sys2Proof.Machine.execBatonMove e s
  | .standbyVerify o b e => Sys2Proof.Machine.execStandbyVerify o b e s
  | .batonSkewTimeout e => Sys2Proof.Machine.execBatonSkewTimeout e s
  | .heldCopyTimeout e => Sys2Proof.Machine.execHeldCopyTimeout e s
  | .prpSupervision => Sys2Proof.Machine.execPrpSupervision s
  | .portStart p sync anDone e => Sys2Proof.Machine.execPortStart p sync anDone e s
  | .mdioPoll p link => Sys2Proof.Machine.execMdioPoll p link s
  | .arpRefresh p => Sys2Proof.Machine.execArpRefresh p s
  | .arpRequest o target e => Sys2Proof.Machine.execArpRequest o target e s
  | .icmpEcho o len data e => Sys2Proof.Machine.execIcmpEcho o len data e s
  | .rxLockLoss p long e => Sys2Proof.Machine.execRxLockLoss p long e s
  | .safetyFrameSend c waitA waitB e => Sys2Proof.Machine.execSafetyFrameSend c waitA waitB e s
  | .safetyFrameReceive p b e => Sys2Proof.Machine.execSafetyFrameReceive p b e s
  | .safetyWatchdog c e => Sys2Proof.Machine.execSafetyWatchdog c e s
  | .ptpSync peer domain seq twoStep t1 corr raw e => Sys2Proof.Machine.execPtpSync peer domain seq twoStep t1 corr raw e s
  | .ptpFollowUp peer domain seq t1 corr e => Sys2Proof.Machine.execPtpFollowUp peer domain seq t1 corr e s
  | .ptpAnnounce peer domain gm0 gm1 utc e => Sys2Proof.Machine.execPtpAnnounce peer domain gm0 gm1 utc e s
  | .ptpDelayResp peer domain seq t4 corr => Sys2Proof.Machine.execPtpDelayResp peer domain seq t4 corr s
  | .ptpDelayReq peer domain seq corr raw => Sys2Proof.Machine.execPtpDelayReq peer domain seq corr raw s
  | .ptpPdelay peer domain kind seq ts corr raw tx => Sys2Proof.Machine.execPtpPdelay peer domain kind seq ts corr raw tx s
  | .ptpMasterSend kind raws => Sys2Proof.Machine.execPtpMasterSend kind raws s
  | .ptpDiscard => Sys2Proof.Machine.execPtpDiscard s
  | .announceReceiptTimeout syncs => Sys2Proof.Machine.execAnnounceReceiptTimeout syncs s
  | .timeMark e => Sys2Proof.Machine.execTimeMark e s
  | .tpoArm n w => Sys2Proof.Machine.execTpoArm n w s
  | .tpoPulse n e => Sys2Proof.Machine.execTpoPulse n e s
  | .tpoPulseEnd n e => Sys2Proof.Machine.execTpoPulseEnd n e s
  | .tciEdge n rising short e => Sys2Proof.Machine.execTciEdge n rising short e s
  | .startTimerFire n => Sys2Proof.Machine.execStartTimerFire n s
  | .adcStart c lag e => Sys2Proof.Machine.execAdcStart c lag e s
  | .adcConversionDone c code e => Sys2Proof.Machine.execAdcConversionDone c code e s
  | .adcSelfTest c ref zero => Sys2Proof.Machine.execAdcSelfTest c ref zero s
  | .dioInputTransition n v short lag e => Sys2Proof.Machine.execDioInputTransition n v short lag e s
  | .debounceAccept n lag e => Sys2Proof.Machine.execDebounceAccept n lag e s
  | .periodEdge n v short lag e => Sys2Proof.Machine.execPeriodEdge n v short lag e s
  | .periodTimeout n lag e => Sys2Proof.Machine.execPeriodTimeout n lag e s
  | .captureEdge n v short lag e => Sys2Proof.Machine.execCaptureEdge n v short lag e s
  | .encoderTransition m a b e => Sys2Proof.Machine.execEncoderTransition m a b e s
  | .encoderIndex m z e => Sys2Proof.Machine.execEncoderIndex m z e s
  | .pwmPeriodStart n e => Sys2Proof.Machine.execPwmPeriodStart n e s
  | .pwmEdge n kind e => Sys2Proof.Machine.execPwmEdge n kind e s
  | .pulseRise n e => Sys2Proof.Machine.execPulseRise n e s
  | .pulseFall n e => Sys2Proof.Machine.execPulseFall n e s
  | .ilkEdge j v short e => Sys2Proof.Machine.execIlkEdge j v short e s
  | .ilkClr w => Sys2Proof.Machine.execIlkClr w s
  | .servoPeriodStart d => Sys2Proof.Machine.execServoPeriodStart d s
  | .strideReply d sl b len lag wait e => Sys2Proof.Machine.execStrideReply d sl b len lag wait e s
  | .strideAnnounce d b len e => Sys2Proof.Machine.execStrideAnnounce d b len e s
  | .strideFrameDiscard d len e => Sys2Proof.Machine.execStrideFrameDiscard d len e s
  | .replySlotClose d sl e => Sys2Proof.Machine.execReplySlotClose d sl e s
  | .canFrameReceive c f lag wait e => Sys2Proof.Machine.execCanFrameReceive c f lag wait e s
  | .canRxTimeout c o => Sys2Proof.Machine.execCanRxTimeout c o s
  | .canFrameSent c tdcv len e => Sys2Proof.Machine.execCanFrameSent c tdcv len e s
  | .canAckError c dominant tdcv len e => Sys2Proof.Machine.execCanAckError c dominant tdcv len e s
  | .canBusError c lec tx extra tdcv len e => Sys2Proof.Machine.execCanBusError c lec tx extra tdcv len e s
  | .canArbitrationLost c len e => Sys2Proof.Machine.execCanArbitrationLost c len e s
  | .busOffRecovery c e => Sys2Proof.Machine.execBusOffRecovery c e s
  | .septedAnnounce c n b e => Sys2Proof.Machine.execSeptedAnnounce c n b e s
  | .septedHeartbeat c n b e => Sys2Proof.Machine.execSeptedHeartbeat c n b e s
  | .septedLeave c n b e => Sys2Proof.Machine.execSeptedLeave c n b e s
  | .nodeAbsenceTimeout c en e => Sys2Proof.Machine.execNodeAbsenceTimeout c en e s
  | .nodeLeaveStale => Sys2Proof.Machine.execNodeLeaveStale s
  | .stepExit t e => Sys2Proof.Machine.execStepExit t e s
  | .triggerConditionMet t j e => Sys2Proof.Machine.execTriggerConditionMet t j e s
  | .timerCondition t j e => Sys2Proof.Machine.execTimerCondition t j e s
  | .stepTimeout t e => Sys2Proof.Machine.execStepTimeout t e s
  | .stepEnter t => Sys2Proof.Machine.execStepEnter t s
  | .bankBuildComplete t b edge next e => Sys2Proof.Machine.execBankBuildComplete t b edge next e s
  | .abortmaxExceeded t => Sys2Proof.Machine.execAbortmaxExceeded t s
  | .nodeLostReaction t => Sys2Proof.Machine.execNodeLostReaction t s
  | .traceIntervalClose t => Sys2Proof.Machine.execTraceIntervalClose t s
  | .traceFrameWrite t => Sys2Proof.Machine.execTraceFrameWrite t s
  | .triggerOccurrence e m at_ => Sys2Proof.Machine.execTriggerOccurrence e m at_ s
  | .forcedTrigger e at_ => Sys2Proof.Machine.execForcedTrigger e at_ s
  | .lapComplete e => Sys2Proof.Machine.execLapComplete e s
  | .lapRearm e at_ => Sys2Proof.Machine.execLapRearm e at_ s
  | .lapHeaderWritten e => Sys2Proof.Machine.execLapHeaderWritten e s
  | .eventCreate code source p0 p1 p2 p3 wait => Sys2Proof.Machine.execEventCreate code source p0 p1 p2 p3 wait s
  | .eventWindowClose code scope => Sys2Proof.Machine.execEventWindowClose code scope s
  | .logWriteDone ok wait => Sys2Proof.Machine.execLogWriteDone ok wait s
  | .faultNPulse low => Sys2Proof.Machine.execFaultNPulse low s
  | .chkStart c space poly e => Sys2Proof.Machine.execChkStart c space poly e s
  | .chkAbort c done e => Sys2Proof.Machine.execChkAbort c done e s
  | .chkScanDone c ecc e => Sys2Proof.Machine.execChkScanDone c ecc e s
  | .laneTestPeriod t => Sys2Proof.Machine.execLaneTestPeriod t s
  | .laneTestSegmentDone t pass sig => Sys2Proof.Machine.execLaneTestSegmentDone t pass sig s
  | .laneTestYield t => Sys2Proof.Machine.execLaneTestYield t s
  | .islandCycle x lv fault found e => Sys2Proof.Machine.execIslandCycle x lv fault found e s
  | .sfaultRise => Sys2Proof.Machine.execSfaultRise s
  | .discrepancyLockout j e => Sys2Proof.Machine.execDiscrepancyLockout j e s
  | .demandDelayExpiry q e => Sys2Proof.Machine.execDemandDelayExpiry q e s
  | .readbackMismatch c bfb e => Sys2Proof.Machine.execReadbackMismatch c bfb e s
  | .safeNReadbackFault e => Sys2Proof.Machine.execSafeNReadbackFault e s
  | .testPulseStart c e => Sys2Proof.Machine.execTestPulseStart c e s
  | .testPulseEnd c bfb e => Sys2Proof.Machine.execTestPulseEnd c bfb e s
  | .holdingTestDue c => Sys2Proof.Machine.execHoldingTestDue c s
  | .holdingTestOverdue c => Sys2Proof.Machine.execHoldingTestOverdue c s
  | .holdingTestStart c => Sys2Proof.Machine.execHoldingTestStart c s
  | .holdingTestStepEnd c => Sys2Proof.Machine.execHoldingTestStepEnd c s
  | .maintFrameError e => Sys2Proof.Machine.execMaintFrameError e s
  | .nop e => Sys2Proof.Machine.execNop e s
  | .adr cmd data e => Sys2Proof.Machine.execAdr cmd data e s
  | .rdl e => Sys2Proof.Machine.execRdl e s
  | .rdh e => Sys2Proof.Machine.execRdh e s
  | .wrl data e => Sys2Proof.Machine.execWrl data e s
  | .wrh data e => Sys2Proof.Machine.execWrh data e s
  | .irqack data e => Sys2Proof.Machine.execIrqack data e s
  | .pbaWr data e => Sys2Proof.Machine.execPbaWr data e s
  | .pbdRd e => Sys2Proof.Machine.execPbdRd e s
  | .pbdWr data e => Sys2Proof.Machine.execPbdWr data e s
  | .tickLoRead p e => Sys2Proof.Machine.execTickLoRead p e s
  | .sigValRead p n e => Sys2Proof.Machine.execSigValRead p n e s
  | .timeNsRead p e => Sys2Proof.Machine.execTimeNsRead p e s
  | .btickLoRead p e => Sys2Proof.Machine.execBtickLoRead p e s
  | .tciNsRead p n e => Sys2Proof.Machine.execTciNsRead p n e s
  | .loRegisterRead p a e => Sys2Proof.Machine.execLoRegisterRead p a e s
  | .evrWinFetch p => Sys2Proof.Machine.execEvrWinFetch p s
  | .evrWinAdvance p => Sys2Proof.Machine.execEvrWinAdvance p s
  | .registerWrite p sealed_ a w e => Sys2Proof.Machine.execRegisterWrite p sealed_ a w e s
  | .badAccess a aligned e => Sys2Proof.Machine.execBadAccess a aligned e s
  | .aonCrystalStart => Sys2Proof.Machine.execAonCrystalStart s
  | .rxLockReturn p sync anDone e => Sys2Proof.Machine.execRxLockReturn p sync anDone e s
  | .codeGroupError p merged e => Sys2Proof.Machine.execCodeGroupError p merged e s
  | .arpReply o e => Sys2Proof.Machine.execArpReply o e s
  | .receivedFrameDiscard p supervision e => Sys2Proof.Machine.execReceivedFrameDiscard p supervision e s
  | .canBusIntegrated c => Sys2Proof.Machine.execCanBusIntegrated c s
  | .delayReqSend raw => Sys2Proof.Machine.execDelayReqSend raw s

end Sys2Proof.Machine
end

