-- ==== Sys2Proof/Machine/Balls.lean ====
section
/-! DEFINITION. The levels of the digital outputs beside the DIO balls (R58, R453, R510, R521, R554, R574, R575, R659, R660,
R665, R694).
MDC, MDIO and the flash balls have their defaults here; the exchanges on them are outside the model (log 84). -/

namespace Sys2Proof.Machine

/-- The digital outputs of R660. -/
inductive Ball660 where
  | ctx (c : Nat)
  | dlde (d : Nat)
  | phyrst (p : Nat)
  | btn (p : Nat)
  | xrst
  | mdc
  | mdio
  | xcs
  | xclk
  | xdq
  deriving DecidableEq, Repr

/-- What drives a ball: nothing, a level, or its unit as it sends. -/
inductive BallLevel where
  | highZ
  | low
  | high
  | sends
  deriving DecidableEq, Repr

/-- Whether VIO33 is on (R52, R665). -/
def State.vio33 (s : State) : Bool := s.dev != stKEEP && s.bitOf R.PWR_RAILS 1

def levelOfBool (b : Bool) : BallLevel := if b then .high else .low

/-- DLDEd (R58, R453): high during the BROADCAST and the PROBE of a period. -/
def State.dlde (s : State) (d : Nat) : Bool := s.strideRuns d && s.strideDeaf d 0

/-- The level of a ball: high impedance while VIO33 is off; from then on CTX is recessive (high) while its controller is not on
the bus, and the others have the defaults of R660 until their unit drives them. -/
def State.ballLevel (s : State) (b : Ball660) : BallLevel :=
  if !s.vio33 then .highZ
  else
    match b with
    | .ctx c => if s.canUp c then .sends else .high
    | .dlde d => levelOfBool (s.dlde d)
    | .phyrst p => levelOfBool (s.phyrst p)
    | .btn p => levelOfBool (s.batonBall p)
    | .xrst | .mdc | .xclk => .low
    | .xcs => .high
    | .mdio | .xdq => .highZ

/-- The digital outputs of R659 beside the DIO balls. -/
inductive Ball659 where
  | tpo (n : Nat)
  | mirq
  | bhs (c : Nat)
  | bls (c : Nat)
  | safeN
  | sfault
  | faultN
  | pgood
  deriving DecidableEq, Repr

/-- The level of a ball of R659: open-drain balls are low or high impedance, the island's balls are not connected where it is
absent (R664), and nothing is driven while VIO33 is off but PGOOD, which is low then. -/
def State.ballLevel659 (s : State) (b : Ball659) : BallLevel :=
  let drainOf := fun (low : Bool) => if low && s.vio33 then .low else .highZ
  let island := fun (on : Bool) => if s.vio33 && s.presentBit unitSafe then levelOfBool on else .highZ
  match b with
  | .tpo n => if s.vio33 then levelOfBool (s.tpoBall n) else .highZ
  | .mirq => drainOf s.mirqLow
  | .faultN => drainOf s.faultLow
  | .bhs c => island (s.switches c).1
  | .bls c => island (s.switches c).2
  | .safeN => island (s.bitOf R.SAFE_STAT 3)
  | .sfault => island s.sfault
  | .pgood => levelOfBool (s.vio33 && s.power.pgood)

end Sys2Proof.Machine
end

