-- ==== Sys2Proof/Safety.lean ====
section
/-! DEFINITION. Well-formed states, which a run of the device never leaves, and the predicates that statements about its
commands are written with. -/

namespace Sys2Proof.Machine

/-- Every key of `t` is above `b` and the keys rise. -/
def tabRiseFrom {α : Type} : Option Nat → Tab α → Bool
  | _, [] => true
  | b, (a, _) :: r => (match b with | none => true | some b => decide (b < a)) && tabRiseFrom (some a) r

/-- The canonical form of a table that has no default: keys rising. -/
def tabRise {α : Type} (t : Tab α) : Bool := tabRiseFrom none t

/-- Architectural state: tables in canonical form, and as many lanes, axes and Stride ports as the device has (R12). -/
def Arch.wf (a : Arch) : Bool :=
  tabWf (fun _ => Slot.unwritten) a.slots && tabWf (fun _ => {}) a.cells && tabWf (fun _ => {}) a.reds &&
    tabWf (fun _ => {}) a.conds && a.lanes.length == 8 && a.axes.length == 64 && a.stride.length == 8

/-- A checkpoint holds architectural state and registers in canonical form (R72). -/
def Ckpt.wf (c : Ckpt) : Bool := c.arch.wf && tabWf regReset c.regs

/-! The number of instances that each part holds (R12, R13): lines, channels, ports and units. -/

abbrev Power.size (x : Power) : Nat × Nat := (x.limit.length, x.saved.length)
abbrev Seal.size (x : Seal) : Nat × Nat := (x.keys.length, x.counters.length)
abbrev Net.size (x : Net) : Nat := x.ports.length
abbrev Time.size (x : Time) : Nat × Nat := (x.tpo.length, x.tci.length)
abbrev Analog.size (x : Analog) : Nat := x.cores.length
abbrev Dio.size (x : Dio) : Nat × Nat := (x.balls.length, x.counts.length)
abbrev Acq.size (x : Acq) : Nat × Nat × Nat := (x.traces.length, x.engines.length, x.reqs.length)
abbrev Can.size (x : Can) : Nat := x.ctl.length
abbrev Safe.size (x : Safe) : Nat × Nat × Nat × Nat := (x.chans.length, x.pulses.length, x.holds.length, x.conns.length)
abbrev Integ.size (x : Integ) : Nat × Nat × Nat := (x.scans.length, x.adcBad.length, x.laneTest.length)
abbrev Snap.size (x : Snap) : Nat := x.bufs.length

/-- Every memory of the device is in canonical form: registers, DRAM, flash, the calibration in ENVM, both logs, the
architectural state, its checkpoints, the CAN units' tables and the maintenance port's scratch words; and every part holds
as many instances as the device has (R12, R13, R47, R68, R124). -/
def State.wf (s : State) : Bool :=
  tabWf regReset s.regs && tabWf (fun _ => 0) s.dram && tabWf (fun _ => 0xFF) s.flash.bytes && tabWf regReset s.ana.envm &&
    tabRise s.evr.main && tabRise s.evr.safety && s.arch.wf && s.ckpts.all Ckpt.wf &&
    tabWf (fun _ => {}) s.can.objs && tabWf (fun _ => 0) s.can.groups && tabWf (fun _ => 0) s.can.seen &&
    tabWf (fun _ => 0) s.maint.scratch &&
    s.power.size == (4, 12) && s.letters.size == (4, 4) && s.net.size == 2 && s.time.size == (4, 4) && s.ana.size == 16 &&
    s.dio.size == (64, 21) && s.acq.size == (8, 32, 2) && s.can.size == 4 && s.safe.size == (2, 8, 8, 8) &&
    s.integ.size == (8, 16, 8) && s.snap.size == 2

/-! What statements about a command say of everything it leaves alone. -/

/-- `t` is `s` but for registers of `l`: every other register, and all state that is no register, stands. -/
def OnlyRegs (l : List Nat) (s t : State) : Prop :=
  t = { s with regs := t.regs } ∧ ∀ a, a ∉ l → t.reg a = s.reg a

/-- The registers that recording an event may change: NEXTSEQ (R597), the loss counters (R601), LASTFAULT (R600), the
maintenance interrupt (R700), and the counters of the notification's frames (R603, R512). -/
def eventRegs : List Nat :=
  [R.EVR_NEXTSEQ, R.EVR_LOST, R.PWR_AONLOST, R.PWR_LASTFAULT, R.MAINT_IRQSTAT, R.NET_TXCNT 0, R.NET_TXCNT 1,
   R.NET_ARPFAIL 0, R.NET_ARPFAIL 1]

/-- `t` is `s` but for registers of `l` and what recording events and sending frames do: records join the tail of the
holding queue or count as lost (R601), rate-limit windows open or count (R708), and frames go out (R603). -/
def AlsoEvents (l : List Nat) (s t : State) : Prop :=
  t = { s with
    regs := t.regs, out := t.out,
    evr := { s.evr with queue := t.evr.queue, lost := t.evr.lost, windows := t.evr.windows },
    net := { s.net with prpSeq := t.net.prpSeq } } ∧
  (∀ a, a ∉ l → a ∉ eventRegs → t.reg a = s.reg a) ∧ s.evr.queue <+: t.evr.queue ∧ s.out <+: t.out

/-- The record that joined the holding queue last has this CODE, SOURCE and P0 to P3 (R595). -/
def LastEvent (t : State) (code source : Nat) (p0 p1 p2 p3 : Word) : Prop :=
  ∃ r, t.evr.queue.getLast? = some r ∧ r.code = code ∧ r.source = source ∧ r.p0 = p0 ∧ r.p1 = p1 ∧ r.p2 = p2 ∧ r.p3 = p3

/-- One of the records that joined the holding queue between `s` and `t` has this CODE, SOURCE and P0 to P3. -/
def NewEvent (s t : State) (code source : Nat) (p0 p1 p2 p3 : Word) : Prop :=
  ∃ r ∈ t.evr.queue.drop s.evr.queue.length,
    r.code = code ∧ r.source = source ∧ r.p0 = p0 ∧ r.p1 = p1 ∧ r.p2 = p2 ∧ r.p3 = p3

/-- The holding queue has room for `n` records beside the one that reports earlier losses (R601). -/
def State.room (s : State) (n : Nat) : Prop := s.evr.queue.length + n < 256

/-- What a cold reset with the cause bit `cause` leaves, with the AON counters and the last passes of the holding tests saved
or not (R54, R65, R66, R580, R604): OTP,
ENVM, flash, the AON counters and both logs stand, the queued records are lost and counted, and image, architectural
state, DRAM, letters and checkpoints are gone. -/
def ColdReset (s t : State) (cause : Nat) (saved : Bool) : Prop :=
  t.power.causes = s.power.causes ||| BitVec.ofNat 32 cause ∧
  t.reg R.PWR_AONLOST = satAdd (s.reg R.PWR_AONLOST) s.evr.queue.length ∧
  (∀ a ∈ [R.PWR_RSTCAUSE, R.PWR_OPSEC, R.PWR_CYCLES, R.PWR_LASTFAULT, R.SEAL_LIFE, R.EVR_NEXTSEQ], t.reg a = s.reg a) ∧
  t.power.saved = (if saved then
    [s.reg R.PWR_OPSEC, s.reg R.PWR_CYCLES, t.reg R.PWR_AONLOST, s.reg R.PWR_LASTFAULT] ++
      (List.range 8).map (fun c => s.reg (R.SAFE_HTLAST c)) else s.power.saved) ∧
  (∀ c, c < 8 → t.reg (R.SAFE_HTLAST c) = if s.hasIsland then t.power.saved.getD (4 + c) 0 else 0) ∧
  t.flash = s.flash ∧ t.letters.keys = s.letters.keys ∧ t.letters.counters = s.letters.counters ∧
  t.evr.main = s.evr.main ∧ t.evr.safety = s.evr.safety ∧ t.ana.envm = s.ana.envm ∧ t.integ.fuses = s.integ.fuses ∧
  t.evr.queue = [] ∧ t.image = {} ∧ t.arch = {} ∧ t.dram = [] ∧ t.ckpts = [] ∧ t.staged = [] ∧ t.out = s.out ∧
  t.letters.queue = [] ∧ t.letters.writing = [] ∧ t.net.held = []

/-- The rails that were up go down in the reverse of the order in which they came up (R54). -/
def RailsFell (s t : State) : Prop :=
  t.reg R.PWR_RAILS = 0 ∧ (s.reg R.PWR_RAILS ≠ 0 →
    t.power.rails = [.down 4, .down 0, .down 3, .discharged, .down 2, .down 1])

/-- A cold reset that leaves the device in KEEP with no rail in its window and the outputs of R660 undriven (R54, R57, R66,
R665). -/
def InKeep (s t : State) (cause : Nat) (saved : Bool) : Prop :=
  ColdReset s t cause saved ∧ t.power.phase = .keep ∧ t.dev = stKEEP ∧ RailsFell s t ∧ ∀ b, t.ballLevel b = .highZ

/-- Counter `i` of the four that KEEP holds, at its use in BOOT (R68): the retained value where its check passes (bit `i`
of `ret`) and it is not below the ENVM copy, else that copy. -/
def keptCounter (s : State) (ret i a : Nat) : Word :=
  let c := s.power.saved.getD i 0
  if ret.testBit i ∧ c.toNat ≤ (s.reg a).toNat then s.reg a else c

/-- The rails sequence after KEEP, with the cause `cause` beside those that waited, and the outcomes `ret` of the retention
checks (R57, R61, R67, R68). -/
def Sequencing (s t : State) (ret : Nat) (cause : Word) : Prop :=
  t = { s with power := { s.power with
    phase := .sequencing, fromOff := true, ret := ret, causes := s.power.causes ||| cause } }

/-- The cause POR of a VIN that becomes valid in KEEP with no retained counter (R61). -/
def porCause (s : State) (ret : Nat) : Word := if s.power.vin = false ∧ ret % 16 = 0 then 1 else 0

/-- Entry into BOOT (R57, R61, R67, R68, R541, R600). -/
def InBoot (s t : State) : Prop :=
  let kept := fun i a => keptCounter s s.power.ret i a
  AlsoEvents [R.PWR_RSTCAUSE, R.PWR_OPSEC, R.PWR_CYCLES, R.PWR_STATE, R.PWR_RAILS, R.CLK_STAT]
    { s with power := { s.power with phase := .on, causes := 0, fromOff := false, pgood := true, ret := 15 }
             time := { s.time with base := s.now } } t ∧
  t.dev = stBOOT ∧ t.cause = 0 ∧ t.reg R.PWR_RAILS = 0x1F ∧
  t.reg R.PWR_RSTCAUSE = (if bit s.power.causes 0 then 1 else s.reg R.PWR_RSTCAUSE ||| s.power.causes) ∧
  t.reg R.PWR_OPSEC = kept 0 R.PWR_OPSEC ∧
  t.reg R.PWR_CYCLES = (if s.power.fromOff then
    BitVec.ofNat 32 ((fld (kept 1 R.PWR_CYCLES) 19 0 + 1) % 2 ^ 20) else kept 1 R.PWR_CYCLES) ∧
  t.reg R.PWR_AONLOST = kept 2 R.PWR_AONLOST ∧ t.reg R.PWR_LASTFAULT = kept 3 R.PWR_LASTFAULT ∧
  LastEvent t 0x1006 noSource (t.reg R.PWR_RSTCAUSE) (t.reg R.PWR_CYCLES) (kept 2 R.PWR_AONLOST) (kept 3 R.PWR_LASTFAULT)

/-- The registers of a test run's results (R627, R630, R632). -/
def testRegs : List Nat :=
  (List.range 256).map R.BIST_RES ++ [R.BIST_STAT, R.BIST_OVFL, R.BIST_FAILCNT, R.DEV_FAILED, R.DEV_FAILED2]

/-- A run's results `l` stand in `t`, after `n` records and a failure count of `f` (R627, R630, R632): 64 records at most,
the others counted, each failure counted, and the present units of the failures marked failed beside those of `s`, the lane of a
tile that fails stopping now (R321). -/
def Tested (s t : State) (n : Nat) (f : Word) (l : List TestRec) : Prop :=
  t.nrec = max n (min 64 (n + l.length)) ∧ t.reg R.BIST_OVFL = satAdd (s.reg R.BIST_OVFL) (n + l.length - t.nrec) ∧
  t.reg R.BIST_FAILCNT = satAdd f (failsOf l).length ∧
  (∀ u, u < 64 → t.failedBit u =
    (s.failedBit u || (s.presentBit u && (failsOf l).any (fun r => (s.failUnits r.inst).contains u)))) ∧
  ∀ k, k < s.arch.lanes.length → t.lane k =
    if s.presentBit k && (failsOf l).any (fun r => (s.failUnits r.inst).contains k) && decide (k < 8) then
      { s.lane k with stopAt := some ((s.lane k).stopAt.getD s.now) }
    else s.lane k

/-- Whether results hold the device in BOOT (R57, R627). -/
def postHolds (envm path : Bool) (l : List TestRec) : Bool :=
  !envm || !path || (failsOf l).any (fun r => holdsBoot r.inst)

/-- The registers that entry into a device state changes with the outputs (R58, R59, R362, R388). -/
def entryRegs : List Nat :=
  R.PWR_STATE :: (List.range 32).flatMap (fun c => [R.DAC_CODE c, R.DAC_STAT c]) ++ (List.range 64).map R.DIO_STAT ++
    (List.range 4).map R.CAN_STAT

/-- The registers that T0 of a warm restart changes (R61, R73, R78, R361, R621, R655). -/
def warmRegs : List Nat :=
  [R.PWR_RSTCAUSE, R.PWR_WRCNT, R.CLK_FIFORST] ++ (List.range 8).map R.SEQ_FALSESTART ++
    (List.range 32).flatMap (fun c => [R.DAC_CODE c, R.DAC_STAT c]) ++
    (List.range 8).flatMap (fun c => [R.CHK_STAT c, R.CHK_RES_LO c, R.CHK_RES_HI c, R.CHK_DONE c])

/-- `t` is `s` at T0 of a warm restart with cause bits `bits` (R61, R73, R77, R78): what the CORE, BUS and LINK domains
held of letters, copies, scans and frames is discarded, the newest complete checkpoint alone stands, the hold latches keep the
DAC codes, and EV_PWR_WARM_RESTART is recorded with it. Flash, image, DRAM, keys, counters, logs, time and power stand. -/
def AtT0 (s t : State) (bits : Nat) (complete : Bool) : Prop :=
  t = { s with
    regs := t.regs, out := t.out, staged := [], ticked := none, ckpts := t.ckpts, warm := t.warm,
    letters := t.letters, evr := t.evr, net := t.net, maint := t.maint, ana := t.ana, dio := t.dio, acq := t.acq,
    arch := t.arch, safe := t.safe, integ := t.integ, snap := t.snap } ∧
  (∀ a, a ∉ warmRegs → a ∉ eventRegs → t.reg a = s.reg a) ∧
  t.reg R.PWR_RSTCAUSE = s.reg R.PWR_RSTCAUSE ||| BitVec.ofNat 32 bits ∧
  t.reg R.PWR_WRCNT = satAdd (s.reg R.PWR_WRCNT) 1 ∧
  t.warm.phase = .restoring ∧ t.warm.t0 = s.now ∧ t.warm.from_ = s.dev ∧ t.warm.resumed = false ∧
  t.ckpts = (s.newestCkpt complete).toList ∧ t.warm.j = (match s.newestCkpt complete with | some c => c.tick | none => s.tick) ∧
  t.arch.slots = s.arch.slots ∧ t.arch.cells = s.arch.cells ∧
  t.letters.keys = s.letters.keys ∧ t.letters.counters = s.letters.counters ∧ t.letters.queue = [] ∧
  t.letters.awaiting = [] ∧ t.letters.waiting = [] ∧ t.evr.main = s.evr.main ∧ t.evr.safety = s.evr.safety ∧
  (∀ c, c < 32 → t.fldOf (R.DAC_STAT c) 2 0 = t.dacSource c ∧
    (t.dacSource c = dacHOLD → t.reg (R.DAC_CODE c) = s.reg (R.DAC_CODE c))) ∧
  LastEvent t 0x1003 noSource (s.reg R.PWR_RSTCAUSE ||| BitVec.ofNat 32 bits) (BitVec.ofNat 32 t.warm.j) 0 0

/-- `t` is `s` in HALT with its cause after a failed warm restart (R60, R76, R77). -/
def HaltedBy (s t : State) (cause : Nat) : Prop :=
  t.dev = stHALT ∧ t.cause = cause ∧ t.warm.phase = .none ∧ t.ckpts = [] ∧ t.counting = false ∧
  t.flash = s.flash ∧ t.image = s.image ∧ t.dram = s.dram ∧ t.tick = s.tick ∧ t.letters.keys = s.letters.keys ∧
  t.letters.counters = s.letters.counters ∧ t.evr.main = s.evr.main ∧ t.evr.safety = s.evr.safety

/-- The slot whose image a load accepts, if it accepts one: the first candidate of R85 that passes every step of R112. -/
def loadChoice (u : State) (bad : List Nat) (ecc : Option Nat) : Option Nat :=
  match u.candidates bad with
  | [] => none
  | k :: r =>
    match u.loadFail bad ecc k with
    | none => some k
    | some (st, par, sec) =>
      r.head?.filter (fun j => (u.reject k (stepCode st) sec par).loadFail bad ecc j == none)

/-- What slot `n` holds at the next boundary: the last of the writes that reach the table before it, in the order of R25
and R26, stamped with the tick that ends (R23), else what it holds. -/
def slotAtBoundary (s : State) (n : Nat) : Slot :=
  let due := s.nextEdge.staged.filter (fun x => decide (x.arrive < s.edgeBase + s.tickEdges))
  match ((orderStaged due).filter (fun x => x.slot == n)).getLast? with
  | some x => ⟨x.val, x.qual, BitVec.ofNat 64 (if s.counting then s.tick else 0)⟩
  | none => s.slot n

/-- Port `p` needs `ip` resolved (R512, R537): it is the host's next hop, or that of an enabled peer on the time port. -/
def NeedsHop (s : State) (p ip : Nat) : Prop :=
  s.nextHop p = some ip ∨
    (s.ptpUdp = true ∧ p = s.timePort ∧ ∃ i, i < 4 ∧ s.peerOn i = true ∧ s.peerHop i = some ip)

/-- NET.STAT.HOSTARP of port `p` says whether the host's next hop is resolved, and the register's other bits stand (R512, R531). -/
def HopShown (s t : State) (p : Nat) : Prop :=
  t.bitOf (R.NET_STAT p) 4 = (match t.nextHop p with | some ip => (t.port p).resolved.contains ip | none => false) ∧
  ∀ i, i ≠ 4 → t.bitOf (R.NET_STAT p) i = s.bitOf (R.NET_STAT p) i

/-- The PTP messages `l` (peer, kind, sequence number, fields) go to their peers between `s` and `t`: one whose next hop is
unresolved is dropped, which NET.ARPFAIL counts (R512, R536 to R538). -/
def PtpSent (s t : State) (l : List (Nat × Nat × Nat × List Int)) : Prop :=
  let go := l.filter (fun x => s.peerReady x.1)
  OnlyRegs [R.NET_ARPFAIL s.timePort] { s with
    out := s.out ++ go.map (fun x => Sent.ptp (s.ptpHead x.1) x.1 x.2.1 x.2.2.1 x.2.2.2) } t ∧
  t.reg (R.NET_ARPFAIL s.timePort) = satAdd (s.reg (R.NET_ARPFAIL s.timePort)) (l.length - go.length)

/-- A YCP datagram answers the request of `o` on its port, among the frames sent between `s` and `t` (R141, R512). -/
def Replied (s t : State) (o : Origin) (mtype : Nat) (payload : List Byte) : Prop :=
  ∃ x, Sent.ycp o.port o.ip o.udp mtype o.tag x payload ∈ t.out.drop s.out.length

/-- `t` is `u` but for the copies of access port `p` (R18). -/
def OnlyCopies (p : Nat) (u t : State) : Prop :=
  t = { u with net := { u.net with ports := t.net.ports }, maint := { u.maint with copies := t.maint.copies } } ∧
  (∀ q, q < 2 → t.port q = { u.port q with copies := t.copies q }) ∧ ∀ q, q < 3 → q ≠ p → t.copies q = u.copies q

/-- Access port `p` reads `w` at `a` in `t`, and in every later state while its copies stand (R18, R20). -/
def ReadsHeld (t : State) (p a : Nat) (w : Word) : Prop :=
  ∀ v : State, v.part = t.part → v.copies p = t.copies p → (v.readReg p a).2 = w

/-- The ENVM port after a write (R338): the highest class that waits is next, and where none waits a counter save that waits is
made. -/
def PortFree (s t : State) : Prop :=
  t.integ = { s.integ with envmNext := [2, 3, 5].find? t.envmPending } ∧
  t.power = (if t.integ.envmNext = none ∧ s.power.saveDue = true then
    { s.power with saved := savedRegs.map t.reg, saveDue := false } else s.power)

/-- The ENVM port after a write of class `c` between `s` and `t` (R338): each waiting write of a lower class that was not deferred
before counts in ARB.DEFERCNT. -/
def PortAfter (c : Nat) (s t : State) : Prop :=
  PortFree s t ∧
  (c < 3 → t.letters.writing = s.letters.writing.map (fun v => { v with deferred := true })) ∧
  (c < 5 → t.ana.writes = s.ana.writes.map (fun w => { w with deferred := true })) ∧
  t.reg R.ARB_DEFERCNT = satAdd (s.reg R.ARB_DEFERCNT)
    ((if c < 3 then (s.letters.writing.filter (fun v => !v.deferred)).length else 0) +
      (if c < 5 then (s.ana.writes.filter (fun w => !w.deferred)).length else 0))

/-- A bad access to `a` between `u` and `t` (R8, R31, R708): recorded unless a record of the last millisecond stands. -/
def BadAccessed (a : Nat) (u t : State) : Prop :=
  (u.window? 1 0 ≠ none → t = u) ∧
  (u.window? 1 0 = none → AlsoEvents [] u t ∧ (t.window? 1 0).isSome = true ∧
    (u.room 1 → LastEvent t 1 noSource (BitVec.ofNat 32 a) 0 0 0))

/-- The payload of a BULK_DATA datagram without data, which ends its request (R312). -/
def bulkLast (status op unit pos offset : Nat) : List Byte :=
  leBytes 1 status ++ leBytes 1 op ++ leBytes 1 unit ++ leBytes 1 1 ++ leBytes 4 0 ++ leBytes 8 pos ++ leBytes 4 offset ++
    leBytes 4 0

/-- The payload of a LETTER_REPLY (R142). -/
def replyPayload (s : State) (result detail : Nat) (x : LetterId) : List Byte :=
  leBytes 1 result ++ leBytes 1 x.keyslot ++ leBytes 2 x.typ ++ leBytes 4 detail ++ leBytes 8 x.seq ++ leBytes 8 s.tick

/-- The registers of the letters' counts, and those of frames and arbitration that come with a letter. -/
def letterRegs (p : Nat) : List Nat :=
  [R.SEAL_REFCNT, R.SEAL_LAST, R.SEAL_BUSYCNT, R.NET_WRONGLAN p, R.NET_RXCNT p, R.BATON_ORPHAN, R.ARB_WAITCNT 2,
   R.ARB_WAITMAX 2]

/-- A letter of `o` is refused between `s` and `t` (R135, R142, R145): REFCNT and LAST, the answer on a port that runs,
and EV_SEAL_REFUSED with count 1 where no run of its code and port is open, else the refusal joins that run. No counter
changes. -/
def Refused (s t : State) (o : Origin) (code detail : Nat) (x : LetterId) : Prop :=
  t.reg R.SEAL_REFCNT = satAdd (s.reg R.SEAL_REFCNT) 1 ∧
  t.reg R.SEAL_LAST = BitVec.ofNat 32 (x.typ % 65536 * 65536 + x.keyslot % 256 * 256 + code) ∧
  t.letters.counters = s.letters.counters ∧
  (s.portRuns o.port = true → Replied s t o 4 (replyPayload s code detail x)) ∧
  (s.letters.runs.any (fun r => r.code == code && r.port == o.port) = false →
    NewEvent s t 0x3001 noSource (BitVec.ofNat 32 code) (BitVec.ofNat 32 (x.typ * 256 + x.keyslot))
      (BitVec.ofNat 32 x.seq) 1 ∧ t.letters.runs = s.letters.runs ++ [⟨code, o.port, x.typ, x.keyslot, x.seq, 0⟩]) ∧
  (s.letters.runs.any (fun r => r.code == code && r.port == o.port) = true →
    t.letters.runs.length = s.letters.runs.length ∧ ∀ r ∈ t.letters.runs, r.code = code → r.port = o.port → 1 ≤ r.joined)

/-- `t` is `s` but for letters, ports, frames sent, events and registers of `l`. -/
def LetterFrame (l : List Nat) (s t : State) : Prop :=
  t = { s with
    regs := t.regs, out := t.out, letters := t.letters, net := t.net,
    evr := { s.evr with queue := t.evr.queue, lost := t.evr.lost, windows := t.evr.windows } } ∧
  (∀ a, a ∉ l → a ∉ eventRegs → t.reg a = s.reg a) ∧ s.evr.queue <+: t.evr.queue ∧ s.out <+: t.out

/-- The registers that a committed letter's counts change (R145). -/
def commitRegs : List Nat := [R.SEAL_COMMITCNT, R.SEAL_LAST]

/-- The letter `l` commits between `s` and `t` (R135, R142, R145): COMMITCNT and LAST, the answer on a port that runs
where its type is answered, and EV_SEAL_COMMITTED of a role above OPERATE where the holding queue has room. -/
def Committed (s t : State) (l : Letter) : Prop :=
  t.reg R.SEAL_COMMITCNT = satAdd (s.reg R.SEAL_COMMITCNT) 1 ∧
  t.reg R.SEAL_LAST = BitVec.ofNat 32 (l.typ % 65536 * 65536 + l.keyslot % 256 * 256) ∧
  (s.letterReplied l.typ = true → s.portRuns l.org.port = true →
    Replied s t l.org 4 (replyPayload s 0 0 (letterId l))) ∧
  (ltCALIBRATE ≤ l.typ → s.room 1 →
    NewEvent s t 0x3002 noSource (BitVec.ofNat 32 l.typ) (BitVec.ofNat 32 l.keyslot) (BitVec.ofNat 32 l.seq) 0)

/-- `s` is `b` with its commit boundary begun, at which letters commit and no check refuses `l` (R133, R134, R137; that a letter's
command begins the boundary is the model's choice, log 38). -/
def CommitsAt (b s : State) (l : Letter) : Prop := s = b.openBoundary ∧ s.lettersCommit = true ∧ s.commitFail l = none

/-- The baton moves to path `q` between `s` and `t`, with cause 0 for a loss and 1 for a command (R517, R520, R524, R525):
the move is counted and recorded, letters that waited for a standby result go on to their counter writes, held copies
enter the queue now, in order of arrival, where all of them are well formed and fit, and every port with a resolved host sends a
heartbeat that names the holder. -/
def BatonMoved (s t : State) (q cause : Nat) : Prop :=
  t.holder = q ∧ t.reg R.BATON_MOVES = satAdd (s.reg R.BATON_MOVES) 1 ∧ t.net.held = [] ∧ t.letters.awaiting = [] ∧
  t.letters.writing = s.letters.writing ++ s.letters.awaiting.map (fun w => ⟨w.letter, w.go.getD .pass, false⟩) ∧
  (s.room 2 → NewEvent s t 0x5003 q (BitVec.ofNat 32 q) (BitVec.ofNat 32 cause) (satWord s.net.held.length) s.tickLo) ∧
  (s.queueDepth + s.net.held.length ≤ 64 → (∀ h ∈ s.net.held, formRefusal h.copy.bytes = none) →
    t.letters.queue = s.net.held.foldl (fun q h => grantInsert (fun x => portReq x.org.port x.at_)
      { h.copy with at_ := s.now, solo := true } q) s.letters.queue) ∧
  ∀ p ip udp, p < 2 → t.portRuns p = true → t.hostDest p = some (ip, udp) → t.bitOf (R.NET_STAT p) 4 = true →
    ∃ x, Sent.ycp p ip udp 8 0 none x ∈ t.out.drop s.out.length ∧ (x.getD 2 0).toNat % 2 = (decide (p = q)).toNat

/-- A valid offset of `o` units of 2^-17 ns takes effect between `s` and `t` (R544 to R547): TIME.OFFSET, the end of
HOLDOVER, LOCKED after 8 offsets within 1 us and its loss beyond; then a step where STEPOK holds, the largest rate against
an offset above one second, else the servo's integral and rate. Without a step the counter reads on. -/
def Servoed (s t : State) (o : Int) : Prop :=
  let ov := vRat o 131072
  let od := f64Of ov
  let ns := vRoundInt ov
  let near := o.natAbs ≤ 1000 * 131072
  let ofs := t.reg R.TIME_OFFSET
  AlsoEvents ([R.TIME_OFFSET, R.TIME_STAT, R.TIME_RATE, R.TIME_STEPS] ++
    (List.range 4).flatMap (fun n => [R.TPO_CTRL n, R.TPO_STAT n])) { s with time := t.time } t ∧
  ofs = BitVec.ofInt 32 (clampInt ns (-2147483647) 2147483647) ∧ t.bitOf R.TIME_STAT 4 = false ∧
  t.time.streak = (if near then s.time.streak + 1 else 0) ∧ t.time.following = true ∧
  (¬near → t.bitOf R.TIME_STAT 2 = false) ∧ (near → 7 ≤ s.time.streak → t.bitOf R.TIME_STAT 2 = true) ∧
  t.reg R.TIME_RATE = f32OfD64 t.time.r ∧
  if s.bitOf R.TIME_STAT 5 = true then
    t.bitOf R.TIME_STAT 5 = false ∧ t.bitOf R.TIME_STAT 0 = true ∧ t.time.r = 0 ∧ t.time.i = 0 ∧ t.time.rq = 0 ∧
      t.reg R.TIME_STEPS = satAdd (s.reg R.TIME_STEPS) 1 ∧
      (t.nsAt s.now : Int) = ((s.nsAt s.now : Int) - ns) % (2 ^ 48 * nsPerSec : Nat) ∧
      (s.room 2 → NewEvent s t 0x4001 noSource (words64 (-ns)).1 (words64 (-ns)).2 (BitVec.ofNat 32 (t.secAt s.now))
        s.tickLo) ∧
      t.bitOf R.TIME_STAT 3 = (s.bitOf R.TIME_STAT 3 && dlt d1e9 (if dlt od 0 then dneg od else od))
  else
    t.nsAt s.now = s.nsAt s.now ∧ t.reg R.TIME_STEPS = s.reg R.TIME_STEPS ∧
    if dlt d1e9 (if dlt od 0 then dneg od else od) = true then
      t.bitOf R.TIME_STAT 3 = true ∧ t.time.i = s.time.i ∧ t.time.r = (if dlt od 0 then d1e6 else dneg d1e6) ∧
        (s.bitOf R.TIME_STAT 3 = false → s.room 1 →
          LastEvent t 0x4002 noSource (words64 ns).1 (words64 ns).2 s.tickLo 0)
    else
      t.bitOf R.TIME_STAT 3 = false ∧
        t.time.i = dclamp (dsub s.time.i (dmul (d64OfF32 (s.reg R.TIME_KI)) od)) (dneg d1e6) d1e6 ∧
        t.time.r = dclamp (dsub t.time.i (dmul (d64OfF32 (s.reg R.TIME_KP)) od)) (dneg d1e6) d1e6

/-- The registers that show lane `t` (R254, R255). -/
def laneRegs (t : Nat) : List Nat :=
  [R.SEQ_STAT t, R.SEQ_STEP t, R.SEQ_ENTRYLO t, R.SEQ_ENTRYHI t, R.SEQ_ENTRYNS t, R.SEQ_EXIT t]

/-- The same for every lane, with its ramp evictions (R235). -/
def lanesRegs : List Nat := (List.range 8).flatMap (fun t => R.SEQ_RAMPEVICT t :: laneRegs t)

/-- The registers that lanes change in the middle of a tick, beside those of events. -/
def lanesActRegs : List Nat :=
  (List.range 8).flatMap (fun t => [R.SEQ_FALSESTART t, R.SEQ_RAMPEVICT t]) ++ (List.range 64).map R.DIO_STAT

/-- The registers of engines and rings that a sample changes. -/
def captureRegs : List Nat :=
  (List.range 32).flatMap (fun e => [R.CAP_STAT e, R.CAP_MISSED e, R.CAP_FORCED e]) ++ (List.range 8).map R.ACQ_QPEAK

/-- `t` is `s` but for registers of `l` and what lanes do that take exits in the middle of a tick (R230, R232, R265): their
own state, writes staged behind those of `s`, edge-committed levels of DIO balls, and events. -/
def LanesAct (l : List Nat) (s t : State) : Prop :=
  t = { s with
    regs := t.regs, out := t.out, staged := t.staged, arch := { s.arch with lanes := t.arch.lanes },
    dio := { s.dio with balls := t.dio.balls },
    evr := { s.evr with queue := t.evr.queue, lost := t.evr.lost, windows := t.evr.windows },
    net := { s.net with prpSeq := t.net.prpSeq } } ∧
  (∀ a, a ∉ l → a ∉ lanesActRegs → a ∉ eventRegs → t.reg a = s.reg a) ∧ s.evr.queue <+: t.evr.queue ∧
  s.out <+: t.out ∧ s.staged <+: t.staged

/-- Ball `n` writes measurement `x` between `v` and `t`, 10 to 25 ns after its event (R383): one more staged write in RUN
or SAFE where the result slot is bound, nothing otherwise. -/
def DioWrote (v t : State) (n lag : Nat) (x : F32) (flags : Nat) : Prop :=
  t.staged = if v.running && v.bitOf (R.DIO_RES n) 31 then
      v.staged ++ [⟨writerOf clsDio n, v.fldOf (R.DIO_RES n) 12 0, x, qualOf (writerOf clsDio n) flags,
        v.now + max 4 (min 10 lag)⟩]
    else v.staged

/-- The synchronised level of ball `n` becomes `x` between `v` and `t`, its edge measured at EDGE count `at_` (R383,
R392 to R395): the level and the moment of its change, and what GPIO_IN, LIMIT, PERIOD, FREQ and CAPTURE make of it. A ball
of another mode writes and counts nothing. -/
def DioLevel (v t : State) (n : Nat) (x : Bool) (lag at_ : Nat) : Prop :=
  let m := v.dioMode n
  let y := x != v.dioInv n
  let sel := v.dioSel n
  let edge := sel = 2 ∨ (sel = 0 ∧ y = true) ∨ (sel = 1 ∧ y = false)
  let a := R.DIO_EDGES n
  let counts := t.reg a = satAdd (v.reg a) 1
  let quiet := t.reg a = v.reg a ∧ t.staged = v.staged
  (t.ball n).level = x ∧ (t.ball n).changed = v.now ∧ (∀ j, j ≠ n → t.ball j = v.ball j) ∧
  if m = dioGPIOIN ∨ m = dioLIMIT then
    if v.dioT0 n = 0 ∧ y ≠ v.bitOf (R.DIO_STAT n) 8 then
      t.bitOf (R.DIO_STAT n) 8 = y ∧ counts ∧ DioWrote v t n lag (fBool y) qVALID
    else t.bitOf (R.DIO_STAT n) 8 = v.bitOf (R.DIO_STAT n) 8 ∧ quiet
  else if (m = dioPERIOD ∨ m = dioFREQ) ∧ edge then
    counts ∧ (t.ball n).edge = some at_ ∧ (t.ball n).since = some at_ ∧
      match (v.ball n).edge with
      | none => t.staged = v.staged
      | some p => DioWrote v t n lag (if m = dioPERIOD then fmul (fOfInt (at_ - p : Nat)) 0x312BCC77
          else fdiv (fOfInt 400000000) (fOfInt (at_ - p : Nat))) qVALID
  else if m = dioCAPTURE ∧ edge then
    let late := decide (v.edgeBase + v.tickEdges ≤ v.now + max 4 (min 10 lag))
    let base : Int := (v.edgeBase : Int) + (if late then v.tickEdges else 0 : Nat)
    counts ∧ DioWrote v t n lag (f32Of (vRat (5 * ((at_ : Int) - base)) 2)) qVALID
  else quiet

/-- A start event now reaches the ADC cores of `mine`, and no other core (R346, R348, R350): one that converts and has had
none in this EDGE cycle begins a sequence, or counts it as missed while one runs. -/
def StartsCores (s t : State) (mine : Nat → Prop) : Prop :=
  ∀ c, c < 16 →
    (¬mine c ∨ s.adcOn c = false ∨ (s.core c).event = some s.now → t.core c = s.core c) ∧
    (mine c → s.adcOn c = true → (s.core c).event ≠ some s.now →
      (s.now < (s.core c).idle → t.core c = { s.core c with event := some s.now } ∧
        t.reg (R.ADC_MISSED c) = satAdd (s.reg (R.ADC_MISSED c)) 1) ∧
      ((s.core c).idle ≤ s.now → (t.core c).event = some s.now ∧
        (t.core c).runs.length = (s.core c).runs.length + 1 ∧ t.reg (R.ADC_STARTS c) = satAdd (s.reg (R.ADC_STARTS c)) 1))

/-- The cores that PWM event `edge` of ball `d` starts: 0 rising, 1 falling, 2 centre (R346, R390). -/
def pwmCores (s : State) (d edge c : Nat) : Prop :=
  s.fldOf (R.ADC_START c) 31 30 = 2 ∧ s.fldOf (R.ADC_START c) 27 22 = d ∧ s.fldOf (R.ADC_START c) 29 28 = edge

/-- The interlock lines of `s` become those of `t` (R361, R399, R402): a line that becomes active is counted and recorded,
and where the active lines change, every DAC channel whose source changes takes the new one. -/
def Tripped (s t : State) : Prop :=
  let old := s.ilkActive
  let new := t.ilkActive
  AlsoEvents ((List.range 8).map R.ILK_TRIPCNT ++ (List.range 32).flatMap (fun c => [R.DAC_CODE c, R.DAC_STAT c])) { s with
    dio := { s.dio with ilk := t.dio.ilk, latched := t.dio.latched }
    ana := { s.ana with coded := t.ana.coded } } t ∧
  (∀ i, i < 8 → t.reg (R.ILK_TRIPCNT i) =
    satAdd (s.reg (R.ILK_TRIPCNT i)) (new.testBit i && !old.testBit i).toNat) ∧
  (∀ i, i < 8 → new.testBit i = true → old.testBit i = false → s.window? 0xD201 i = none → s.room 8 →
    NewEvent s t 0xD201 i (BitVec.ofNat 32 i) 1 s.tickLo (s.tnsAt s.now)) ∧
  (new = old → t.ana = s.ana ∧ ∀ c, c < 32 → t.reg (R.DAC_CODE c) = s.reg (R.DAC_CODE c) ∧
    t.reg (R.DAC_STAT c) = s.reg (R.DAC_STAT c)) ∧
  (new ≠ old → ∀ c, c < 32 → t.fldOf (R.DAC_STAT c) 2 0 = t.dacSource c ∧
    (s.fldOf (R.DAC_STAT c) 2 0 = t.dacSource c → t.reg (R.DAC_CODE c) = s.reg (R.DAC_CODE c) ∧
      t.reg (R.DAC_STAT c) = s.reg (R.DAC_STAT c)) ∧
    (s.fldOf (R.DAC_STAT c) 2 0 ≠ t.dacSource c → t.dacSource c = dacHOLD →
      t.reg (R.DAC_CODE c) = s.ana.held.getD c 0) ∧
    (s.fldOf (R.DAC_STAT c) 2 0 ≠ t.dacSource c → t.dacSource c = dacCLAMP → fIsNan (s.reg (R.DAC_CLAMP c)) = false →
      let uni := s.bitOf (R.DAC_CFG c) 0
      let x := dacRound (s.reg (R.DAC_CLAMP c)) (s.reg (if uni then R.DAC_CALGNU c else R.DAC_CALGNB c))
        (s.reg (if uni then R.DAC_CALOFSU c else R.DAC_CALOFSB c))
      t.reg (R.DAC_CODE c) = BitVec.ofNat 32 (toBits 18 (clampInt x (dacEnds uni).1 (dacEnds uni).2))))

/-- The registers of controller `c` with its objects and its census. -/
def canRegs (c : Nat) : List Nat :=
  [R.CAN_STAT c, R.CAN_TDCV c, R.CAN_BUSOFFCNT c, R.CAN_RXCNT c, R.CAN_TXCNT c, R.CAN_RXDISC c, R.CAN_DROPCNT c,
   R.CAN_CENSUSFULL c] ++
  (List.range 64).flatMap (fun e => [R.CEN_STAT c e, R.CEN_VENDOR c e, R.CEN_NTYPE c e, R.CEN_SER_LO c e, R.CEN_SER_HI c e,
    R.CEN_LASTSEEN c e, R.CEN_JOINS c e]) ++
  (List.range 128).flatMap (fun o => [R.OBJ_STAT c o, R.OBJ_FRCNT c o, R.OBJ_ATTEMPTS c o, R.OBJ_OVERRUN c o,
    R.OBJ_RXID c o, R.OBJ_RXINFO c o, R.OBJ_LASTTICK c o] ++ (List.range 16).map (R.OBJ_DATA c o))

/-- CANc of `t` stands in the state that its error counters give, and shows them (R490, R492); `s` is the state before. -/
def Confined (s t : State) (c : Nat) : Prop :=
  let x := t.ctl c
  t.fldOf (R.CAN_STAT c) 31 24 = min 255 x.tec ∧ t.fldOf (R.CAN_STAT c) 23 16 = min 255 x.recv ∧
  if 255 < x.tec then
    t.canState c = canBUSOFF ∧ x.offAt = s.now ∧
      t.reg (R.CAN_BUSOFFCNT c) = satAdd (s.reg (R.CAN_BUSOFFCNT c)) 1
  else t.canState c = (if 127 < x.tec ∨ 127 < x.recv then canPASSIVE else canACTIVE) ∧
    t.reg (R.CAN_BUSOFFCNT c) = s.reg (R.CAN_BUSOFFCNT c)

/-- Entry `e` of CANc is PRESENT with the identity that node `n` announced in `b`, heard now (R501). -/
def CensusJoins (s t : State) (c e n : Nat) (b : List Byte) : Prop :=
  t.cenState c e = 1 ∧ t.cenNode c e = n ∧ t.cenBound c e = s.cenBound c e ∧ t.reg (R.CEN_VENDOR c e) = wAt b 4 ∧
  t.reg (R.CEN_NTYPE c e) = wAt b 8 ∧ t.reg (R.CEN_SER_LO c e) = wAt b 12 ∧ t.reg (R.CEN_SER_HI c e) = wAt b 16 ∧
  t.reg (R.CEN_LASTSEEN c e) = (if s.dev = stRUN ∨ s.dev = stSAFE then s.tickLo else 0) ∧
  tabGet (fun _ => 0) t.can.seen (64 * c + e) = s.now ∧
  t.reg (R.CEN_JOINS c e) = satAdd (s.reg (R.CEN_JOINS c e)) (decide (s.cenState c e ≠ 1)).toNat ∧
  (s.cenState c e ≠ 1 → s.room 3 →
    NewEvent s t 0xA006 c (BitVec.ofNat 32 c) (BitVec.ofNat 32 e) (BitVec.ofNat 32 n) s.tickLo)

/-- PRESENT entry `e` of CANc leaves the census (R245, R502): a bound entry stays bound as LOST and, in RUN and SAFE, is noted
for the next boundary with every live lane of a usable tile that requires it; another is freed. -/
def CensusLeaves (s t : State) (c e : Nat) : Prop :=
  t.cenState c e = (if s.cenBound c e then 2 else 0) ∧ t.cenNode c e = s.cenNode c e ∧
  t.can.left = (if s.cenBound c e && s.running then s.can.left ++ [(c, e)] else s.can.left) ∧
  (s.room 12 → NewEvent s t 0xA007 c (BitVec.ofNat 32 c) (BitVec.ofNat 32 e) (BitVec.ofNat 32 (s.cenNode c e)) s.tickLo) ∧
  ∀ k, t.lane k = if k < 8 ∧ s.tileUsable k = true ∧ s.cenBound c e = true ∧ s.running = true ∧ (s.lane k).live = true ∧
      (recReq (s.laneRec k)).contains (64 * c + e) = true then { s.lane k with lostNode := true } else s.lane k

/-- The write of an object's map entry to its slot with what the slot has committed and its other flags, STALE 1 and VALID 0;
CLASS and INDEX name the object (R21, R484). -/
def staleWrite (s : State) (c o i : Nat) : Staged :=
  let k := s.fldOf (R.OBJ_MAPA c o i) 12 0
  let w := writerOf clsCan (128 * c + o)
  ⟨w, k, (s.slot k).val, qualOf w (fld (s.slot k).qual 4 2 * 4 + qSTALE), s.now⟩

/-- A step of lane `k` is entered now (R229, R231). -/
def Entered (s t : State) (k step : Nat) : Prop :=
  (t.lane k).step = step ∧ (t.lane k).te = s.now ∧ (t.lane k).ke = s.tick ∧ (t.lane k).exit = none ∧
    (t.lane k).next = none ∧ (t.lane k).heldFor = 0

/-- The registers of entry `e` of CANc's census (R505). -/
def cenRegs (c e : Nat) : List Nat :=
  [R.CEN_STAT c e, R.CEN_VENDOR c e, R.CEN_NTYPE c e, R.CEN_SER_LO c e, R.CEN_SER_HI c e, R.CEN_LASTSEEN c e, R.CEN_JOINS c e]

/-- The objects of CANc after a frame on its bus: each pending request carries its newest payload (R488). -/
def newestPayloads (c : Nat) (l : Tab CanObj) : Tab CanObj :=
  l.map (fun x => if x.1 / 128 = c then (x.1, { x.2 with pend := x.2.pend.map CanReq.newest }) else x)

/-- No entry of CANc's census but `hit` differs between `s` and `t`, and where its errors keep the controller on the bus no
object does but for the payloads of waiting requests. -/
def CensusOnly (s t : State) (c : Nat) (hit : Option Nat) : Prop :=
  (∀ k, k < 64 → hit ≠ some k → ∀ a ∈ cenRegs c k, t.reg a = s.reg a) ∧
  ((s.ctl c).tec ≤ 255 → t.can.objs = newestPayloads c s.can.objs ∧
    ∀ o, o < 128 → ∀ a ∈ [R.OBJ_STAT c o, R.OBJ_FRCNT c o, R.OBJ_LASTTICK c o], t.reg a = s.reg a)

/-- Lane `k` reacts to an abort cause of code `cause` now (R215, R243, R255, R712). -/
def Aborted (s t : State) (k cause : Nat) : Prop :=
  (t.lane k).exitReg = s.exitWord k cause endABORT ∧
  match s.abortStep? k with
  | none => (t.lane k).state = lnDONE ∧ (t.lane k).endCode = 2
  | some a => (t.lane k).state = lnABORTING ∧ (t.lane k).abortSeq = true ∧ (t.lane k).abortTe = s.now ∧ Entered s t k a

/-- Lane `k` reacts now to the loss of a node that it noted, as its recipe's NODELOST says (R240, R241, R245). -/
def NodeReacted (s t : State) (k : Nat) : Prop :=
  let l := s.lane k
  let m := recNodelost (s.laneRec k)
  if l.lostNode = false then t.lane k = l
  else if m = 1 ∧ l.state = lnRUN then
    (t.lane k).lostNode = false ∧
    if l.exit = none ∧ (s.laneStep k).atExit = true then t.lane k = { l with lostNode := false, holdPend := true }
    else (t.lane k).state = lnHOLD ∧ (t.lane k).heldAt = s.now ∧ (t.lane k).step = l.step ∧
      (t.lane k).next = (match l.exit with | some x => some x.target | none => l.next)
  else if m = 2 ∧ (l.state = lnRUN ∨ l.state = lnHOLD) then (t.lane k).lostNode = false ∧ Aborted s t k 8
  else t.lane k = { l with lostNode := false }

/-- Lane `k` acts on an exit's target now (R215, R222, R229 to R236, R243, R244): the step it names is entered, its
actions' first writes staged at once in the middle of a tick (`mid`) and waiting for the boundary otherwise; without a step
to enter the lane ends. A change of state is recorded (R252). -/
def Took (s t : State) (k target : Nat) (mid : Bool) : Prop :=
  let l := s.lane k
  (match s.targetStep? k target with
    | some i =>
      Entered s t k i ∧ (t.lane k).stepCnt = satAdd l.stepCnt 1 ∧
      (t.lane k).state = (if target = endABORT then lnABORTING else l.state) ∧
      (target = endABORT → (t.lane k).abortSeq = true ∧ (t.lane k).abortTe = s.now) ∧
      ∀ a ∈ (recStep (s.laneRec k) i).acts,
        let r := s.actRamp k a
        if mid then
          (⟨writerOf clsLane k, a.slot, r.value 1, qualOf (writerOf clsLane k) (r.srcOk && fIsFin (r.value 1)).toNat,
            s.now⟩ : Staged) ∈ t.staged ∧ (1 < r.n → { r with i := 1 } ∈ (t.lane k).ramps)
        else r ∈ (t.lane k).ramps
    | none =>
      (t.lane k).ramps = [] ∧ (t.lane k).banks = [] ∧
      if target = endFAULT then (t.lane k).state = lnFAULT ∧ (t.lane k).faultCause = 1
      else if target = endABORT ∧ l.state = lnABORTING then (t.lane k).state = lnFAULT ∧ (t.lane k).faultCause = 3
      else (t.lane k).state = lnDONE ∧ (t.lane k).endCode = if target = endDONE ∧ l.state ≠ lnABORTING then 1 else 2) ∧
  ((t.lane k).state ≠ l.state → s.room 3 → NewEvent s t 0xE101 k (BitVec.ofNat 32 k)
    (BitVec.ofNat 32 (l.state * 256 + (t.lane k).state)) (BitVec.ofNat 32 l.recipe) s.tickLo)

/-- The banks of lane `k` that become false starts when all but the one for `kept` are discarded (R264, R271). -/
def falseStarts (s : State) (k : Nat) (kept : Option Nat) : Nat :=
  ((s.lane k).banks.filter (fun b => some b.target != kept && s.bankBuilt k b)).length

/-- The edge-committed actions of step `i` of lane `k` set the level registers of the balls bound to their slots, and of no
other ball (R265, R384). -/
def EdgesSet (s t : State) (k i n : Nat) : Prop :=
  let l := (recStep (s.laneRec k) i).acts.filter StepAct.edge
  let hit := l.filter (fun a => s.dioMode n == dioGPIOOUT && s.bitOf (R.DIO_SRC n) 31 && s.fldOf (R.DIO_SRC n) 12 0 == a.slot)
  t.ball n = { s.ball n with reg := Option.or (hit.filterMap (fun a => levelOf (s.actRamp k a).v1)).getLast? (s.ball n).reg }

/-- Lane `k` meets the exits of `mask` now, in the middle of a tick (R230, R239, R241, R244, R260, R264, R265, R271): it
remembers them before its second boundary; else the exit that wins pends in HOLD where a hold waits, commits its ready
bank, or waits for the boundary. Nothing else of the device changes. -/
def LaneExits (s t : State) (k mask : Nat) : Prop :=
  let l := s.lane k
  LanesAct [] s t ∧ (∀ j, j ≠ k → t.lane j = s.lane j) ∧
  if l.runs = false ∨ l.exit ≠ none ∨ mask = 0 ∨ s.pastAbortMax k = true then t = s
  else if s.tick ≤ l.ke then t = s.modLane k (fun l => { l with early := l.early ||| mask })
  else
    match s.winner k mask with
    | none => t = s
    | some (cause, target) =>
      let count := fun kept => t.reg (R.SEQ_FALSESTART k) = satAdd (s.reg (R.SEQ_FALSESTART k)) (falseStarts s k kept)
      if l.holdPend = true then
        count none ∧ t.dio = s.dio ∧ t.staged = s.staged ∧
          t.lane k = { l with
            state := lnHOLD, faultCause := 0, banks := [], holdPend := false, next := some target
            exitReg := s.exitWord k cause target, heldAt := s.now }
      else if s.laneArmed k = true ∧ l.banks.any (fun b => b.target == target && s.bankReady k b) = true then
        count (some target) ∧ (t.lane k).exitReg = s.exitWord k cause target ∧ Took s t k target true ∧
          ∀ n, n < 64 → match s.targetStep? k target with
            | some i => EdgesSet s t k i n
            | none => t.ball n = s.ball n
      else
        count none ∧ t.dio = s.dio ∧ t.staged = s.staged ∧
          t.lane k = { l with
            banks := [], exit := some ⟨cause, target⟩
            notReady := if s.laneArmed k = true then min 0xFFFF (l.notReady + 1) else l.notReady }

/-- A time exit of lane `k` that was due before the present moment has taken place at its own time (R237). -/
def LaneTimed (u w : State) (k : Nat) : Prop :=
  let l := u.lane k
  if l.runs = true ∧ l.exit = none ∧ l.ke < u.tick ∧ ∃ x ∈ u.laneDues k, x.1 < u.now then
    ∃ d y, ((u.laneDues k).map (·.1)).min? = some d ∧
      LaneExits (u.atEdge (d - u.edgeBase)) y k ((u.atEdge (d - u.edgeBase)).timersDue k) ∧ w = { y with off := u.off }
  else w = u

/-- A write of `len` bytes at the DRAM addresses `at_ i` touches the scanned region `x` (R622). -/
def touches (x : ChkScan) (at_ : Nat → Nat) (len : Nat) : Bool :=
  x.space == 1 && (List.range len).any (fun i => decide (x.addr ≤ at_ i) && decide (at_ i < x.addr + x.len))

/-- DRAM of `t` holds `b` at the addresses `at_ i` and is that of `s` elsewhere; the scans of regions that this touches have
lost their result (R622). -/
def DramPut (s t : State) (b : List Byte) (at_ : Nat → Nat) : Prop :=
  (∀ i, i < b.length → tabGet (fun _ => 0) t.dram (at_ i) = b.getD i 0) ∧
  (∀ a, (∀ i, i < b.length → at_ i ≠ a) → tabGet (fun _ => 0) t.dram a = tabGet (fun _ => 0) s.dram a) ∧
  ∀ c, c < 8 → match s.scan? c with
    | some x => 0 < x.len → t.scan? c = some { x with dirty := x.dirty || touches x at_ b.length }
    | none => t.scan? c = none

/-- Frame `f` is appended to the trace ring of tile `k` (R308): its bytes from WPOS on, modulo the ring's size, WPOS behind
it, and the frame in the ring behind the frames `old`. -/
def RingGrew (s t : State) (k : Nat) (f : TFrame) (old : List (Nat × Nat)) : Prop :=
  let base := (s.ringAt k).1
  let size := max 1 (s.ringAt k).2
  t.reg64 (R.ACQ_TWPOS_LO k) = BitVec.ofNat 64 (s.wpos k + f.len) ∧ (t.traceX k).ring = old ++ [(s.wpos k, f.len)] ∧
  t.oldpos k = (match old with | x :: _ => x.1 % 2 ^ 64 | [] => s.wpos k) ∧
  (f.len ≤ size → DramPut s t f.bytes (fun i => base + (s.wpos k + i) % size))

/-- The lap `l` of engine `e` completes (R294, R298, R300, R309). -/
def LapDone (s t : State) (e : Nat) (c : CapCfg) (l : Lap) : Prop :=
  let full := decide (s.bseq e + c.nlaps ≤ l.seq + 1)
  let seq := BitVec.ofNat 32 l.seq
  (t.eng e).lap = none ∧ (t.eng e).done = (s.eng e).done ++ [{ l with full := full }] ∧
  t.engState e = (if c.fault then engDONE else if full then engFULL else engREARM) ∧
  t.bitOf (R.CAP_STAT e) 8 = (s.bitOf (R.CAP_STAT e) 8 || (full && !c.fault)) ∧
  (t.reg (R.ACQ_QPEAK (e / 4))).toNat = max (s.reg (R.ACQ_QPEAK (e / 4))).toNat (min (t.queueFill (e / 4)) 0xFFFFFFFF) ∧
  (c.fault = true → s.room 24 → NewEvent s t 0xE201 (e / 4) (BitVec.ofNat 32 e) seq (BitVec.ofNat 32 l.primary)
    (BitVec.ofNat 32 l.tick)) ∧
  (c.fault = false → full = true → s.room 24 → NewEvent s t 0xE205 (e / 4) (BitVec.ofNat 32 e) seq s.tickLo 0)

/-- Engine `e` takes a lap now (R294 to R297, R299, R302): the frames before the trigger come from its store, the trigger
frame is the latest that reached it, and the count of missed occurrences enters the lap and starts again. -/
def LapTaken (s t : State) (e : Nat) (c : CapCfg) (forced : Bool) (primary : Nat) : Prop :=
  let g := s.eng e
  let l : Lap :=
    { seq := g.seq, forced := forced, primary := primary, mask := t.condMask e, cycle := s.now, tick := s.tick,
      tns := s.tnsAt s.now, sec := s.secAt s.now, timeinv := !s.timeValid, missed := s.reg (R.CAP_MISSED e),
      before := lastN c.pre g.store.dropLast, trig := g.latest, after := [], own := !g.store.isEmpty,
      forcedWas := s.reg (R.CAP_FORCED e) }
  t.reg (R.CAP_MISSED e) = 0 ∧ t.reg (R.CAP_FORCED e) = satAdd (s.reg (R.CAP_FORCED e)) forced.toNat ∧
  (t.eng e).seq = g.seq + 1 ∧ (t.eng e).store = [] ∧
  t.engState e = engCAPTURING ∧ (t.eng e).lap = some l ∧ (t.eng e).done = g.done

/-- A lap of engine `e` in progress before the present EDGE cycle that holds its last frame has completed in `v` (R296, R298,
R303). -/
def LapSettled (u v : State) (e : Nat) (c : CapCfg) : Prop :=
  match (u.eng e).lap with
  | some l =>
    if l.cycle < u.now ∧ c.len ≤ c.pre + 1 + l.after.length then
      AlsoEvents [R.CAP_STAT e, R.ACQ_QPEAK (e / 4)] { u with acq := { u.acq with engines := v.acq.engines } } v ∧
        (∀ j, j ≠ e → v.eng j = u.eng j) ∧ LapDone u v e c l ∧
        v.eng e = { u.eng e with lap := (v.eng e).lap, done := (v.eng e).done }
    else v = u
  | none => v = u

/-- `t` is `s` but for the island, the balls that it forces, axes, the way to SAFE, SAFE.STAT, registers of `l` and
events. -/
def IslFrame (l : List Nat) (s t : State) : Prop :=
  AlsoEvents (R.SAFE_STAT :: l) { s with
    safe := t.safe, dio := { s.dio with forced := t.dio.forced }, power := t.power
    arch := { s.arch with axes := t.arch.axes } } t

/-- The balls under forced hold are those of the active groups, each at its group's level (R566, R573, R574). -/
def HoldsForced (t : State) : Prop :=
  let b := t.safe.cfg
  ∀ n d, (n, d) ∈ t.dio.forced ↔ n < 64 ∧ ∃ g, g < 4 ∧ (hgMask b g).testBit n = true ∧ d = levelDrive (hgLevel b g) ∧
    (t.istate = islFAULT ∨ (t.istate = islRUN ∧ ∃ x e, x < 2 ∧ e < 16 ∧ ((t.isl x).eqs.getD e {}).dem = true ∧
      (eqHolds b e).testBit g = true))

/-- An island fault with a cause of R564 takes effect between `s` and `t` (R565, R566, R579, R581). -/
def IslFaulted (s t : State) (cause : Nat) : Prop :=
  let b := s.safe.cfg
  if s.hasIsland = false ∨ s.istate = islFAULT then t = s
  else
    IslFrame [] s t ∧ t.istate = islFAULT ∧ t.fldOf R.SAFE_STAT 23 16 = cause ∧ t.sfault = true ∧
    t.bitOf R.SAFE_STAT 3 = false ∧ HoldsForced t ∧
    t.safe = { s.safe with chans := t.safe.chans, pulses := t.safe.pulses, holds := t.safe.holds } ∧
    (∀ x, x < 2 → t.isl x = { s.isl x with on := 0, safen := false }) ∧
    (∀ c, c < 8 → (t.safe.pulses.getD c {}).phase = 0 ∧ (t.hold c).step = 0 ∧
      ((s.hold c).step ≠ 0 → (t.axis (chAxis b c)).st ≠ axBRAKETEST ∧ (t.axis (chAxis b c)).tq = 0)) ∧
    (∀ n, (∀ c, c < 8 → (s.hold c).step ≠ 0 → chAxis b c ≠ n) → t.axis n = s.axis n) ∧
    t.power = (if s.dev = stRUN then { s.power with safeDue := 4 } else s.power) ∧
    (s.room 1 → LastEvent t 0x7001 noSource 0 0 0 0)

/-- A failed in-service test of island channel `x` leaves a FAIL record of what it found between `s` and `t`, while the window
has room (R630 to R632, R637). -/
def IslandTestFailed (s t : State) (x : Nat) (found : TestRec) : Prop :=
  OnlyRegs (R.BIST_STAT :: R.BIST_OVFL :: (List.range 256).map R.BIST_RES) s t ∧
  t.nrec = max s.nrec (min 64 (s.nrec + 1)) ∧ t.reg R.BIST_OVFL = satAdd (s.reg R.BIST_OVFL) (s.nrec + 1 - t.nrec) ∧
  (s.nrec < 64 → ∀ i, i < 4 → t.reg (R.BIST_RES (4 * s.nrec + i)) =
    (testWords ⟨5, vdFAIL, found.bitNo, 0x7000 + 0x1000 * x + found.inst % 4, found.addr, found.data⟩
      (s.reg R.PWR_OPSEC)).getD i 0)

/-- Island channel `x` of `v` with the equations from `e` on as they stood in `s`: what equation `e` sees (R571). -/
def midEqs (s v : State) (x e : Nat) : State :=
  v.modIsl x (fun c => { c with eqs := c.eqs.take e ++ (s.isl x).eqs.drop e })

/-- Channel `x` samples the levels `lv`, evaluates every input and equation and drives its switches between `s` and `v`
(R563, R568 to R576, R579, R581). -/
def IslEvaluated (s v : State) (x lv : Nat) : Prop :=
  let b := s.safe.cfg
  let comb := fun i => ((v.isl 0).raw.testBit i).toNat + 2 * ((v.isl 1).raw.testBit i).toNat
  IslFrame [] s v ∧ v.power = s.power ∧ v.istate = s.istate ∧ v.fldOf R.SAFE_STAT 31 4 = s.fldOf R.SAFE_STAT 31 4 ∧
  v.bitOf R.SAFE_STAT 3 = (decide (s.istate = islRUN) && (v.isl 0).safen && (v.isl 1).safen) ∧ HoldsForced v ∧
  v.safe = { s.safe with chans := v.safe.chans, pulses := v.safe.pulses, holds := v.safe.holds } ∧
  v.isl (1 - x) = s.isl (1 - x) ∧ (v.isl x).raw = lv % 65536 ∧
  (∀ i, i < 16 → i < (s.isl x).ins.length →
    let q := (s.isl x).ins.getD i {}
    let r := q.next (inMode b i) (inFilt b i) (inDisc b i) s.now (comb i)
    (v.isl x).ins.getD i {} = r ∧
      (r.lock = true → q.lock = false → ((s.isl (1 - x)).ins.getD i {}).lock = false → s.room 40 →
        NewEvent s v 0x7003 i (BitVec.ofNat 32 i) (BitVec.ofNat 32 ((r.comb.getD 0) % 2))
          (BitVec.ofNat 32 ((r.comb.getD 0) / 2)) s.tickLo)) ∧
  (∀ e, e < 16 → e < (s.isl x).eqs.length →
    let q := (s.isl x).eqs.getD e {}
    let p := (v.isl x).eqs.getD e {}
    if eqOp b e = 0 ∨ 2 < eqOp b e then p = q
    else
      let w := midEqs s v x e
      let m := w.eqTerms x e
      let r := if eqOp b e = 1 then m == 2 ^ min 8 (eqN b e) - 1 else m != 0
      p = q.next (eqLatch b e) (eqDelay b e) s.now r (eqReset b e != 0xFFFF && w.islTerm x (eqReset b e)) ∧
        (p.dem = true → q.dem = false → ((s.isl (1 - x)).eqs.getD e {}).dem = false → s.room 40 →
          NewEvent s v 0x7002 noSource (BitVec.ofNat 32 e) (BitVec.ofNat 32 m) (BitVec.ofNat 32 (v.islInputs x)) s.tickLo)) ∧
  (∀ c, c < 8 →
    let h := s.hold c
    let p := s.safe.pulses.getD c {}
    let q := v.safe.pulses.getD c {}
    let n := chAxis b c
    ((v.isl x).on.testBit c = true ↔ s.istate = islRUN ∧ chKind b c ≠ 0 ∧ s.safe.cfault.testBit c = false ∧
      v.chanActed x c = false ∧ (v.hold c).step = 0 ∧ s.safe.req.testBit c = true) ∧
    (if 1 ≤ h.step ∧ h.step ≤ 3 ∧ (v.chanDemand c = true ∨ (s.axis n).st = axOFFLINE ∨ s.dev ≠ stRUN ∨
        s.warm.phase ≠ .none) then
      v.hold c = { h with step := 4 } ∧ (v.axis n).tq = 0
    else v.hold c = h) ∧
    (if p.phase = 1 ∧ (v.chanDemand c = true ∨ s.safe.req.testBit c = false) then q = { p with drop := true }
    else if p.phase = 2 ∧ (v.chanDemand c = true ∨ s.safe.req.testBit c = true) then
      q = { p with phase := 0, drop := false, last := s.now }
    else q = p)) ∧
  (v.isl x).on < 256 ∧
  ((v.isl x).safen = true ↔ s.istate = islRUN ∧
    ∀ e, e < 16 → eqSafen b e = true → ((v.isl x).eqs.getD e {}).dem = false) ∧
  (∀ n, v.axis n = s.axis n ∨ v.axis n = { s.axis n with tq := 0 }) ∧
  ∀ n, (∀ c, c < 8 → chAxis b c = n → v.hold c = s.hold c) → v.axis n = s.axis n

/-- Channel `c` takes a channel fault between `s` and `t` (R577). -/
def ChanFaulted (s t : State) (c code : Nat) (commanded bfb : Bool) : Prop :=
  AlsoEvents [] { s with safe := t.safe } t ∧
  t.safe = { s.safe with chans := t.safe.chans, cfault := s.safe.cfault ||| 2 ^ c } ∧
  (∀ x, x < 2 → t.isl x = { s.isl x with on := (s.isl x).on &&& (255 - 2 ^ c) }) ∧
  (s.room 1 → LastEvent t code c (BitVec.ofNat 32 c) (b2w commanded) (b2w bfb) s.tickLo)

/-- Connection `c` of `s` goes to FAULT in `t` (R582): its BITS read 0, and a change is recorded. -/
def ConnFaulted (s t : State) (c cause ssq : Nat) : Prop :=
  (t.conn c).st = 2 ∧ (t.conn c).good = 0 ∧ t.connBits c = 0 ∧
  ((s.conn c).st ≠ 2 → s.room 4 → NewEvent s t 0x7008 noSource (BitVec.ofNat 32 c) (BitVec.ofNat 32 cause)
    (BitVec.ofNat 32 ssq) s.tickLo)

end Sys2Proof.Machine
end

