-- ==== Sys2Proof/WellFormed.lean ====
section
/-! DEFINITION. Which commands the device's surroundings can give: instances that some variant has (R12, R13), and
pieces as wide as the spec lays them out. -/

namespace Sys2Proof

/-- A datagram comes by port 0 or 1; its addresses and tag have their field's widths (R141, R513). -/
def Origin.wf (o : Origin) : Bool :=
  decide (o.port < 2) && decide (o.ip < 2 ^ 32) && decide (o.udp < 2 ^ 16) && decide (o.tag < 2 ^ 32) &&
    (match o.trailer with
      | some t => decide (t.mac < 2 ^ 48) && decide (t.seq < 2 ^ 16) && decide (t.lan < 2 ^ 4)
      | none => true)

/-- A BULK_REQ payload is 24 bytes (R311). -/
def Bulk.wf (b : Bulk) : Bool := b.org.wf && b.payload.length == 24

/-- A letter of type `typ` has the fields of R126. -/
def Letter.wf (l : Letter) (typ : Nat) : Bool :=
  l.org.wf && l.typ == typ && decide (l.version < 2 ^ 16) && decide (l.keyslot < 2 ^ 8) && decide (l.role < 2 ^ 8) &&
    decide (l.seq < 2 ^ 64) && l.uid.length == 16 && decide (l.notBefore < 2 ^ 64) && decide (l.notAfter < 2 ^ 64) &&
    l.pubkey.length == 32 && decide (l.body.length ≤ 1312) && l.body.length % 4 == 0 && l.sig.length == 64

/-- A data length code and the bytes it stands for (R469). -/
def dlcBytes (fdf : Bool) (dlc : Nat) : Nat :=
  if dlc ≤ 8 then dlc
  else if !fdf then 8
  else [12, 16, 20, 24, 32, 48, 64].getD (dlc - 9) 64

/-- A CAN frame of one of the four formats (R469); a remote frame is classical and carries no data. -/
def CanFrame.wf (f : CanFrame) : Bool :=
  decide (f.id < 2 ^ (if f.ide then 29 else 11)) && decide (f.dlc < 16) && (f.fdf || !f.brs) && !(f.fdf && f.remote) &&
    f.data.length == (if f.remote then 0 else dlcBytes f.fdf f.dlc)

/-- The fields of a result record (R630). -/
def TestRec.wf (r : TestRec) : Bool :=
  decide (1 ≤ r.kind) && decide (r.kind ≤ 5) && decide (r.verdict ≤ 2) && decide (r.bitNo < 256) &&
    decide (r.inst < 2 ^ 16) && decide (r.addr < 2 ^ 32) && decide (r.data < 2 ^ 32)

/-- No cause, or a fault cause that a channel's own monitors find (R563). -/
def islandCause (fault : Nat) : Bool := fault == 0 || fault == 2 || fault == 3 || fault == 5 || fault == 6

/-- A command that can happen to the device. -/
def Instr.wf (i : Instr) : Bool :=
  match i with
  | .enRise _ _ => true
  | .enFall _ => true
  | .powerFail _ => true
  | .ovinShutdown => true
  | .ovinRecovery _ => true
  | .resetNLow _ => true
  | .resetNRelease => true
  | .powerGood => true
  | .railOutOfWindow => true
  | .railRetry => true
  | .currentLimitCycle n _ => decide (n < 4)
  | .phaseNoRipple => true
  | .tjHigh => true
  | .thermalReset => true
  | .thermalRecover => true
  | .clockLoss _ => true
  | .wakeRise _ => true
  | .aonCrystalStop => true
  | .aonSecond _ _ => true
  | .counterSave _ => true
  | .bootPost _ _ l => l.all TestRec.wf
  | .testPost l => l.all TestRec.wf
  | .imageLoad _ _ _ => true
  | .tickBoundary _ _ => true
  | .watchdogExpiry _ _ _ _ => true
  | .fatalFault _ _ _ _ => true
  | .restoreComplete _ _ _ _ _ => true
  | .holdTimeout _ => true
  | .letterReceive o _ _ _ => o.wf
  | .letterVerify _ => true
  | .counterWriteDone _ _ => true
  | .refusalRunClose _ port => decide (port < 2)
  | .start l => l.wf 0x101
  | .run l => l.wf 0x102
  | .hold l => l.wf 0x103
  | .resume l => l.wf 0x104
  | .abort l => l.wf 0x105
  | .paramset l _ => l.wf 0x106
  | .snappolicy l => l.wf 0x107
  | .cellmode l => l.wf 0x108
  | .move l => l.wf 0x109
  | .home l => l.wf 0x10A
  | .calibrate l => l.wf 0x201
  | .calibrationWriteDone _ _ => true
  | .clearlog l => l.wf 0x202
  | .storeBegin l => l.wf 0x203
  | .storeData l => l.wf 0x203
  | .storeFinish l => l.wf 0x203
  | .reload l _ => l.wf 0x204
  | .clearsafe l => l.wf 0x205
  | .sleep l => l.wf 0x206
  | .timeRestep l => l.wf 0x207
  | .regwrite l => l.wf 0x208
  | .safeauth l => l.wf 0x301
  | .lifecycle l => l.wf 0x401
  | .keyset l _ => l.wf 0x402
  | .keyrevoke l => l.wf 0x403
  | .bist l => l.wf 0x404
  | .bistComplete _ _ l _ => l.all TestRec.wf
  | .fuse l => l.wf 0x405
  | .pwrstage l => l.wf 0x406
  | .read o _ _ => o.wf
  | .ycpDiscard g _ => decide (g.org.port < 2)
  | .duplicateDiscard o _ _ => o.wf
  | .traceRead b _ => b.wf
  | .traceConsume b _ => b.wf
  | .lapRead b _ => b.wf
  | .lapConsume b _ => b.wf
  | .snapRead b _ => b.wf
  | .readoutDatagram _ _ => true
  | .snapReq o _ _ _ => o.wf
  | .photoFinishReady _ => true
  | .evrSeek b _ => (match b with | some b => b.wf | none => true)
  | .evrFreeze b => (match b with | some b => b.wf | none => true)
  | .evrUnfreeze b => (match b with | some b => b.wf | none => true)
  | .freezeTimeout => true
  | .hostHeartbeat o _ _ => o.wf
  | .deviceHeartbeat p _ _ => decide (p < 2)
  | .pathLost p _ => decide (p < 2)
  | .bothLostReaction => true
  | .batonMove _ => true
  | .standbyVerify o _ _ => o.wf
  | .batonSkewTimeout _ => true
  | .heldCopyTimeout _ => true
  | .prpSupervision => true
  | .portStart p _ _ _ => decide (p < 2)
  | .mdioPoll p _ => decide (p < 2)
  | .arpRefresh p => decide (p < 2)
  | .arpRequest o _ _ => decide (o.port < 2)
  | .icmpEcho o _ _ _ => o.wf
  | .rxLockLoss p _ _ => decide (p < 2)
  | .safetyFrameSend c _ _ _ => decide (c < 8)
  | .safetyFrameReceive p _ _ => decide (p < 2)
  | .safetyWatchdog c _ => decide (c < 8)
  | .ptpSync peer _ _ _ _ _ _ _ => decide (peer < 4)
  | .ptpFollowUp peer _ _ _ _ _ => decide (peer < 4)
  | .ptpAnnounce peer _ _ _ _ _ => decide (peer < 4)
  | .ptpDelayResp peer _ _ _ _ => decide (peer < 4)
  | .ptpDelayReq peer _ _ _ _ => decide (peer < 4)
  | .ptpPdelay peer _ kind _ _ _ _ _ => decide (peer < 4) && decide (kind < 3)
  | .ptpMasterSend kind raws => (kind == 0 && raws.length == 4) || kind == 11
  | .ptpDiscard => true
  | .announceReceiptTimeout _ => true
  | .timeMark _ => true
  | .tpoArm n _ => decide (n < 4)
  | .tpoPulse n _ => decide (n < 4)
  | .tpoPulseEnd n _ => decide (n < 4)
  | .tciEdge n _ _ _ => decide (n < 4)
  | .startTimerFire n => decide (n < 32)
  | .adcStart c _ _ => decide (c < 16)
  | .adcConversionDone c _ _ => decide (c < 16)
  | .adcSelfTest c _ _ => decide (c < 16)
  | .dioInputTransition n _ _ _ _ => decide (n < 64)
  | .debounceAccept n _ _ => decide (n < 64)
  | .periodEdge n _ _ _ _ => decide (n < 64)
  | .periodTimeout n _ _ => decide (n < 64)
  | .captureEdge n _ _ _ _ => decide (n < 64)
  | .encoderTransition m _ _ _ => decide (m < 21)
  | .encoderIndex m _ _ => decide (m < 21)
  | .pwmPeriodStart n _ => decide (n < 64)
  | .pwmEdge n kind _ => decide (n < 64) && decide (kind < 3)
  | .pulseRise n _ => decide (n < 64)
  | .pulseFall n _ => decide (n < 64)
  | .ilkEdge j _ _ _ => decide (j < 8)
  | .ilkClr _ => true
  | .servoPeriodStart d => decide (d < 8)
  | .strideReply d sl _ _ _ _ _ => decide (d < 8) && decide (sl < 4)
  | .strideAnnounce d _ _ _ => decide (d < 8)
  | .strideFrameDiscard d _ _ => decide (d < 8)
  | .replySlotClose d sl _ => decide (d < 8) && decide (sl < 4)
  | .canFrameReceive c f _ _ _ => decide (c < 4) && f.wf
  | .canRxTimeout c o => decide (c < 4) && decide (o < 128)
  | .canFrameSent c _ _ _ => decide (c < 4)
  | .canAckError c _ _ _ _ => decide (c < 4)
  | .canBusError c _ _ _ _ _ _ => decide (c < 4)
  | .canArbitrationLost c _ _ => decide (c < 4)
  | .busOffRecovery c _ => decide (c < 4)
  | .septedAnnounce c n b _ => decide (c < 4) && decide (n < 128) && b.length == 20
  | .septedHeartbeat c n b _ => decide (c < 4) && decide (n < 128) && b.length == 4
  | .septedLeave c n b _ => decide (c < 4) && decide (n < 128) && b.length == 1
  | .nodeAbsenceTimeout c en _ => decide (c < 4) && decide (en < 64)
  | .nodeLeaveStale => true
  | .stepExit t _ => decide (t < 8)
  | .triggerConditionMet t i _ => decide (t < 8) && decide (i < 4)
  | .timerCondition t i _ => decide (t < 8) && decide (i < 4)
  | .stepTimeout t _ => decide (t < 8)
  | .stepEnter t => decide (t < 8)
  | .bankBuildComplete t b _ _ _ => decide (t < 8) && decide (b < 2)
  | .abortmaxExceeded t => decide (t < 8)
  | .nodeLostReaction t => decide (t < 8)
  | .traceIntervalClose t => decide (t < 8)
  | .traceFrameWrite t => decide (t < 8)
  | .triggerOccurrence e m _ => decide (e < 32) && decide (m < 65536)
  | .forcedTrigger e _ => decide (e < 32)
  | .lapComplete e => decide (e < 32)
  | .lapRearm e _ => decide (e < 32)
  | .lapHeaderWritten e => decide (e < 32)
  | .eventCreate _ _ _ _ _ _ _ => true
  | .eventWindowClose _ _ => true
  | .logWriteDone _ _ => true
  | .faultNPulse _ => true
  | .chkStart c space poly _ => decide (c < 8) && decide (space < 4) && decide (poly < 4)
  | .chkAbort c _ _ => decide (c < 8)
  | .chkScanDone c _ _ => decide (c < 8)
  | .laneTestPeriod t => decide (t < 8)
  | .laneTestSegmentDone t _ _ => decide (t < 8)
  | .laneTestYield t => decide (t < 8)
  | .islandCycle x lv fault found _ => decide (x < 2) && islandCause fault && decide (lv < 65536) && decide (found.inst < 4)
  | .sfaultRise => true
  | .discrepancyLockout i _ => decide (i < 16)
  | .demandDelayExpiry q _ => decide (q < 16)
  | .readbackMismatch c _ _ => decide (c < 8)
  | .safeNReadbackFault _ => true
  | .testPulseStart c _ => decide (c < 8)
  | .testPulseEnd c _ _ => decide (c < 8)
  | .holdingTestDue c => decide (c < 8)
  | .holdingTestOverdue c => decide (c < 8)
  | .holdingTestStart c => decide (c < 8)
  | .holdingTestStepEnd c => decide (c < 8)
  | .maintFrameError _ => true
  | .nop _ => true
  | .adr cmd data _ => decide (cmd < 256) && decide (data < 65536)
  | .rdl _ => true
  | .rdh _ => true
  | .wrl data _ => decide (data < 65536)
  | .wrh data _ => decide (data < 65536)
  | .irqack data _ => decide (data < 65536)
  | .pbaWr data _ => decide (data < 65536)
  | .pbdRd _ => true
  | .pbdWr data _ => decide (data < 65536)
  | .tickLoRead p _ => decide (p < 3)
  | .sigValRead p n _ => decide (p < 3) && decide (n < 8192)
  | .timeNsRead p _ => decide (p < 3)
  | .btickLoRead p _ => decide (p < 3)
  | .tciNsRead p n _ => decide (p < 3) && decide (n < 4)
  | .loRegisterRead p _ _ => decide (p < 3)
  | .evrWinFetch p => decide (p < 3)
  | .evrWinAdvance p => decide (p < 3)
  | .registerWrite p _ _ _ _ => decide (p < 3)
  | .badAccess _ _ _ => true
  | .aonCrystalStart => true
  | .rxLockReturn p _ _ _ => decide (p < 2)
  | .codeGroupError p _ _ => decide (p < 2)
  | .arpReply o _ => decide (o.port < 2)
  | .receivedFrameDiscard p _ _ => decide (p < 2)
  | .canBusIntegrated c => decide (c < 4)
  | .delayReqSend _ => true

end Sys2Proof
end

