-- ==== Sys2Proof/Certificates/Slice0/Obligations.lean ====
section
/-! DEFINITION. The statements for the provers. Every state premise says what the rule needs; `s.wf` is the invariant of
`StepKeepsWellFormed`, and `s.room n` that the holding queue has room for the records. -/

section
open Sys2Proof Sys2Proof.Machine

/-- One step is the effect of the command that waited first, with the rest of the queue still waiting. The queue is the
model's own (log 2). -/
def Obligations.StepRunsFrontCommand : Prop :=
  ∀ (s : State) (c : Instr) (rest : List Instr), s.pending = c :: rest → step s = exec c { s with pending := rest }

/-- On an empty queue the device idles: the model's choice, log 2. -/
def Obligations.StepIdlesWithoutCommands : Prop := ∀ s : State, s.pending = [] → step s = .next s

/-- Whatever command waits first, a step from a well-formed state leads to a well-formed state. -/
def Obligations.StepKeepsWellFormed : Prop := ∀ s t : State, s.wf = true → step s = .next t → t.wf = true

/-- The invariant of `StepKeepsWellFormed` holds right after reset. -/
def Obligations.ResetIsWellFormed : Prop := State.reset.wf = true

/-- No command that can happen ends in a fault or a refusal, in any state; and no command takes back what was sent,
touches the queue or changes the variant. -/
def Obligations.WellFormedCommandsComplete : Prop :=
  ∀ (i : Instr) (s : State), i.wf = true →
    ∃ t, exec i s = .next t ∧ t.pending = s.pending ∧ t.part = s.part ∧ s.out <+: t.out ∧ s.free ≤ t.free

/-- The one stop of the model: a command that names a tile, port or channel which no variant has (log 8). -/
def Obligations.StopsOnlyOnAbsentInstances : Prop :=
  ∀ (i : Instr) (s : State),
    (∀ r, exec i s ≠ .refused r) ∧ (∀ f, exec i s = .fault f → f = .noSuchInstance ∧ i.wf = false)

/-- The state after a power-on reset. The variant and the factory OTP are choices of log 3. -/
def Obligations.ResetState : Prop :=
  State.reset.dev = stBOOT ∧ State.reset.reg R.PWR_RSTCAUSE = 1 ∧ State.reset.reg R.PWR_CYCLES = 1 ∧
    State.reset.reg R.PWR_RAILS = 0x1F ∧ State.reset.reg R.PWR_OPSEC = 0 ∧ State.reset.part = .gw4840 ∧
    State.reset.part.id = 0x48400002 ∧ LastEvent State.reset 0x1006 noSource 1 1 0 0 ∧ State.reset.image = {} ∧
    State.reset.letters.queue = [] ∧ State.reset.out = [] ∧ State.reset.dram = [] ∧ State.reset.pending = []

/-- The three ways from a powered device to KEEP (R57), with what a cold reset keeps (R65, R66, R604). -/
def Obligations.PowerDownEntersKeep : Prop :=
  ∀ (s : State) (saved : Bool), s.power.phase ≠ .keep →
    (∃ t, exec (.enFall saved) s = .next t ∧ InKeep s t 2 saved ∧ t.power.en = false ∧ t.power.vin = s.power.vin) ∧
    (∃ t, exec (.powerFail saved) s = .next t ∧ InKeep s t 8 saved ∧ t.power.vin = false ∧ t.power.en = s.power.en) ∧
    (∃ t, exec .ovinShutdown s = .next t ∧ InKeep s t 16 true ∧ t.power.vin = false ∧ t.power.ovin = true ∧
      t.power.en = s.power.en)

/-- The cold-reset causes that leave EN high and VIN valid (R57, R61). -/
def Obligations.ColdResetCauses : Prop :=
  ∀ (s : State), s.powered = true →
    (∀ ns, 1000 ≤ ns → ∃ t, exec (.resetNLow ns) s = .next t ∧ ColdReset s t 4 false ∧ t.power.phase = .resetHeld ∧
      t.power.resetN = false ∧ t.reg R.PWR_RAILS = 0x1F) ∧
    (∀ ns, ns < 200 → exec (.resetNLow ns) s = .next s) ∧
    (∃ t, exec .railOutOfWindow s = .next t ∧ ColdReset s t 32 true ∧ t.power.phase = .railWait ∧ RailsFell s t) ∧
    (∃ t, exec .phaseNoRipple s = .next t ∧ ColdReset s t 32 true ∧ t.power.phase = .railWait ∧ RailsFell s t) ∧
    (∃ t, exec .thermalReset s = .next t ∧ ColdReset s t 64 true ∧ t.power.phase = .thermalHold ∧ RailsFell s t) ∧
    (∀ b, ∃ t, exec (.clockLoss b) s = .next t ∧ ColdReset s t 128 true ∧ t.power.phase = .sequencing ∧ RailsFell s t ∧
      t.bitOf R.CLK_STAT 0 = false ∧ (b = true → t.bitOf R.CLK_STAT 1 = false)) ∧
    (∀ n, n < 4 → s.wf = true →
      (63 ≤ s.power.limit.getD n 0 → ∃ t, exec (.currentLimitCycle n true) s = .next t ∧ ColdReset s t 32 true ∧
        t.power.phase = .railWait) ∧
      (∀ again, (again = true → s.power.limit.getD n 0 < 63) → ∃ t, exec (.currentLimitCycle n again) s = .next t ∧
        t = { s with power := { s.power with limit := t.power.limit } } ∧
        t.power.limit.getD n 0 = (if again then s.power.limit.getD n 0 + 1 else 1) ∧
        ∀ m, m ≠ n → t.power.limit.getD m 0 = s.power.limit.getD m 0))

/-- Leaving KEEP (R57, R61), and the two retries (R53, R55). That a WAKE edge which finds EN low or VIN invalid is forgotten is
the model's choice, log 86. -/
def Obligations.RailSequencingStarts : Prop :=
  ∀ (s : State) (ret : Nat),
    (s.power.phase = .keep → s.power.wakeNeeded = false →
      (s.power.vin = true → ∃ t, exec (.enRise false ret) s = .next t ∧ Sequencing { s with power := { s.power with en := true } } t ret 0) ∧
      (s.power.en = true → ∃ t, exec (.enRise true ret) s = .next t ∧
        Sequencing { s with power := { s.power with vin := true, ovin := false } } t ret (porCause s ret)) ∧
      (s.power.en = true → s.power.ovin = true → ∃ t, exec (.ovinRecovery ret) s = .next t ∧
        Sequencing { s with power := { s.power with vin := true, ovin := false } } t ret (porCause s ret))) ∧
    (s.power.phase = .keep → s.power.wakeNeeded = true ∨ s.power.en = false →
      exec (.enRise true ret) s = .next { s with power := { s.power with
        vin := true, ovin := false, causes := s.power.causes ||| porCause s ret } }) ∧
    (s.power.phase = .keep → s.power.wakeNeeded = true ∨ s.power.vin = false →
      exec (.enRise false ret) s = .next { s with power := { s.power with en := true } }) ∧
    (s.power.phase = .keep → s.power.wakeNeeded = true →
      (s.power.en = true → s.power.vin = true → ∃ t, exec (.wakeRise ret) s = .next t ∧
        Sequencing { s with power := { s.power with wakeNeeded := false } } t ret 2048) ∧
      (s.power.en = false ∨ s.power.vin = false → exec (.wakeRise ret) s = .next s)) ∧
    (s.power.phase = .railWait → exec .railRetry s = .next { s with power := { s.power with phase := .sequencing } }) ∧
    (s.power.phase = .thermalHold → exec .thermalRecover s = .next { s with power := { s.power with phase := .sequencing } })

/-- Entry into BOOT (R57, R61, R67, R68, R600), the rails coming up in the order of R52. -/
def Obligations.BootBegins : Prop :=
  ∀ s : State, s.room 1 →
    let up := { s.power with rails := [.up 1, .up 2, .up 3, .up 0, .up 4] }
    (s.power.phase = .sequencing → s.power.resetN = true → ∃ t, exec .powerGood s = .next t ∧ InBoot { s with power := up } t) ∧
    (s.power.phase = .sequencing → s.power.resetN = false → ∃ t, exec .powerGood s = .next t ∧
      OnlyRegs [R.PWR_RAILS] { s with power := { up with phase := .resetHeld, pgood := true } } t ∧
      t.reg R.PWR_RAILS = 0x1F) ∧
    (s.power.phase = .resetHeld → s.power.pgood = true → ∃ t, exec .resetNRelease s = .next t ∧
      InBoot { s with power := { s.power with resetN := true } } t)

/-- The AON domain (R66 to R68, R338, R580, R682) and the junction warning (R55). -/
def Obligations.AonDomain : Prop :=
  ∀ (s : State) (retries e wait : Nat),
    (s.dev ≠ stKEEP →
      (∃ t, exec (.aonSecond retries e) s = .next t ∧
        OnlyRegs [R.PWR_OPSEC, R.CLK_RETRYCNT] { s with off := e, power := { s.power with secondAt := s.edgeBase + e } } t ∧
        t.reg R.PWR_OPSEC = satAdd (s.reg R.PWR_OPSEC) 1 ∧ t.reg R.CLK_RETRYCNT = satAdd (s.reg R.CLK_RETRYCNT) retries) ∧
      (∃ t, exec (.counterSave wait) s = .next t ∧
        OnlyRegs [R.ARB_WAITCNT 0, R.ARB_WAITMAX 0, R.ARB_DEFERCNT] { s with power := t.power } t ∧
        t.reg (R.ARB_WAITCNT 0) = satAdd (s.reg (R.ARB_WAITCNT 0)) wait ∧
        if s.envmPending 2 = false ∧ s.envmPending 3 = false ∧ s.envmPending 5 = false then
          t.reg R.ARB_DEFERCNT = s.reg R.ARB_DEFERCNT ∧ t.power = { s.power with
            saveDue := false
            saved := [s.reg R.PWR_OPSEC, s.reg R.PWR_CYCLES, s.reg R.PWR_AONLOST, s.reg R.PWR_LASTFAULT] ++
              (List.range 8).map (fun c => s.reg (R.SAFE_HTLAST c)) }
        else
          t.reg R.ARB_DEFERCNT = satAdd (s.reg R.ARB_DEFERCNT) (!s.power.saveDue).toNat ∧
            t.power = { s.power with saveDue := true }) ∧
      (s.power.rcRecorded = false → s.room 1 → ∃ t, exec .aonCrystalStop s = .next t ∧
        AlsoEvents [R.CLK_STAT] { s with power := { s.power with rcRecorded := true } } t ∧
        t.reg R.CLK_STAT = s.reg R.CLK_STAT &&& ~~~4 ∧ LastEvent t 0x1002 noSource 0 0 0 0) ∧
      (s.power.rcRecorded = true → exec .aonCrystalStop s = .next s) ∧
      (∃ t, exec .aonCrystalStart s = .next t ∧
        OnlyRegs [R.CLK_STAT] { s with power := { s.power with rcRecorded := false } } t ∧
        t.reg R.CLK_STAT = s.reg R.CLK_STAT ||| 4)) ∧
    (s.dev = stKEEP → exec (.aonSecond retries e) s = .next (s.atEdge e) ∧ exec (.counterSave wait) s = .next s) ∧
    (s.powered = true → s.room 1 → s.window? 0x1001 0 = none →
      ∃ t, exec .tjHigh s = .next t ∧ AlsoEvents [] s t ∧ LastEvent t 0x1001 noSource 0 0 0 0)

/-- The two phases of POST (R57, R627, R632). -/
def Obligations.PostLeadsToLoad : Prop :=
  ∀ (s : State) (envm path : Bool) (l : List TestRec),
    (s.dev = stBOOT → s.power.phase = .on → ∃ t, exec (.bootPost envm path l) s = .next t ∧
      Tested s t 0 (s.reg R.BIST_FAILCNT) l ∧
      AlsoEvents (testRegs ++ [R.PWR_STATE, R.SAFE_STAT])
        { s with power := t.power, arch := { s.arch with lanes := t.arch.lanes } } t ∧
      (postHolds envm path l = true → t.dev = stBOOT ∧ t.power = { s.power with phase := .bootHeld }) ∧
      (postHolds envm path l = false → t.dev = stTEST ∧ t.cause = 0 ∧ t.power = s.power)) ∧
    (s.dev = stTEST → s.integ.bist = none → ∃ t, exec (.testPost l) s = .next t ∧
      Tested s t s.nrec (s.reg R.BIST_FAILCNT) l ∧
      AlsoEvents (testRegs ++ [R.PWR_STATE]) { s with arch := { s.arch with lanes := t.arch.lanes } } t ∧
      t.dev = stLOAD ∧ t.cause = 0)

/-- The end of a full BIST (R634). -/
def Obligations.BistCompletes : Prop :=
  ∀ (s : State) (envm path : Bool) (l : List TestRec) (ms : Nat),
    (∀ mask, s.integ.bist = some mask → s.room 1 → ∃ t, exec (.bistComplete envm path l ms) s = .next t ∧
      Tested s t s.nrec (s.reg R.BIST_FAILCNT) l ∧ t.integ = { s.integ with bist := none } ∧
      AlsoEvents (testRegs ++ [R.PWR_STATE, R.SAFE_STAT])
        { s with power := t.power, integ := t.integ, arch := { s.arch with lanes := t.arch.lanes } } t ∧
      LastEvent t 0x8003 noSource (BitVec.ofNat 32 mask) (satWord (failsOf l).length) (BitVec.ofNat 32 t.nrec) (satWord ms) ∧
      (postHolds envm path l = true → t.dev = stBOOT ∧ t.power = { s.power with phase := .bootHeld }) ∧
      (postHolds envm path l = false → t.dev = stLOAD ∧ t.power = s.power)) ∧
    (s.integ.bist = none → exec (.bistComplete envm path l ms) s = .next s)

/-- T0 of a warm restart (R73). -/
def Obligations.WarmRestartBegins : Prop :=
  ∀ (s : State) (more e : Nat) (complete writing : Bool), s.warm.phase = .none →
    (∀ r, s.warm.released = some r → r + 1000 * edgesPerMs ≤ s.edgeBase + e) → s.room 4 →
    (s.dev = stRUN ∨ s.dev = stSAFE → ∃ t, exec (.watchdogExpiry more complete writing e) s = .next t ∧
      AtT0 (s.atEdge e) t (256 ||| (more &&& 0x700)) complete) ∧
    (s.dev = stREADY ∨ s.dev = stRUN ∨ s.dev = stSAFE → ∃ t, exec (.fatalFault more complete writing e) s = .next t ∧
      AtT0 (s.atEdge e) t (512 ||| (more &&& 0x700)) complete)

/-- R77: the repeat guard. -/
def Obligations.RepeatedWarmRestartHalts : Prop :=
  ∀ (s : State) (more e : Nat) (complete writing : Bool),
    s.dev = stREADY ∨ s.dev = stRUN ∨ s.dev = stSAFE →
    (s.warm.phase ≠ .none → s.warm.t0 < s.edgeBase + e →
      (∃ t, exec (.fatalFault more complete writing e) s = .next t ∧ HaltedBy s t 0x13) ∧
      (s.dev ≠ stREADY → ∃ t, exec (.watchdogExpiry more complete writing e) s = .next t ∧ HaltedBy s t 0x13)) ∧
    (∀ l, let u := s.openBoundary
      u.lettersCommit = true → u.dev ≠ stHALT → u.warm.phase ≠ .none → u.warm.t0 < u.now →
      u.commitFail { l with typ := ltRELOAD } = none → ∃ t, exec (.reload l writing) s = .next t ∧ HaltedBy u t 0x13) ∧
    (∀ r, s.warm.phase = .none → s.warm.released = some r → s.edgeBase + e < r + 1000 * edgesPerMs →
      (∃ t, exec (.fatalFault more complete writing e) s = .next t ∧ HaltedBy s t 0x11) ∧
      (s.dev ≠ stREADY → ∃ t, exec (.watchdogExpiry more complete writing e) s = .next t ∧ HaltedBy s t 0x11)) ∧
    (∀ l r, let u := s.openBoundary
      u.lettersCommit = true → u.dev ≠ stHALT → u.warm.phase = .none → u.warm.released = some r →
      u.now < r + 1000 * edgesPerMs → u.commitFail { l with typ := ltRELOAD } = none →
      ∃ t, exec (.reload l writing) s = .next t ∧ HaltedBy u t 0x11)

/-- The end of restoration (R74, R79, R86), and the hold timeout (R76). -/
def Obligations.RestorationEnds : Prop :=
  ∀ (s : State) (bad laps : List Nat) (ckptBad : Bool) (ecc : Option Nat) (e : Nat), s.wf = true →
    (s.warm.phase = .restoring →
      (∀ k c r, (s.atEdge e).resumeSlot bad ckptBad ecc = .inr k → s.ckpts = c :: r →
        ∃ t, exec (.restoreComplete bad ckptBad ecc laps e) s = .next t ∧ t.arch = c.arch ∧
          (∀ a, ckptReg a = true → t.reg a = tabGet regReset c.regs a) ∧
          t.warm = { s.warm with phase := .restored, resumed := true } ∧ t.dev = s.dev ∧ t.ckpts = s.ckpts ∧
          t.image = s.image ∧ t.flash = s.flash ∧ t.dram = s.dram ∧ t.letters = s.letters ∧ t.time = s.time ∧
          t.evr.main = s.evr.main ∧ t.evr.safety = s.evr.safety) ∧
      (∀ reason, (s.atEdge e).resumeSlot bad ckptBad ecc = .inl reason → s.room 1 →
        ∃ t, exec (.restoreComplete bad ckptBad ecc laps e) s = .next t ∧ t.dev = stLOAD ∧ t.cause = 0 ∧
          t.warm.phase = .none ∧ t.ckpts = [] ∧ t.counting = false ∧ t.flash = s.flash ∧ t.dram = s.dram ∧
          t.letters = s.letters ∧ t.evr.main = s.evr.main ∧ t.image = {} ∧ t.loaded = false ∧
          NewEvent s t 0x1005 noSource (BitVec.ofNat 32 reason) 0 0 0)) ∧
    (s.warm.phase = .restoring ∨ s.warm.phase = .restored →
      (s.warm.t0 + s.fldOf R.PWR_HOLDCFG 9 0 * edgesPerMs ≤ s.edgeBase + e →
        ∃ t, exec (.holdTimeout e) s = .next t ∧ HaltedBy s t 0x12) ∧
      (s.edgeBase + e < s.warm.t0 + s.fldOf R.PWR_HOLDCFG 9 0 * edgesPerMs →
        exec (.holdTimeout e) s = .next (s.atEdge e)))

/-- The load that LOAD makes (R57, R85, R112). -/
def Obligations.LoadChoosesImage : Prop :=
  ∀ (s : State) (bad : List Nat) (ecc : Option Nat) (e : Nat),
    (s.dev = stLOAD → s.evr.queue.length + 8 < 256 → ∃ t, exec (.imageLoad bad ecc e) s = .next t ∧
      t.bitOf R.MAINT_IRQSTAT 2 = true ∧ t.ckpts = [] ∧ t.warm.phase = .none ∧ t.flash = s.flash ∧ t.dram = s.dram ∧
      t.letters = s.letters ∧ t.evr.main = s.evr.main ∧ t.evr.safety = s.evr.safety ∧
      match loadChoice ((s.atEdge e).emptyCopies.loadBegin bad) bad ecc with
      | some k =>
        let b := s.slotImage k
        t.image = parseImage b ∧ t.tick = 0 ∧ t.counting = false ∧
          NewEvent s t 0x2003 noSource (BitVec.ofNat 32 k) (wAt b 0x18) (wAt b 0x20) 0 ∧
          ((parseImage b).flags % 2 = 0 → t.dev = stREADY) ∧ ((parseImage b).flags % 2 = 1 → t.dev = stRUN ∨ t.dev = stSAFE)
      | none => t.image = {} ∧ t.dev = stHALT ∧ t.cause = 0x10) ∧
    (s.dev ≠ stLOAD → exec (.imageLoad bad ecc e) s = .next (s.atEdge e))

/-- Time and the tick number at a boundary (R14 to R16). That the command of a letter begins its commit boundary, which
TICK_BOUNDARY then completes, is the model's choice, log 38. -/
def Obligations.BoundaryAdvancesTime : Prop :=
  ∀ (s : State) (writing : Bool) (otpBad : List Nat),
    (∃ t, exec (.tickBoundary writing otpBad) s = .next t ∧ t.letters.half = none ∧
      (s.letters.half ≠ none → t.edgeBase = s.edgeBase) ∧
      (s.letters.half = none → t.edgeBase = s.edgeBase + s.tickEdges ∧ t.off = 0 ∧
        s.tickEdges = 2 * s.fldOf R.DEV_TBASE 17 0 ∧
        (s.letters.waiting = [] → s.warm.phase = .none →
          (s.dev = stRUN ∨ s.dev = stSAFE → t.tick = (if s.counting then s.tick + 1 else 0) ∧ t.counting = true) ∧
          (s.dev ≠ stRUN → s.dev ≠ stSAFE → t.tick = s.tick ∧ t.counting = s.counting ∧ t.arch.slots = s.arch.slots ∧
            t.image = s.image ∧ t.dram = s.dram ∧ t.flash = s.flash ∧ t.letters = s.letters ∧ t.dev = s.dev)))) ∧
    (s.letters.half ≠ none → s.openBoundary = s) ∧
    (s.letters.half = none →
      let u := s.openBoundary
      u.letters = { s.letters with half := u.letters.half } ∧ u.letters.half ≠ none ∧
        u.edgeBase = s.edgeBase + s.tickEdges ∧ u.off = 0 ∧ u.dev = s.dev ∧
        (s.dev = stRUN ∨ s.dev = stSAFE → u.tick = (if s.counting then s.tick + 1 else 0)) ∧
        (s.dev ≠ stRUN → s.dev ≠ stSAFE → u.tick = s.tick))

/-- Slot writes are staged and land only at boundaries, in the fixed order (R23, R25, R26). -/
def Obligations.SlotsCommitInWriterOrder : Prop :=
  ∀ (s t : State) (writing : Bool) (otpBad : List Nat), s.dev = stRUN ∨ s.dev = stSAFE → s.letters.half = none →
    s.warm.phase = .none →
    (∀ n, s.openBoundary.slot n = slotAtBoundary s n) ∧
    (s.letters.waiting = [] → exec (.tickBoundary writing otpBad) s = .next t → ∀ n, t.slot n = slotAtBoundary s n)

/-- Arrival at the command queue (R132), in the order of grants (R336). -/
def Obligations.LetterArrival : Prop :=
  ∀ (s : State) (o : Origin) (b : List Byte) (wait e : Nat), o.port < 2 → (s.atEdge e).portRuns o.port = true →
    (s.atEdge e).isDup o true = false → (s.hasBaton = true → o.port = s.holder) → s.evr.queue.length + 4 < 256 →
    s.net.held = [] →
    ∃ t, exec (.letterReceive o b wait e) s = .next t ∧ LetterFrame (letterRegs o.port) (s.atEdge e) t ∧
      t.reg (R.ARB_WAITCNT 2) = satAdd (s.reg (R.ARB_WAITCNT 2)) wait ∧
      t.reg (R.NET_RXCNT o.port) = satAdd (s.reg (R.NET_RXCNT o.port)) 1 ∧
      if b.length < 152 then
        Refused (s.atEdge e) t o 1 0 (readableId b) ∧ t.letters.queue = s.letters.queue ∧
          t.reg R.SEAL_BUSYCNT = s.reg R.SEAL_BUSYCNT
      else if uAt b 0 2 ≠ 1 ∨ uAt b 6 2 ≠ 0 ∨ uAt b 12 4 ≠ 0 ∨ b.length ≠ 88 + uAt b 8 4 + 64 then
        Refused (s.atEdge e) t o 2 0 (readableId b) ∧ t.letters.queue = s.letters.queue ∧
          t.reg R.SEAL_BUSYCNT = s.reg R.SEAL_BUSYCNT
      else if 64 ≤ s.queueDepth then
        Refused (s.atEdge e) t o 8 0 (letterId (letterOf o b)) ∧ t.letters.queue = s.letters.queue ∧
          t.reg R.SEAL_BUSYCNT = satAdd (s.reg R.SEAL_BUSYCNT) 1
      else
        t.letters = { s.letters with
            queue := grantInsert (fun x => portReq x.org.port x.at_) ⟨o, b, s.edgeBase + e, false⟩ s.letters.queue } ∧
          t.reg R.SEAL_REFCNT = s.reg R.SEAL_REFCNT ∧ t.reg R.SEAL_LAST = s.reg R.SEAL_LAST

/-- The order of the checks (R133), which of them consume a SEQ (R130), and the wait for the standby result (R523). That a
letter whose path lost the baton while it was queued is discarded is the model's reading of R525, log 46. -/
def Obligations.LetterVerification : Prop :=
  ∀ (s : State) (e : Nat),
    (∃ t, exec (.letterVerify e) s = .next t) ∧
    (s.letters.queue = [] → exec (.letterVerify e) s = .next (s.atEdge e)) ∧
    (∀ a r, s.letters.queue = a :: r → s.evr.queue.length + 4 < 256 →
      ∃ t, exec (.letterVerify e) s = .next t ∧ t.letters.queue = r ∧ t.letters.counters = s.letters.counters ∧
        t.letters.waiting = s.letters.waiting ∧
        let l := letterOf a.org a.bytes
        let u : State := { s.atEdge e with letters := { s.letters with queue := r } }
        match u.earlyFail (u.highMark l.keyslot) l with
        | some n =>
          t.letters.writing = s.letters.writing ∧ t.letters.awaiting = s.letters.awaiting ∧
            Refused u t l.org (earlyCode n) 0 (letterId l)
        | none =>
          match u.laterSteps l with
          | .pass =>
            let w : Await := ⟨l, a.at_, if a.solo then some .pass else none⟩
            let writes := fun v => t.letters.writing = s.letters.writing ++ [⟨l, v, false⟩] ∧ t.letters.awaiting = []
            let solo := t.reg R.BATON_SOLO = satAdd (s.reg R.BATON_SOLO) 1
            t.reg R.SEAL_REFCNT = s.reg R.SEAL_REFCNT ∧
            if s.hasBaton = true ∧ l.org.port ≠ s.holder then
              t.letters = { s.letters with queue := r } ∧ t.reg R.BATON_ORPHAN = satAdd (s.reg R.BATON_ORPHAN) 1
            else
              exec (.letterVerify e) s = exec (.batonSkewTimeout e)
                { s with letters := { s.letters with queue := r, awaiting := s.letters.awaiting ++ [w] } } ∧
              (s.letters.awaiting = [] →
                if s.hasBaton = false ∨ a.solo = true then writes .pass
                else match s.resultFor l with
                  | some h => if agrees l h then writes .pass else writes (.refuse rfBADSEAL 0) ∧
                      t.reg R.BATON_MISMATCH = satAdd (s.reg R.BATON_MISMATCH) 1
                  | none =>
                    if s.standbyAlive = false then writes .pass
                    else if a.at_ + s.skew ≤ s.edgeBase + e then writes .pass ∧ solo
                    else t.letters.writing = s.letters.writing ∧ t.letters.awaiting = [w])
          | v => t.letters.writing = s.letters.writing ++ [⟨l, v, false⟩] ∧ t.letters.awaiting = s.letters.awaiting ∧
              t.reg R.SEAL_REFCNT = s.reg R.SEAL_REFCNT)

/-- The counter takes SEQ before the letter takes effect (R131); a write of the recorder that the ENVM port has taken ends
first, and the calibration writes that waited are deferred (R338). -/
def Obligations.CounterWriteFinishes : Prop :=
  ∀ (s : State) (wait e : Nat),
    (s.letters.writing = [] ∨ (∃ n, s.integ.envmNext = some n ∧ n ≠ 3 ∧ s.envmPending n = true) →
      exec (.counterWriteDone wait e) s = .next (s.atEdge e)) ∧
    (∀ v r, s.letters.writing = v :: r → s.wf = true → v.letter.keyslot < 4 → s.evr.queue.length + 4 < 256 →
      (∀ n, s.integ.envmNext = some n → n = 3 ∨ s.envmPending n = false) →
      ∃ t, exec (.counterWriteDone wait e) s = .next t ∧ t.letters.writing = r ∧
        t.letters.queue = s.letters.queue ∧ t.letters.awaiting = s.letters.awaiting ∧
        t.letters.counters.getD v.letter.keyslot 0 =
          BitVec.ofNat 64 (max (s.letters.counters.getD v.letter.keyslot 0).toNat v.letter.seq) ∧
        (∀ k, k ≠ v.letter.keyslot → t.letters.counters.getD k 0 = s.letters.counters.getD k 0) ∧
        t.reg (R.ARB_WAITCNT 0) = satAdd (s.reg (R.ARB_WAITCNT 0)) wait ∧
        t.reg R.ARB_DEFERCNT = satAdd (s.reg R.ARB_DEFERCNT) (s.ana.writes.filter (fun w => !w.deferred)).length ∧
        t.ana.writes = s.ana.writes.map (fun w => { w with deferred := true }) ∧
        t.integ.envmNext = [2, 3, 5].find? t.envmPending ∧
        match v.verdict with
        | .pass => t.letters.waiting = s.letters.waiting ++ [(v.letter, s.edgeBase + e)] ∧
            t.reg R.SEAL_REFCNT = s.reg R.SEAL_REFCNT
        | .refuse code detail => t.letters.waiting = s.letters.waiting ∧
            Refused { s.atEdge e with letters := { t.letters with runs := s.letters.runs } } t v.letter.org code detail
              (letterId v.letter)
        | .drop => t.letters.waiting = s.letters.waiting ∧ t.reg R.SEAL_REFCNT = s.reg R.SEAL_REFCNT)

/-- The end of a refusal run (R135), and of the wait for a standby result (R523). -/
def Obligations.RunsAndWaitsEnd : Prop :=
  (∀ (s : State) (code port : Nat) (r : RefusalRun), port < 2 → s.room 1 →
    s.letters.runs.find? (fun r => r.code == code && r.port == port) = some r →
    ∃ t, exec (.refusalRunClose code port) s = .next t ∧
      AlsoEvents [] { s with letters := t.letters } t ∧
      t.letters = { s.letters with runs := s.letters.runs.filter (fun x => !(x.code == code && x.port == port)) } ∧
      (r.joined = 0 → t.evr = s.evr) ∧
      (r.joined ≠ 0 → LastEvent t 0x3001 noSource (BitVec.ofNat 32 code) (BitVec.ofNat 32 (r.typ * 256 + r.keyslot))
        (BitVec.ofNat 32 r.seq) (satWord r.joined))) ∧
  (∀ (s : State) (code port : Nat), port < 2 →
    s.letters.runs.find? (fun r => r.code == code && r.port == port) = none →
    exec (.refusalRunClose code port) s = .next s) ∧
  (∀ (s : State) (w : Await) (e : Nat), s.letters.awaiting = [w] → w.go = none → s.standbyAlive = true →
    s.resultFor w.letter = none → w.at_ + s.skew ≤ s.edgeBase + e →
    ∃ t, exec (.batonSkewTimeout e) s = .next t ∧ t.letters = { s.letters with
        awaiting := [], writing := s.letters.writing ++ [⟨w.letter, .pass, false⟩] } ∧
      t.reg R.BATON_SOLO = satAdd (s.reg R.BATON_SOLO) 1 ∧
      OnlyRegs [R.BATON_SOLO] { s.atEdge e with letters := t.letters, net := t.net } t)

/-- A committed RUN letter (R251). -/
def Obligations.RunStartsLanes : Prop :=
  ∀ (b s : State) (l : Letter), s.wf = true → CommitsAt b s { l with typ := ltRUN } →
    ∃ t, exec (.run l) b = .next t ∧ Committed s t { l with typ := ltRUN } ∧
      AlsoEvents commitRegs { s with arch := { s.arch with lanes := t.arch.lanes } } t ∧
      (∀ k ∈ letterLanes { l with typ := ltRUN },
        (t.lane k).state = lnRUN ∧ Entered s t k 0 ∧ (t.lane k).stepCnt = 1 ∧ (t.lane k).faultCause = 0 ∧
          (t.lane k).holdPend = false ∧
          ∃ g ∈ (letterBody { l with typ := ltRUN }).1, tagNat g 1 = k ∧ (t.lane k).recipe = tagNat g 2 ∧
            (t.lane k).params = s.runParams (tagNat g 2) (groupPairs g)) ∧
      ∀ k, k ∉ letterLanes { l with typ := ltRUN } → t.lane k = s.lane k

/-- Committed HOLD and RESUME letters (R240 to R242). -/
def Obligations.HoldAndResumeLanes : Prop :=
  (∀ (b s : State) (l : Letter), CommitsAt b s { l with typ := ltHOLD } →
    ∃ t, exec (.hold l) b = .next t ∧ Committed s t { l with typ := ltHOLD } ∧
      AlsoEvents (commitRegs ++ lanesRegs) { s with arch := { s.arch with lanes := t.arch.lanes } } t ∧
      (∀ k ∈ letterLanes { l with typ := ltHOLD },
        if (s.lane k).exit = none ∧ (s.laneStep k).atExit = true then
          t.lane k = { s.lane k with holdPend := true }
        else
          (t.lane k).state = lnHOLD ∧ (t.lane k).heldAt = s.now ∧ (t.lane k).step = (s.lane k).step ∧
            (t.lane k).next = (match (s.lane k).exit with | some x => some x.target | none => (s.lane k).next)) ∧
      ∀ k, k ∉ letterLanes { l with typ := ltHOLD } → t.lane k = s.lane k) ∧
  (∀ (b s : State) (l : Letter), CommitsAt b s { l with typ := ltRESUME } →
    ∃ t, exec (.resume l) b = .next t ∧ Committed s t { l with typ := ltRESUME } ∧
      AlsoEvents (commitRegs ++ lanesRegs) { s with arch := { s.arch with lanes := t.arch.lanes } } t ∧
      (∀ k ∈ letterLanes { l with typ := ltRESUME },
        ((s.lane k).state = lnRUN → t.lane k = { s.lane k with holdPend := false }) ∧
        ((s.lane k).state = lnHOLD → (s.lane k).next = none → (t.lane k).state = lnRUN ∧
          (t.lane k).heldFor = (s.lane k).heldFor + (s.now - (s.lane k).heldAt) ∧ (t.lane k).step = (s.lane k).step) ∧
        (∀ g, (s.lane k).state = lnHOLD → (s.lane k).next = some g →
          (g = endDONE → (t.lane k).state = lnDONE ∧ (t.lane k).endCode = 1) ∧
          (g = endFAULT → (t.lane k).state = lnFAULT ∧ (t.lane k).faultCause = 1) ∧
          (g ≠ endDONE → g ≠ endFAULT → g ≠ endABORT → (t.lane k).state = lnRUN ∧ Entered s t k g))) ∧
      ∀ k, k ∉ letterLanes { l with typ := ltRESUME } → t.lane k = s.lane k)

/-- Committed ABORT and PARAMSET letters (R227, R243). -/
def Obligations.AbortAndParamset : Prop :=
  (∀ (b s : State) (l : Letter), CommitsAt b s { l with typ := ltABORT } →
    ∃ t, exec (.abort l) b = .next t ∧ Committed s t { l with typ := ltABORT } ∧
      AlsoEvents (commitRegs ++ lanesRegs ++ (List.range 8).map R.SEQ_FALSESTART)
        { s with arch := { s.arch with lanes := t.arch.lanes } } t ∧
      (∀ k ∈ letterLanes { l with typ := ltABORT },
        ((s.lane k).state = lnRUN ∨ (s.lane k).state = lnHOLD →
          match s.abortStep? k with
          | none => (t.lane k).state = lnDONE ∧ (t.lane k).endCode = 2
          | some a => (t.lane k).state = lnABORTING ∧ (t.lane k).abortSeq = true ∧ (t.lane k).abortTe = s.now ∧
              Entered s t k a) ∧
        ((s.lane k).state = lnDONE ∨ (s.lane k).state = lnFAULT → (t.lane k).state = lnIDLE) ∧
        ((s.lane k).state = lnIDLE ∨ (s.lane k).state = lnABORTING → t.lane k = s.lane k)) ∧
      ∀ k, k ∉ letterLanes { l with typ := ltABORT } → t.lane k = s.lane k) ∧
  (∀ (b s : State) (l : Letter) (fin : Nat), CommitsAt b s { l with typ := ltPARAMSET } →
    ∃ t, exec (.paramset l fin) b = .next t ∧ Committed s t { l with typ := ltPARAMSET } ∧
      AlsoEvents (commitRegs ++ lanesRegs) { s with arch := { s.arch with lanes := t.arch.lanes } } t ∧
      (∀ k ∈ letterLanes { l with typ := ltPARAMSET },
        (t.lane k).params = ((letterBody { l with typ := ltPARAMSET }).1.filter (fun g => tagNat g 1 == k)).foldl
          (fun q g => (groupPairs g).foldl (fun q x => modifyAt q x.1 (fun _ => x.2)) q) (s.lane k).params ∧
        t.lane k = { s.lane k with params := (t.lane k).params, paramAt := (t.lane k).paramAt } ∧
        (s.lane k).paramAt <+: (t.lane k).paramAt ∧
        (∀ x ∈ (t.lane k).paramAt.drop (s.lane k).paramAt.length, x.2 = fin) ∧
        ∀ i, i < 16 → (t.lane k).params.getD i 0 ≠ (s.lane k).params.getD i 0 → (i, fin) ∈ (t.lane k).paramAt) ∧
      ∀ k, k ∉ letterLanes { l with typ := ltPARAMSET } → t.lane k = s.lane k)

/-- Letters that change the device state (R57). SLEEP, and a RELOAD that leads to LOAD or to a restart, are not
answered, since their commit stops the ports (log 50). -/
def Obligations.DeviceStateLetters : Prop :=
  ∀ (b s : State) (l : Letter),
    (CommitsAt b s { l with typ := ltSTART } →
      ∃ t, exec (.start l) b = .next t ∧ Committed s t { l with typ := ltSTART } ∧
        t = { s with
          regs := t.regs, out := t.out, arch := t.arch, staged := t.staged, free := t.free, ana := t.ana, dio := t.dio,
          can := t.can, safe := t.safe, power := { s.power with safeDue := t.power.safeDue },
          evr := { s.evr with queue := t.evr.queue, lost := t.evr.lost, windows := t.evr.windows },
          net := { s.net with prpSeq := t.net.prpSeq } } ∧
        t.arch.slots = s.arch.slots ∧ t.arch.cells = s.arch.cells ∧
        (if s.reg R.DEV_FAILED = 0 ∧ s.reg R.DEV_FAILED2 = 0 then
          t.dev = stRUN ∧ t.cause = 0 ∧ t.arch = { s.arch with stride := t.arch.stride } ∧
            ∀ a, a ∉ entryRegs ++ commitRegs ++ eventRegs → t.reg a = s.reg a
        else t.dev = stSAFE ∧ t.cause = 1)) ∧
    (CommitsAt b s { l with typ := ltCLEARSAFE } →
      ∃ t, exec (.clearsafe l) b = .next t ∧ Committed s t { l with typ := ltCLEARSAFE } ∧ t.dev = stRUN ∧ t.cause = 0 ∧
        AlsoEvents (entryRegs ++ commitRegs) { s with
          power := { s.power with safeDue := 0 }, ana := t.ana, dio := t.dio, can := t.can,
          arch := { s.arch with stride := t.arch.stride } } t) ∧
    (∀ w, CommitsAt b s { l with typ := ltRELOAD } → s.dev = stHALT →
      ∃ t, exec (.reload l w) b = .next t ∧ Committed s t { l with typ := ltRELOAD } ∧ t.dev = stLOAD ∧ t.cause = 0 ∧
        t.letters = { s.letters with series := none } ∧ t.net.held = [] ∧
        t.net.ports = s.net.ports.map (fun q => { restartHb := q.restartHb }) ∧
        t = { s with
          regs := t.regs, out := t.out, ana := t.ana, dio := t.dio, can := t.can, letters := t.letters, net := t.net,
          evr := { s.evr with queue := t.evr.queue, lost := t.evr.lost, windows := t.evr.windows } } ∧
        ∀ a, a ∉ R.BATON_STAT :: entryRegs ++ commitRegs ++ eventRegs → t.reg a = s.reg a) ∧
    (∀ w, CommitsAt b s { l with typ := ltRELOAD } → s.dev ≠ stHALT → s.warm.phase = .none →
      (∀ r, s.warm.released = some r → r + 1000 * edgesPerMs ≤ s.now) → s.room 3 →
      ∃ t, exec (.reload l w) b = .next t ∧ ∃ u, Committed s u { l with typ := ltRELOAD } ∧ AlsoEvents commitRegs s u ∧
        AtT0 u t 0x400 true) ∧
    (CommitsAt b s { l with typ := ltSLEEP } →
      ∃ t, exec (.sleep l) b = .next t ∧ ∃ u, Committed s u { l with typ := ltSLEEP } ∧ AlsoEvents commitRegs s u ∧
        InKeep u t 0 false ∧ t.power.wakeNeeded = true ∧ t.power.en = s.power.en ∧ t.power.vin = s.power.vin)

/-- Committed CELLMODE and SNAPPOLICY letters (R178, R334). A CELLMODE letter names a cell once (R127); manual values for a
cell that is in MANUAL with nothing pending stand at once (R179). -/
def Obligations.CellmodeAndSnappolicy : Prop :=
  ∀ (b s : State) (l : Letter),
    (s.wf = true → CommitsAt b s { l with typ := ltCELLMODE } →
      let gs := (letterBody { l with typ := ltCELLMODE }).1
      ∃ t, exec (.cellmode l) b = .next t ∧ Committed s t { l with typ := ltCELLMODE } ∧
        AlsoEvents (commitRegs ++ gs.flatMap (fun g =>
            [R.CELL_STAT (tagNat g 1), R.CELL_FETIME (tagNat g 1)] ++ (List.range 4).map (R.CELL_MANOUT (tagNat g 1))))
          { s with arch := { s.arch with cells := t.arch.cells } } t ∧
        ∀ n, (gs.filter (fun g => tagNat g 1 == n) = [] → t.cellX n = s.cellX n) ∧
          ∀ g, gs.filter (fun g => tagNat g 1 == n) = [g] →
            let manual := (tagIn g 3).map (fun x => wordsOf x.val)
            (t.cellX n).held = [] ∧ t.bitOf (R.CELL_STAT n) 10 = false ∧
            (s.bitOf (R.CELL_STAT n) 10 = true → (t.cellX n).tripped = false ∧ t.reg (R.CELL_FETIME n) = 0) ∧
            if s.bitOf (R.CELL_STAT n) 10 = true ∨ (s.cellX n).pending ≠ none ∨ tagNat g 2 ≠ s.cellMode n then
              (t.cellX n).pending = some ⟨tagNat g 2, manual⟩ ∧ ∀ i, i < 4 → t.reg (R.CELL_MANOUT n i) = s.reg (R.CELL_MANOUT n i)
            else (t.cellX n).pending = none ∧ ∀ i, i < 4 → t.reg (R.CELL_MANOUT n i) = (match manual with
              | some m => m.getD i 0
              | none => s.reg (R.CELL_MANOUT n i))) ∧
    (CommitsAt b s { l with typ := ltSNAPPOLICY } →
      ∃ t, exec (.snappolicy l) b = .next t ∧ Committed s t { l with typ := ltSNAPPOLICY } ∧
        t.reg R.SNAP_POLICY = BitVec.ofNat 32 (tagNat (bodyGroup { l with typ := ltSNAPPOLICY }) 1) ∧
        t.reg R.SNAP_PHASE = BitVec.ofNat 32 (tagNat (bodyGroup { l with typ := ltSNAPPOLICY }) 2) ∧
        AlsoEvents (R.SNAP_POLICY :: R.SNAP_PHASE :: commitRegs) s t)

/-- Committed MOVE and HOME letters (R426, R427). -/
def Obligations.MoveAndHome : Prop :=
  ∀ (b s : State) (l : Letter), s.wf = true →
    (CommitsAt b s { l with typ := ltMOVE } →
      ∃ t, exec (.move l) b = .next t ∧ Committed s t { l with typ := ltMOVE } ∧
        AlsoEvents commitRegs { s with arch := { s.arch with axes := t.arch.axes } } t ∧
        ∀ n, n < 64 → t.axis n = { s.axis n with
          cmds := (s.axis n).cmds ++ ((letterBody { l with typ := ltMOVE }).1.map s.moveCmdOf).filter (fun c => c.axis == n) }) ∧
    (CommitsAt b s { l with typ := ltHOME } →
      let ns := (letterBody { l with typ := ltHOME }).1.map (fun g => tagNat g 1)
      ∃ t, exec (.home l) b = .next t ∧ Committed s t { l with typ := ltHOME } ∧
        AlsoEvents (commitRegs ++ ns.flatMap (fun n =>
          [R.AXIS_EVT n, R.AXIS_DROPCNT n]) ++ (List.range 21).map R.ENC_STAT)
          { s with arch := { s.arch with axes := t.arch.axes } } t ∧
        (∀ n ∈ ns, n < 64 → (t.axis n).st = axHOMING ∧ (t.axis n).hstep = 1 ∧ (t.axis n).homed = false ∧
          (t.axis n).queue = [] ∧ (t.axis n).cmds = [] ∧ (t.axis n).active = false ∧ t.fldOf (R.AXIS_EVT n) 6 0 = 0) ∧
        ∀ n, n < 64 → n ∉ ns → t.axis n = s.axis n)

/-- CALIBRATE and the end of its write (R365, R368), which no write of another class may overtake (R338). -/
def Obligations.Calibration : Prop :=
  ∀ (b s : State),
    (∀ l, CommitsAt b s { l with typ := ltCALIBRATE } →
      let items := (letterBody { l with typ := ltCALIBRATE }).1.map calItemOf
      let ws := items.flatMap CalItem.words
      ∃ t, exec (.calibrate l) b = .next t ∧ Committed s t { l with typ := ltCALIBRATE } ∧
        AlsoEvents (R.ANA_CALSTAT :: ws.map (·.1) ++ commitRegs) { s with ana := { s.ana with
          calAt := s.now, calPrev := t.ana.calPrev
          writes := s.ana.writes ++ [⟨items.length, l.seq, ws, false, false⟩] } } t ∧
        (s.ana.calAt ≠ s.now → ∀ a ∈ ws.map (·.1), tabFind t.ana.calPrev a = some (s.reg a)) ∧
        t.reg R.ANA_CALSTAT = s.reg R.ANA_CALSTAT ||| 1 ∧
        ∀ a ∈ ws.map (·.1), (ws.filter (fun x => x.1 == a)).getLast?.map (·.2) = some (t.reg a)) ∧
    (∀ ok wait, s.ana.writes = [] ∨ (∃ n, s.integ.envmNext = some n ∧ n ≠ 5 ∧ s.envmPending n = true) →
      exec (.calibrationWriteDone ok wait) s = .next s) ∧
    ∀ w r wait, s.ana.writes = w :: r → (∀ n, s.integ.envmNext = some n → n = 5 ∨ s.envmPending n = false) →
      let waits := [R.ARB_WAITCNT 0, R.ARB_WAITMAX 0]
      (w.failed = false → ∃ t, exec (.calibrationWriteDone false wait) s = .next t ∧
        OnlyRegs waits { s with
          ana := { s.ana with writes := { w with failed := true } :: r }, integ := t.integ, power := t.power } t ∧ PortFree s t) ∧
      (w.failed = true → s.room 1 → ∃ t, exec (.calibrationWriteDone false wait) s = .next t ∧
        AlsoEvents (R.ANA_CALSTAT :: waits)
          { s with ana := { s.ana with writes := r }, integ := t.integ, power := t.power } t ∧ PortFree s t ∧
        t.bitOf R.ANA_CALSTAT 1 = true ∧ t.bitOf R.ANA_CALSTAT 0 = (s.bitOf R.ANA_CALSTAT 0 && !r.isEmpty) ∧
        LastEvent t 0xC202 noSource 0 0 0 0) ∧
      (s.room 1 → s.wf = true → ∃ t, exec (.calibrationWriteDone true wait) s = .next t ∧
        AlsoEvents (R.ANA_CALSTAT :: R.ANA_CALCNT :: R.ANA_CALSRC0 :: R.ANA_CALSRC1 :: waits)
          { s with ana := { s.ana with writes := r, envm := t.ana.envm }, integ := t.integ, power := t.power } t ∧
        PortFree s t ∧
        t.reg R.ANA_CALCNT = satAdd (s.reg R.ANA_CALCNT) 1 ∧
        t.bitOf R.ANA_CALSTAT 0 = (s.bitOf R.ANA_CALSTAT 0 && !r.isEmpty) ∧
        (∀ i, i < 32 → t.bitOf R.ANA_CALSRC0 i = (s.bitOf R.ANA_CALSRC0 i ||
          w.words.any (fun x => decide (x.1 < 0x310000) && (x.1 - 0x300000) / 0x1000 == i))) ∧
        (∀ i, i < 32 → t.bitOf R.ANA_CALSRC1 i = (s.bitOf R.ANA_CALSRC1 i ||
          w.words.any (fun x => decide (0x310000 ≤ x.1) && (x.1 - 0x310400) / 16 == i))) ∧
        (∀ a, tabGet regReset t.ana.envm a = ((w.words.filter (fun x => x.1 == a)).getLast?.map (·.2)).getD
          (tabGet regReset s.ana.envm a)) ∧
        LastEvent t 0xC201 noSource (BitVec.ofNat 32 w.items) (BitVec.ofNat 32 w.seq) 0 0)

/-- Committed STORE and CLEARLOG letters (R140, R609). Erased flash reads 0xFF (log 7). -/
def Obligations.StoreAndClearlog : Prop :=
  ∀ (b s : State) (l : Letter), s.wf = true →
    (∀ op, op < 3 →
      let m : Letter := { l with typ := ltSTORE, body := l.body.set 5 (BitVec.ofNat 8 op) }
      let g := bodyGroup m
      let slot := tagNat g 1 % 256
      let off := if op = 1 then tagNat g 2 else 0
      let data := match tagIn g 3 with | some x => x.val | none => []
      let c := if op = 0 then Instr.storeBegin l else if op = 1 then .storeData l else .storeFinish l
      let next := if op = 0 then some (slot, 256) else if op = 1 then some (slot, off + data.length) else none
      CommitsAt b s m → storeOp g = op →
      ∃ t, exec c b = .next t ∧ Committed s t m ∧
        AlsoEvents commitRegs { s with
          flash := { s.flash with bytes := t.flash.bytes }, letters := { s.letters with series := next } } t ∧
        ∀ a, tabGet (fun _ => (0xFF : Byte)) t.flash.bytes a =
          if op = 0 then
            (if s.slotBase slot ≤ a ∧ a < s.slotBase slot + s.slotSize then 0xFF else tabGet (fun _ => 0xFF) s.flash.bytes a)
          else if s.slotBase slot + off ≤ a ∧ a < s.slotBase slot + off + data.length then
            data.getD (a - (s.slotBase slot + off)) 0
          else tabGet (fun _ => 0xFF) s.flash.bytes a) ∧
    (CommitsAt b s { l with typ := ltCLEARLOG } → s.room 2 →
      ∃ t n, exec (.clearlog l) b = .next t ∧ Committed s t { l with typ := ltCLEARLOG } ∧
        s.evr.clearCount (tagNat (bodyGroup { l with typ := ltCLEARLOG }) 1) = some n ∧
        AlsoEvents commitRegs { s with evr := { s.evr with main := (s.evr.clear n).main } } t ∧
        LastEvent t 0x6002 noSource (BitVec.ofNat 32 n) (BitVec.ofNat 32 l.keyslot) (BitVec.ofNat 32 l.seq) s.tickLo)

/-- Committed TIME_RESTEP, REGWRITE and PWRSTAGE letters (R548, R139, R48). -/
def Obligations.RestepRegwritePwrstage : Prop :=
  ∀ (b s : State) (l : Letter),
    (CommitsAt b s { l with typ := ltTIMERESTEP } →
      let g := bodyGroup { l with typ := ltTIMERESTEP }
      ∃ t, exec (.timeRestep l) b = .next t ∧ Committed s t { l with typ := ltTIMERESTEP } ∧
        AlsoEvents (R.TIME_STAT :: R.TIME_STEPS :: R.TIME_UTCOFS ::
            (List.range 4).flatMap (fun n => [R.TPO_CTRL n, R.TPO_STAT n]) ++ commitRegs) { s with time := t.time } t ∧
        (g = [] → t.bitOf R.TIME_STAT 5 = true) ∧
        (match tagIn g 1 with
          | some x => t.nsAt t.now = uAt x.val 0 8 * nsPerSec + uAt x.val 8 4 ∧ t.timeValid = true ∧
              t.reg R.TIME_STEPS = satAdd (s.reg R.TIME_STEPS) 1
          | none => t.time = s.time ∧ t.reg R.TIME_STEPS = s.reg R.TIME_STEPS) ∧
        t.reg R.TIME_UTCOFS = (match tagIn g 2 with | some x => BitVec.ofNat 32 x.u | none => s.reg R.TIME_UTCOFS)) ∧
    (∀ x, CommitsAt b s { l with typ := ltREGWRITE } → tagIn (bodyGroup { l with typ := ltREGWRITE }) 1 = some x →
      ∃ t, exec (.regwrite l) b = .next t ∧ ∃ u, Committed s u { l with typ := ltREGWRITE } ∧ AlsoEvents commitRegs s u ∧
        t = (pairsOf x.val).foldl (fun v p => v.writeReg l.org.port true p.1 p.2) u) ∧
    (CommitsAt b s { l with typ := ltPWRSTAGE } →
      ∃ t, exec (.pwrstage l) b = .next t ∧ Committed s t { l with typ := ltPWRSTAGE } ∧
        AlsoEvents commitRegs { s with power := { s.power with
          record := some (BitVec.ofNat 32 (tagNat (bodyGroup { l with typ := ltPWRSTAGE }) 1)) } } t)

/-- Committed SAFEAUTH, LIFECYCLE, KEYSET and KEYREVOKE letters. -/
def Obligations.SafeauthLifecycleAndKeys : Prop :=
  ∀ (b s : State) (l : Letter), s.room 2 →
    (CommitsAt b s { l with typ := ltSAFEAUTH } →
      let g := bodyGroup { l with typ := ltSAFEAUTH }
      ∃ t, exec (.safeauth l) b = .next t ∧ Committed s t { l with typ := ltSAFEAUTH } ∧
        AlsoEvents (R.SAFE_STAT :: R.ARB_DEFERCNT :: (List.range 16).map R.SAFE_PHASH ++ commitRegs) { s with safe := { s.safe with
          password := t.safe.password, pwCount := t.safe.pwCount, authSeq := t.safe.authSeq } } t ∧
        t.reg R.ARB_DEFERCNT = satAdd (s.reg R.ARB_DEFERCNT) (if t.envmPending 2 || t.envmPending 3 then
          (tagIn g 1).isSome.toNat + (tagIn g 3).isSome.toNat else 0) ∧
        (match tagIn g 1 with
          | some x => (∀ i, i < 16 → t.reg (R.SAFE_PHASH i) = wAt x.val (4 * i)) ∧ t.bitOf R.SAFE_STAT 8 = true ∧
              t.safe.authSeq = l.seq
          | none => (∀ i, i < 16 → t.reg (R.SAFE_PHASH i) = s.reg (R.SAFE_PHASH i)) ∧ t.safe.authSeq = s.safe.authSeq) ∧
        match tagIn g 3 with
        | some x => t.safe.pwCount = (s.safe.pwCount + 1) % 2 ^ 32 ∧
            t.safe.password = some (sha512 (t.nextSalt ++ x.val), t.nextSalt) ∧ t.bitOf R.SAFE_STAT 9 = true ∧
            LastEvent t 0x7081 noSource (BitVec.ofNat 32 t.safe.pwCount) (BitVec.ofNat 32 l.keyslot)
              (BitVec.ofNat 32 l.seq) 0
        | none => t.safe.pwCount = s.safe.pwCount ∧ t.safe.password = s.safe.password) ∧
    (CommitsAt b s { l with typ := ltLIFECYCLE } →
      let n := tagNat (bodyGroup { l with typ := ltLIFECYCLE }) 1
      ∃ t, exec (.lifecycle l) b = .next t ∧ Committed s t { l with typ := ltLIFECYCLE } ∧ t.life = n ∧
        AlsoEvents (R.SEAL_LIFE :: (if n = 4 then aonRegs else []) ++ commitRegs) { s with power := { s.power with
          saved := if n = 4 then [0, 0, 0, 0] ++ s.power.saved.drop 4 else s.power.saved } } t ∧ (n = 4 → ∀ a ∈ aonRegs, t.reg a = 0)) ∧
    (∀ good, CommitsAt b s { l with typ := ltKEYSET } →
      let g := bodyGroup { l with typ := ltKEYSET }
      ∃ t x, exec (.keyset l good) b = .next t ∧ Committed s t { l with typ := ltKEYSET } ∧ tagIn g 3 = some x ∧
        AlsoEvents commitRegs { s with letters := { s.letters with
          keys := modifyAt s.letters.keys (tagNat g 1) (fun o =>
            { hash := (sha512 x.val).take 32, mask := tagNat g 2, programmed := true, revoked := !good || o.revoked }),
          counters := modifyAt s.letters.counters (tagNat g 1) (fun _ => 0) } } t ∧
        (good = false → LastEvent t 0x3003 noSource 0 0 0 0)) ∧
    (CommitsAt b s { l with typ := ltKEYREVOKE } →
      ∃ t, exec (.keyrevoke l) b = .next t ∧ Committed s t { l with typ := ltKEYREVOKE } ∧
        AlsoEvents commitRegs { s with letters := { s.letters with
          keys := modifyAt s.letters.keys (tagNat (bodyGroup { l with typ := ltKEYREVOKE }) 1)
            (fun k => { k with revoked := true }) } } t)

/-- Committed BIST and FUSE letters (R634, R633). -/
def Obligations.BistAndFuse : Prop :=
  ∀ (b s : State) (l : Letter),
    (CommitsAt b s { l with typ := ltBIST } →
      let mask := tagNat (bodyGroup { l with typ := ltBIST }) 1
      ∃ t, exec (.bist l) b = .next t ∧ Committed s t { l with typ := ltBIST } ∧ t.dev = stTEST ∧ t.cause = 0 ∧
        t = { s with
          regs := t.regs, out := t.out, arch := t.arch, staged := [], counting := false, ticked := none, ckpts := [],
          warm := t.warm, ana := t.ana, dio := t.dio, can := t.can, safe := t.safe, net := t.net,
          evr := { s.evr with queue := t.evr.queue, lost := t.evr.lost, windows := t.evr.windows },
          integ := { s.integ with bist := some mask }, dram := if mask.testBit 1 then [] else s.dram } ∧
        t.net.ports = s.net.ports.map (fun q => { restartHb := q.restartHb }) ∧ t.warm.phase = .none ∧ t.arch.slots = s.arch.slots ∧ t.arch.lanes = s.arch.lanes ∧
        (s.hasIsland = true → s.istate ≠ islFAULT → t.istate = islBOOT) ∧
        (∀ i, i < 256 → t.reg (R.BIST_RES i) = 0) ∧ t.reg R.BIST_STAT = 2 ∧ t.reg R.BIST_FAILCNT = 0 ∧
        ∀ a, a ∉ R.BATON_STAT :: R.SAFE_STAT :: testRegs ++ entryRegs ++ commitRegs ++ eventRegs → t.reg a = s.reg a) ∧
    (CommitsAt b s { l with typ := ltFUSE } →
      let new := (repairsOf { l with typ := ltFUSE }).map (fun r => (r.inst, r.kind, r.spare, r.addr))
      ∃ t, exec (.fuse l) b = .next t ∧ Committed s t { l with typ := ltFUSE } ∧
        AlsoEvents (R.BIST_FUSEFREE :: commitRegs) { s with
          integ := { s.integ with fuses := s.integ.fuses ++ new } } t ∧
        t.reg R.BIST_FUSEFREE =
          BitVec.ofNat 32 (128 - (t.integ.fuses.filter (fun f => instClass f.1 == 9)).length))

/-- Creation of an event record (R601). -/
def Obligations.EventCreation : Prop :=
  ∀ (s : State) (code source : Nat) (p0 p1 p2 p3 : Word) (wait : Nat),
    ∃ t, exec (.eventCreate code source p0 p1 p2 p3 wait) s = .next t ∧
      AlsoEvents [R.ARB_WAITCNT 3, R.ARB_WAITMAX 3] s t ∧
      let n := s.fldOf R.EVR_NEXTSEQ 23 0
      ∃ r : EvRec, r.code = code ∧ r.source = source % 256 ∧ r.sev = sevOf code ∧ r.opsec = s.reg R.PWR_OPSEC ∧
        r.ms = s.aonMs ∧ r.cycles = s.fldOf R.PWR_CYCLES 19 0 ∧ r.p0 = p0 ∧ r.p1 = p1 ∧ r.p2 = p2 ∧ r.p3 = p3 ∧
        r.flags.testBit 0 = s.evr.frozen ∧ r.flags.testBit 1 = s.evr.degraded ∧
        (s.evr.lost = none → s.evr.queue.length < 256 →
          r.seq = n ∧ t.evr.queue = s.evr.queue ++ [r] ∧ t.evr.lost = none ∧ t.reg R.EVR_LOST = s.reg R.EVR_LOST ∧
            t.reg R.PWR_AONLOST = s.reg R.PWR_AONLOST ∧ t.fldOf R.EVR_NEXTSEQ 23 0 = (n + 1) % 2 ^ 24) ∧
        (∀ l, s.evr.lost = some l → s.evr.queue.length < 255 →
          r.seq = (n + 1) % 2 ^ 24 ∧ t.evr.lost = none ∧ t.fldOf R.EVR_NEXTSEQ 23 0 = (n + 2) % 2 ^ 24 ∧
            ∃ q : EvRec, q.code = 0x6004 ∧ q.seq = n ∧ q.p0 = satWord l.count ∧ q.p1 = satWord l.first ∧
              q.p2 = satWord l.last ∧ t.evr.queue = s.evr.queue ++ [q, r]) ∧
        (∀ l, s.evr.lost = some l → s.evr.queue.length = 255 →
          ∃ q : EvRec, q.code = 0x6004 ∧ t.evr.queue = s.evr.queue ++ [q] ∧
            t.reg R.EVR_LOST = satAdd (s.reg R.EVR_LOST) 1 ∧ t.reg R.PWR_AONLOST = satAdd (s.reg R.PWR_AONLOST) 1) ∧
        (256 ≤ s.evr.queue.length →
          r.seq = n ∧ t.evr.queue = s.evr.queue ∧ t.reg R.EVR_LOST = satAdd (s.reg R.EVR_LOST) 1 ∧
            t.reg R.PWR_AONLOST = satAdd (s.reg R.PWR_AONLOST) 1 ∧ t.fldOf R.EVR_NEXTSEQ 23 0 = (n + 1) % 2 ^ 24 ∧
            t.evr.lost = some (match s.evr.lost with | none => ⟨1, n, n⟩ | some l => ⟨l.count + 1, l.first, n⟩)) ∧
        (∀ p ip udp, p < 2 → s.bitOf R.EVR_CFG 31 = true → s.fldOf R.EVR_CFG 2 0 ≤ sevOf code → s.portRuns p = true →
          s.hostDest p = some (ip, udp) → s.bitOf (R.NET_STAT p) 4 = true →
          ∃ x, Sent.ycp p ip udp 7 (r.seq % 2 ^ 24) x r.bytes ∈ t.out.drop s.out.length)

/-- Rate-limit windows (R708) and the drain of the holding queue to ENVM (R602, R610, R611). -/
def Obligations.WindowsAndLogWrites : Prop :=
  (∀ (s : State) (code scope : Nat),
    (s.window? code scope = none → exec (.eventWindowClose code scope) s = .next s) ∧
    ∀ w, s.window? code scope = some w →
      let rest := s.evr.windows.filter (fun x => !(x.code == code && x.scope == scope))
      (w.carried = 0 → exec (.eventWindowClose code scope) s = .next { s with evr := { s.evr with windows := rest } }) ∧
      (w.carried ≠ 0 → s.room 1 →
        ∃ t, exec (.eventWindowClose code scope) s = .next t ∧ AlsoEvents [] s t ∧
          t.evr.windows = rest ++ [⟨code, scope, 0, w.source, 0, 0, 0, 0⟩] ∧
          if code = 0xE004 ∨ code = 0xE102 then LastEvent t code (w.source % 256) w.p0 w.p1 w.p2 (satWord w.carried)
          else LastEvent t code (w.source % 256) w.p0 (satWord w.carried) w.p2 w.p3)) ∧
  ∀ (s : State) (wait : Nat),
    let port := [R.ARB_WAITCNT 0, R.ARB_WAITMAX 0, R.ARB_DEFERCNT]
    let ends := fun (l : List Nat) (v : Evr) (t : State) =>
      OnlyRegs (l ++ port) { s with
        evr := v, letters := { s.letters with writing := t.letters.writing }, ana := { s.ana with writes := t.ana.writes },
        integ := t.integ, power := t.power } t ∧
      PortAfter 2 s t ∧ t.reg (R.ARB_WAITCNT 0) = satAdd (s.reg (R.ARB_WAITCNT 0)) wait
    (∀ ok, s.evr.frozen = true ∨ s.evr.degraded = true ∨ s.evr.head? = none ∨
        (∃ n, s.integ.envmNext = some n ∧ n ≠ 2 ∧ s.envmPending n = true) →
      exec (.logWriteDone ok wait) s = .next s) ∧
    ∀ r, (∀ n, s.integ.envmNext = some n → n = 2 ∨ s.envmPending n = false) → s.evr.frozen = false → s.evr.degraded = false → s.evr.bypass = [] → s.evr.queue.head? = some r →
      isSafetyCode r.code = false →
      (s.evr.retry = none → ∃ t, exec (.logWriteDone true wait) s = .next t ∧
        ends [R.EVR_WRAPCNT] { s.evr with
          queue := s.evr.queue.drop 1, main := t.evr.main, mainPos := (s.evr.writePos + 1) % 60000, consecFail := 0 } t ∧
        t.evr.main = tabInsert s.evr.main s.evr.writePos r ∧
        t.reg R.EVR_WRAPCNT = (if (tabFind s.evr.main s.evr.writePos).isSome then satAdd (s.reg R.EVR_WRAPCNT) 1
          else s.reg R.EVR_WRAPCNT)) ∧
      (s.evr.consecFail < 2 → ∃ t, exec (.logWriteDone false wait) s = .next t ∧
        ends [R.EVR_MEDIAFAIL, R.EVR_BADSLOTS] { s.evr with
          queue := t.evr.queue, main := tabErase s.evr.main s.evr.writePos, mainBad := s.evr.writePos :: s.evr.mainBad,
          consecFail := s.evr.consecFail + 1, retry := some ⟨32 * s.evr.writePos, s.evr.consecFail + 1⟩ } t ∧
        t.evr.queue = { r with flags := r.flags % 8 + 8 } :: s.evr.queue.drop 1 ∧
        t.reg R.EVR_MEDIAFAIL = satAdd (s.reg R.EVR_MEDIAFAIL) 1) ∧
      (2 ≤ s.evr.consecFail → ∃ t, exec (.logWriteDone false wait) s = .next t ∧ t.evr.degraded = true ∧
        t.evr.mainBad = s.evr.writePos :: s.evr.mainBad ∧ t.reg R.EVR_MEDIAFAIL = satAdd (s.reg R.EVR_MEDIAFAIL) 1 ∧
        t.reg R.PWR_LASTFAULT = 0x6003)

/-- Cursors, window and freeze of the log (R605 to R608). -/
def Obligations.LogCursorsAndFreeze : Prop :=
  (∀ (s u : State) (b : Bulk) (c : Word), s.accept b.org false = (u, true) →
    let bad := Bulk.length b ≠ 0 ∨ Bulk.offset b ≠ 0
    let pos := fld u.evr.netCursor 15 0
    let ends := fun (v : State) (status at_ : Nat) (t : State) =>
      AlsoEvents [] v t ∧ Replied v t b.org 6 (bulkLast status (Bulk.op b) (Bulk.unit b) at_ 0)
    (∃ t, exec (.evrSeek (some b) c) s = .next t ∧
      if bulkFormed b 0x20 = false ∨ bad ∨ 1 < Bulk.unit b then ends u 1 pos t
      else if (if Bulk.unit b = 1 then 4096 else 60000) ≤ Bulk.pos b then ends u 3 pos t
      else ends { u with evr := { u.evr with netCursor := BitVec.ofNat 32 (Bulk.unit b * 2 ^ 31 + Bulk.pos b) } } 0
        (Bulk.pos b) t) ∧
    (∃ t, exec (.evrFreeze (some b)) s = .next t ∧
      if bulkFormed b 0x21 = false ∨ bad ∨ Bulk.unit b ≠ 0 ∨ Bulk.pos b ≠ 0 then ends u 1 pos t
      else ends { u with evr := { u.evr with frozen := true } } 0 pos t) ∧
    (∃ t, exec (.evrUnfreeze (some b)) s = .next t ∧
      if bulkFormed b 0x22 = false ∨ bad ∨ Bulk.unit b ≠ 0 ∨ Bulk.pos b ≠ 0 then ends u 1 pos t
      else ends { u with evr := { u.evr with frozen := false } } 0 pos t)) ∧
  (∀ (s : State) (c : Word),
    exec (.evrSeek none c) s = .next (if s.maintServed ∧ fld c 15 0 < (if bit c 31 then 4096 else 60000) then
      { s with evr := { s.evr with maintCursor := c &&& 0x8000FFFF } } else s) ∧
    exec (.evrFreeze none) s = .next (if s.maintServed then { s with evr := { s.evr with frozen := true } } else s) ∧
    exec (.evrUnfreeze none) s = .next (if s.maintServed then { s with evr := { s.evr with frozen := false } } else s) ∧
    (∃ t, exec .freezeTimeout s = .next t ∧ (s.evr.frozen = false → t = s) ∧ (s.evr.frozen = true →
      OnlyRegs [R.EVR_FRZTMO] { s with evr := { s.evr with frozen := false } } t ∧
        t.reg R.EVR_FRZTMO = satAdd (s.reg R.EVR_FRZTMO) 1)) ∧
    (∀ low, exec (.faultNPulse low) s = .next { s with evr := { s.evr with
      pulse := if s.evr.degraded then low else s.evr.pulse } }) ∧
    ∀ p, p < 3 →
      let cur := if p < 2 then s.evr.netCursor else s.evr.maintCursor
      let w := s.evr.window cur
      let next := if bit cur 31 then setFld cur 15 0 (min (fld cur 15 0 + 8) 4096)
        else setFld cur 15 0 ((fld cur 15 0 + 8) % 60000)
      (∀ i, i < 8 → (w.drop (8 * i)).take 8 = if bit cur 31 then slotWords s.evr.safety (fld cur 15 0 + i)
        else slotWords s.evr.main ((fld cur 15 0 + i) % 60000)) ∧
      exec (.evrWinFetch p) s = .next { s with evr := { s.evr with
        netHold := if p < 2 then w else s.evr.netHold, maintHold := if p < 2 then s.evr.maintHold else w } } ∧
      exec (.evrWinAdvance p) s = .next { s with evr := { s.evr with
        netCursor := if p < 2 then next else s.evr.netCursor, maintCursor := if p < 2 then s.evr.maintCursor else next } })

/-- Reads by an access port (R18, R20, R143, R144). -/
def Obligations.RegisterReads : Prop :=
  (∀ (s : State) (p e : Nat), s.wf = true → p < 3 →
    let u := s.atEdge e
    (∃ t, exec (.tickLoRead p e) s = .next t ∧ OnlyCopies p u t ∧
      ReadsHeld t p R.DEV_TICK_HI (BitVec.ofNat 32 (s.tick % 2 ^ 64 / 2 ^ 32))) ∧
    (∀ n, n < 8192 → ∃ t, exec (.sigValRead p n e) s = .next t ∧ OnlyCopies p u t ∧
      ReadsHeld t p (R.SIG_QUAL n) (s.slot n).qual ∧
      ReadsHeld t p (R.SIG_TSLO n) (BitVec.ofNat 32 (s.slot n).stamp.toNat) ∧
      ReadsHeld t p (R.SIG_TSHI n) (BitVec.ofNat 32 ((s.slot n).stamp.toNat / 2 ^ 32))) ∧
    (∃ t, exec (.timeNsRead p e) s = .next t ∧ OnlyCopies p u t ∧
      ReadsHeld t p R.TIME_SEC_LO (BitVec.ofNat 32 (u.secAt u.now)) ∧
      ReadsHeld t p R.TIME_SEC_HI (BitVec.ofNat 32 (u.secAt u.now / 2 ^ 32)) ∧
      ReadsHeld t p R.TIME_TNS (u.tnsAt u.now)) ∧
    (∃ t, exec (.btickLoRead p e) s = .next t ∧ OnlyCopies p u t ∧
      ∀ a ∈ [R.TIME_BTICK_HI, R.TIME_BSEC_LO, R.TIME_BSEC_HI, R.TIME_BNS], ReadsHeld t p a (s.reg a)) ∧
    (∀ n, n < 4 → ∃ t, exec (.tciNsRead p n e) s = .next t ∧ OnlyCopies p u t ∧
      ∀ a ∈ [R.TCI_SEC_LO n, R.TCI_SEC_HI n, R.TCI_CNT n], ReadsHeld t p a (s.reg a)) ∧
    (∀ a ∈ [R.SNAP_NEWEST_LO, R.SNAP_OLDER_LO] ++ (List.range 64).flatMap (fun n =>
        [R.AXIS_SP_LO n, R.AXIS_ACT_LO n, R.AXIS_TGT_LO n, R.AXIS_OFS_LO n, R.AXIS_HREF_LO n]),
      s.regPresent a = true → ∃ t, exec (.loRegisterRead p a e) s = .next t ∧ OnlyCopies p u t ∧
        ReadsHeld t p (a + 4) (u.live (a + 4)))) ∧
  ∀ (s u : State) (o : Origin) (b : List Byte) (e : Nat), (s.atEdge e).accept o false = (u, true) →
    ∃ t, exec (.read o b e) s = .next t ∧
      if readOk b = false then Replied u t o 3 [1, 0, 0, 0] ∧ AlsoEvents [] u t
      else
        let x := State.readAll o.port (readEntries b) u
        x.2.length = ((readEntries b).map (·.2)).foldl (· + ·) 0 ∧
          Replied x.1 t o 3 ([0, 0, 0, 0] ++ x.2.flatMap wBytes) ∧ AlsoEvents [] x.1 t

/-- Bad accesses and reads of them (R8, R31), and writes: those of the two write paths (R10, R121, R691), and those by no path,
which have no effect. -/
def Obligations.RegisterWrites : Prop :=
  (∀ (s : State) (a : Nat) (aligned : Bool) (e : Nat), ∃ t, exec (.badAccess a aligned e) s = .next t ∧
    if badAddr a = true ∨ aligned = false then BadAccessed a (s.atEdge e) t else t = s.atEdge e) ∧
  (∀ (s : State) (p a : Nat), badAddr a = true → (s.readReg p a).2 = 0) ∧
  ∀ (s : State) (p : Nat) (sl : Bool) (a : Nat) (w : Word) (e : Nat), p < 3 →
    let u := s.atEdge e
    let letter := p < 2 ∧ sl = true ∧ 1 ≤ s.life ∧ s.life ≤ 3
    let maint := p = 2 ∧ sl = false ∧ u.maintServed = true
    let path := letter ∨ (maint ∧ (s.life = 1 ∨ s.life = 3 ∨ a = R.EVR_CURSOR ∨ a = R.EVR_FRZCTL))
    let sets := fun (f : Evr → Evr) => { u with evr := f u.evr }
    ∃ t, exec (.registerWrite p sl a w e) s = .next t ∧
      (¬path → t = if maint then { u with maint := { u.maint with nextWref := true } } else u) ∧
      (path → badAddr a = true → ∃ v, BadAccessed a u v ∧
        t = if p = 2 then { v with maint := { v.maint with nextBad := true } } else v) ∧
      (path → badAddr a = false → s.regPresent a = false → t = u) ∧
      (path → badAddr a = false → s.regPresent a = true →
        (∀ r, regRow? a = some r →
          a ∉ [R.EVR_CURSOR, R.EVR_FRZCTL, R.BATON_CTRL, R.ILK_CLR] ++ (List.range 8).map R.CHK_CTRL ++
            (List.range 4).map R.TPO_CTRL →
          OnlyRegs [a] u t ∧ ∀ i, i < 32 →
            let takes := bit r.rw i || (sl && bit (s.sealMask r) i)
            (takes = true → bit r.w1c i = false → t.bitOf a i = bit w i) ∧
            (takes = false → bit r.w1c i = true → t.bitOf a i = (s.bitOf a i && !bit w i)) ∧
            (takes = false → bit r.w1c i = false → t.bitOf a i = s.bitOf a i)) ∧
        (a = R.EVR_CURSOR → t = if fld w 15 0 < (if bit w 31 then 4096 else 60000) then
          sets (fun v => if p < 2 then { v with netCursor := w &&& 0x8000FFFF } else { v with maintCursor := w &&& 0x8000FFFF })
          else u) ∧
        (a = R.EVR_FRZCTL → t = if bit w 0 = bit w 1 then u else sets (fun v => { v with frozen := bit w 0 })) ∧
        (a = R.BATON_CTRL → if sl && bit w 0 then exec (.batonMove e) s = .next t else t = u) ∧
        (a = R.ILK_CLR → exec (.ilkClr w) u = .next t) ∧
        (∀ n, n < 4 → a = R.TPO_CTRL n → if sl then exec (.tpoArm n w) u = .next t else t = u) ∧
        ∀ c, c < 8 → a = R.CHK_CTRL c → t = u.writeChk c w)

/-- Native maintenance frames (R687 to R693). WRH advances the pointer even when its write is refused (log 42). -/
def Obligations.MaintenanceFrames : Prop :=
  ∀ (s : State) (e : Nat),
    let u := s.atEdge e
    let c := { u with maint := { u.maint with nextFrame := false, nextWref := false, nextBad := false, nextRst := false } }
    let answers := fun (v : State) (data : Nat) (t : State) =>
      OnlyRegs [R.MAINT_FRAMES] { v with out := v.out ++ [.maint u.maintStatus data] } t ∧
        t.reg R.MAINT_FRAMES = satAdd (s.reg R.MAINT_FRAMES) 1
    let b := c.bump R.MAINT_FRAMES
    (u.maintServed = false → ∀ cmd data, ∀ i ∈ [Instr.maintFrameError e, .nop e, .adr cmd data e, .rdl e, .rdh e,
      .wrl data e, .wrh data e, .irqack data e, .pbaWr data e, .pbdRd e, .pbdWr data e], exec i s = .next u) ∧
    (u.maintServed = true →
      (∃ t, exec (.maintFrameError e) s = .next t ∧
        OnlyRegs [R.MAINT_FRAMES, R.MAINT_FRAMEERR] { c with
          out := c.out ++ [.maint u.maintStatus 0], maint := { c.maint with nextFrame := true } } t ∧
        t.reg R.MAINT_FRAMEERR = satAdd (s.reg R.MAINT_FRAMEERR) 1) ∧
      (∃ t, exec (.nop e) s = .next t ∧ answers c 0 t) ∧
      (∀ cmd data, ∃ t, exec (.adr cmd data e) s = .next t ∧ answers { c with
        maint := { c.maint with ptr := (cmd % 128 * 0x10000 + data % 0x10000) * 4 } } 0 t) ∧
      (∃ t, exec (.rdl e) s = .next t ∧
        let x := b.readReg 2 s.maint.ptr
        t = { x.1 with
          out := x.1.out ++ [.maint u.maintStatus (x.2.toNat % 0x10000)],
          maint := { x.1.maint with readHold := x.2.toNat / 0x10000, nextBad := badAddr s.maint.ptr } }) ∧
      (∃ t, exec (.rdh e) s = .next t ∧ answers { c with
        maint := { c.maint with ptr := (s.maint.ptr + 4) % 2 ^ 32 } } (s.maint.readHold % 0x10000) t) ∧
      (∀ data, ∃ t, exec (.wrl data e) s = .next t ∧ answers { c with
        maint := { c.maint with writeHold := data % 0x10000 } } 0 t) ∧
      (∀ data, ∃ t, exec (.wrh data e) s = .next t ∧
        let w := BitVec.ofNat 32 (data % 0x10000 * 0x10000 + s.maint.writeHold)
        let a := s.maint.ptr
        if s.life = 1 ∨ s.life = 3 ∨ a = R.EVR_CURSOR ∨ a = R.EVR_FRZCTL then
          let v := b.writeReg 2 false a w
          t = { v with
            out := v.out ++ [.maint u.maintStatus 0],
            maint := { v.maint with ptr := (a + 4) % 2 ^ 32, nextBad := badAddr a } }
        else answers { c with maint := { c.maint with ptr := (a + 4) % 2 ^ 32, nextWref := true } } 0 t) ∧
      (∀ data, ∃ t, exec (.irqack data e) s = .next t ∧
        OnlyRegs [R.MAINT_FRAMES, R.MAINT_IRQSTAT] { c with out := c.out ++ [.maint u.maintStatus 0] } t ∧
        ∀ i, i < 32 → t.bitOf R.MAINT_IRQSTAT i = (s.bitOf R.MAINT_IRQSTAT i && !(decide (i < 4) && data.testBit i))))

/-- The Postbox (R695) with its stores (R698). -/
def Obligations.PostboxFrames : Prop :=
  let zero := fun (t : State) => t.maint.pbPtr = 0 ∧ t.maint.pba = 0 ∧ t.maint.pend = false ∧ t.maint.rdbuf = 0
  zero State.reset ∧
  (∀ s ns, s.powered = true → 1000 ≤ ns → ∃ t, exec (.resetNLow ns) s = .next t ∧ zero t) ∧
  (∀ s more complete writing e, s.dev = stRUN → s.warm.phase = .none → s.warm.released = none →
    ∃ t, exec (.watchdogExpiry more complete writing e) s = .next t ∧ zero t) ∧
  ∀ (s : State) (e data : Nat), (s.atEdge e).maintServed = true →
    let u := s.atEdge e
    let m := { s.maint with nextFrame := false, nextWref := false, nextBad := false, nextRst := false }
    let advance := fun (x : Maint) => if s.maint.pend then { x with pbPtr := s.maint.pba, pend := false }
      else { x with pbPtr := s.maint.pbPtr / 64 * 64 + (s.maint.pbPtr + 1) % 64 }
    let d := data % 0x10000
    let p := s.maint.pbPtr
    let scratch := tabSet (fun _ => 0) s.maint.scratch p d
    let fits := 0xC0 ≤ p ∧ p < 0x100
    (∃ t, exec (.pbaWr data e) s = .next t ∧ OnlyRegs [R.MAINT_FRAMES] { u with
      out := u.out ++ [.maint u.maintStatus 0], maint := { m with pba := d, pend := true } } t) ∧
    (∃ t, exec (.pbdRd e) s = .next t ∧ OnlyRegs [R.MAINT_FRAMES] { u with
      out := u.out ++ [.maint u.maintStatus (s.maint.rdbuf % 0x10000)],
      maint := advance { m with rdbuf := s.legacy p } } t) ∧
    (∃ t, exec (.pbdWr data e) s = .next t ∧ t.maint = advance (
        if s.life = 1 ∨ s.life = 3 then
          (if fits then { m with scratch := scratch, wacc := true } else { m with wacc := false })
        else if s.life = 2 then { m with wacc := true }
        else { m with wacc := false, nextWref := true }) ∧
      AlsoEvents [R.MAINT_FRAMES, R.MAINT_PBDISC] { u with maint := t.maint } t ∧
      t.out.getLast? = some (.maint u.maintStatus 0) ∧
      (s.life = 2 → t.reg R.MAINT_PBDISC = satAdd (s.reg R.MAINT_PBDISC) 1 ∧ t.bitOf R.MAINT_IRQSTAT 3 = true ∧
        (s.room 1 → LastEvent t 0x9001 noSource (BitVec.ofNat 32 p) (BitVec.ofNat 32 d) (t.reg R.MAINT_PBDISC) s.tickLo)) ∧
      (s.life ≠ 2 → t.reg R.MAINT_PBDISC = s.reg R.MAINT_PBDISC ∧ t.evr = s.evr))

/-- Port start, PHY polls and lane lock (R510, R519, R520, R651, R655). -/
def Obligations.PortsAndLanes : Prop :=
  ∀ (s : State) (p e : Nat), p < 2 →
    let u := s.atEdge e
    let link := fun (v : State) (sync an phy : Bool) =>
      sync && (an || !v.bitOf (R.NET_CTRL p) 30) && (phy || !v.bitOf (R.NET_CTRL p) 29)
    (∀ sync an,
      (u.portEnabled p = false ∨ (u.port p).started = true → exec (.portStart p sync an e) s = .next u) ∧
      (u.portEnabled p = true → (u.port p).started = false → s.wf = true →
        ∃ t, exec (.portStart p sync an e) s = .next t ∧
          AlsoEvents [R.NET_STAT p, R.BATON_STAT]
            { u with net := { u.net with ports := t.net.ports }, time := t.time } t ∧
          t.time = (if p = u.timePort then
            { u.time with
              delayOk := false, following := false, sync := none, lastSync := none, delayReq := none, pdelay := none }
            else u.time) ∧
          t.port p = { started := true, startAt := u.now, restartHb := (u.port p).restartHb } ∧ t.port (1 - p) = u.port (1 - p) ∧ t.path p = pathSILENT ∧
          t.path (1 - p) = u.path (1 - p) ∧ t.bitOf (R.NET_STAT p) 0 = sync ∧ t.bitOf (R.NET_STAT p) 1 = an ∧
          t.bitOf (R.NET_STAT p) 3 = link u sync an false ∧ t.bitOf (R.NET_STAT p) 4 = false ∧
          t.holder = (if (u.port (1 - p)).started = true then u.holder
            else if u.portEnabled (1 - p) = true then u.fldOf R.BATON_CFG 16 16 else p) ∧
          ∀ ip, t.portRuns p = true → NeedsHop t p ip →
            Sent.eth p 0x0806 ethARPREQ ip [] ∈ t.out.drop s.out.length)) ∧
    (∀ up, ∃ t, exec (.mdioPoll p up) s = .next t ∧
      if s.portRuns p = true ∧ s.bitOf (R.NET_CTRL p) 29 = true then
        OnlyRegs [R.NET_STAT p] s t ∧ t.bitOf (R.NET_STAT p) 2 = up ∧
          t.bitOf (R.NET_STAT p) 3 = link s (s.bitOf (R.NET_STAT p) 0) (s.bitOf (R.NET_STAT p) 1) up ∧
          ∀ i, i ≠ 2 → i ≠ 3 → t.bitOf (R.NET_STAT p) i = s.bitOf (R.NET_STAT p) i
      else t = s) ∧
    (∀ long, ∃ t, exec (.rxLockLoss p long e) s = .next t ∧ OnlyRegs [R.CLK_STAT, R.NET_STAT p] u t ∧
      t.bitOf R.CLK_STAT (3 + p) = false ∧ (∀ i, i ≠ 3 + p → t.bitOf R.CLK_STAT i = u.bitOf R.CLK_STAT i) ∧
      (long = false → t.reg (R.NET_STAT p) = u.reg (R.NET_STAT p)) ∧
      (long = true → t.bitOf (R.NET_STAT p) 0 = false ∧ t.bitOf (R.NET_STAT p) 3 = false ∧
        ∀ i, i ≠ 0 → i ≠ 3 → t.bitOf (R.NET_STAT p) i = u.bitOf (R.NET_STAT p) i)) ∧
    (∀ sync an, ∃ t, exec (.rxLockReturn p sync an e) s = .next t ∧
      OnlyRegs [R.CLK_STAT, R.CLK_FIFORST, R.NET_STAT p] u t ∧ t.bitOf R.CLK_STAT (3 + p) = true ∧
      (∀ i, i ≠ 3 + p → t.bitOf R.CLK_STAT i = u.bitOf R.CLK_STAT i) ∧
      t.reg R.CLK_FIFORST = satAdd (u.reg R.CLK_FIFORST) 1 ∧ t.bitOf (R.NET_STAT p) 0 = sync ∧
      t.bitOf (R.NET_STAT p) 1 = an ∧ t.bitOf (R.NET_STAT p) 3 = link u sync an (u.bitOf (R.NET_STAT p) 2)) ∧
    ∀ merged, ∃ t, exec (.codeGroupError p merged e) s = .next t ∧
      let a := if merged then R.CLK_MERGE (3 + p) else if p = 0 then R.CLK_CGERRA else R.CLK_CGERRB
      OnlyRegs [a] u t ∧ t.reg a = if u.bitOf R.CLK_STAT (3 + p) = true then satAdd (u.reg a) 1 else u.reg a

/-- Heartbeats, path states and the baton (R516 to R526). -/
def Obligations.HeartbeatsAndBaton : Prop :=
  (∀ (s : State) (o : Origin) (b : List Byte) (e : Nat), o.port < 2 → s.wf = true →
    let u := s.atEdge e
    let v := u.frameOn o.port
    let regs := [R.NET_RXCNT o.port, R.NET_RXDISC o.port, R.NET_HBRX o.port, R.NET_HBLAST o.port, R.BATON_STAT,
      R.BATON_MOVES, R.SEAL_REFCNT, R.SEAL_LAST, R.SEAL_BUSYCNT, R.NET_STAT o.port]
    let good := hostHeartbeatOk o.port b = true ∧
      (s.reg (R.NET_HOSTIP o.port) = 0 ∨ (s.reg (R.NET_HOSTIP o.port)).toNat = o.ip)
    ∃ t, exec (.hostHeartbeat o b e) s = .next t ∧
      (u.portRuns o.port = false → t = u) ∧
      (u.portRuns o.port = true → ¬good → OnlyRegs [R.NET_RXDISC o.port] v t ∧
        t.reg (R.NET_RXDISC o.port) = satAdd (v.reg (R.NET_RXDISC o.port)) 1) ∧
      (u.portRuns o.port = true → good → LetterFrame regs v t ∧ t.path o.port = pathALIVE ∧
        t.path (1 - o.port) = v.path (1 - o.port) ∧ t.bitOf R.BATON_STAT 1 = false ∧
        (t.port o.port).tl = u.now ∧ (t.port o.port).hostSeq = uAt b 4 4 ∧
        (t.port o.port).learned = some (o.ip, o.udp) ∧
        t.reg (R.NET_RXCNT o.port) = satAdd (v.reg (R.NET_RXCNT o.port)) 1 ∧
        t.reg (R.NET_HBRX o.port) = satAdd (v.reg (R.NET_HBRX o.port)) 1 ∧
        t.reg (R.NET_HBLAST o.port) = v.tickLo ∧ HopShown v t o.port ∧
        (v.room 1 → v.path o.port = pathLOST → NewEvent v t 0x5002 o.port (BitVec.ofNat 32 o.port)
          (BitVec.ofNat 32 (uAt b 4 4)) v.tickLo 0) ∧
        if v.hasBaton = true ∧ v.holder = 1 - o.port ∧ (v.path v.holder = pathSILENT ∨ v.path v.holder = pathLOST)
        then BatonMoved v t o.port 0
        else t.letters = v.letters ∧ t.holder = v.holder ∧ t.reg R.BATON_MOVES = v.reg R.BATON_MOVES)) ∧
  (∀ (s : State) (p wait e : Nat), p < 2 → s.wf = true →
    let u := s.atEdge e
    let waits := [R.ARB_WAITCNT (4 + p), R.ARB_WAITMAX (4 + p)]
    ∃ t, exec (.deviceHeartbeat p wait e) s = .next t ∧
      t.reg (R.ARB_WAITCNT (4 + p)) = satAdd (u.reg (R.ARB_WAITCNT (4 + p))) wait ∧
      if u.portRuns p = true ∧ (u.hostDest p).isSome = true then
        AlsoEvents waits { u with net := { u.net with ports := t.net.ports } } t ∧
          t.port p = { u.port p with hbSeq := (u.port p).hbSeq + 1, restartHb := false } ∧
          t.port (1 - p) = u.port (1 - p) ∧
          (∀ ip udp, u.hostDest p = some (ip, udp) → u.bitOf (R.NET_STAT p) 4 = true →
            Sent.ycp p ip udp 8 0 none (u.heartbeat p) ∈ t.out.drop s.out.length) ∧
          (u.bitOf (R.NET_STAT p) 4 = false → t.reg (R.NET_ARPFAIL p) = satAdd (u.reg (R.NET_ARPFAIL p)) 1)
      else OnlyRegs waits u t) ∧
  (∀ (s : State) (p e : Nat), p < 2 →
    let u := s.atEdge e
    let due := u.path p = pathALIVE ∧ (s.warm.phase = .none ∨ s.warm.phase = .firstTick) ∧ (u.port p).tl + u.fldOf R.BATON_CFG 7 0 * u.hbint ≤ u.now
    let regs := [R.BATON_STAT, R.BATON_MOVES, R.BATON_MISMATCH, R.SEAL_REFCNT, R.SEAL_LAST, R.SEAL_BUSYCNT]
    (¬due → exec (.pathLost p e) s = .next u) ∧
    (due → u.room 2 → ∃ t, exec (.pathLost p e) s = .next t ∧ LetterFrame regs u t ∧ t.path p = pathLOST ∧
      t.path (1 - p) = u.path (1 - p) ∧ t.letters.awaiting = [] ∧
      NewEvent u t 0x5001 p (BitVec.ofNat 32 p) (BitVec.ofNat 32 (u.port p).hostSeq) u.tickLo 0 ∧
      (u.path (1 - p) = pathALIVE → t.net.reactDue = u.net.reactDue ∧
        (u.hasBaton = true → u.holder = p → BatonMoved u t (1 - p) 0) ∧
        (u.hasBaton = false ∨ u.holder = 1 - p → t.holder = u.holder ∧ t.reg R.BATON_MOVES = u.reg R.BATON_MOVES)) ∧
      (u.path (1 - p) ≠ pathALIVE → t.bitOf R.BATON_STAT 1 = true ∧ t.net.reactDue = decide (u.dev = stRUN) ∧
        t.holder = u.holder ∧ t.reg R.BATON_MOVES = u.reg R.BATON_MOVES ∧
        NewEvent u t 0x5006 p (BitVec.ofNat 32 p) (BitVec.ofNat 32 (u.port p).hostSeq) u.tickLo 0))) ∧
  (∀ (s : State) (e : Nat),
    let u := s.atEdge e
    ∃ t, exec (.batonMove e) s = .next t ∧
      if u.hasBaton = true ∧ u.path (1 - u.holder) = pathALIVE then
        LetterFrame [R.BATON_STAT, R.BATON_MOVES, R.SEAL_REFCNT, R.SEAL_LAST, R.SEAL_BUSYCNT] u t ∧
          BatonMoved u t (1 - u.holder) 1
      else t = u) ∧
  ∀ s : State,
    let u : State := { s with net := { s.net with reactDue := false } }
    let act := s.fldOf R.BATON_CFG 9 8
    (s.net.reactDue = false → exec .bothLostReaction s = .next s) ∧
    (s.net.reactDue = true → s.dev ≠ stRUN ∨ (act ≠ 1 ∧ act ≠ 2) → exec .bothLostReaction s = .next u) ∧
    (s.net.reactDue = true → s.dev = stRUN → act = 2 →
      exec .bothLostReaction s = .next { u with power := { u.power with safeDue := 3 } }) ∧
    (s.net.reactDue = true → s.dev = stRUN → act = 1 →
      ∃ t, exec .bothLostReaction s = .next t ∧
        AlsoEvents lanesRegs { u with arch := { u.arch with lanes := t.arch.lanes } } t ∧
        ∀ k, if k < 8 ∧ (s.lane k).state = lnRUN then
            if (s.lane k).exit = none ∧ (s.laneStep k).atExit = true then t.lane k = { s.lane k with holdPend := true }
            else k < s.arch.lanes.length → (t.lane k).state = lnHOLD ∧ (t.lane k).heldAt = s.now
          else t.lane k = s.lane k)

/-- Standby copies (R522 to R524). -/
def Obligations.StandbyCopies : Prop :=
  (∀ (s u : State) (o : Origin) (b : List Byte) (e : Nat), (s.atEdge e).accept o true = (u, true) →
    u.hasBaton = true → o.port ≠ u.holder →
    let l := letterOf o b
    let h : Held := ⟨⟨o, b, u.now, false⟩, u.standbyVerify l, crc32c (signedBytes l), u.now, false, false⟩
    ∃ t, exec (.standbyVerify o b e) s = .next t ∧
      if (formRefusal b).isSome = true then t = u
      else if l.seq ≤ (u.letters.counters.getD l.keyslot 0).toNat ∨
          (u.batonCopyHere l = false ∧ 64 ≤ u.net.held.length) then
        OnlyRegs [R.BATON_ORPHAN] u t ∧ t.reg R.BATON_ORPHAN = satAdd (u.reg R.BATON_ORPHAN) 1
      else if u.batonCopyHere l = false then t = { u with net := { u.net with held := u.net.held ++ [h] } }
      else u.letters.awaiting = [] → t = { u with net := { u.net with results := u.net.results ++ [h] } }) ∧
  (∀ (s : State) (e : Nat),
    let u := s.atEdge e
    let ends := fun (h : Held) => decide (h.at_ + u.skew ≤ u.now)
    let gone := s.net.held.filter (fun h => ends h && h.frameSince)
    ∃ t, exec (.heldCopyTimeout e) s = .next t ∧
      AlsoEvents [R.BATON_ORPHAN] { u with net := { u.net with held := t.net.held } } t ∧
      t.net.held = (s.net.held.filter (fun h => !(ends h && h.frameSince))).map
        (fun h => { h with skewEnded := h.skewEnded || ends h }) ∧
      t.reg R.BATON_ORPHAN = satAdd (s.reg R.BATON_ORPHAN) gone.length ∧
      ∀ h, gone = [h] → s.window? 0x5005 h.copy.org.port = none → h.copy.org.port < 256 → s.room 1 →
        LastEvent t 0x5005 h.copy.org.port 0 0 0 0)

/-- Frames that no unit takes as a request (R509, R512, R513, R515). -/
def Obligations.FramesOnPorts : Prop :=
  (∀ (s : State) (p e : Nat), p < 2 →
    let u := s.atEdge e
    let v := u.frameOn p
    let runs := u.portRuns p = true
    let counts := fun (a : Nat) (t : State) => OnlyRegs [a] v t ∧ t.reg a = satAdd (v.reg a) 1
    (p ≠ u.holder ∨ s.net.held = [] → v = u) ∧
    (p = u.holder → AlsoEvents [R.BATON_ORPHAN] { u with net := { u.net with held := v.net.held } } v ∧
      v.net.held = (s.net.held.filter (fun h => !h.skewEnded)).map (fun h => { h with frameSince := true }) ∧
      v.reg R.BATON_ORPHAN = satAdd (s.reg R.BATON_ORPHAN) (s.net.held.filter (·.skewEnded)).length) ∧
    (∀ sup, ∃ t, exec (.receivedFrameDiscard p sup e) s = .next t ∧
      if runs then counts (if sup then R.NET_RXCNT p else R.NET_RXDISC p) t else t = u) ∧
    (∀ g : Sys2Proof.Datagram, g.org.port = p →
      let taken := (s.reg (R.NET_IPADDR p)).toNat = g.dest ∧ g.options = false ∧ g.fragment = false ∧ g.length ≤ 1500 ∧
        (g.dport = 47101 ∨ (g.dport = 47100 ∧ 8 ≤ g.data.length ∧ uAt g.data 0 1 = 1 ∧ uAt g.data 1 1 ∈ [1, 2, 5, 8, 9] ∧
          uAt g.data 2 2 + 8 = g.data.length))
      ∃ t, exec (.ycpDiscard g e) s = .next t ∧ (runs → ¬taken → counts (R.NET_RXDISC p) t) ∧
        (u.portRuns p = false ∨ taken → t = u)) ∧
    (∃ (t : State) (l : List Nat), exec (.arpRefresh p) s = .next t ∧ (∀ ip, ip ∈ l ↔ NeedsHop s p ip) ∧
      if s.portRuns p = true then
        let w : State := { s with out := s.out ++ l.map (fun ip => Sent.eth p 0x0806 ethARPREQ ip []) }
        OnlyRegs [R.NET_TXCNT p] w t ∧ t.reg (R.NET_TXCNT p) = satAdd (s.reg (R.NET_TXCNT p)) l.length
      else t = s)) ∧
  (∀ (s : State) (o : Origin) (e : Nat), o.port < 2 →
    let p := o.port
    let u := s.atEdge e
    let v := u.frameOn p
    (∀ letter, ∃ t, exec (.duplicateDiscard o letter e) s = .next t ∧
      match o.trailer with
      | none => t = u
      | some x =>
        if u.portRuns p = true ∧ (∃ d ∈ s.net.dups, d.mac = x.mac ∧ d.seq = x.seq ∧
            u.now ≤ d.time + 400 * edgesPerMs ∧ (letter = true → d.port = p)) then
          OnlyRegs [R.NET_DUPCNT p, R.NET_WRONGLAN p] v t ∧ t.reg (R.NET_DUPCNT p) = satAdd (v.reg (R.NET_DUPCNT p)) 1 ∧
            t.reg (R.NET_WRONGLAN p) = satAdd (v.reg (R.NET_WRONGLAN p)) (decide (x.lan ≠ 0xA + p)).toNat
        else t = u) ∧
    (∀ w ok, u.accept o false = (w, ok) →
      let answers := fun (kind : Nat) (proto : Nat) (data : List Byte) (t : State) =>
        let y : State := { w with out := w.out ++ [Sent.eth p proto kind o.ip data] }
        OnlyRegs [R.NET_TXCNT p] y t ∧ t.reg (R.NET_TXCNT p) = satAdd (w.reg (R.NET_TXCNT p)) 1
      (∀ target, ∃ t, exec (.arpRequest o target e) s = .next t ∧
        if ok = true ∧ (s.reg (R.NET_IPADDR p)).toNat = target then answers ethARPREP 0x0806 [] t else t = w) ∧
      (∀ len data, len ≤ 1500 → ∃ t, exec (.icmpEcho o len data e) s = .next t ∧
        if ok = true then answers ethECHO 0x0800 data t else t = w) ∧
      (NeedsHop u p o.ip → s.wf = true → ∃ t, exec (.arpReply o e) s = .next t ∧ if ok = true then
          OnlyRegs [R.NET_STAT p] { w with net := { w.net with ports := t.net.ports } } t ∧
            t.port p = { w.port p with resolved :=
              if o.ip ∈ (w.port p).resolved then (w.port p).resolved else o.ip :: (w.port p).resolved } ∧
            t.port (1 - p) = w.port (1 - p) ∧ HopShown w t p
        else t = w)) ∧
    (∀ c, (∃ len data, 1500 < len ∧ c = Instr.icmpEcho o len data e) ∨ (¬NeedsHop u p o.ip ∧ c = .arpReply o e) →
      ∃ t, exec c s = .next t ∧ if u.portRuns p = true then
        OnlyRegs [R.NET_RXDISC p] v t ∧ t.reg (R.NET_RXDISC p) = satAdd (v.reg (R.NET_RXDISC p)) 1 else t = u) ∧
    (∀ w letter, u.accept o letter = (w, true) →
      OnlyRegs [R.NET_RXCNT p, R.NET_WRONGLAN p] { v with net := { v.net with dups := w.net.dups } } w ∧
        w.reg (R.NET_RXCNT p) = satAdd (v.reg (R.NET_RXCNT p)) 1 ∧
        (o.trailer = none → w.net.dups = s.net.dups) ∧
        ∀ x, o.trailer = some x → w.net.dups.getLast? = some ⟨x.mac, x.seq, p, u.now⟩)) ∧
  ∀ s : State, ∃ t, exec .prpSupervision s = .next t ∧
    if s.duplicates = true then
      let w : State := { s with out := s.out ++ [Sent.eth 0 0x88FB ethPRP 0 [], Sent.eth 1 0x88FB ethPRP 0 []] }
      OnlyRegs [R.NET_TXCNT 0, R.NET_TXCNT 1] w t ∧ t.reg (R.NET_TXCNT 0) = satAdd (s.reg (R.NET_TXCNT 0)) 1 ∧
        t.reg (R.NET_TXCNT 1) = satAdd (s.reg (R.NET_TXCNT 1)) 1
    else t = s

/-- Requests for traces and laps (R311 to R316). -/
def Obligations.TraceAndLapRequests : Prop :=
  ∀ (s u : State) (b : Bulk) (e : Nat), (s.atEdge e).accept b.org false = (u, true) → u.wf = true →
    let k := Bulk.unit b
    let ends := fun (v : State) (st pos off : Nat) (t : State) =>
      AlsoEvents [] v t ∧ Replied v t b.org 6 (bulkLast st (Bulk.op b) k pos off)
    let off := if Bulk.op b = 3 then Bulk.offset b else 0
    let stops := fun (st : Nat) (t : State) => ends u st (Bulk.pos b) off t
    let takes := fun (next stop slot : Nat) (t : State) =>
      if 8 ≤ (u.readouts b.org.port).length then
        AlsoEvents [R.MEM_RDOBUSY] u t ∧ t.reg R.MEM_RDOBUSY = satAdd (u.reg R.MEM_RDOBUSY) 1 ∧
          Replied u t b.org 6 (bulkLast 5 (Bulk.op b) k (Bulk.pos b) off)
      else t = { u with acq := { u.acq with
        reqs := modifyAt u.acq.reqs b.org.port (· ++ [⟨b, next, stop, u.now, false, slot⟩]) } }
    (∃ t, exec (.traceRead b e) s = .next t ∧
      if bulkFormed b 1 = false ∨ lengthOk b = false ∨ Bulk.offset b ≠ 0 ∨ 7 < k then stops 1 t
      else if u.loaded = false ∨ u.traceRec? k = none then stops 4 t
      else if Bulk.pos b < u.oldpos k then stops 2 t
      else if u.wpos k ≤ Bulk.pos b then stops 3 t
      else takes (Bulk.pos b) (min (Bulk.pos b + Bulk.length b) (u.wpos k)) 0 t) ∧
    (∃ t, exec (.lapRead b e) s = .next t ∧
      if bulkFormed b 3 = false ∨ lengthOk b = false ∨ 31 < k then stops 1 t
      else match u.cap? k with
        | none => stops 4 t
        | some c =>
          if c.lapSize ≤ Bulk.offset b then stops 1 t
          else if Bulk.pos b < u.bseq k then stops 2 t
          else if u.wseq k ≤ Bulk.pos b then stops 3 t
          else takes (Bulk.offset b) (min (Bulk.offset b + Bulk.length b) c.lapSize) (Bulk.pos b - u.bseq k) t) ∧
    (∃ t, exec (.traceConsume b e) s = .next t ∧
      if bulkFormed b 2 = false ∨ Bulk.length b ≠ 0 ∨ Bulk.offset b ≠ 0 ∨ 7 < k then ends u 1 (u.rpos k) 0 t
      else if u.loaded = false ∨ u.traceRec? k = none then ends u 4 (u.rpos k) 0 t
      else
        let ring := dropBelow (t.rpos k) (u.traceX k).ring
        t.rpos k = max (u.rpos k) (min (Bulk.pos b) (u.wpos k)) ∧
          AlsoEvents [R.ACQ_TRPOS_LO k, R.ACQ_TRPOS_HI k, R.ACQ_TOLDPOS_LO k, R.ACQ_TOLDPOS_HI k]
            { u with acq := { u.acq with traces := t.acq.traces } } t ∧
          Replied u t b.org 6 (bulkLast 0 (Bulk.op b) k (t.rpos k) 0) ∧
          (∀ j, j ≠ k → t.traceX j = u.traceX j) ∧
          (u.ringStop k = false → t.oldpos k = u.oldpos k ∧ t.traceX k = u.traceX k) ∧
          (u.ringStop k = true → t.traceX k = { u.traceX k with ring := ring } ∧
            t.oldpos k = (match ring with | x :: _ => x.1 % 2 ^ 64 | [] => u.wpos k))) ∧
    ∃ t, exec (.lapConsume b e) s = .next t ∧
      if bulkFormed b 4 = false ∨ Bulk.length b ≠ 0 ∨ Bulk.offset b ≠ 0 ∨ 31 < k then ends u 1 (u.cseq k) 0 t
      else if u.cap? k = none then ends u 4 (u.cseq k) 0 t
      else t.cseq k = max (u.cseq k) (min (Bulk.pos b + 1) (u.wseq k)) ∧
        AlsoEvents [R.CAP_CSEQ_LO k, R.CAP_CSEQ_HI k] u t ∧
        Replied u t b.org 6 (bulkLast 0 (Bulk.op b) k (t.cseq k) 0)

/-- Photo finishes and the readout engine (R314, R316, R328 to R333). -/
def Obligations.PhotoFinishAndReadout : Prop :=
  (∀ (s u : State) (o : Origin) (d : List Byte) (wait e : Nat), (s.atEdge e).accept o false = (u, true) →
    let stops := fun (l : List Nat) (st : Nat) (t : State) =>
      AlsoEvents l u t ∧ Replied u t o 6 (bulkLast st 0x10 0xFF 0 0)
    ∃ t, exec (.snapReq o d wait e) s = .next t ∧
      if d ≠ [] then stops [] 1 t
      else if u.dev ≠ stRUN ∧ u.dev ≠ stSAFE then stops [] 3 t
      else if 8 ≤ (u.snap.reqs.filter (fun x => x.1.port == o.port)).length then
        stops [R.SNAP_REQBUSY] 5 t ∧ t.reg R.SNAP_REQBUSY = satAdd (u.reg R.SNAP_REQBUSY) 1
      else
        let v : State := { u with snap := { u.snap with
          reqs := grantInsert (fun r => portReq r.1.port r.2) (o, u.now) u.snap.reqs } }
        OnlyRegs [R.ARB_WAITCNT 6, R.ARB_WAITMAX 6] v t ∧
          t.reg (R.ARB_WAITCNT 6) = satAdd (u.reg (R.ARB_WAITCNT 6)) wait) ∧
  (∀ (s : State) (e : Nat),
    let u := s.atEdge e
    (s.snap.busy = none ∨ (∃ x, s.snap.busy = some x ∧ s.tick ≤ x.epoch) →
      exec (.photoFinishReady e) s = .next u) ∧
    ∀ x, s.snap.busy = some x → x.epoch < s.tick → x.target < 2 → s.wf = true →
      ∃ t, exec (.photoFinishReady e) s = .next t ∧ AlsoEvents [R.SNAP_REQCNT] { u with snap := t.snap } t ∧
        t.snap.busy = none ∧ t.snap.newBuf = x.target ∧ t.snap.reqs = s.snap.reqs ∧
        t.snapNewest = BitVec.ofNat 64 x.epoch ∧
        (t.snap.bufs.getD x.target {}).words = (s.snap.bufs.getD x.target {}).words ∧
        t.snap.bufs.getD (1 - x.target) {} = s.snap.bufs.getD (1 - x.target) {} ∧
        t.reg R.SNAP_REQCNT = satAdd (s.reg R.SNAP_REQCNT) x.serves.length ∧
        ∀ o ∈ x.serves, u.portRuns o.port = true → Replied u t o 6 (bulkLast 0 0x10 0xFF x.epoch 0)) ∧
  (∀ (s u : State) (b : Bulk) (e : Nat), (s.atEdge e).accept b.org false = (u, true) →
    let k := Bulk.unit b
    let off := Bulk.offset b
    let stops := fun (l : List Nat) (st : Nat) (t : State) =>
      AlsoEvents l u t ∧ Replied u t b.org 6 (bulkLast st (Bulk.op b) k (Bulk.pos b) (if Bulk.op b = 3 then off else 0))
    ∃ t, exec (.snapRead b e) s = .next t ∧
      if bulkFormed b 0x11 = false ∨ 7 < k ∨ Bulk.length b < 1 ∨ 0x10000 < off + Bulk.length b then stops [] 1 t
      else if u.presentBit k = false then stops [] 4 t
      else if (u.snap.bufs.getD 0 {}).epoch ≠ some (Bulk.pos b) ∧ (u.snap.bufs.getD 1 {}).epoch ≠ some (Bulk.pos b) then
        stops [] (if u.snapNewest.toNat < Bulk.pos b then 3 else 2) t
      else if 8 ≤ (u.readouts b.org.port).length then
        stops [R.MEM_RDOBUSY] 5 t ∧ t.reg R.MEM_RDOBUSY = satAdd (u.reg R.MEM_RDOBUSY) 1
      else t = { u with acq := { u.acq with
        reqs := modifyAt u.acq.reqs b.org.port (· ++ [⟨b, off, off + Bulk.length b, u.now, false, 0⟩]) } }) ∧
  ∀ (s : State) (wait e : Nat), s.acq.lastPort < 2 → s.wf = true →
    let u := s.atEdge e
    (u.readouts 0 = [] → u.readouts 1 = [] → exec (.readoutDatagram wait e) s = .next u) ∧
    ∀ p q r, p < 2 → u.readouts p = q :: r → s.acq.lastPort = 1 - p ∨ u.readouts (1 - p) = [] →
      ∃ t, exec (.readoutDatagram wait e) s = .next t ∧
        AlsoEvents [R.ARB_WAITCNT 1, R.ARB_WAITMAX 1, R.MEM_RDOLATMAX]
          { u with
            acq := { u.acq with reqs := t.acq.reqs, lastPort := p }, dram := t.dram
            integ := { u.integ with scans := t.integ.scans } } t ∧
        t.readouts (1 - p) = u.readouts (1 - p) ∧
        t.reg (R.ARB_WAITCNT 1) = satAdd (u.reg (R.ARB_WAITCNT 1)) wait ∧
        (q.begun = true → t.reg R.MEM_RDOLATMAX = u.reg R.MEM_RDOLATMAX) ∧
        let op := Bulk.op q.bulk
        let k := Bulk.unit q.bulk
        if u.requestLost q = true then
          t.readouts p = r ∧ t.dram = u.dram ∧ t.integ = u.integ ∧ (u.portRuns q.bulk.org.port = true →
            Replied u t q.bulk.org 6 (bulkLast 2 op k (Bulk.pos q.bulk) (if op = 3 then Bulk.offset q.bulk else 0)))
        else
          let n := min 1440 (q.stop - q.next)
          let last := decide (q.stop ≤ q.next + n)
          let d := u.requestBytes q q.next n
          let at_ := if op = 1 then (q.next, 0) else (Bulk.pos q.bulk, if op = 3 then q.next else 0)
          (match u.image.part? 4 0 0 with
            | some x => DramPut u t d (fun i => (x.base + Config.stagingPage u.now % max 1 x.size) * dramPage + i)
            | none => t.dram = u.dram ∧ t.integ = u.integ) ∧
          t.readouts p = (if last then r else { q with next := q.next + n, begun := true } :: r) ∧
            (u.portRuns q.bulk.org.port = true → Replied u t q.bulk.org 6
              (leBytes 1 0 ++ leBytes 1 op ++ leBytes 1 k ++ leBytes 1 last.toNat ++ leBytes 4 d.length ++
                leBytes 8 at_.1 ++ leBytes 4 at_.2 ++ leBytes 4 0 ++ d))

/-- PTP messages (R536 to R547). The delay and offset formulas are IEEE 1588's, which R543 cites: log 60. -/
def Obligations.PtpMessages : Prop :=
  (∀ (s : State) (i : Nat), i < 4 →
    let h := s.ptpHead i
    h.port = s.fldOf R.TIME_CTRL 29 29 ∧ h.layer2 = s.bitOf R.TIME_CTRL 28 ∧ h.portNumber = 1 ∧
      h.domain = s.fldOf R.TIME_CTRL 23 16 ∧
      h.clockId = (wBytes (s.reg (R.NET_MACLO h.port))).take 3 ++ [0xFF, 0xFE] ++
        (wBytes (s.reg (R.NET_MACLO h.port))).drop 3 ++ (wBytes (s.reg (R.NET_MACHI h.port))).take 2) ∧
  (∀ (s : State) (peer domain seq kind : Nat) (two : Bool) (t1 corr utc : Int) (raw e : Nat) (g0 g1 : Word),
    let u := (s.atEdge e).ptpArrive
    let z := s.ptpArrive
    let counts := fun (v t : State) => OnlyRegs [R.TIME_RXDISC] v t ∧ t.reg R.TIME_RXDISC = satAdd (v.reg R.TIME_RXDISC) 1
    (∀ c ∈ ([(.ptpSync peer domain seq two t1 corr raw e, u), (.ptpFollowUp peer domain seq t1 corr e, u),
        (.ptpAnnounce peer domain g0 g1 utc e, u), (.ptpDelayResp peer domain seq t1 corr, z),
        (.ptpDelayReq peer domain seq corr raw, z), (.ptpPdelay peer domain kind seq t1 corr raw raw, z)] : List (Instr × State)),
      ∃ t, exec c.1 s = .next t ∧ (s.ptpOn = false → t = c.2) ∧
        (s.ptpOn = true → s.peerOn peer = false → counts c.2 t) ∧
        (s.ptpOn = true → s.peerOn peer = true → domain ≠ s.fldOf R.TIME_CTRL 23 16 → t = c.2)) ∧
    ∃ t, exec .ptpDiscard s = .next t ∧ if s.ptpOn = true then counts z t else t = z) ∧
  (∀ (s : State) (seq : Nat) (two : Bool) (t1 corr utc : Int) (raw e : Nat) (g0 g1 : Word), s.slaveTakes 0 (s.fldOf R.TIME_CTRL 23 16) = true →
    let d := s.fldOf R.TIME_CTRL 23 16
    let u := (s.atEdge e).ptpArrive
    let z := s.ptpArrive
    let synced := fun (t2 c : Int) (t : State) =>
      let v : State := { u with time := { u.time with lastSync := some (t1, t2, c), sync := none } }
      if (∃ a, s.time.heard = some a ∧ s.edgeBase + e ≤ a + s.announceTimeout) ∧ s.time.delayOk = true then
        Servoed v t ((t2 - t1) * 131072 - 2 * c - s.asym * 131072 - s.time.mpd)
      else t = v
    (∃ t, exec (.ptpSync 0 d seq two t1 corr raw e) s = .next t ∧
      if two = true then t = { u with time := { u.time with sync := some ⟨seq, s.ingress raw, corr⟩ } }
      else synced (s.ingress raw) corr t) ∧
    (∃ t, exec (.ptpFollowUp 0 d seq t1 corr e) s = .next t ∧
      match s.time.sync with
      | none => t = u
      | some w => if w.seq = seq then synced w.t2 (w.corr + corr) t else t = u) ∧
    (∃ t, exec (.ptpAnnounce 0 d g0 g1 utc e) s = .next t ∧
      AlsoEvents [R.TIME_UTCOFS, R.TIME_GMID_LO, R.TIME_GMID_HI] { u with time := { u.time with heard := some u.now } } t ∧
      t.reg R.TIME_UTCOFS = BitVec.ofInt 32 utc ∧ t.reg R.TIME_GMID_LO = g0 ∧ t.reg R.TIME_GMID_HI = g1 ∧
      if s.reg R.TIME_GMID_LO = g0 ∧ s.reg R.TIME_GMID_HI = g1 then t.evr = u.evr
      else u.room 1 → LastEvent t 0x4004 noSource g0 g1 0 0) ∧
    ∃ t, exec (.ptpDelayResp 0 d seq t1 corr) s = .next t ∧
      match s.ptpP2P, s.time.delayReq, s.time.lastSync with
      | false, some (q, t3), some (a, b, c) =>
        if q = seq then
          let m := (((b - t3) + (t1 - a)) * 131072 - 2 * c - 2 * corr) / 2
          OnlyRegs [R.TIME_MPD] { z with time := { s.time with delayReq := none, delayOk := true, mpd := m } } t ∧
            t.reg R.TIME_MPD = BitVec.ofInt 32 (vRoundInt (vRat m 131072))
        else t = z
      | _, _, _ => t = z) ∧
  (∀ (s : State) (peer seq kind : Nat) (ts corr : Int) (raw tx : Nat) (raws : List Nat), s.ptpOn = true →
    let d := s.fldOf R.TIME_CTRL 23 16
    let z := s.ptpArrive
    let n := s.time.seqNo
    let next := (n + 1) % 65536
    (s.peerOn peer = true → ∃ t, exec (.ptpDelayReq peer d seq corr raw) s = .next t ∧
      if s.ptpMaster = true ∧ s.timeValid = true then PtpSent z t [(peer, 9, seq, [s.ingress raw, corr])] else t = z) ∧
    (s.peerOn 0 = true → ∃ t, exec (.ptpPdelay 0 d kind seq ts corr raw tx) s = .next t ∧
      if s.ptpP2P = false then t = z
      else if kind = 0 then
        if s.ptpMaster = true ∧ s.timeValid = false then t = z
        else PtpSent z t [(0, 3, seq, [s.ingress raw]), (0, 10, seq, [s.egress tx, corr])]
      else match s.time.pdelay with
        | none => t = z
        | some w =>
          if w.seq ≠ seq then t = z
          else if kind = 1 then
            t = { z with time := { s.time with pdelay := some { w with resp := some (s.ingress raw, ts, corr) } } }
          else match w.resp with
            | none => t = z
            | some (t4, t2, c) =>
              let m := (((t4 - w.t1) - (ts - t2)) * 131072 - 2 * c - 2 * corr) / 2
              OnlyRegs [R.TIME_MPD] { z with time := { s.time with pdelay := none, delayOk := true, mpd := m } } t ∧
                t.reg R.TIME_MPD = BitVec.ofInt 32 (vRoundInt (vRat m 131072))) ∧
    (∃ t, exec (.ptpMasterSend kind raws) s = .next t ∧
      if s.ptpMaster = true ∧ s.timeValid = true then
        PtpSent { s with time := { s.time with seqNo := next } } t (([0, 1, 2, 3].filter s.peerOn).flatMap (fun i =>
          if kind = 11 then
            let q := (s.reg R.TIME_PRIO).toNat
            [(i, 11, n, [(q / 2 ^ 24 : Nat), (q / 2 ^ 16 % 256 : Nat), (q / 256 % 256 : Nat), (q % 256 : Nat), 0xA0,
              signedOf 32 (s.reg R.TIME_UTCOFS).toNat])]
          else [(i, 0, n, []), (i, 8, n, [s.egress (raws.getD i 0)])]))
      else t = s) ∧
    ∃ t, exec (.delayReqSend raw) s = .next t ∧
      if s.peerOn 0 = true ∧ (s.ptpMaster = false ∨ (s.ptpP2P = true ∧ s.timeValid = true)) then
        if s.peerReady 0 = false then PtpSent s t [(0, if s.ptpP2P then 2 else 1, n, [])]
        else if s.ptpP2P = true then
          PtpSent { s with time := { s.time with seqNo := next, pdelay := some ⟨n, s.egress raw, none⟩ } } t [(0, 2, n, [])]
        else
          PtpSent { s with time := { s.time with seqNo := next, delayReq := some (n, s.egress raw) } } t [(0, 1, n, [])]
      else t = s) ∧
  (∀ (s : State), s.ptpOn = false → ∀ kind raws raw,
    exec (.ptpMasterSend kind raws) s = .next s ∧ exec (.delayReqSend raw) s = .next s) ∧
  ∀ (s : State) (syncs : Bool), ∃ t, exec (.announceReceiptTimeout syncs) s = .next t ∧
    if s.ptpOn = true ∧ s.ptpMaster = false then
      let v : State := { s with time := { s.time with heard := if syncs then s.time.heard else none, streak := t.time.streak } }
      t.bitOf R.TIME_STAT 4 = true ∧
        if s.bitOf R.TIME_STAT 4 = true then t = v ∧ t.time.streak = s.time.streak
        else AlsoEvents [R.TIME_STAT] v t ∧ t.time.streak = 0 ∧ t.bitOf R.TIME_STAT 2 = false ∧
          (∀ i, i ≠ 2 → i ≠ 4 → t.bitOf R.TIME_STAT i = s.bitOf R.TIME_STAT i) ∧
          (s.room 1 → LastEvent t 0x4003 noSource 0 0 0 0)
    else t = s

/-- Pulse outputs, capture inputs and time marks (R551 to R557). Whether a short level is seen is a free value (R383). -/
def Obligations.PulsesAndCaptures : Prop :=
  (∀ (s : State) (n : Nat) (w : Word) (e : Nat), n < 4 → s.wf = true →
    let u := s.atEdge e
    let same := fun (v t : State) (l : List Nat) =>
      ∀ i, i ∉ l → t.bitOf (R.TPO_STAT n) i = v.bitOf (R.TPO_STAT n) i
    let going := (s.tpo n).ends.isSome
    (∃ t, exec (.tpoArm n w) s = .next t ∧ fld (t.reg (R.TPO_CTRL n)) 1 0 = fld w 1 0 ∧
      t.bitOf (R.TPO_CTRL n) 31 = (bit w 31 && t.bitOf (R.TPO_STAT n) 0) ∧
      let width := (s.reg (R.TPO_WIDTH n)).toNat
      let period := (s.reg (R.TPO_PERIOD n)).toNat
      let regs := [R.TPO_CTRL n, R.TPO_STAT n]
      if bit w 31 = false then
        OnlyRegs regs s t ∧ t.bitOf (R.TPO_STAT n) 0 = (s.bitOf (R.TPO_STAT n) 0 && going) ∧ same s t [0]
      else if nsPerSec ≤ (s.reg (R.TPO_START_NS n)).toNat ∨ s.fldOf (R.TPO_START_SEC_HI n) 31 16 ≠ 0 ∨ width < 10 ∨
          1000000000 < width ∨ (bit w 0 = true ∧ (period < 1000 ∨ 4000000000 < period ∨ period < width + 10)) then
        OnlyRegs regs s t ∧ t.bitOf (R.TPO_STAT n) 0 = false ∧ t.bitOf (R.TPO_STAT n) 1 = false ∧
          t.bitOf (R.TPO_STAT n) 2 = true ∧ same s t [0, 1, 2]
      else
        let start := ((s.reg64 (R.TPO_START_SEC_LO n)).toNat % 2 ^ 48) * nsPerSec + (s.reg (R.TPO_START_NS n)).toNat
        let i := (t.tpo n).next
        let arms := bit w 0 || i == 0
        OnlyRegs regs { s with time := { s.time with tpo := t.time.tpo } } t ∧
          t.tpo n = ⟨start, period, width, bit w 0, i, (s.tpo n).ends⟩ ∧ (∀ j, j ≠ n → t.tpo j = s.tpo j) ∧
          (∀ j, j < i → start + j * period ≤ s.nsAt s.now + 1000) ∧
          (0 < period → s.nsAt s.now + 1000 < start + i * period) ∧
          t.bitOf (R.TPO_STAT n) 0 = arms ∧ t.bitOf (R.TPO_STAT n) 1 = !arms ∧ t.bitOf (R.TPO_STAT n) 2 = false ∧
          same s t [0, 1, 2]) ∧
    (∃ t, exec (.tpoPulse n e) s = .next t ∧
      if s.bitOf (R.TPO_STAT n) 0 = true ∧ s.bitOf (R.TPO_CTRL n) 31 = true ∧ ((s.tpo n).periodic = true ∨ (s.tpo n).next = 0) ∧
          (s.dev = stREADY ∨ s.dev = stRUN ∨ s.dev = stSAFE ∨ s.dev = stHALT) ∧
          (s.tpo n).start + (s.tpo n).next * (s.tpo n).period ≤ u.nsAt u.now then
        OnlyRegs [R.TPO_STAT n, R.TPO_COUNT n] { u with time := { u.time with tpo := t.time.tpo } } t ∧
          t.tpo n = { s.tpo n with next := (s.tpo n).next + 1, ends := some (u.now + (2 * (s.tpo n).width + 4) / 5) } ∧
          (∀ j, j ≠ n → t.tpo j = s.tpo j) ∧ t.reg (R.TPO_COUNT n) = satAdd (s.reg (R.TPO_COUNT n)) 1 ∧
          t.bitOf (R.TPO_STAT n) 3 = true ∧ same s t [3]
      else t = u) ∧
    ∃ t, exec (.tpoPulseEnd n e) s = .next t ∧
      if ∃ x, (s.tpo n).ends = some x ∧ x ≤ u.now then
        let more := s.bitOf (R.TPO_STAT n) 0 && s.bitOf (R.TPO_CTRL n) 31 && ((s.tpo n).periodic || (s.tpo n).next == 0)
        OnlyRegs [R.TPO_STAT n, R.TPO_CTRL n] { u with time := { u.time with tpo := t.time.tpo } } t ∧
          t.tpo n = { s.tpo n with ends := none } ∧ (∀ j, j ≠ n → t.tpo j = s.tpo j) ∧
          t.bitOf (R.TPO_STAT n) 3 = false ∧ t.bitOf (R.TPO_STAT n) 0 = more ∧ same s t [0, 3] ∧
          t.bitOf (R.TPO_CTRL n) 31 = more ∧ ∀ i, i ≠ 31 → t.bitOf (R.TPO_CTRL n) i = s.bitOf (R.TPO_CTRL n) i
      else t = u) ∧
  (∀ (s : State) (n : Nat) (rising short : Bool) (e : Nat), n < 4 → s.wf = true →
    let v : State := if short then { s.atEdge e with free := s.free + 1 } else s.atEdge e
    let m := fld (s.reg R.TIME_TCICFG) (2 * n + 9) (2 * n + 8)
    let takes := s.bitOf R.TIME_TCICFG n = true ∧ (s.dev = stREADY ∨ s.dev = stRUN ∨ s.dev = stSAFE ∨ s.dev = stHALT) ∧
      (m = 2 ∨ (m = 0 ∧ rising = true) ∨ (m = 1 ∧ rising = false))
    let seen := short = false ∨ Config.shortLevelSeen s.free = true
    ∃ t, exec (.tciEdge n rising short e) s = .next t ∧
      (¬(takes ∧ seen) → t = v) ∧
      (takes → seen → (∃ x, s.time.tci.getD n none = some x ∧ v.now < x + 8) →
        OnlyRegs [R.TCI_MERGE n] v t ∧ t.reg (R.TCI_MERGE n) = satAdd (s.reg (R.TCI_MERGE n)) 1) ∧
      (takes → seen → (∀ x, s.time.tci.getD n none = some x → x + 8 ≤ v.now) →
        OnlyRegs [R.TCI_NS n, R.TCI_SEC_LO n, R.TCI_SEC_HI n, R.TCI_CNT n]
            { v with time := { v.time with tci := modifyAt s.time.tci n (fun _ => some v.now) } } t ∧
          t.reg (R.TCI_NS n) = BitVec.ofNat 32 (v.nsAt v.now % nsPerSec) ∧
          (t.reg64 (R.TCI_SEC_LO n)).toNat = v.nsAt v.now / nsPerSec ∧ t.bitOf (R.TCI_CNT n) 31 = rising ∧
          fld (t.reg (R.TCI_CNT n)) 30 0 = min (fld (s.reg (R.TCI_CNT n)) 30 0 + 1) (2 ^ 31 - 1))) ∧
  ∀ (s : State) (e : Nat),
    let u := s.atEdge e
    ∃ t, exec (.timeMark e) s = .next t ∧
      if s.bitOf R.TIME_STAT 0 = true then
        AlsoEvents [] u t ∧ (s.room 1 → LastEvent t 0x4005 noSource (BitVec.ofNat 32 (u.secAt u.now))
          (BitVec.ofNat 32 (u.secAt u.now / 2 ^ 32)) (BitVec.ofNat 32 (u.nsAt u.now % nsPerSec)) u.tickLo)
      else t = u

/-- Starts, conversions and self tests of ADC cores (R344 to R359, R636). -/
def Obligations.AdcCores : Prop :=
  (∀ (s : State) (c lag e : Nat), c < 16 → s.wf = true →
    let u := s.atEdge e
    let k := s.core c
    let defer := fun (k : AdcCore) => match k.runs.getLast? with
      | none => k
      | some r =>
        let n := min lag (8 + adcSmp (s.adcEntry c 0 r.sel))
        if r.start = u.now ∧ r.next = 0 ∧ r.lag = 0 then { k with
          idle := k.idle + n * 8, runs := k.runs.dropLast ++ [{ r with first := r.first + n * 8, lag := n }] }
        else k
    ∃ t, exec (.adcStart c lag e) s = .next t ∧
      if s.adcOn c = false ∨ k.event = some u.now then
        t = { u with ana := { u.ana with cores := modifyAt u.ana.cores c defer } }
      else if u.now < k.idle then
        AlsoEvents [R.ADC_MISSED c] { u with ana := { u.ana with cores := t.ana.cores } } t ∧
          t.core c = defer { k with event := some u.now } ∧ (∀ j, j ≠ c → t.core j = s.core j) ∧
          t.reg (R.ADC_MISSED c) = satAdd (s.reg (R.ADC_MISSED c)) 1 ∧
          (s.room 1 → s.window? 0xC001 c = none → LastEvent t 0xC001 c (BitVec.ofNat 32 c) 1 u.tickLo 0)
      else
        let first := u.now + s.fldOf (R.ADC_START c) 15 0 + (if s.fldOf (R.ADC_START c) 31 30 = 2 then 6 else 0) +
          (if s.bitOf (R.ADC_CTRL c) 8 = true then 19920 else 0)
        OnlyRegs [R.ADC_STARTS c] { u with ana := { u.ana with cores := t.ana.cores } } t ∧
          t.core c = defer ⟨some u.now, first, first + s.adcSpan c,
            k.runs ++ [⟨u.now, first, 0, false, s.reg (R.ADC_CHSEL c), 0⟩]⟩ ∧
          (∀ j, j ≠ c → t.core j = s.core j) ∧ t.reg (R.ADC_STARTS c) = satAdd (s.reg (R.ADC_STARTS c)) 1) ∧
  (∀ (s : State) (n : Nat), n < 32 → s.wf = true →
    let u := s.atEdge (s.fldOf (R.ANA_TMROFS n) 18 0)
    let mine := fun (c : Nat) => c < 16 ∧ s.fldOf (R.ADC_START c) 31 30 = 1 ∧ s.fldOf (R.ADC_START c) 27 22 = n ∧
      s.adcOn c = true ∧ (s.core c).event ≠ some u.now
    ∃ t, exec (.startTimerFire n) s = .next t ∧
      if s.bitOf (R.ANA_TMROFS n) 31 = true ∧ s.running = true ∧ s.tileUsable (n / 4) = true ∧
          rateDue (s.reg (R.ANA_TMRRATE n)) s.tick = true then
        AlsoEvents ((List.range 16).flatMap (fun c => [R.ADC_STARTS c, R.ADC_MISSED c]))
            { u with ana := { u.ana with cores := t.ana.cores } } t ∧
          ∀ c, (¬mine c → t.core c = s.core c) ∧
            (mine c → u.now < (s.core c).idle → t.core c = { s.core c with event := some u.now } ∧
              t.reg (R.ADC_MISSED c) = satAdd (s.reg (R.ADC_MISSED c)) 1) ∧
            (mine c → (s.core c).idle ≤ u.now → (t.core c).event = some u.now ∧
              (t.core c).runs.length = (s.core c).runs.length + 1 ∧
              t.reg (R.ADC_STARTS c) = satAdd (s.reg (R.ADC_STARTS c)) 1)
      else t = s) ∧
  (∀ (s : State) (c : Nat) (code : Int) (e : Nat), c < 16 → s.wf = true →
    let u := s.atEdge e
    ∃ t, exec (.adcConversionDone c code e) s = .next t ∧
      ((s.core c).runs = [] → t.ana = s.ana ∧ LanesAct [] u t) ∧
      ∀ r rest, (s.core c).runs = r :: rest → r.next < 16 →
        let i := r.next
        let w := s.adcEntry c i r.sel
        let late := i == 0 && decide (0 < r.lag)
        let code := clampInt code (-524288) 524287
        let given := r.discard = false ∧ s.adcOn c = true
        let clip := code == -524288 || code == 524287
        LanesAct (R.ADC_RAW c i :: R.ADC_LATECNT c :: captureRegs) { u with
            ana := { u.ana with cores := t.ana.cores }
            acq := t.acq
            arch := { u.arch with conds := t.arch.conds } } t ∧
          (t.core c).runs = (if i + 1 < s.adcLen c then { r with next := i + 1 } :: rest else rest) ∧
          (t.core c).idle = (s.core c).idle ∧
          (∀ j, j ≠ c → t.core j = s.core j) ∧
          (¬given → t.acq = s.acq ∧ t.reg (R.ADC_RAW c i) = s.reg (R.ADC_RAW c i)) ∧
          (given →
            t.reg (R.ADC_RAW c i) = rawWord code (if s.singleSelect then 0 else i) (s.bitOf (R.ADC_CTRL c) 8)
              (decide (8 ≤ adcInput w) && decide (adcInput w ≤ 11)) late ∧
            t.reg (R.ADC_LATECNT c) = satAdd (s.reg (R.ADC_LATECNT c)) late.toNat ∧
            (s.bitOf (R.ADC_RES c i) 31 = true →
              (⟨writerOf clsAdc c, s.fldOf (R.ADC_RES c i) 12 0, s.adcValue c w code (s.adcAperture c r i + 64),
                qualOf (writerOf clsAdc c) (flagsOf (!clip) false clip false late), u.now⟩ : Staged) ∈ t.staged))) ∧
  ∀ (s : State) (c : Nat) (ref zero : Int), c < 16 → s.wf = true →
    let n := s.integ.adcBad.getD c (0, 0)
    let bad := (if 201327 ≤ ref ∧ ref ≤ 218103 then 0 else n.1 + 1, if -8192 ≤ zero ∧ zero ≤ 8192 then 0 else n.2 + 1)
    let counts := fun (l : List Nat) (t : State) =>
      let v : State := { s with
        integ := { s.integ with adcBad := modifyAt s.integ.adcBad c (fun _ => bad) }, power := t.power }
      AlsoEvents (R.BIST_ISTCNT :: l) v t ∧ t.reg R.BIST_ISTCNT = satAdd (s.reg R.BIST_ISTCNT) 1
    ∃ t, exec (.adcSelfTest c ref zero) s = .next t ∧
      if s.adcOn c = false then t = s
      else if bad.1 < 3 ∧ bad.2 < 3 then counts [] t ∧ t.power = s.power ∧ t.evr = s.evr
      else counts testRegs t ∧ (∀ x, x < 64 → t.failedBit x = (s.failedBit x || (x == 16 + c && s.presentBit x))) ∧
        (s.nrec < 64 → t.nrec = s.nrec + 1) ∧
        t.power = (if s.dev = stRUN then { s.power with safeDue := 2 } else s.power) ∧
        (s.room 1 → LastEvent t 0x8002 noSource (BitVec.ofNat 32 (0xB000 + c)) (BitVec.ofNat 32 (16 + c))
          (Config.adcTestData ref zero) s.tickLo)

/-- DIO measurement inputs and encoders (R383, R392 to R397). What a level shorter than 5 ns leads to is a free value. -/
def Obligations.InputsAndEncoders : Prop :=
  (∀ (s : State) (n : Nat) (x short : Bool) (lag e : Nat), n < 64 → s.wf = true →
    let u := s.atEdge e
    let v : State := if short then { u with free := s.free + 1 } else u
    let at_ := if short then Config.shortLevelEdge s.free else u.now
    let moves := (short = false ∨ Config.shortLevelSeen s.free = true) ∧ (s.ball n).level ≠ x
    let m := s.dioMode n
    let regs := [R.DIO_STAT n, R.DIO_EDGES n]
    (∃ t, exec (.dioInputTransition n x short lag e) s = .next t ∧
      AlsoEvents (regs ++ (List.range 64).map R.AXIS_EVT ++ [R.ENC_ERR (n / 3), R.ENC_INDEX (n / 3), R.ENC_STAT (n / 3)]) { v with
        free := t.free
        dio := { v.dio with balls := t.dio.balls, counts := t.dio.counts, chatter := [] }
        staged := t.staged } t ∧
      (¬moves → t.dio.balls = s.dio.balls ∧ t.dio.counts = s.dio.counts ∧ t.staged = s.staged ∧
        t.reg (R.DIO_EDGES n) = s.reg (R.DIO_EDGES n) ∧ t.reg (R.DIO_STAT n) = s.reg (R.DIO_STAT n)) ∧
      (moves → DioLevel v t n x lag at_ ∧
        (m ≠ dioENC → t.dio.counts = s.dio.counts) ∧
        (m = dioLIMIT →
          let inside := match (s.ball n).window with | some w => decide (v.now < w + s.dioT1 n) | none => false
          let c := if inside then (s.ball n).count + 1 else 1
          (t.ball n).count = c ∧ (t.ball n).window = (if inside then (s.ball n).window else some v.now) ∧
            (c = s.fldOf (R.DIO_MODE n) 23 16 + 1 → t.bitOf (R.DIO_STAT n) 5 = true ∧
              (s.window? 0xD001 n = none → s.room 1 →
                NewEvent v t 0xD001 n (BitVec.ofNat 32 n) (BitVec.ofNat 32 c) v.tickLo 0))))) ∧
    (∃ t, exec (.periodEdge n x short lag e) s = .next t ∧
      if m ≠ dioPERIOD ∧ m ≠ dioFREQ then t = s
      else
        OnlyRegs regs { v with dio := { v.dio with balls := t.dio.balls }, staged := t.staged } t ∧
          (¬moves → t = v) ∧ (moves → DioLevel v t n x lag at_)) ∧
    (∃ t, exec (.captureEdge n x short lag e) s = .next t ∧
      if m ≠ dioCAPTURE then t = s
      else
        OnlyRegs regs { v with dio := { v.dio with balls := t.dio.balls }, staged := t.staged } t ∧
          (¬moves → t = v) ∧ (moves → DioLevel v t n x lag at_)) ∧
    (∃ t, exec (.debounceAccept n lag e) s = .next t ∧
      let y := (s.ball n).level != s.dioInv n
      if (m = dioGPIOIN ∨ m = dioLIMIT) ∧ y ≠ s.bitOf (R.DIO_STAT n) 8 ∧ (s.ball n).changed + s.dioT0 n ≤ u.now then
        OnlyRegs regs { u with staged := t.staged } t ∧ t.bitOf (R.DIO_STAT n) 8 = y ∧
          t.reg (R.DIO_EDGES n) = satAdd (s.reg (R.DIO_EDGES n)) 1 ∧ DioWrote u t n lag (fBool y) qVALID
      else t = u) ∧
    ∃ t, exec (.periodTimeout n lag e) s = .next t ∧
      match (s.ball n).since with
      | none => t = u
      | some p =>
        if (m = dioPERIOD ∨ m = dioFREQ) ∧ p + s.dioT0 n ≤ u.now then
          t = { u with dio := { u.dio with balls := t.dio.balls }, staged := t.staged } ∧
            t.ball n = { s.ball n with edge := none, since := none } ∧ (∀ j, j ≠ n → t.ball j = s.ball j) ∧
            (m = dioPERIOD → DioWrote u t n lag (fmul (fOfInt (s.dioT0 n : Nat)) 0x312BCC77) (qVALID + qCLIPPED)) ∧
            (m = dioFREQ → DioWrote u t n lag 0 qVALID)
        else t = u) ∧
  ∀ (s : State) (m : Nat) (a b z : Bool) (e : Nat), m < 21 → s.wf = true →
    let u := s.atEdge e
    let na := 3 * m
    let nb := 3 * m + 1
    let nz := 3 * m + 2
    let on := s.bitOf (R.ENC_CFG m) 31 = true
    (∃ t, exec (.encoderTransition m a b e) s = .next t ∧
      AlsoEvents [R.ENC_ERR m] { u with
        free := t.free, dio := { u.dio with balls := t.dio.balls, counts := t.dio.counts } } t ∧
      (t.ball na).level = a ∧ (t.ball nb).level = b ∧ (∀ j, j ≠ na → j ≠ nb → t.ball j = s.ball j) ∧
      (∀ j, j ≠ m → t.encCount j = s.encCount j) ∧
      let ca := (s.ball na).level != a
      let cb := (s.ball nb).level != b
      let close := u.now < max (s.ball na).changed (s.ball nb).changed + 2
      let same := (a != s.dioInv na) == (b != s.dioInv nb)
      let up := (if ca then !same else same) != s.bitOf (R.ENC_CFG m) 0
      if ¬on ∨ (ca = false ∧ cb = false) then t.dio.counts = s.dio.counts ∧ t.free = s.free ∧ t.evr = s.evr
      else if ca = true ∧ cb = true then
        t.dio.counts = s.dio.counts ∧ t.free = s.free ∧ t.reg (R.ENC_ERR m) = satAdd (s.reg (R.ENC_ERR m)) 1 ∧
          (s.window? 0xD101 m = none → s.room 1 → LastEvent t 0xD101 m (BitVec.ofNat 32 m) 1 u.tickLo 0)
      else if close then
        t.free = s.free + 1 ∧ t.encCount m = s.encCount m + BitVec.ofNat 32 (min 2 (Config.encoderChange s.free)) - 1
      else t.free = s.free ∧ t.encCount m = if up then s.encCount m + 1 else s.encCount m - 1) ∧
    ∃ t, exec (.encoderIndex m z e) s = .next t ∧
      OnlyRegs [R.ENC_INDEX m, R.ENC_STAT m] { u with
        dio := { u.dio with balls := t.dio.balls, counts := t.dio.counts } } t ∧
      (t.ball nz).level = z ∧ (∀ j, j ≠ nz → t.ball j = s.ball j) ∧ (∀ j, j ≠ m → t.encCount j = s.encCount j) ∧
      if on ∧ (s.ball nz).level ≠ z ∧ (z != s.dioInv nz) = true then
        t.reg (R.ENC_INDEX m) = s.encCount m ∧ t.bitOf (R.ENC_STAT m) 3 = true ∧
          t.encCount m = if s.bitOf (R.ENC_CFG m) 1 then 0 else s.encCount m
      else t.reg (R.ENC_INDEX m) = s.reg (R.ENC_INDEX m) ∧ t.reg (R.ENC_STAT m) = s.reg (R.ENC_STAT m) ∧
        t.encCount m = s.encCount m

/-- DIO outputs (R387 to R391) and interlock lines (R399 to R402). Whether a short ILK pulse acts is a free value. -/
def Obligations.OutputsAndInterlocks : Prop :=
  (∀ (s : State) (n e : Nat), n < 64 → s.wf = true →
    let u := s.atEdge e
    let b := s.ball n
    let phase : Option Nat := match s.dio.pwmBase with
      | none => none
      | some b0 => if s.dioMode n = dioPWM ∧ b0 + s.dioT1 n ≤ u.now then some ((u.now - (b0 + s.dioT1 n)) % max 1 (s.dioT0 n))
        else none
    let rise := fun (h : Nat) => if s.dioSel n = 0 then 0 else (s.dioT0 n - h) / 2
    let adc := (List.range 16).flatMap (fun c => [R.ADC_STARTS c, R.ADC_MISSED c])
    let frame := fun (t : State) => AlsoEvents adc { u with
      dio := { u.dio with balls := t.dio.balls }, ana := { u.ana with cores := t.ana.cores } } t
    let level := fun (h : Nat) (x : Bool) (t : State) =>
      frame t ∧ t.ball n = { b with high := h, lvl := x } ∧ (∀ j, j ≠ n → t.ball j = s.ball j) ∧
        StartsCores u t (fun c => b.lvl ≠ x ∧ pwmCores s n (if x then 0 else 1) c)
    (∃ t, exec (.pwmPeriodStart n e) s = .next t ∧
      if phase = some 0 then
        let h := if b.nextAt + 6 < u.now then b.next else b.prev
        level h (decide (0 < h ∧ rise h = 0)) t
      else t = u) ∧
    (∃ t, exec (.pwmEdge n 0 e) s = .next t ∧
      if 0 < b.high ∧ phase = some (rise b.high) then level b.high true t else t = u) ∧
    (∃ t, exec (.pwmEdge n 1 e) s = .next t ∧
      if phase = some (rise b.high + b.high) then level b.high false t else t = u) ∧
    (∃ t, exec (.pwmEdge n 2 e) s = .next t ∧
      if phase = some (s.dioT0 n / 2) then
        frame t ∧ t.dio = s.dio ∧ StartsCores u t (fun c => pwmCores s n 2 c)
      else t = u) ∧
    (∃ t, exec (.pulseRise n e) s = .next t ∧
      if ∃ x, b.trig = some x ∧ x + s.dioT1 n + 4 ≤ u.now ∧ u.now ≤ x + s.dioT1 n + 6 then
        t = { u with dio := { u.dio with balls := t.dio.balls } } ∧
          t.ball n = { b with trig := none, rose := some u.now } ∧ ∀ j, j ≠ n → t.ball j = s.ball j
      else t = u) ∧
    ∃ t, exec (.pulseFall n e) s = .next t ∧
      if b.rose.isSome = true ∧ b.rose = some (u.now - s.dioT0 n) ∧ s.dioT0 n ≤ u.now then
        t = { u with dio := { u.dio with balls := t.dio.balls } } ∧ t.ball n = { b with rose := none } ∧
          ∀ j, j ≠ n → t.ball j = s.ball j
      else t = u) ∧
  (∀ (s : State) (j : Nat) (x short : Bool) (e : Nat), j < 8 →
    let v : State := if short then { s.atEdge e with free := s.free + 1 } else s.atEdge e
    ∃ t, exec (.ilkEdge j x short e) s = .next t ∧
      if short = true ∧ Config.shortIlkSeen s.free = false then t = v
      else
        Tripped v t ∧ (∀ i, t.dio.ilk.testBit i = (if i = j then x else s.dio.ilk.testBit i)) ∧
          t.dio.latched = s.dio.latched ||| (t.ilkBalls &&& s.fldOf R.ILK_CFG 15 8)) ∧
  ∀ (s : State) (w : Word), ∃ t, exec (.ilkClr w) s = .next t ∧
    Tripped s t ∧ t.dio.ilk = s.dio.ilk ∧
      ∀ i, i < 8 → t.dio.latched.testBit i =
        ((s.dio.latched.testBit i && !(bit w i && !s.ilkBalls.testBit i)) ||
          (s.ilkBalls.testBit i && s.bitOf R.ILK_CFG (8 + i)))

/-- The Stride drive link (R450 to R461). -/
def Obligations.StrideLink : Prop :=
  (∀ (s : State) (d : Nat), d < 8 → s.wf = true →
    let ofs := (16 * s.fldOf (R.STRIDE_STARTOFS d) 15 0 + 4) / 5
    let m := s.tick - ofs / max 1 s.tickEdges
    let v := s.atEdge (ofs % max 1 s.tickEdges)
    let rate := s.reg (R.STRIDE_RATE d)
    let x := s.sport d
    let joined := x.entries.map (fun e =>
      if e.join && e.st == 0 then { e with join := false, st := 1, miss := 0 } else { e with join := false })
    let seq := m / max 1 (fld rate 10 0) % 256
    let b := (v.periodEnd d).broadcast d m seq
    let due := match x.roundAt with | none => true | some r => decide (r + 100 * edgesPerMs ≤ v.now)
    let todo := if due then (List.range (s.ndrv d)).filter (fun e => (joined.getD e {}).st == 0) else x.todo
    ∃ t, exec (.servoPeriodStart d) s = .next t ∧
      if s.strideRuns d = true ∧ ofs / max 1 s.tickEdges ≤ s.tick ∧ rateDue rate m = true ∧ x.last ≠ some m then
        OnlyRegs [R.STRIDE_PERIODS d] { v with out := t.out, arch := { v.arch with stride := t.arch.stride } } t ∧
          t.reg (R.STRIDE_PERIODS d) = satAdd (s.reg (R.STRIDE_PERIODS d)) 1 ∧ (∀ j, j ≠ d → t.sport j = s.sport j) ∧
          t.sport d = { x with
            opened := some v.now, seq := seq, last := some m, probe := todo.head?, probed := false, todo := todo.drop 1
            roundAt := if due then some v.now else x.roundAt
            restart := false
            entries := joined.map (fun e => { e with got := false, closed := false }) } ∧
          t.out = s.out ++ [Sent.stride d (b ++ leBytes 2 (crc16ibm b))]
      else t = s) ∧
  ∀ (s : State) (d sl : Nat) (b : List Byte) (len lag wait e : Nat), d < 8 → sl < 4 → s.wf = true →
    let u := s.atEdge e
    let x := s.sport d
    let runs := s.strideRuns d = true
    let w := strideWB (s.ndrv d)
    let pr := w + 1000 + 12000 * s.ndrv d
    let ago := fun (n : Nat) => x.opened.map (fun o => 25 * (u.now - o) - 25 * n)
    let deaf := fun (n : Nat) => ∃ z, ago n = some z ∧
      (z < 10 * w ∨ (x.probe.isSome = true ∧ 10 * pr ≤ z ∧ z < 10 * (pr + 3000)))
    let within := fun (a i j : Nat) => ∃ y z, ago i = some y ∧ ago j = some z ∧ 10 * a ≤ y ∧ y ≤ 10 * (a + 500) ∧
      z ≤ 10 * (a + 12000)
    let framed := fun (n : Nat) => b.length = n + 2 ∧ b.drop n = leBytes 2 (crc16ibm (b.take n))
    let at_ := max 40 (min 160 lag)
    let v := u.probeSend d
    let since := fun (a : Nat) => ∃ o, x.opened = some o ∧ 10 * a ≤ 25 * (u.now - o)
    let stride := fun (f : StridePort → StridePort) => modifyAt s.arch.stride d f
    let bad := fun (l : List Nat) (v t : State) => OnlyRegs (R.STRIDE_RXERR d :: l) v t ∧
      t.reg (R.STRIDE_RXERR d) = satAdd (s.reg (R.STRIDE_RXERR d)) 1
    let n := s.strideAxis d sl
    let addr := s.strideAddr d sl
    let k := s.strideEntry d sl
    (v = match x.probe, x.opened with
      | some p, some o =>
        if x.probed = false ∧ 10 * pr ≤ 25 * (u.now - o) then
          let y := leBytes 1 2 ++ leBytes 1 (s.strideAddr d p) ++ leBytes 2 0
          { u with
            out := s.out ++ [Sent.stride d (y ++ leBytes 2 (crc16ibm y))]
            arch := { u.arch with stride := stride (fun x => { x with probed := true }) } }
        else u
      | _, _ => u) ∧
    (∃ t, exec (.strideReply d sl b len lag wait e) s = .next t ∧
      let waits := [R.ARB_WAITCNT 7, R.ARB_WAITMAX 7]
      let good := sl < s.ndrv d ∧ framed 28 ∧ uAt b 0 1 = 3 ∧ uAt b 1 1 = addr ∧ uAt b 2 1 = x.seq ∧
        k.got = false ∧ k.closed = false ∧ within (w + 1000 + 12000 * sl) (len + at_) at_
      t.reg (R.ARB_WAITCNT 7) = satAdd (s.reg (R.ARB_WAITCNT 7)) wait ∧
      (¬runs ∨ deaf (len + at_) → OnlyRegs waits u t) ∧ (runs → ¬deaf (len + at_) → ¬good → bad waits u t) ∧
      (runs → ¬deaf (len + at_) → good →
        let st := wAt b 4
        let wr := writerOf clsStride (4 * d + sl)
        let put := fun (r : Word) (y : F32) => if bit r 31 then [(⟨wr, fld r 12 0, y, qualOf wr qVALID, u.now⟩ : Staged)] else []
        AlsoEvents (R.STRIDE_DSTATUS d sl :: R.STRIDE_DSTAT d sl :: waits) { u with
          staged := s.staged ++ put (s.reg (R.STRIDE_TQSLOT d sl)) (wAt b 16) ++
            put (s.reg (R.STRIDE_STSLOT d sl)) (fOfInt (fld st 15 0 : Nat))
          arch := { u.arch with
            axes := t.arch.axes
            stride := stride (fun x => { x with entries := modifyAt x.entries sl (fun y =>
              { y with got := true, miss := 0, st := if y.st = 1 then 2 else y.st }) }) } } t ∧
          (∀ j, j ≠ n → t.axis j = s.axis j) ∧
          t.axis n = (if s.axisConf n = true ∧ s.axFbsrc n = 1 then
            let a := s.axis n
            { a with
              fb := BitVec.ofNat 64 (uAt b 8 8), fresh := true, torque := wAt b 16
              idx := if a.idxArm && bit st 3 then some (BitVec.ofNat 64 (uAt b 20 8)) else a.idx
              idxArm := a.idxArm && !bit st 3 }
            else s.axis n) ∧
          t.reg (R.STRIDE_DSTATUS d sl) = st ∧ t.bitOf (R.STRIDE_DSTAT d sl) 3 = bit st 1 ∧
          (bit st 1 = true → s.window? 0xB003 (4 * d + sl) = none → s.room 2 →
            NewEvent u t 0xB003 d (BitVec.ofNat 32 d) (BitVec.ofNat 32 sl) st s.tickLo) ∧
          (k.st = 1 → s.room 2 → LastEvent t 0xB001 d (BitVec.ofNat 32 d) (BitVec.ofNat 32 sl) (BitVec.ofNat 32 addr)
            s.tickLo))) ∧
    (∃ t, exec (.strideAnnounce d b len e) s = .next t ∧
      (¬runs ∨ deaf len → t = u) ∧ (runs → ¬deaf len → x.probe = none → bad [] v t) ∧
      ∀ p, runs → ¬deaf len → x.probe = some p →
        let put := fun (f : StridePort → StridePort) =>
          { v with arch := { v.arch with stride := modifyAt v.arch.stride d f } }
        let good := framed 20 ∧ uAt b 0 1 = 4 ∧ uAt b 1 1 = s.strideAddr d p ∧ within (w + 5000 + 12000 * s.ndrv d) len 0
        let same := wAt b 4 = s.reg (R.STRIDE_DVEND d p) ∧ wAt b 8 = s.reg (R.STRIDE_DTYPE d p) ∧
          (s.bitOf (R.STRIDE_DADDR d p) 31 = false ∨
            (wAt b 12 = s.reg (R.STRIDE_DSER_LO d p) ∧ wAt b 16 = s.reg (R.STRIDE_DSER_HI d p)))
        (¬good → bad [] v t) ∧
        (good → same → t = put (fun x =>
          { x with probe := none, entries := modifyAt x.entries p (fun y => { y with join := true }) })) ∧
        (good → ¬same → AlsoEvents [R.STRIDE_DSTAT d p] (put (fun x => { x with probe := none })) t ∧
          t.bitOf (R.STRIDE_DSTAT d p) 2 = true ∧
          (s.room 1 → LastEvent t 0xB004 d (BitVec.ofNat 32 d) (BitVec.ofNat 32 p) (wAt b 4) (wAt b 8)))) ∧
    (∃ t, exec (.strideFrameDiscard d len e) s = .next t ∧ (¬runs ∨ deaf len → t = u) ∧
      (runs → ¬deaf len → bad [] u t)) ∧
    ∃ t z, exec (.replySlotClose d sl e) s = .next t ∧ (runs → t = z.probeSend d) ∧ (¬runs → t = z) ∧
      let closes := runs ∧ sl < s.ndrv d ∧ since (w + 13000 + 12000 * sl) ∧ k.closed = false
      let put := fun (f : StrideEntry → StrideEntry) => stride (fun x => { x with entries := modifyAt x.entries sl f })
      (¬closes → z = u) ∧
      (closes → k.got = true →
        z = { u with arch := { u.arch with stride := put (fun y => { y with closed := true }) } }) ∧
      (closes → k.got = false →
        let gone := k.st ≠ 0 ∧ s.fldOf (R.STRIDE_CTRL d) 7 0 ≤ k.miss + 1
        AlsoEvents [R.STRIDE_DMISS d sl] { u with arch := { u.arch with stride := put (fun y =>
            { y with closed := true, miss := y.miss + 1, st := if gone then 0 else y.st }) } } z ∧
          z.reg (R.STRIDE_DMISS d sl) = satAdd (s.reg (R.STRIDE_DMISS d sl)) 1 ∧ (¬gone → z.evr = s.evr) ∧
          (gone → s.room 1 → LastEvent z 0xB002 d (BitVec.ofNat 32 d) (BitVec.ofNat 32 sl) (BitVec.ofNat 32 addr)
            s.tickLo))

/-- CAN controllers and message objects (R469 to R495). Where REC comes to stand after a good reception above 127 is a
free value within R490's range. -/
def Obligations.CanControllers : Prop :=
  (∀ (s : State) (c : Nat) (f : CanFrame) (lag wait e : Nat), c < 4 → s.wf = true →
    let u := s.atEdge e
    let r := (s.ctl c).recv
    let septed := s.septed c = true ∧ f.ide = true ∧ 0x1FFF0000 ≤ f.id ∧ f.id ≤ 0x1FFFFFFF
    let waits := [R.ARB_WAITCNT 7, R.ARB_WAITMAX 7]
    ∃ t, exec (.canFrameReceive c f lag wait e) s = .next t ∧
      t.reg (R.ARB_WAITCNT 7) = satAdd (s.reg (R.ARB_WAITCNT 7)) wait ∧
      (s.canUp c = false → OnlyRegs waits u t) ∧
      (s.canUp c = true →
        LanesAct (waits ++ canRegs c) { u with can := t.can, free := t.free } t ∧
        t.reg (R.CAN_RXCNT c) = satAdd (s.reg (R.CAN_RXCNT c)) 1 ∧ Confined u t c ∧ (t.ctl c).tec = (s.ctl c).tec ∧
        (∀ j, j ≠ c → t.ctl j = s.ctl j) ∧ (t.ctl c).freeAt = u.now ∧
        (if 127 < r then (t.ctl c).recv = 119 + Config.canRecSet s.free % 9 ∧ t.free = s.free + 1
          else (t.ctl c).recv = r - 1 ∧ t.free = s.free) ∧
        (¬septed → (f.remote = true ∨ s.canMatch c f = none →
          t.reg (R.CAN_RXDISC c) = satAdd (s.reg (R.CAN_RXDISC c)) 1 ∧
            ((s.ctl c).tec ≤ 255 → t.can.objs = newestPayloads c s.can.objs))) ∧
        (¬septed → f.remote = false → ∀ m, s.canMatch c f = some m → m < 128 →
          let o := (s.canTurn c m).2
          let b := f.data.take (dlcBytes f.dlc)
          let w := writerOf clsCan (128 * c + o)
          o < 128 →
          t.reg (R.OBJ_FRCNT c o) = satAdd (s.reg (R.OBJ_FRCNT c o)) 1 ∧ t.reg (R.OBJ_LASTTICK c o) = s.tickLo ∧
          t.reg (R.OBJ_RXID c o) = BitVec.ofNat 32 (f.id + f.ide.toNat * 2 ^ 29 + f.fdf.toNat * 2 ^ 30 +
            f.brs.toNat * 2 ^ 31) ∧
          t.reg (R.OBJ_RXINFO c o) = BitVec.ofNat 32 (f.dlc % 16 + 16 * f.esi.toNat) ∧
          (∀ i, i < 16 → t.reg (R.OBJ_DATA c o i) = wAt b (4 * i)) ∧ t.bitOf (R.OBJ_STAT c o) 7 = false ∧
          (t.canObj c o).accepted = some u.now ∧
          ∀ i, i < s.fldOf (R.OBJ_CFG c o) 11 8 →
            let k := s.reg (R.OBJ_MAPA c o i)
            if b.length < mapByte k + mapLen k then t.bitOf (R.OBJ_STAT c o) 3 = true
            else s.running = true → (⟨w, fld k 12 0,
              mapDecode k (s.reg (R.OBJ_MAPSCALE c o i)) (s.reg (R.OBJ_MAPOFS c o i)) b, qualOf w qVALID,
                u.now + max 120 (min 400 lag)⟩ : Staged) ∈ t.staged))) ∧
  (∀ (s : State) (c o : Nat), c < 4 → o < 128 →
    let n := s.fldOf (R.OBJ_LIMITS c o) 23 0
    let since := max s.can.runAt (((s.canObj c o).accepted).getD 0)
    ∃ t, exec (.canRxTimeout c o) s = .next t ∧
      if n ≠ 0 ∧ s.running = true ∧ s.bitOf (R.OBJ_STAT c o) 7 = false ∧ since + n * s.tickEdges ≤ s.edgeBase ∧
          o ∈ s.canObjs c false then
        AlsoEvents [R.OBJ_STAT c o] { s with
            staged := s.staged ++ (List.range (s.fldOf (R.OBJ_CFG c o) 11 8)).map (staleWrite s c o) } t ∧
          t.bitOf (R.OBJ_STAT c o) 6 = true ∧ t.bitOf (R.OBJ_STAT c o) 7 = true ∧
          (s.window? 0xA005 c = none → s.room 1 →
            LastEvent t 0xA005 c (BitVec.ofNat 32 c) (BitVec.ofNat 32 o) (s.reg (R.OBJ_NODE c o)) s.tickLo)
      else t = s) ∧
  (∀ (s : State) (c len e : Nat), c < 4 → s.wf = true →
    let u := s.atEdge e
    let x := s.ctl c
    let began := u.now - len
    let frame := fun (t : State) => AlsoEvents (canRegs c) { u with can := t.can } t ∧ (∀ j, j ≠ c → t.ctl j = s.ctl j) ∧
      (t.ctl c).freeAt = u.now
    let single := fun (o : Nat) => s.bitOf (R.OBJ_CFG c o) 26 = true
    let waits := fun (o : Nat) (t : State) => (t.canObj c o).pend = (s.canObj c o).pend.map CanReq.newest
    let used := fun (o : Nat) (t : State) =>
      (t.canObj c o).pend = ((s.canObj c o).pend.bind (fun q => q.after began)).map CanReq.newest
    let fails := fun (o tec : Nat) (t : State) =>
      (single o → t.bitOf (R.OBJ_STAT c o) 4 = true ∧ (tec ≤ 255 → used o t)) ∧ (¬single o → waits o t)
    let measured := fun (o tdcv : Nat) (t : State) =>
      s.bitOf (R.OBJ_CFG c o) 29 = true → s.bitOf (R.OBJ_CFG c o) 28 = true → s.bitOf (R.CAN_TDC c) 31 = true →
        t.reg (R.CAN_TDCV c) = BitVec.ofNat 32 (min 127 tdcv) ∧
        (127 < min 127 tdcv + s.fldOf (R.CAN_TDC c) 6 0 → t.bitOf (R.CAN_STAT c) 11 = true)
    (∀ tdcv, ∃ t, exec (.canFrameSent c tdcv len e) s = .next t ∧
      match u.canSending c began with
      | none => t = u
      | some w =>
        frame t ∧ Confined u t c ∧ (t.ctl c).tec = x.tec - 1 ∧ (t.ctl c).recv = x.recv ∧
          t.reg (R.CAN_TXCNT c) = satAdd (s.reg (R.CAN_TXCNT c)) 1 ∧
          match w with
          | .solicit n =>
            (t.ctl c).solicit = x.solicit.drop 1 ∧ (t.ctl c).askedAt = (if n = 0 then x.askedAt else some u.now) ∧
              Sent.can c (BitVec.ofNat 32 (0x1FFF0100 + n + 2 ^ 29)) [1] ∈ t.out.drop s.out.length
          | .object o b =>
            let cfg := s.reg (R.OBJ_CFG c o)
            Sent.can c (BitVec.ofNat 32 (s.fldOf (R.OBJ_ID c o) 28 0 + (bit cfg 27).toNat * 2 ^ 29 +
                (bit cfg 29).toNat * 2 ^ 30 + (bit cfg 28).toNat * 2 ^ 31)) b ∈ t.out.drop s.out.length ∧
              (x.tec ≤ 256 → used o t) ∧ measured o tdcv t ∧
              t.reg (R.OBJ_FRCNT c o) = satAdd (s.reg (R.OBJ_FRCNT c o)) 1 ∧ t.reg (R.OBJ_LASTTICK c o) = s.tickLo ∧
              t.reg (R.OBJ_ATTEMPTS c o) = 0 ∧ t.bitOf (R.OBJ_STAT c o) 5 = false ∧
              ∀ i, i < 16 → t.reg (R.OBJ_DATA c o i) = wAt b (4 * i)) ∧
    (∀ dom tdcv, ∃ t, exec (.canAckError c dom tdcv len e) s = .next t ∧
      match u.canSending c began with
      | none => t = u
      | some w =>
        let inc := if s.canState c = canPASSIVE ∧ dom = false then 0 else 8
        frame t ∧ Confined u t c ∧ t.fldOf (R.CAN_STAT c) 10 8 = 3 ∧ (t.ctl c).recv = min 255 x.recv ∧
          (t.ctl c).tec = x.tec + inc ∧
          ∀ o b, w = .object o b →
            let n := (s.reg (R.OBJ_ATTEMPTS c o)).toNat + 1
            let last := s.fldOf (R.OBJ_LIMITS c o) 31 24 ≤ n
            measured o tdcv t ∧ (single o → t.bitOf (R.OBJ_STAT c o) 4 = true) ∧
            (last → t.reg (R.OBJ_ATTEMPTS c o) = 0 ∧ t.bitOf (R.OBJ_STAT c o) 5 = true ∧
              (t.canObj c o).pend = none ∧ (s.window? 0xA004 c = none → s.room 3 →
                NewEvent u t 0xA004 c (BitVec.ofNat 32 c) (BitVec.ofNat 32 o) (s.reg (R.OBJ_ID c o)) s.tickLo)) ∧
            (¬last → t.reg (R.OBJ_ATTEMPTS c o) = BitVec.ofNat 32 n ∧ fails o (x.tec + inc) t)) ∧
    (∀ lec tx extra tdcv, ∃ t, exec (.canBusError c lec tx extra tdcv len e) s = .next t ∧
      let own := if tx = true ∧ extra ≠ 1 then u.canSending c began else none
      if s.canUp c = false ∧ own = none then t = u
      else
        let inc := if extra = 2 then 0 else if tx || extra == 1 then 8 else 1
        let tec := x.tec + (if tx then inc else 0)
        frame t ∧ Confined u t c ∧ (t.ctl c).tec = tec ∧ (t.ctl c).recv = min 255 (x.recv + if tx then 0 else inc) ∧
          t.fldOf (R.CAN_STAT c) 10 8 = (if 1 ≤ lec ∧ lec ≤ 6 then lec else s.fldOf (R.CAN_STAT c) 10 8) ∧
          ∀ o b, own = some (.object o b) → fails o tec t ∧ ∀ v, tdcv = some v → measured o v t) ∧
    (∃ t, exec (.canArbitrationLost c len e) s = .next t ∧
      match u.canSending c began with
      | none => t = u
      | some w =>
        frame t ∧ OnlyRegs ((List.range 128).map (R.OBJ_STAT c)) { u with can := t.can } t ∧ (t.ctl c).tec = x.tec ∧
          (t.ctl c).recv = x.recv ∧ (t.ctl c).solicit = x.solicit ∧ ∀ o b, w = .object o b → fails o 0 t) ∧
    (∃ t, exec (.busOffRecovery c e) s = .next t ∧
      if s.canLive c = true ∧ s.canState c = canBUSOFF then
        frame t ∧ Confined u t c ∧ (t.ctl c).tec = 0 ∧ (t.ctl c).recv = 0 ∧
          (s.septed c = true → (t.ctl c).solicit = x.solicit ++ [(0, u.now)]) ∧
          (s.window? 0xA003 c = none → s.room 1 → LastEvent t 0xA003 c (BitVec.ofNat 32 c)
            (satWord ((u.now - x.offAt) / 400)) (BitVec.ofNat 32 (s.canPending c)) s.tickLo)
      else t = u) ∧
    ∃ t, exec (.canBusIntegrated c) s = .next t ∧
      if s.canLive c = true ∧ s.canState c = canOFFBUS then
        OnlyRegs [R.CAN_STAT c] { s with can := t.can } t ∧ Confined s t c ∧ (t.ctl c).tec = 0 ∧ (t.ctl c).recv = 0 ∧
          (t.ctl c).freeAt = s.now ∧ t.can.objs = newestPayloads c s.can.objs
      else t = s)

/-- The Septed node protocol and its census (R496 to R503). -/
def Obligations.SeptedNodes : Prop :=
  (∀ (s : State) (c n e : Nat) (b : List Byte), c < 4 → n ≤ 255 → s.wf = true →
    exec (.septedAnnounce c n b e) s = exec (.canFrameReceive c (septedOf 2 n true 11 b) 0 0 e) s ∧
    exec (.septedHeartbeat c n b e) s = exec (.canFrameReceive c (septedOf 3 n false 4 b) 0 0 e) s ∧
    exec (.septedLeave c n b e) s = exec (.canFrameReceive c (septedOf 4 n false 1 b) 0 0 e) s) ∧
  (∀ (s : State) (c n e : Nat) (b : List Byte), c < 4 → n ≤ 255 → s.wf = true → s.canUp c = true → s.septed c = true →
    let u := s.atEdge e
    let ok := 1 ≤ n ∧ n ≤ 127 ∧ uAt b 0 1 = 1
    let frame := fun (t : State) => LanesAct (canRegs c) { u with can := t.can, free := t.free } t
    let discarded := fun (t : State) => t.reg (R.CAN_RXDISC c) = satAdd (s.reg (R.CAN_RXDISC c)) 1 ∧
      t.can.left = s.can.left ∧ CensusOnly s t c none
    let limited := fun (t : State) (code : Nat) (p2 p3 : Word) => s.window? code c = none → s.room 3 →
      NewEvent s t code c (BitVec.ofNat 32 c) (BitVec.ofNat 32 n) p2 p3
    (b.length = 20 → ∃ t, exec (.septedAnnounce c n b e) s = .next t ∧ frame t ∧
      if ¬ok then discarded t
      else
        let free := (List.range 64).find? (fun e => !s.cenBound c e && s.cenState c e == 0)
        let bound := s.cenBoundOf c n
        let holder := s.cenHolder c n
        t.can.left = s.can.left ∧ CensusOnly s t c ((bound.or holder).or free) ∧
        match bound with
        | some k => ∀ r, s.image.rec? secNODES (64 * c + k) 0 = some r →
          if nodeMatches r b = true then CensusJoins u t c k n b
          else t.bitOf (R.CEN_STAT c k) 4 = true ∧ t.cenState c k = s.cenState c k ∧ limited t 0xA008 (wAt b 4) (wAt b 8)
        | none => match holder with
          | some k =>
            if s.cenSame c k b = true then CensusJoins u t c k n b
            else t.bitOf (R.CEN_STAT c k) 3 = true ∧ t.cenState c k = 1 ∧
              t.reg (R.CEN_LASTSEEN c k) = s.reg (R.CEN_LASTSEEN c k) ∧ limited t 0xA009 (wAt b 4) (wAt b 8)
          | none => match free with
            | some k => CensusJoins u t c k n b
            | none => t.reg (R.CAN_CENSUSFULL c) = satAdd (s.reg (R.CAN_CENSUSFULL c)) 1 ∧
                limited t 0xA00A (wAt b 4) s.tickLo) ∧
    (b.length = 4 → ∃ t, exec (.septedHeartbeat c n b e) s = .next t ∧ frame t ∧
      if ¬ok then discarded t
      else
        t.can.left = s.can.left ∧ CensusOnly s t c (s.cenHolder c n) ∧
        match s.cenHolder c n with
        | some k =>
          t.fldOf (R.CEN_STAT c k) 15 8 = uAt b 1 1 ∧ t.cenState c k = 1 ∧ t.cenNode c k = n ∧
            t.reg (R.CEN_LASTSEEN c k) = (if s.dev = stRUN ∨ s.dev = stSAFE then s.tickLo else 0) ∧
            tabGet (fun _ => 0) t.can.seen (64 * c + k) = u.now ∧ (t.ctl c).solicit = (s.ctl c).solicit
        | none =>
          let due := (∀ a, (s.ctl c).askedAt = some a → a + 100 * edgesPerMs ≤ u.now) ∧ ∀ x ∈ (s.ctl c).solicit, x.1 = 0
          (t.ctl c).askedAt = (s.ctl c).askedAt ∧ (due → (t.ctl c).solicit = (s.ctl c).solicit ++ [(n, u.now)]) ∧
            (¬due → (t.ctl c).solicit = (s.ctl c).solicit)) ∧
    (b.length = 1 → ∃ t, exec (.septedLeave c n b e) s = .next t ∧ frame t ∧
      if ¬ok then discarded t
      else
        CensusOnly s t c (s.cenHolder c n) ∧
        match s.cenHolder c n with
        | some k => CensusLeaves u t c k
        | none => t.can.left = s.can.left ∧ t.arch.lanes = s.arch.lanes)) ∧
  (∀ (s : State) (c k e : Nat), c < 4 → k < 64 → s.wf = true →
    let u := s.atEdge e
    ∃ t, exec (.nodeAbsenceTimeout c k e) s = .next t ∧
      if s.canLive c = true ∧ s.canState c ≠ canOFFBUS ∧ s.cenState c k = 1 ∧
          tabGet (fun _ => 0) s.can.seen (64 * c + k) + s.fldOf (R.CAN_CTRL c) 15 0 * edgesPerMs ≤ u.now + edgesPerMs then
        LanesAct [R.CEN_STAT c k] { u with can := { u.can with left := t.can.left } } t ∧ CensusLeaves u t c k
      else t = u) ∧
  (∀ (s : State), s.wf = true →
    let u : State := { s with can := { s.can with left := [] } }
    ∃ t, exec .nodeLeaveStale s = .next t ∧
      if s.running = false then t = u
      else
        AlsoEvents (lanesRegs ++ (List.range 8).map R.SEQ_FALSESTART)
          { u with staged := t.staged, arch := { u.arch with lanes := t.arch.lanes } } t ∧
        (∀ x, x ∈ t.staged ↔ x ∈ s.staged ∨ ∃ c k o i, (c, k) ∈ s.can.left ∧ o ∈ s.canObjs c false ∧
          s.bitOf (R.OBJ_NODE c o) 31 = true ∧ s.fldOf (R.OBJ_NODE c o) 5 0 = k ∧ i < s.fldOf (R.OBJ_CFG c o) 11 8 ∧
          x = staleWrite s c o i) ∧
        ∀ k, k < 8 → if s.tileUsable k = true then NodeReacted s t k else t.lane k = s.lane k)

/-- The commands of the recipe sequencer (R215 to R276). -/
def Obligations.LaneSteps : Prop :=
  (∀ (s : State) (k : Nat), s.laneOn k = true ↔ s.running = true ∧ s.tileUsable k = true) ∧
  (∀ (s : State) (k e : Nat), k < 8 → s.wf = true →
    let u := s.atEdge e
    ∃ w, LaneTimed u w k ∧
      (∃ t, exec (.stepExit k e) s = .next t ∧
        if s.laneOn k = true then LaneExits w t k (w.timersDue k ||| w.trigsTrue k) else t = u) ∧
      (∀ i, i < 4 → ∃ t, exec (.triggerConditionMet k i e) s = .next t ∧
        if s.laneOn k = false then t = u
        else if (w.trigsTrue k).testBit i = true then LaneExits w t k (w.timersDue k ||| w.trigsTrue k)
        else t = w) ∧
      (∀ i, i < 4 → ∃ t, exec (.timerCondition k i e) s = .next t ∧
        if s.laneOn k = false then t = u
        else if (w.timersDue k).testBit i = true then LaneExits w t k (w.timersDue k ||| w.trigsTrue k)
        else t = w) ∧
      ∃ t, exec (.stepTimeout k e) s = .next t ∧
        if s.laneOn k = false then t = u
        else if (w.timersDue k).testBit 4 = true then LaneExits w t k (w.timersDue k ||| w.trigsTrue k)
        else t = w) ∧
  (∀ (s : State) (k : Nat), k < 8 → s.wf = true →
    let l := s.lane k
    let others := fun (t : State) => ∀ j, j ≠ k → t.lane j = s.lane j
    (∃ t, exec (.stepEnter k) s = .next t ∧
      match l.exit with
      | none => t = s
      | some x =>
        if s.laneOn k = false then t = s
        else
          AlsoEvents [R.SEQ_RAMPEVICT k] { s with arch := { s.arch with lanes := t.arch.lanes } } t ∧ others t ∧
            (t.lane k).exitReg = s.exitWord k x.cause x.target ∧ (t.lane k).exit = none ∧ Took s t k x.target false) ∧
    (∃ t, exec (.abortmaxExceeded k) s = .next t ∧
      if s.laneOn k = true ∧ l.state = lnABORTING ∧ recAbortMax (s.laneRec k) ≠ 0 ∧
          l.abortTe + recAbortMax (s.laneRec k) * edgesPerUs < s.now then
        AlsoEvents [R.SEQ_FALSESTART k] { s with arch := { s.arch with lanes := t.arch.lanes } } t ∧ others t ∧
          t.reg (R.SEQ_FALSESTART k) = satAdd (s.reg (R.SEQ_FALSESTART k)) (falseStarts s k none) ∧
          (t.lane k).state = lnFAULT ∧ (t.lane k).faultCause = 2 ∧ (t.lane k).ramps = [] ∧ (t.lane k).exit = none ∧
          (t.lane k).exitReg = BitVec.ofNat 32 (9 * 2 ^ 28 + l.step * 65536 + 0xFFF1) ∧
          (s.room 1 → LastEvent t 0xE101 k (BitVec.ofNat 32 k) (BitVec.ofNat 32 (lnABORTING * 256 + lnFAULT))
            (BitVec.ofNat 32 l.recipe) s.tickLo)
      else t = s) ∧
    ∃ t, exec (.nodeLostReaction k) s = .next t ∧
      if s.laneOn k = true then
        AlsoEvents (R.SEQ_FALSESTART k :: R.SEQ_RAMPEVICT k :: laneRegs k)
          { s with arch := { s.arch with lanes := t.arch.lanes } } t ∧ others t ∧ NodeReacted s t k
      else t = s) ∧
  (∀ (s : State) (k b : Nat) (edge next : Bool) (e : Nat), k < 8 → b < 2 → s.wf = true → (s.lane k).stopAt = none →
    let u := s.atEdge e
    ∃ t, exec (.bankBuildComplete k b edge next e) s = .next t ∧
      t = { u with arch := { u.arch with lanes := t.arch.lanes } } ∧ (∀ j, j ≠ k → t.lane j = s.lane j) ∧
      t.lane k = { s.lane k with banks := (t.lane k).banks } ∧
      (t.lane k).banks.length = (s.lane k).banks.length ∧ (∀ j, j ≠ b → (t.lane k).banks[j]? = (s.lane k).banks[j]?) ∧
      ∀ x, (s.lane k).banks[b]? = some x →
        let y : Bank :=
          if edge then (if next then { x with doneNext := some u.now } else { x with done := some u.now })
          else (if next then { x with tdoneNext := some u.now } else { x with tdone := some u.now })
        (t.lane k).banks[b]? = some y ∧ (edge = true → next = false → x.since ≤ u.now → t.bankReady k y = true) ∧
          (edge = false → next = false → x.tsince ≤ u.now → t.bankTickReady k y = true))

/-- Traces, trigger engines and laps (R277 to R310). -/
def Obligations.TracesAndLaps : Prop :=
  (∀ (s : State) (k : Nat), k < 8 → s.wf = true →
    let x := s.traceX k
    let others := fun (t : State) => t.acq = { s.acq with traces := t.acq.traces } ∧
      ∀ j, j ≠ k → t.traceX j = s.traceX j
    (∃ t, exec (.traceIntervalClose k) s = .next t ∧
      if x.closed = [] then t = s
      else
        OnlyRegs [R.ACQ_QPEAK k] { s with acq := t.acq } t ∧ others t ∧
          t.traceX k = { x with closed := [], queue := x.queue ++ x.closed } ∧
          (t.reg (R.ACQ_QPEAK k)).toNat = max (s.reg (R.ACQ_QPEAK k)).toNat (min (t.queueFill k) 0xFFFFFFFF)) ∧
    ∃ t, exec (.traceFrameWrite k) s = .next t ∧
      match x.queue with
      | [] => t = s
      | f :: r =>
        let size := (s.ringAt k).2
        let stopped := s.bitOf (R.ACQ_TSTAT k) 2
        let lost := fun n => t.reg (R.ACQ_TLOSTFR k) = satAdd (s.reg (R.ACQ_TLOSTFR k)) n
        let tstat := fun (w : Word) => t.reg (R.ACQ_TSTAT k) = w
        let w := s.reg (R.ACQ_TSTAT k)
        AlsoEvents [R.ACQ_TWPOS_LO k, R.ACQ_TWPOS_HI k, R.ACQ_TRPOS_LO k, R.ACQ_TRPOS_HI k, R.ACQ_TOLDPOS_LO k,
          R.ACQ_TOLDPOS_HI k, R.ACQ_TLOSTFR k, R.ACQ_TSTAT k] { s with
            acq := t.acq, dram := t.dram, integ := { s.integ with scans := t.integ.scans } } t ∧ others t ∧
          (t.traceX k).queue = r ∧ (t.traceX k).closed = x.closed ∧
        if s.ringStop k = false then
          ∃ n, (∀ m, m < n → ∃ y, x.ring[m]? = some y ∧ y.1 + size < s.wpos k + f.len) ∧
            (∀ y, x.ring[n]? = some y → s.wpos k + f.len ≤ y.1 + size) ∧ RingGrew s t k f (x.ring.drop n) ∧ lost n ∧
            (t.traceX k).gap = x.gap ∧ tstat (if n = 0 then w else w ||| 16) ∧
            t.rpos k = (if n = 0 then s.rpos k else max (s.rpos k) (t.oldpos k)) ∧
            (n ≠ 0 → s.window? 0xE202 k = none → s.room 1 → NewEvent s t 0xE202 k (BitVec.ofNat 32 k) 1
              (BitVec.ofNat 32 (t.oldpos k)) s.tickLo)
        else
          t.rpos k = s.rpos k ∧
          if s.wpos k + f.len + 16 ≤ s.rpos k + size then
            RingGrew s t k (if stopped then { f with flags := f.flags + 2 } else f) x.ring ∧ lost 0 ∧
              (stopped = false → (t.traceX k).gap = x.gap ∧ tstat w ∧ t.evr = s.evr) ∧
              (stopped = true → (t.traceX k).gap = 0 ∧ tstat (w &&& ~~~(4 : Word)) ∧
                (s.room 1 → LastEvent t 0xE204 k (BitVec.ofNat 32 k) (satWord x.gap) 0 0))
          else
            lost 1 ∧ (t.traceX k).gap = x.gap + 1 ∧
              (stopped = true → (t.traceX k).ring = x.ring ∧ t.dram = s.dram ∧ t.wpos k = s.wpos k ∧
                t.oldpos k = s.oldpos k ∧ tstat w ∧ t.integ = s.integ ∧ t.evr = s.evr) ∧
              (stopped = false → RingGrew s t k ⟨1, f.tick, []⟩ x.ring ∧ tstat (w ||| 12) ∧
                (s.room 1 → LastEvent t 0xE203 k (BitVec.ofNat 32 k) (BitVec.ofNat 32 f.tick) 0 0))) ∧
  (∀ (s : State) (e : Nat), e < 32 → s.wf = true →
    let g := s.eng e
    let others := fun (t : State) => t.acq = { s.acq with engines := t.acq.engines } ∧ ∀ j, j ≠ e → t.eng j = s.eng j
    (∃ t, exec (.lapComplete e) s = .next t ∧
      match s.cap? e, g.lap with
      | some c, some l =>
        if c.len ≤ c.pre + 1 + l.after.length then
          AlsoEvents [R.CAP_STAT e, R.ACQ_QPEAK (e / 4)] { s with acq := t.acq } t ∧ others t ∧ LapDone s t e c l ∧
            t.eng e = { g with lap := (t.eng e).lap, done := (t.eng e).done }
        else t = s
      | _, _ => t = s) ∧
    (∃ t, exec (.lapHeaderWritten e) s = .next t ∧
      match s.cap? e, g.done with
      | some c, l :: r =>
        OnlyRegs [R.CAP_WSEQ_LO e, R.CAP_WSEQ_HI e] { s with
            acq := t.acq, dram := t.dram, integ := { s.integ with scans := t.integ.scans } } t ∧ others t ∧
          t.eng e = { g with done := r } ∧ t.reg64 (R.CAP_WSEQ_LO e) = BitVec.ofNat 64 (l.seq + 1) ∧
          match s.image.part? 2 (e / 4) (e % 4) with
          | some p => DramPut s t (l.bytes e c) (fun i => p.base * dramPage + (l.seq - s.bseq e) * c.lapSize + i)
          | none => t.dram = s.dram ∧ t.integ = s.integ
      | _, _ => t = s) ∧
    ∀ at_, let u := s.atEdge at_
      let settled := fun (v : State) => match s.cap? e with | some c => LapSettled u v e c | none => v = u
      (∃ t v, exec (.lapRearm e at_) s = .next t ∧ settled v ∧
        let drained := s.cseq e = s.wseq e ∧ (v.eng e).done = []
        if s.records = true ∧ (v.engState e = engREARM ∨ ((v.engState e = engFULL ∨ v.engState e = engDONE) ∧ drained)) then
          OnlyRegs [R.CAP_STAT e, R.CAP_BSEQ_LO e, R.CAP_BSEQ_HI e] { v with acq := t.acq } t ∧ others t ∧
            t.eng e = { v.eng e with armedAt := u.now, store := [], lap := none } ∧ t.engState e = engARMED ∧
            t.bseq e = (if s.cseq e = s.wseq e then s.wseq e else s.bseq e)
        else t = v) ∧
      (∃ t v, exec (.forcedTrigger e at_) s = .next t ∧ settled v ∧
        match s.cap? e with
        | none => t = u
        | some c =>
          if s.records = true ∧ c.fault = false ∧ v.engState e = engARMED ∧
              (v.eng e).armedAt + c.timeout * edgesPerUs ≤ u.now then
            AlsoEvents captureRegs { v with acq := t.acq } t ∧ others t ∧ LapTaken v t e c true 0xFF ∧
              (t.eng e).occAt = g.occAt
          else t = v) ∧
      ∀ m, ∃ t w z, exec (.triggerOccurrence e m at_) s = .next t ∧ LanesAct [] u w ∧ LanesAct [] z t ∧
        match s.cap? e with
        | none => z = w
        | some c =>
          if s.records = false then z = w
          else
            let new := fun i => m.testBit i && ((c.conds.map (·.typ)).getD i 0 != 0) && !(s.condSt e i).st
            let l := (List.range 8).filter new
            let p := l.headD 0xFF
            let y := { w with arch := { w.arch with conds := z.arch.conds } }
            (∀ j i, j < 32 → i < 8 →
              z.condSt j i = if j = e ∧ new i = true then { s.condSt e i with st := true } else s.condSt j i) ∧
            (l = [] → z = y) ∧
            (l ≠ [] → ∃ v, LapSettled y v e c ∧ AlsoEvents captureRegs { v with acq := z.acq } z ∧ others z ∧
              (z.eng e).occAt = some u.now ∧
              let missed := fun n => z.reg (R.CAP_MISSED e) = satAdd (v.reg (R.CAP_MISSED e)) n
              let late := missed (if g.occAt = some u.now then 0 else 1) ∧ (z.eng e).lap = (v.eng e).lap
              if v.engState e = engARMED ∧ g.armedAt ≠ u.now then LapTaken v z e c false p
              else match (v.eng e).lap with
                | some x =>
                  if x.cycle = u.now ∧ x.forced = true then
                    missed 0 ∧ z.reg (R.CAP_FORCED e) = x.forcedWas ∧ (z.eng e).lap = some { x with
                      forced := false, primary := p, mask := z.condMask e, tick := v.tickAt u.now, tns := v.tnsAt u.now
                      sec := v.secAt u.now }
                  else if x.cycle = u.now then
                    missed 0 ∧ z.reg (R.CAP_FORCED e) = v.reg (R.CAP_FORCED e) ∧
                      (z.eng e).lap = some { x with primary := min x.primary p, mask := z.condMask e }
                  else late
                | none => late))

/-- Check-value channels and in-service lane tests (R616 to R638). -/
def Obligations.ScansAndLaneTests : Prop :=
  (∀ b : List Byte, b = [0x31, 0x32, 0x33, 0x34, 0x35, 0x36, 0x37, 0x38, 0x39] →
    crcOfPoly 0 b = 0xCBF43926 ∧ crcOfPoly 1 b = 0xE3069283 ∧ crcOfPoly 2 b = 0x29B1 ∧
      crcOfPoly 3 b = 0x6C40DF5F0B497347) ∧
  (∀ (s : State) (c e : Nat), c < 8 → s.wf = true →
    let u := s.atEdge e
    let regs := [R.CHK_STAT c, R.CHK_RES_LO c, R.CHK_RES_HI c, R.CHK_DONE c]
    let scans := fun (turn : Nat) (t : State) (x : Option ChkScan) => t.scan? c = x ∧ (∀ j, j ≠ c → t.scan? j = s.scan? j) ∧
      t.integ = { s.integ with scans := t.integ.scans, turn := turn }
    let error := fun (turn : Nat) (t : State) (err done : Nat) => scans turn t none ∧ t.fldOf (R.CHK_STAT c) 1 0 = 3 ∧
      t.fldOf (R.CHK_STAT c) 7 4 = err ∧ t.fldOf (R.CHK_STAT c) 31 8 = 0 ∧ t.reg (R.CHK_RES_LO c) = 0 ∧
      t.reg (R.CHK_RES_HI c) = 0 ∧ t.reg (R.CHK_DONE c) = satWord done
    (∀ space poly, ∃ t, exec (.chkStart c space poly e) s = .next t ∧
      OnlyRegs (R.CHK_CTRL c :: regs) { u with integ := t.integ } t ∧
      t.reg (R.CHK_CTRL c) = BitVec.ofNat 32 (space % 4 * 2 ^ 26 + poly % 4 * 2 ^ 24) ∧
      let addr := (s.reg (R.CHK_ADDR c)).toNat
      let len := (s.reg (R.CHK_LEN c)).toNat
      if (s.scan? c).isSome = true then t.integ = s.integ ∧ ∀ a ∈ regs, t.reg a = s.reg a
      else if addr % 4 ≠ 0 ∨ len % 4 ≠ 0 ∨ len = 0 ∨ s.chkSize (space % 4) < addr + len ∨ space % 4 = 3 then
        error s.integ.turn t 1 0
      else
        let x : ChkScan := ⟨space % 4, poly % 4, addr, len, false⟩
        scans s.integ.turn t (some { x with dirty := s.chkOpen x }) ∧
        t.reg (R.CHK_STAT c) = 1 ∧ t.reg (R.CHK_DONE c) = 0 ∧ t.reg (R.CHK_RES_LO c) = s.reg (R.CHK_RES_LO c) ∧
          t.reg (R.CHK_RES_HI c) = s.reg (R.CHK_RES_HI c)) ∧
    (∀ done, ∃ t, exec (.chkAbort c done e) s = .next t ∧
      match s.scan? c with
      | none => t = u
      | some x => OnlyRegs regs { u with integ := t.integ } t ∧ error s.integ.turn t 3 (min x.len (done / 4 * 4))) ∧
    ∀ ecc, ∃ t, exec (.chkScanDone c ecc e) s = .next t ∧
      match s.scan? c, ecc with
      | none, _ => t = u
      | some x, some a =>
        OnlyRegs (R.CHK_ERRADDR c :: regs) { u with integ := t.integ } t ∧ error c t 2 (min x.len (a - x.addr)) ∧
          t.reg (R.CHK_ERRADDR c) = satWord a
      | some x, none =>
        OnlyRegs regs { u with integ := t.integ, free := t.free } t ∧ scans c t none ∧ t.reg (R.CHK_STAT c) = 2 ∧
          t.reg (R.CHK_DONE c) = satWord x.len ∧
          (x.dirty = false → t.free = s.free ∧
            t.reg64 (R.CHK_RES_LO c) = BitVec.ofNat 64 (crcOfPoly x.poly (s.chkBytes x))) ∧
          (x.dirty = true → t.free = s.free + 1 ∧
            (x.poly = 0 ∨ x.poly = 1 → t.reg (R.CHK_RES_HI c) = 0) ∧
            (x.poly = 2 → t.reg (R.CHK_RES_HI c) = 0 ∧ t.fldOf (R.CHK_RES_LO c) 31 16 = 0))) ∧
  (∀ (s : State) (k : Nat), k < 8 → s.wf = true →
    let x := s.integ.laneTest.getD k none
    let test := fun (y : Option Nat) => { s with integ := { s.integ with laneTest := modifyAt s.integ.laneTest k (fun _ => y) } }
    (∃ t, exec (.laneTestPeriod k) s = .next t ∧
      if s.laneTests k = false then t = s
      else match x with
        | none => t = test (some 0)
        | some _ => OnlyRegs [R.BIST_ISTLATE] s t ∧ t.reg R.BIST_ISTLATE = satAdd (s.reg R.BIST_ISTLATE) 1) ∧
    (∃ t, exec (.laneTestYield k) s = .next t ∧
      if s.laneTests k = false ∨ x = none then t = s
      else OnlyRegs [R.BIST_ISTABORT] s t ∧ t.reg R.BIST_ISTABORT = satAdd (s.reg R.BIST_ISTABORT) 1) ∧
    ∀ pass sig, ∃ t, exec (.laneTestSegmentDone k pass sig) s = .next t ∧
      match x with
      | none => t = s
      | some n =>
        if s.laneTests k = false then t = s
        else if pass = true then
          if n + 1 < 64 then t = test (some (n + 1))
          else OnlyRegs [R.BIST_ISTCNT] (test none) t ∧ t.reg R.BIST_ISTCNT = satAdd (s.reg R.BIST_ISTCNT) 1
        else
          AlsoEvents testRegs { test none with power := t.power, arch := { s.arch with lanes := t.arch.lanes } } t ∧
            (∀ j, t.lane j = if j = k ∧ s.presentBit k = true then
              { s.lane k with stopAt := some ((s.lane k).stopAt.getD s.now) } else s.lane j) ∧
            t.power = (if s.dev = stRUN then { s.power with safeDue := 2 } else s.power) ∧
            (∀ u, u < 64 → t.failedBit u = (s.failedBit u || (s.presentBit u && u == unitTile k))) ∧
            t.nrec = max s.nrec (min 64 (s.nrec + 1)) ∧
            t.reg R.BIST_OVFL = satAdd (s.reg R.BIST_OVFL) (s.nrec + 1 - t.nrec) ∧
            (s.nrec < 64 → ∀ i, i < 4 → t.reg (R.BIST_RES (4 * s.nrec + i)) =
              (testWords ⟨5, vdFAIL, 0xFF, 0xA000 + 256 * k, 0, sig.toNat⟩ (s.reg R.PWR_OPSEC)).getD i 0) ∧
            (s.room 1 → LastEvent t 0x8002 noSource (BitVec.ofNat 32 (0xA000 + 256 * k)) (BitVec.ofNat 32 (unitTile k)) sig
              s.tickLo))

/-- The safety island (R562 to R582). The zero parameters of EV_SAFE_ISLAND_FAULT and EV_SAFE_BRAKE_OVERDUE and the free
result of EV_SAFE_BRAKE_TEST are the model's (log 61). -/
def Obligations.SafetyIsland : Prop :=
  (∀ (s : State) (x lv fault : Nat) (found : TestRec) (e : Nat), x < 2 → s.wf = true →
    fault = 0 ∨ fault = 2 ∨ fault = 3 ∨ fault = 5 ∨ fault = 6 →
    let u := s.atEdge e
    ∃ t, exec (.islandCycle x lv fault found e) s = .next t ∧
      if s.hasIsland = false ∨ s.istate = islBOOT then t = u
      else if fault = 3 ∧ s.istate ≠ islFAULT then ∃ v, IslandTestFailed u v x found ∧ IslFaulted v t 3
      else if fault ≠ 0 then IslFaulted u t fault
      else if s.istate = islUNCONF then
        if s.safe.again = false then t = u
        else
          IslFrame [] u t ∧ t.power = s.power ∧ t.arch = s.arch ∧ t.istate = islRUN ∧ t.bitOf R.SAFE_STAT 3 = false ∧
            HoldsForced t ∧ t.safe.again = false ∧ t.safe.cfg = s.safe.cfg ∧ t.safe.cfault = s.safe.cfault ∧
            t.safe.req = 0 ∧ ∀ y, y < 2 → (t.isl y).on = 0 ∧ ∀ q, q < 16 →
              let d := decide (eqOp s.safe.cfg q = 1 ∨ eqOp s.safe.cfg q = 2) && eqLatch s.safe.cfg q
              ((t.isl y).eqs.getD q {}).dem = d ∧ ((t.isl y).eqs.getD q {}).held = d ∧
                ((t.isl y).eqs.getD q {}).acts = false
      else ∃ v, IslEvaluated u v x lv ∧
        if s.istate ≠ islRUN then t = v
        else if v.islVector 0 = v.islVector 1 then t = { v with safe := { v.safe with differ := 0 } }
        else if 1 ≤ s.safe.differ then IslFaulted v t 1
        else t = { v with safe := { v.safe with differ := v.safe.differ + 1 } }) ∧
  (∀ (s : State) (e : Nat), s.wf = true →
    let u := s.atEdge e
    (∃ t, exec (.safeNReadbackFault e) s = .next t ∧ IslFaulted u t 4) ∧
    (∀ p f, p < 2 → 8 ≤ uAt f 3 1 → ∃ t, exec (.safetyFrameReceive p f e) s = .next t ∧
      let a := if s.hasIsland = true then R.NET_RXCNT p else R.NET_RXDISC p
      if s.portRuns p = true then
        OnlyRegs [a] (u.frameOn p) t ∧ t.reg a = satAdd (s.reg a) 1
      else t = u) ∧
    (∃ t, exec .sfaultRise s = .next t ∧
      t = if s.sfault = true ∧ s.dev = stRUN then { s with power := { s.power with safeDue := 4 } } else s) ∧
    (∀ i, i < 16 → ∃ t, exec (.discrepancyLockout i e) s = .next t ∧
      let past : IslIn → Bool := fun q => match q.dis with
        | some t0 => !q.lock && decide (inDisc s.safe.cfg i * edgesPerMs < u.now - t0)
        | none => false
      let q := fun x => (s.isl x).ins.getD i {}
      let comb := ((if past (q 0) then (q 0).comb else (q 1).comb).getD 0)
      AlsoEvents [] { u with safe := { u.safe with chans := t.safe.chans } } t ∧
        (∀ x, x < 2 → t.isl x = { s.isl x with ins := (t.isl x).ins } ∧
          (t.isl x).ins.getD i {} = (if past (q x) then { q x with lock := true, val := false } else q x) ∧
          ∀ j, j ≠ i → (t.isl x).ins.getD j {} = (s.isl x).ins.getD j {}) ∧
        if (past (q 0) || past (q 1)) = true ∧ (q 0).lock = false ∧ (q 1).lock = false then
          s.room 1 → LastEvent t 0x7003 i (BitVec.ofNat 32 i) (BitVec.ofNat 32 (comb % 2)) (BitVec.ofNat 32 (comb / 2)) s.tickLo
        else t.evr = s.evr) ∧
    ∀ q, q < 16 → ∃ t, exec (.demandDelayExpiry q e) s = .next t ∧
      t = { u with safe := { u.safe with chans := t.safe.chans } } ∧
      ∀ x, x < 2 →
        let o := (s.isl x).eqs.getD q {}
        let p := o.next (eqLatch s.safe.cfg q) (eqDelay s.safe.cfg q) u.now o.dem o.rst.isSome
        if p.acts = true then
          (t.isl x).on = (s.isl x).on &&& (255 - eqChans s.safe.cfg q) ∧
            (t.isl x).eqs = modifyAt (s.isl x).eqs q (fun _ => { o with acts := true, due := p.due }) ∧
            t.isl x = { s.isl x with on := (t.isl x).on, eqs := (t.isl x).eqs }
        else t.isl x = s.isl x) ∧
  (∀ (s : State) (c e : Nat), c < 8 → s.wf = true →
    let u := s.atEdge e
    let b := s.safe.cfg
    let p := s.safe.pulses.getD c {}
    let pulse := fun (q : IslPulse) => { u with safe := { u.safe with pulses := modifyAt u.safe.pulses c (fun _ => q) } }
    (∀ bfb, ∃ t, exec (.readbackMismatch c bfb e) s = .next t ∧
      if (s.istate = islRUN ∨ s.istate = islFAULT) ∧ chKind b c ≠ 0 ∧ s.safe.cfault.testBit c = false ∧ p.phase = 0 ∧
          bfb ≠ s.energised c then
        ChanFaulted u t c 0x7004 (s.energised c) bfb
      else t = u) ∧
    (∃ t, exec (.testPulseStart c e) s = .next t ∧
      if s.istate = islRUN ∧ chKind b c ≠ 0 ∧ p.phase = 0 ∧ (s.hold c).step = 0 ∧ s.chanDemand c = false ∧
          s.safe.cfault.testBit c = false ∧ p.last + chTpi b c * edgesPerMs ≤ u.now then
        t = pulse { p with phase := if s.energised c then 1 else 2, n := p.n + 1, drop := false }
      else t = u) ∧
    ∀ bfb, ∃ t, exec (.testPulseEnd c bfb e) s = .next t ∧
      let v := pulse { p with phase := 0, drop := false, last := u.now }
      if p.phase = 0 then t = u
      else if p.drop = true then t = v
      else if bfb = decide (p.phase = 2) then
        OnlyRegs [R.SAFE_TPCNT c] v t ∧ t.reg (R.SAFE_TPCNT c) = satAdd (s.reg (R.SAFE_TPCNT c)) 1
      else ChanFaulted v t c 0x7005 (decide (p.phase = 2)) bfb) ∧
  (∀ (s : State) (c : Nat), c < 8 → s.wf = true →
    let b := s.safe.cfg
    let n := chAxis b c
    let h := s.hold c
    let tests := s.istate = islRUN ∧ chTests b c = true
    let since := (s.reg R.PWR_OPSEC).toNat - (s.reg (R.SAFE_HTLAST c)).toNat
    let steps := fun (t : State) (l : List Nat) =>
      AlsoEvents l { s with safe := t.safe, arch := { s.arch with axes := t.arch.axes } } t ∧
        (∀ j, j ≠ n → t.axis j = s.axis j) ∧ (∀ j, j ≠ c → t.hold j = s.hold j)
    (∃ t, exec (.holdingTestDue c) s = .next t ∧
      if tests ∧ chHtint b c * 3600 ≤ since then t = { s with safe := { s.safe with due := s.safe.due ||| 2 ^ c } }
      else t = s) ∧
    (∃ t, exec (.holdingTestOverdue c) s = .next t ∧
      if tests ∧ s.safe.overdue.testBit c = false ∧ (chHtint b c + chHtgrace b c) * 3600 ≤ since then
        AlsoEvents [] { s with safe := { s.safe with overdue := s.safe.overdue ||| 2 ^ c } } t ∧
          (s.room 1 → LastEvent t 0x7007 c 0 0 0 0)
      else t = s) ∧
    (∃ t, exec (.holdingTestStart c) s = .next t ∧
      if tests ∧ s.safe.due.testBit c = true ∧ h.step = 0 ∧ s.dev = stRUN ∧ s.warm.phase = .none ∧
          s.chanDemand c = false ∧ (s.axis n).st = axIDLE ∧ (s.safe.pulses.getD c {}).phase = 0 then
        steps t [] ∧ t.evr = s.evr ∧ t.safe = { s.safe with chans := t.safe.chans, holds := t.safe.holds } ∧
          t.hold c = { step := 1 } ∧ t.axis n = { s.axis n with st := axBRAKETEST } ∧
          ∀ x, x < 2 → t.isl x = { s.isl x with on := (s.isl x).on &&& (255 - 2 ^ c) }
      else t = s) ∧
    ∃ t, exec (.holdingTestStepEnd c) s = .next t ∧
      let same := t.evr = s.evr ∧ t.safe = { s.safe with holds := t.safe.holds }
      if h.step = 1 then
        steps t [] ∧ same ∧ t.hold c = { h with step := 2, p0 := (s.axis n).act } ∧
          (n < 64 → t.axis n = { s.axis n with tq := chHtq b c })
      else if h.step = 2 then
        steps t [] ∧ same ∧ t.hold c = { h with step := 3 } ∧ (n < 64 → t.axis n = { s.axis n with tq := fneg (chHtq b c) })
      else if h.step = 3 then
        steps t [R.SAFE_HTDEV c, R.SAFE_HTLAST c] ∧ t.hold c = { h with step := 4 } ∧
          (n < 64 → t.axis n = { s.axis n with tq := 0 }) ∧ t.reg (R.SAFE_HTDEV c) = h.dev ∧
          t.reg (R.SAFE_HTLAST c) = s.reg R.PWR_OPSEC ∧ t.safe.brkfail.testBit c = false ∧
          t.safe.due.testBit c = false ∧ t.safe.overdue.testBit c = false ∧
          t.safe = { s.safe with
            holds := t.safe.holds, brkfail := t.safe.brkfail, due := t.safe.due, overdue := t.safe.overdue } ∧
          (∀ j, j < 8 → j ≠ c → t.safe.brkfail.testBit j = s.safe.brkfail.testBit j ∧
            t.safe.due.testBit j = s.safe.due.testBit j ∧ t.safe.overdue.testBit j = s.safe.overdue.testBit j) ∧
          (s.room 1 → LastEvent t 0x7006 c (BitVec.ofNat 32 c) (Config.brakeResult true) h.dev s.tickLo)
      else if h.step = 4 then
        steps t [] ∧ same ∧ t.hold c = {} ∧
          t.axis n = (if (s.axis n).st = axBRAKETEST then { s.axis n with st := axIDLE, tq := 0 } else s.axis n)
      else t = s) ∧
  (∀ (s : State) (c e : Nat), c < 8 → s.wf = true →
    let u := s.atEdge e
    let b := s.safe.cfg
    let works := s.hasIsland = true ∧ s.running = true ∧ b ≠ []
    let conn := fun (t : State) => t.safe = { s.safe with conns := t.safe.conns } ∧ ∀ j, j ≠ c → t.conn j = s.conn j
    (∀ waitA waitB, ∃ t, exec (.safetyFrameSend c waitA waitB e) s = .next t ∧
      let waits := [R.ARB_WAITCNT 4, R.ARB_WAITMAX 4, R.ARB_WAITCNT 5, R.ARB_WAITMAX 5]
      t.reg (R.ARB_WAITCNT 4) = satAdd (s.reg (R.ARB_WAITCNT 4)) waitA ∧
      t.reg (R.ARB_WAITCNT 5) = satAdd (s.reg (R.ARB_WAITCNT 5)) waitB ∧
      if works ∧ cnTx b c = true ∧ s.runningPorts ≠ [] then
        let n := ((s.conn c).tx + 1) % 2 ^ 32
        let bits := s.islInputs 0 +
          65536 * (List.range 16).foldl (fun a q => a + (!((s.isl 0).eqs.getD q {}).dem).toNat * 2 ^ q) 0
        OnlyRegs (R.NET_TXCNT 0 :: R.NET_TXCNT 1 :: waits) { u with safe := t.safe, out := t.out } t ∧ conn t ∧
          t.conn c = { s.conn c with tx := n } ∧
          (∀ p, p < 2 → s.portRuns p = true → t.reg (R.NET_TXCNT p) = satAdd (s.reg (R.NET_TXCNT p)) 1) ∧
          ∃ f, t.out = s.out ++ s.runningPorts.map (fun p => Sent.safety p (cnPeer b c) f) ∧ f.length = 32 ∧
            uAt f 0 2 = 0x4453 ∧ uAt f 2 1 = 1 ∧ uAt f 3 1 = c ∧ uAt f 4 4 = n ∧ uAt f 8 4 = bits ∧
            uAt f 12 4 = 2 ^ 32 - 1 - bits ∧ uAt f 16 8 = s.uidLow ∧ uAt f 24 4 = crc32c (f.take 24) ∧
            uAt f 28 4 = crc32iso (f.take 24)
      else OnlyRegs waits u t) ∧
    (∃ t, exec (.safetyWatchdog c e) s = .next t ∧
      if works ∧ cnRx b c = true ∧ (s.conn c).st ≠ 2 ∧ (s.conn c).since + cnWdt b c * edgesPerMs ≤ u.now then
        AlsoEvents [R.SAFE_WDCNT c] { u with safe := t.safe } t ∧ conn t ∧
          t.reg (R.SAFE_WDCNT c) = satAdd (s.reg (R.SAFE_WDCNT c)) 1 ∧
          t.conn c = { s.conn c with st := 2, good := 0 } ∧ ConnFaulted u t c 1 (((s.conn c).pair).getD 0)
      else t = u) ∧
    ∀ p f, p < 2 → uAt f 3 1 = c → ∃ t, exec (.safetyFrameReceive p f e) s = .next t ∧
      if works ∧ s.portRuns p = true ∧ cnRx b c = true then
        let q := s.conn c
        let n := uAt f 4 4
        let counts := fun (ok err bad : Nat) => t.reg (R.SAFE_RXOK c) = satAdd (s.reg (R.SAFE_RXOK c)) ok ∧
          t.reg (R.SAFE_RXERR c) = satAdd (s.reg (R.SAFE_RXERR c)) err ∧
          t.reg (R.SAFE_MISMATCH c) = satAdd (s.reg (R.SAFE_MISMATCH c)) bad
        let ahead := fun (m k : Nat) => 1 ≤ (m + 2 ^ 32 - k) % 2 ^ 32 ∧ (m + 2 ^ 32 - k) % 2 ^ 32 < 2 ^ 31
        let valid := f.length = 32 ∧ uAt f 0 2 = 0x4453 ∧ uAt f 2 1 = 1 ∧ uAt f 16 8 = cnUid b c ∧
          uAt f 12 4 = 2 ^ 32 - 1 - uAt f 8 4 ∧ uAt f 24 4 = crc32c (f.take 24) ∧ uAt f 28 4 = crc32iso (f.take 24) ∧
          ∀ k, q.last.getD p none = some k → ahead n k
        AlsoEvents [R.NET_RXCNT p, R.BATON_ORPHAN, R.SAFE_RXOK c, R.SAFE_RXERR c, R.SAFE_MISMATCH c]
            { u with safe := t.safe, net := { u.net with held := t.net.held } } t ∧
          t.reg (R.NET_RXCNT p) = satAdd (s.reg (R.NET_RXCNT p)) 1 ∧ conn t ∧ (p ≠ s.holder → t.net.held = s.net.held) ∧
          (¬valid → counts 0 1 0 ∧ t.conn c = q) ∧
          (valid → (t.conn c).last = modifyAt q.last p (fun _ => some n) ∧ (t.conn c).tx = q.tx ∧
            match q.copies.find? (fun y => y.1 != p && y.2.1 == n) with
            | none => counts 0 0 0 ∧ t.conn c = { q with last := (t.conn c).last, copies := q.copies ++ [(p, n, f)] }
            | some y =>
              (t.conn c).pair = some n ∧ (t.conn c).since = u.now ∧ (t.conn c).bits = wAt f 8 ∧
              (∀ z, z ∈ (t.conn c).copies → z ∈ q.copies ∧ ahead z.2.1 n) ∧
              if y.2.2 = f then
                counts 1 0 0 ∧ (t.conn c).good = q.good + 1 ∧
                  (t.conn c).st = if q.st = 2 ∧ q.good + 1 < 2 then 2 else 1
              else counts 0 0 1 ∧ ConnFaulted u t c 0 n)
      else if s.portRuns p = true then
        let a := if s.hasIsland = true then R.NET_RXCNT p else R.NET_RXDISC p
        OnlyRegs [a] (u.frameOn p) t ∧ t.reg a = satAdd (s.reg a) 1
      else t = u)

end
end

