-- ==== Sys2Proof/Laws/Tab.lean ====
section
/-! SUPPORT. What the operations on tables do: read after write, and the canonical form. -/

namespace Sys2Proof.Machine

theorem tabErase_wfFrom {α : Type} [DecidableEq α] {d : Nat → α} {t : Tab α} {b c : Option Nat} {k : Nat}
    (hc : ∀ x, c = some x → ∃ y, b = some y ∧ x ≤ y) (h : tabWfFrom d b t = true) :
    tabWfFrom d c (tabErase t k) = true := by
  induction t generalizing b c with
  | nil => rfl
  | cons x r ih =>
    obtain ⟨a, v⟩ := x
    simp only [tabWfFrom, Bool.and_eq_true] at h
    have hca : ∀ x, c = some x → x < a := by
      intro x hx
      obtain ⟨y, rfl, hy⟩ := hc x hx
      simp only [decide_eq_true_eq] at h
      omega
    simp only [tabErase]
    split
    · exact ih (fun x hx => ⟨a, rfl, Nat.le_of_lt (hca x hx)⟩) h.2
    · simp only [tabWfFrom, Bool.and_eq_true]
      refine ⟨⟨?_, h.1.2⟩, ih (fun x hx => ⟨x, hx, Nat.le_refl _⟩) h.2⟩
      cases c with
      | none => rfl
      | some c => simpa using hca c rfl

theorem tabErase_wf {α : Type} [DecidableEq α] {d : Nat → α} {t : Tab α} {k : Nat}
    (h : tabWf d t = true) : tabWf d (tabErase t k) = true :=
  tabErase_wfFrom (fun _ hx => nomatch hx) h

theorem tabInsert_wf {α : Type} [DecidableEq α] {d : Nat → α} {t : Tab α} {b : Option Nat} {k : Nat} {v : α}
    (h : tabWfFrom d b t = true) (hk : ∀ x, b = some x → x < k) (hv : v ≠ d k) :
    tabWfFrom d b (tabInsert t k v) = true := by
  induction t generalizing b with
  | nil =>
    cases b with
    | none => simp [tabInsert, tabWfFrom, hv]
    | some b => simp [tabInsert, tabWfFrom, hv, hk b rfl]
  | cons x r ih =>
    obtain ⟨a, w⟩ := x
    simp only [tabWfFrom, Bool.and_eq_true] at h
    simp only [tabInsert]
    have hb : (match (generalizing := false) b with | none => true | some b => decide (b < k)) = true := by
      cases b with
      | none => rfl
      | some b => simpa using hk b rfl
    split
    · simp only [tabWfFrom, Bool.and_eq_true]
      exact ⟨⟨hb, by simpa using hv⟩, ⟨by simpa, h.1.2⟩, h.2⟩
    · split
      · next e =>
        subst e
        simp only [tabWfFrom, Bool.and_eq_true]
        exact ⟨⟨hb, by simpa using hv⟩, h.2⟩
      · simp only [tabWfFrom, Bool.and_eq_true]
        refine ⟨h.1, ih h.2 ?_⟩
        intro x hx
        cases hx
        omega

theorem tabSet_wf {α : Type} [DecidableEq α] {d : Nat → α} {t : Tab α} {k : Nat} {v : α}
    (h : tabWf d t = true) : tabWf d (tabSet d t k v) = true := by
  unfold tabSet
  split
  · exact tabErase_wf h
  · next hv => exact tabInsert_wf h (fun _ hx => nomatch hx) hv

theorem tabSetMany_wf {α : Type} [DecidableEq α] {d : Nat → α} {l : List (Nat × α)} {t : Tab α}
    (h : tabWf d t = true) : tabWf d (tabSetMany d t l) = true := by
  induction l generalizing t with
  | nil => exact h
  | cons x l ih =>
    obtain ⟨k, v⟩ := x
    exact ih (tabSet_wf h)

theorem tabFilter_wfFrom {α : Type} [DecidableEq α] {d : Nat → α} {p : Nat × α → Bool} {t : Tab α} {b c : Option Nat}
    (hc : ∀ x, c = some x → ∃ y, b = some y ∧ x ≤ y) (h : tabWfFrom d b t = true) : tabWfFrom d c (t.filter p) = true := by
  induction t generalizing b c with
  | nil => rfl
  | cons x r ih =>
    obtain ⟨a, v⟩ := x
    simp only [tabWfFrom, Bool.and_eq_true] at h
    have hca : ∀ x, c = some x → x < a := by
      intro x hx
      obtain ⟨y, rfl, hy⟩ := hc x hx
      simp only [decide_eq_true_eq] at h
      omega
    simp only [List.filter_cons]
    split
    · simp only [tabWfFrom, Bool.and_eq_true]
      refine ⟨⟨?_, h.1.2⟩, ih (fun x hx => ⟨x, hx, Nat.le_refl _⟩) h.2⟩
      cases c with
      | none => rfl
      | some c => simpa using hca c rfl
    · exact ih (fun x hx => ⟨a, rfl, Nat.le_of_lt (hca x hx)⟩) h.2

theorem tabFilter_wf {α : Type} [DecidableEq α] {d : Nat → α} {p : Nat × α → Bool} {t : Tab α}
    (h : tabWf d t = true) : tabWf d (t.filter p) = true :=
  tabFilter_wfFrom (fun _ hx => nomatch hx) h

theorem tabErase_riseFrom {α : Type} {t : Tab α} {b c : Option Nat} {k : Nat}
    (hc : ∀ x, c = some x → ∃ y, b = some y ∧ x ≤ y) (h : tabRiseFrom b t = true) :
    tabRiseFrom c (tabErase t k) = true := by
  induction t generalizing b c with
  | nil => rfl
  | cons x r ih =>
    obtain ⟨a, v⟩ := x
    simp only [tabRiseFrom, Bool.and_eq_true] at h
    have hca : ∀ x, c = some x → x < a := by
      intro x hx
      obtain ⟨y, rfl, hy⟩ := hc x hx
      simp only [decide_eq_true_eq] at h
      omega
    simp only [tabErase]
    split
    · exact ih (fun x hx => ⟨a, rfl, Nat.le_of_lt (hca x hx)⟩) h.2
    · simp only [tabRiseFrom, Bool.and_eq_true]
      refine ⟨?_, ih (fun x hx => ⟨x, hx, Nat.le_refl _⟩) h.2⟩
      cases c with
      | none => rfl
      | some c => simpa using hca c rfl

theorem tabErase_rise {α : Type} {t : Tab α} {k : Nat} (h : tabRise t = true) : tabRise (tabErase t k) = true :=
  tabErase_riseFrom (fun _ hx => nomatch hx) h

theorem tabInsert_rise {α : Type} {t : Tab α} {b : Option Nat} {k : Nat} {v : α}
    (h : tabRiseFrom b t = true) (hk : ∀ x, b = some x → x < k) : tabRiseFrom b (tabInsert t k v) = true := by
  have hb : (match (generalizing := false) b with | none => true | some b => decide (b < k)) = true := by
    cases b with
    | none => rfl
    | some b => simpa using hk b rfl
  induction t generalizing b with
  | nil =>
    simp only [tabInsert, tabRiseFrom, Bool.and_true]
    exact hb
  | cons x r ih =>
    obtain ⟨a, w⟩ := x
    simp only [tabRiseFrom, Bool.and_eq_true] at h
    simp only [tabInsert]
    split
    · simp only [tabRiseFrom, Bool.and_eq_true]
      exact ⟨hb, by simpa, h.2⟩
    · split
      · next e =>
        subst e
        simp only [tabRiseFrom, Bool.and_eq_true]
        exact ⟨hb, h.2⟩
      · simp only [tabRiseFrom, Bool.and_eq_true]
        have hak : a < k := by omega
        refine ⟨h.1, ih h.2 ?_ ?_⟩
        · intro x hx
          cases hx
          exact hak
        · simpa using hak

theorem tabMap_wfFrom {α : Type} [DecidableEq α] {d : Nat → α} {g : Nat × α → Nat × α} {t : Tab α} {b : Option Nat}
    (hk : ∀ x, (g x).1 = x.1) (hg : ∀ x, x.2 ≠ d x.1 → (g x).2 ≠ d x.1) (h : tabWfFrom d b t = true) :
    tabWfFrom d b (t.map g) = true := by
  induction t generalizing b with
  | nil => rfl
  | cons x r ih =>
    have e : g x = (x.1, (g x).2) := Prod.ext (hk x) rfl
    simp only [tabWfFrom, Bool.and_eq_true] at h
    rw [List.map_cons, e]
    simp only [tabWfFrom, Bool.and_eq_true]
    exact ⟨⟨h.1.1, decide_eq_true (hg _ (of_decide_eq_true h.1.2))⟩, ih h.2⟩

theorem tabMap_wf {α : Type} [DecidableEq α] {d : Nat → α} {g : Nat × α → Nat × α} {t : Tab α}
    (hk : ∀ x, (g x).1 = x.1) (hg : ∀ x, x.2 ≠ d x.1 → (g x).2 ≠ d x.1) (h : tabWf d t = true) : tabWf d (t.map g) = true :=
  tabMap_wfFrom hk hg h

theorem tabGet_erase {α : Type} (d : Nat → α) (t : Tab α) (k : Nat) : tabGet d (tabErase t k) k = d k := by
  induction t with
  | nil => rfl
  | cons x r ih =>
    obtain ⟨a, v⟩ := x
    simp only [tabErase]
    split
    · exact ih
    · next e => simp only [tabGet, e, if_false, ih]

theorem tabGet_erase_ne {α : Type} (d : Nat → α) (t : Tab α) {k j : Nat} (h : j ≠ k) :
    tabGet d (tabErase t k) j = tabGet d t j := by
  induction t with
  | nil => rfl
  | cons x r ih =>
    obtain ⟨a, v⟩ := x
    simp only [tabErase]
    split
    · next e =>
      subst e
      simp only [tabGet, ih, if_neg (Ne.symm h)]
    · simp only [tabGet, ih]

theorem tabGet_insert {α : Type} (d : Nat → α) (t : Tab α) (k : Nat) (v : α) : tabGet d (tabInsert t k v) k = v := by
  induction t with
  | nil => simp only [tabInsert, tabGet, if_true]
  | cons x r ih =>
    obtain ⟨a, w⟩ := x
    simp only [tabInsert]
    split
    · simp only [tabGet, if_true]
    · split
      · simp only [tabGet, if_true]
      · next e => simp only [tabGet, e, if_false, ih]

theorem tabGet_insert_ne {α : Type} (d : Nat → α) (t : Tab α) {k j : Nat} (v : α) (h : j ≠ k) :
    tabGet d (tabInsert t k v) j = tabGet d t j := by
  induction t with
  | nil => simp only [tabInsert, tabGet, if_neg (Ne.symm h)]
  | cons x r ih =>
    obtain ⟨a, w⟩ := x
    simp only [tabInsert]
    split
    · simp only [tabGet, if_neg (Ne.symm h)]
    · split
      · next e =>
        subst e
        simp only [tabGet, if_neg (Ne.symm h)]
      · simp only [tabGet, ih]

theorem tabGet_set {α : Type} [DecidableEq α] (d : Nat → α) (t : Tab α) (k : Nat) (v : α) :
    tabGet d (tabSet d t k v) k = v := by
  unfold tabSet
  split
  · next e => rw [tabGet_erase, e]
  · exact tabGet_insert d t k v

theorem tabGet_set_ne {α : Type} [DecidableEq α] (d : Nat → α) (t : Tab α) {k j : Nat} (v : α) (h : j ≠ k) :
    tabGet d (tabSet d t k v) j = tabGet d t j := by
  unfold tabSet
  split
  · exact tabGet_erase_ne d t h
  · exact tabGet_insert_ne d t v h

/-! Byte memories: every operation keeps the canonical form. -/

theorem Memory.wf_set {d : Byte} {m : Tab Byte} {k : Nat} {v : Byte} (h : Memory.wf d m = true) :
    Memory.wf d (tabSet (fun _ => d) m k v) = true := tabSet_wf h

theorem Memory.wf_setMany {d : Byte} {m : Tab Byte} {l : List (Nat × Byte)} (h : Memory.wf d m = true) :
    Memory.wf d (tabSetMany (fun _ => d) m l) = true := tabSetMany_wf h

end Sys2Proof.Machine
end

