-- ==== Sys2Proof/Laws/State.lean ====
section
/-! SUPPORT. What each update of the state leaves alone, field by field, and reads of a register after a write. -/

namespace Sys2Proof.Machine

/-! Registers. -/

@[simp] theorem State.reg_setReg (s : State) (a b : Nat) (w : Word) :
    (s.setReg a w).reg b = if b = a then w else s.reg b := by
  unfold State.reg State.setReg
  split
  · next e => rw [e, tabGet_set]
  · next e => exact tabGet_set_ne _ _ _ e

@[simp] theorem State.reg_modReg (s : State) (a b : Nat) (f : Word → Word) :
    (s.modReg a f).reg b = if b = a then f (s.reg a) else s.reg b := State.reg_setReg s a b _

@[simp] theorem State.reg_bumpBy (s : State) (a b n : Nat) :
    (s.bumpBy a n).reg b = if b = a then satAdd (s.reg a) n else s.reg b := State.reg_setReg s a b _

@[simp] theorem State.reg_bump (s : State) (a b : Nat) :
    (s.bump a).reg b = if b = a then satAdd (s.reg a) 1 else s.reg b := State.reg_setReg s a b _

@[simp] theorem State.reg_orReg (s : State) (a b : Nat) (m : Word) :
    (s.orReg a m).reg b = if b = a then s.reg a ||| m else s.reg b := State.reg_setReg s a b _

@[simp] theorem State.reg_clrReg (s : State) (a b : Nat) (m : Word) :
    (s.clrReg a m).reg b = if b = a then s.reg a &&& ~~~m else s.reg b := State.reg_setReg s a b _

@[simp] theorem State.reg_putFld (s : State) (a x l v b : Nat) :
    (s.putFld a x l v).reg b = if b = a then setFld (s.reg a) x l v else s.reg b := State.reg_setReg s a b _

@[simp] theorem State.reg_maxReg (s : State) (a b : Nat) (w : Word) :
    (s.maxReg a w).reg b = if b = a then (if (s.reg a).toNat < w.toNat then w else s.reg a) else s.reg b :=
  State.reg_setReg s a b _

/-! A signal slot after a write of one. -/

@[simp] theorem State.slot_setSlot (s : State) (n m : Nat) (v : Slot) :
    (s.setSlot n v).slot m = if m = n then v else s.slot m := by
  unfold State.slot State.setSlot
  split
  · next e => rw [e, tabGet_set]
  · next e => exact tabGet_set_ne _ _ _ e

/-! Fields. -/

@[simp] theorem State.setReg_pending (s : State) (a : Nat) (w : Word) : (s.setReg a w).pending = s.pending := rfl
@[simp] theorem State.setReg_out (s : State) (a : Nat) (w : Word) : (s.setReg a w).out = s.out := rfl
@[simp] theorem State.setReg_free (s : State) (a : Nat) (w : Word) : (s.setReg a w).free = s.free := rfl
@[simp] theorem State.setReg_part (s : State) (a : Nat) (w : Word) : (s.setReg a w).part = s.part := rfl
@[simp] theorem State.setReg_edgeBase (s : State) (a : Nat) (w : Word) : (s.setReg a w).edgeBase = s.edgeBase := rfl
@[simp] theorem State.setReg_off (s : State) (a : Nat) (w : Word) : (s.setReg a w).off = s.off := rfl
@[simp] theorem State.setReg_tick (s : State) (a : Nat) (w : Word) : (s.setReg a w).tick = s.tick := rfl
@[simp] theorem State.setReg_counting (s : State) (a : Nat) (w : Word) : (s.setReg a w).counting = s.counting := rfl
@[simp] theorem State.setReg_ticked (s : State) (a : Nat) (w : Word) : (s.setReg a w).ticked = s.ticked := rfl
@[simp] theorem State.setReg_arch (s : State) (a : Nat) (w : Word) : (s.setReg a w).arch = s.arch := rfl
@[simp] theorem State.setReg_staged (s : State) (a : Nat) (w : Word) : (s.setReg a w).staged = s.staged := rfl
@[simp] theorem State.setReg_ckpts (s : State) (a : Nat) (w : Word) : (s.setReg a w).ckpts = s.ckpts := rfl
@[simp] theorem State.setReg_power (s : State) (a : Nat) (w : Word) : (s.setReg a w).power = s.power := rfl
@[simp] theorem State.setReg_warm (s : State) (a : Nat) (w : Word) : (s.setReg a w).warm = s.warm := rfl
@[simp] theorem State.setReg_flash (s : State) (a : Nat) (w : Word) : (s.setReg a w).flash = s.flash := rfl
@[simp] theorem State.setReg_image (s : State) (a : Nat) (w : Word) : (s.setReg a w).image = s.image := rfl
@[simp] theorem State.setReg_letters (s : State) (a : Nat) (w : Word) : (s.setReg a w).letters = s.letters := rfl
@[simp] theorem State.setReg_evr (s : State) (a : Nat) (w : Word) : (s.setReg a w).evr = s.evr := rfl
@[simp] theorem State.setReg_net (s : State) (a : Nat) (w : Word) : (s.setReg a w).net = s.net := rfl
@[simp] theorem State.setReg_maint (s : State) (a : Nat) (w : Word) : (s.setReg a w).maint = s.maint := rfl
@[simp] theorem State.setReg_time (s : State) (a : Nat) (w : Word) : (s.setReg a w).time = s.time := rfl
@[simp] theorem State.setReg_ana (s : State) (a : Nat) (w : Word) : (s.setReg a w).ana = s.ana := rfl
@[simp] theorem State.setReg_dio (s : State) (a : Nat) (w : Word) : (s.setReg a w).dio = s.dio := rfl
@[simp] theorem State.setReg_acq (s : State) (a : Nat) (w : Word) : (s.setReg a w).acq = s.acq := rfl
@[simp] theorem State.setReg_can (s : State) (a : Nat) (w : Word) : (s.setReg a w).can = s.can := rfl
@[simp] theorem State.setReg_safe (s : State) (a : Nat) (w : Word) : (s.setReg a w).safe = s.safe := rfl
@[simp] theorem State.setReg_integ (s : State) (a : Nat) (w : Word) : (s.setReg a w).integ = s.integ := rfl
@[simp] theorem State.setReg_snap (s : State) (a : Nat) (w : Word) : (s.setReg a w).snap = s.snap := rfl
@[simp] theorem State.setReg_dram (s : State) (a : Nat) (w : Word) : (s.setReg a w).dram = s.dram := rfl
@[simp] theorem State.setReg_slot (s : State) (a : Nat) (w : Word) (k : Nat) : (s.setReg a w).slot k = s.slot k := rfl

@[simp] theorem State.modReg_pending (s : State) (a : Nat) (f : Word → Word) : (s.modReg a f).pending = s.pending := rfl
@[simp] theorem State.modReg_out (s : State) (a : Nat) (f : Word → Word) : (s.modReg a f).out = s.out := rfl
@[simp] theorem State.modReg_free (s : State) (a : Nat) (f : Word → Word) : (s.modReg a f).free = s.free := rfl
@[simp] theorem State.modReg_part (s : State) (a : Nat) (f : Word → Word) : (s.modReg a f).part = s.part := rfl
@[simp] theorem State.modReg_edgeBase (s : State) (a : Nat) (f : Word → Word) : (s.modReg a f).edgeBase = s.edgeBase := rfl
@[simp] theorem State.modReg_off (s : State) (a : Nat) (f : Word → Word) : (s.modReg a f).off = s.off := rfl
@[simp] theorem State.modReg_tick (s : State) (a : Nat) (f : Word → Word) : (s.modReg a f).tick = s.tick := rfl
@[simp] theorem State.modReg_counting (s : State) (a : Nat) (f : Word → Word) : (s.modReg a f).counting = s.counting := rfl
@[simp] theorem State.modReg_ticked (s : State) (a : Nat) (f : Word → Word) : (s.modReg a f).ticked = s.ticked := rfl
@[simp] theorem State.modReg_arch (s : State) (a : Nat) (f : Word → Word) : (s.modReg a f).arch = s.arch := rfl
@[simp] theorem State.modReg_staged (s : State) (a : Nat) (f : Word → Word) : (s.modReg a f).staged = s.staged := rfl
@[simp] theorem State.modReg_ckpts (s : State) (a : Nat) (f : Word → Word) : (s.modReg a f).ckpts = s.ckpts := rfl
@[simp] theorem State.modReg_power (s : State) (a : Nat) (f : Word → Word) : (s.modReg a f).power = s.power := rfl
@[simp] theorem State.modReg_warm (s : State) (a : Nat) (f : Word → Word) : (s.modReg a f).warm = s.warm := rfl
@[simp] theorem State.modReg_flash (s : State) (a : Nat) (f : Word → Word) : (s.modReg a f).flash = s.flash := rfl
@[simp] theorem State.modReg_image (s : State) (a : Nat) (f : Word → Word) : (s.modReg a f).image = s.image := rfl
@[simp] theorem State.modReg_letters (s : State) (a : Nat) (f : Word → Word) : (s.modReg a f).letters = s.letters := rfl
@[simp] theorem State.modReg_evr (s : State) (a : Nat) (f : Word → Word) : (s.modReg a f).evr = s.evr := rfl
@[simp] theorem State.modReg_net (s : State) (a : Nat) (f : Word → Word) : (s.modReg a f).net = s.net := rfl
@[simp] theorem State.modReg_maint (s : State) (a : Nat) (f : Word → Word) : (s.modReg a f).maint = s.maint := rfl
@[simp] theorem State.modReg_time (s : State) (a : Nat) (f : Word → Word) : (s.modReg a f).time = s.time := rfl
@[simp] theorem State.modReg_ana (s : State) (a : Nat) (f : Word → Word) : (s.modReg a f).ana = s.ana := rfl
@[simp] theorem State.modReg_dio (s : State) (a : Nat) (f : Word → Word) : (s.modReg a f).dio = s.dio := rfl
@[simp] theorem State.modReg_acq (s : State) (a : Nat) (f : Word → Word) : (s.modReg a f).acq = s.acq := rfl
@[simp] theorem State.modReg_can (s : State) (a : Nat) (f : Word → Word) : (s.modReg a f).can = s.can := rfl
@[simp] theorem State.modReg_safe (s : State) (a : Nat) (f : Word → Word) : (s.modReg a f).safe = s.safe := rfl
@[simp] theorem State.modReg_integ (s : State) (a : Nat) (f : Word → Word) : (s.modReg a f).integ = s.integ := rfl
@[simp] theorem State.modReg_snap (s : State) (a : Nat) (f : Word → Word) : (s.modReg a f).snap = s.snap := rfl
@[simp] theorem State.modReg_dram (s : State) (a : Nat) (f : Word → Word) : (s.modReg a f).dram = s.dram := rfl
@[simp] theorem State.modReg_slot (s : State) (a : Nat) (f : Word → Word) (k : Nat) : (s.modReg a f).slot k = s.slot k := rfl

@[simp] theorem State.bumpBy_pending (s : State) (a n : Nat) : (s.bumpBy a n).pending = s.pending := rfl
@[simp] theorem State.bumpBy_out (s : State) (a n : Nat) : (s.bumpBy a n).out = s.out := rfl
@[simp] theorem State.bumpBy_free (s : State) (a n : Nat) : (s.bumpBy a n).free = s.free := rfl
@[simp] theorem State.bumpBy_part (s : State) (a n : Nat) : (s.bumpBy a n).part = s.part := rfl
@[simp] theorem State.bumpBy_edgeBase (s : State) (a n : Nat) : (s.bumpBy a n).edgeBase = s.edgeBase := rfl
@[simp] theorem State.bumpBy_off (s : State) (a n : Nat) : (s.bumpBy a n).off = s.off := rfl
@[simp] theorem State.bumpBy_tick (s : State) (a n : Nat) : (s.bumpBy a n).tick = s.tick := rfl
@[simp] theorem State.bumpBy_counting (s : State) (a n : Nat) : (s.bumpBy a n).counting = s.counting := rfl
@[simp] theorem State.bumpBy_ticked (s : State) (a n : Nat) : (s.bumpBy a n).ticked = s.ticked := rfl
@[simp] theorem State.bumpBy_arch (s : State) (a n : Nat) : (s.bumpBy a n).arch = s.arch := rfl
@[simp] theorem State.bumpBy_staged (s : State) (a n : Nat) : (s.bumpBy a n).staged = s.staged := rfl
@[simp] theorem State.bumpBy_ckpts (s : State) (a n : Nat) : (s.bumpBy a n).ckpts = s.ckpts := rfl
@[simp] theorem State.bumpBy_power (s : State) (a n : Nat) : (s.bumpBy a n).power = s.power := rfl
@[simp] theorem State.bumpBy_warm (s : State) (a n : Nat) : (s.bumpBy a n).warm = s.warm := rfl
@[simp] theorem State.bumpBy_flash (s : State) (a n : Nat) : (s.bumpBy a n).flash = s.flash := rfl
@[simp] theorem State.bumpBy_image (s : State) (a n : Nat) : (s.bumpBy a n).image = s.image := rfl
@[simp] theorem State.bumpBy_letters (s : State) (a n : Nat) : (s.bumpBy a n).letters = s.letters := rfl
@[simp] theorem State.bumpBy_evr (s : State) (a n : Nat) : (s.bumpBy a n).evr = s.evr := rfl
@[simp] theorem State.bumpBy_net (s : State) (a n : Nat) : (s.bumpBy a n).net = s.net := rfl
@[simp] theorem State.bumpBy_maint (s : State) (a n : Nat) : (s.bumpBy a n).maint = s.maint := rfl
@[simp] theorem State.bumpBy_time (s : State) (a n : Nat) : (s.bumpBy a n).time = s.time := rfl
@[simp] theorem State.bumpBy_ana (s : State) (a n : Nat) : (s.bumpBy a n).ana = s.ana := rfl
@[simp] theorem State.bumpBy_dio (s : State) (a n : Nat) : (s.bumpBy a n).dio = s.dio := rfl
@[simp] theorem State.bumpBy_acq (s : State) (a n : Nat) : (s.bumpBy a n).acq = s.acq := rfl
@[simp] theorem State.bumpBy_can (s : State) (a n : Nat) : (s.bumpBy a n).can = s.can := rfl
@[simp] theorem State.bumpBy_safe (s : State) (a n : Nat) : (s.bumpBy a n).safe = s.safe := rfl
@[simp] theorem State.bumpBy_integ (s : State) (a n : Nat) : (s.bumpBy a n).integ = s.integ := rfl
@[simp] theorem State.bumpBy_snap (s : State) (a n : Nat) : (s.bumpBy a n).snap = s.snap := rfl
@[simp] theorem State.bumpBy_dram (s : State) (a n : Nat) : (s.bumpBy a n).dram = s.dram := rfl
@[simp] theorem State.bumpBy_slot (s : State) (a n : Nat) (k : Nat) : (s.bumpBy a n).slot k = s.slot k := rfl

@[simp] theorem State.bump_pending (s : State) (a : Nat) : (s.bump a).pending = s.pending := rfl
@[simp] theorem State.bump_out (s : State) (a : Nat) : (s.bump a).out = s.out := rfl
@[simp] theorem State.bump_free (s : State) (a : Nat) : (s.bump a).free = s.free := rfl
@[simp] theorem State.bump_part (s : State) (a : Nat) : (s.bump a).part = s.part := rfl
@[simp] theorem State.bump_edgeBase (s : State) (a : Nat) : (s.bump a).edgeBase = s.edgeBase := rfl
@[simp] theorem State.bump_off (s : State) (a : Nat) : (s.bump a).off = s.off := rfl
@[simp] theorem State.bump_tick (s : State) (a : Nat) : (s.bump a).tick = s.tick := rfl
@[simp] theorem State.bump_counting (s : State) (a : Nat) : (s.bump a).counting = s.counting := rfl
@[simp] theorem State.bump_ticked (s : State) (a : Nat) : (s.bump a).ticked = s.ticked := rfl
@[simp] theorem State.bump_arch (s : State) (a : Nat) : (s.bump a).arch = s.arch := rfl
@[simp] theorem State.bump_staged (s : State) (a : Nat) : (s.bump a).staged = s.staged := rfl
@[simp] theorem State.bump_ckpts (s : State) (a : Nat) : (s.bump a).ckpts = s.ckpts := rfl
@[simp] theorem State.bump_power (s : State) (a : Nat) : (s.bump a).power = s.power := rfl
@[simp] theorem State.bump_warm (s : State) (a : Nat) : (s.bump a).warm = s.warm := rfl
@[simp] theorem State.bump_flash (s : State) (a : Nat) : (s.bump a).flash = s.flash := rfl
@[simp] theorem State.bump_image (s : State) (a : Nat) : (s.bump a).image = s.image := rfl
@[simp] theorem State.bump_letters (s : State) (a : Nat) : (s.bump a).letters = s.letters := rfl
@[simp] theorem State.bump_evr (s : State) (a : Nat) : (s.bump a).evr = s.evr := rfl
@[simp] theorem State.bump_net (s : State) (a : Nat) : (s.bump a).net = s.net := rfl
@[simp] theorem State.bump_maint (s : State) (a : Nat) : (s.bump a).maint = s.maint := rfl
@[simp] theorem State.bump_time (s : State) (a : Nat) : (s.bump a).time = s.time := rfl
@[simp] theorem State.bump_ana (s : State) (a : Nat) : (s.bump a).ana = s.ana := rfl
@[simp] theorem State.bump_dio (s : State) (a : Nat) : (s.bump a).dio = s.dio := rfl
@[simp] theorem State.bump_acq (s : State) (a : Nat) : (s.bump a).acq = s.acq := rfl
@[simp] theorem State.bump_can (s : State) (a : Nat) : (s.bump a).can = s.can := rfl
@[simp] theorem State.bump_safe (s : State) (a : Nat) : (s.bump a).safe = s.safe := rfl
@[simp] theorem State.bump_integ (s : State) (a : Nat) : (s.bump a).integ = s.integ := rfl
@[simp] theorem State.bump_snap (s : State) (a : Nat) : (s.bump a).snap = s.snap := rfl
@[simp] theorem State.bump_dram (s : State) (a : Nat) : (s.bump a).dram = s.dram := rfl
@[simp] theorem State.bump_slot (s : State) (a : Nat) (k : Nat) : (s.bump a).slot k = s.slot k := rfl

@[simp] theorem State.orReg_pending (s : State) (a : Nat) (m : Word) : (s.orReg a m).pending = s.pending := rfl
@[simp] theorem State.orReg_out (s : State) (a : Nat) (m : Word) : (s.orReg a m).out = s.out := rfl
@[simp] theorem State.orReg_free (s : State) (a : Nat) (m : Word) : (s.orReg a m).free = s.free := rfl
@[simp] theorem State.orReg_part (s : State) (a : Nat) (m : Word) : (s.orReg a m).part = s.part := rfl
@[simp] theorem State.orReg_edgeBase (s : State) (a : Nat) (m : Word) : (s.orReg a m).edgeBase = s.edgeBase := rfl
@[simp] theorem State.orReg_off (s : State) (a : Nat) (m : Word) : (s.orReg a m).off = s.off := rfl
@[simp] theorem State.orReg_tick (s : State) (a : Nat) (m : Word) : (s.orReg a m).tick = s.tick := rfl
@[simp] theorem State.orReg_counting (s : State) (a : Nat) (m : Word) : (s.orReg a m).counting = s.counting := rfl
@[simp] theorem State.orReg_ticked (s : State) (a : Nat) (m : Word) : (s.orReg a m).ticked = s.ticked := rfl
@[simp] theorem State.orReg_arch (s : State) (a : Nat) (m : Word) : (s.orReg a m).arch = s.arch := rfl
@[simp] theorem State.orReg_staged (s : State) (a : Nat) (m : Word) : (s.orReg a m).staged = s.staged := rfl
@[simp] theorem State.orReg_ckpts (s : State) (a : Nat) (m : Word) : (s.orReg a m).ckpts = s.ckpts := rfl
@[simp] theorem State.orReg_power (s : State) (a : Nat) (m : Word) : (s.orReg a m).power = s.power := rfl
@[simp] theorem State.orReg_warm (s : State) (a : Nat) (m : Word) : (s.orReg a m).warm = s.warm := rfl
@[simp] theorem State.orReg_flash (s : State) (a : Nat) (m : Word) : (s.orReg a m).flash = s.flash := rfl
@[simp] theorem State.orReg_image (s : State) (a : Nat) (m : Word) : (s.orReg a m).image = s.image := rfl
@[simp] theorem State.orReg_letters (s : State) (a : Nat) (m : Word) : (s.orReg a m).letters = s.letters := rfl
@[simp] theorem State.orReg_evr (s : State) (a : Nat) (m : Word) : (s.orReg a m).evr = s.evr := rfl
@[simp] theorem State.orReg_net (s : State) (a : Nat) (m : Word) : (s.orReg a m).net = s.net := rfl
@[simp] theorem State.orReg_maint (s : State) (a : Nat) (m : Word) : (s.orReg a m).maint = s.maint := rfl
@[simp] theorem State.orReg_time (s : State) (a : Nat) (m : Word) : (s.orReg a m).time = s.time := rfl
@[simp] theorem State.orReg_ana (s : State) (a : Nat) (m : Word) : (s.orReg a m).ana = s.ana := rfl
@[simp] theorem State.orReg_dio (s : State) (a : Nat) (m : Word) : (s.orReg a m).dio = s.dio := rfl
@[simp] theorem State.orReg_acq (s : State) (a : Nat) (m : Word) : (s.orReg a m).acq = s.acq := rfl
@[simp] theorem State.orReg_can (s : State) (a : Nat) (m : Word) : (s.orReg a m).can = s.can := rfl
@[simp] theorem State.orReg_safe (s : State) (a : Nat) (m : Word) : (s.orReg a m).safe = s.safe := rfl
@[simp] theorem State.orReg_integ (s : State) (a : Nat) (m : Word) : (s.orReg a m).integ = s.integ := rfl
@[simp] theorem State.orReg_snap (s : State) (a : Nat) (m : Word) : (s.orReg a m).snap = s.snap := rfl
@[simp] theorem State.orReg_dram (s : State) (a : Nat) (m : Word) : (s.orReg a m).dram = s.dram := rfl
@[simp] theorem State.orReg_slot (s : State) (a : Nat) (m : Word) (k : Nat) : (s.orReg a m).slot k = s.slot k := rfl

@[simp] theorem State.clrReg_pending (s : State) (a : Nat) (m : Word) : (s.clrReg a m).pending = s.pending := rfl
@[simp] theorem State.clrReg_out (s : State) (a : Nat) (m : Word) : (s.clrReg a m).out = s.out := rfl
@[simp] theorem State.clrReg_free (s : State) (a : Nat) (m : Word) : (s.clrReg a m).free = s.free := rfl
@[simp] theorem State.clrReg_part (s : State) (a : Nat) (m : Word) : (s.clrReg a m).part = s.part := rfl
@[simp] theorem State.clrReg_edgeBase (s : State) (a : Nat) (m : Word) : (s.clrReg a m).edgeBase = s.edgeBase := rfl
@[simp] theorem State.clrReg_off (s : State) (a : Nat) (m : Word) : (s.clrReg a m).off = s.off := rfl
@[simp] theorem State.clrReg_tick (s : State) (a : Nat) (m : Word) : (s.clrReg a m).tick = s.tick := rfl
@[simp] theorem State.clrReg_counting (s : State) (a : Nat) (m : Word) : (s.clrReg a m).counting = s.counting := rfl
@[simp] theorem State.clrReg_ticked (s : State) (a : Nat) (m : Word) : (s.clrReg a m).ticked = s.ticked := rfl
@[simp] theorem State.clrReg_arch (s : State) (a : Nat) (m : Word) : (s.clrReg a m).arch = s.arch := rfl
@[simp] theorem State.clrReg_staged (s : State) (a : Nat) (m : Word) : (s.clrReg a m).staged = s.staged := rfl
@[simp] theorem State.clrReg_ckpts (s : State) (a : Nat) (m : Word) : (s.clrReg a m).ckpts = s.ckpts := rfl
@[simp] theorem State.clrReg_power (s : State) (a : Nat) (m : Word) : (s.clrReg a m).power = s.power := rfl
@[simp] theorem State.clrReg_warm (s : State) (a : Nat) (m : Word) : (s.clrReg a m).warm = s.warm := rfl
@[simp] theorem State.clrReg_flash (s : State) (a : Nat) (m : Word) : (s.clrReg a m).flash = s.flash := rfl
@[simp] theorem State.clrReg_image (s : State) (a : Nat) (m : Word) : (s.clrReg a m).image = s.image := rfl
@[simp] theorem State.clrReg_letters (s : State) (a : Nat) (m : Word) : (s.clrReg a m).letters = s.letters := rfl
@[simp] theorem State.clrReg_evr (s : State) (a : Nat) (m : Word) : (s.clrReg a m).evr = s.evr := rfl
@[simp] theorem State.clrReg_net (s : State) (a : Nat) (m : Word) : (s.clrReg a m).net = s.net := rfl
@[simp] theorem State.clrReg_maint (s : State) (a : Nat) (m : Word) : (s.clrReg a m).maint = s.maint := rfl
@[simp] theorem State.clrReg_time (s : State) (a : Nat) (m : Word) : (s.clrReg a m).time = s.time := rfl
@[simp] theorem State.clrReg_ana (s : State) (a : Nat) (m : Word) : (s.clrReg a m).ana = s.ana := rfl
@[simp] theorem State.clrReg_dio (s : State) (a : Nat) (m : Word) : (s.clrReg a m).dio = s.dio := rfl
@[simp] theorem State.clrReg_acq (s : State) (a : Nat) (m : Word) : (s.clrReg a m).acq = s.acq := rfl
@[simp] theorem State.clrReg_can (s : State) (a : Nat) (m : Word) : (s.clrReg a m).can = s.can := rfl
@[simp] theorem State.clrReg_safe (s : State) (a : Nat) (m : Word) : (s.clrReg a m).safe = s.safe := rfl
@[simp] theorem State.clrReg_integ (s : State) (a : Nat) (m : Word) : (s.clrReg a m).integ = s.integ := rfl
@[simp] theorem State.clrReg_snap (s : State) (a : Nat) (m : Word) : (s.clrReg a m).snap = s.snap := rfl
@[simp] theorem State.clrReg_dram (s : State) (a : Nat) (m : Word) : (s.clrReg a m).dram = s.dram := rfl
@[simp] theorem State.clrReg_slot (s : State) (a : Nat) (m : Word) (k : Nat) : (s.clrReg a m).slot k = s.slot k := rfl

@[simp] theorem State.putFld_pending (s : State) (a x l v : Nat) : (s.putFld a x l v).pending = s.pending := rfl
@[simp] theorem State.putFld_out (s : State) (a x l v : Nat) : (s.putFld a x l v).out = s.out := rfl
@[simp] theorem State.putFld_free (s : State) (a x l v : Nat) : (s.putFld a x l v).free = s.free := rfl
@[simp] theorem State.putFld_part (s : State) (a x l v : Nat) : (s.putFld a x l v).part = s.part := rfl
@[simp] theorem State.putFld_edgeBase (s : State) (a x l v : Nat) : (s.putFld a x l v).edgeBase = s.edgeBase := rfl
@[simp] theorem State.putFld_off (s : State) (a x l v : Nat) : (s.putFld a x l v).off = s.off := rfl
@[simp] theorem State.putFld_tick (s : State) (a x l v : Nat) : (s.putFld a x l v).tick = s.tick := rfl
@[simp] theorem State.putFld_counting (s : State) (a x l v : Nat) : (s.putFld a x l v).counting = s.counting := rfl
@[simp] theorem State.putFld_ticked (s : State) (a x l v : Nat) : (s.putFld a x l v).ticked = s.ticked := rfl
@[simp] theorem State.putFld_arch (s : State) (a x l v : Nat) : (s.putFld a x l v).arch = s.arch := rfl
@[simp] theorem State.putFld_staged (s : State) (a x l v : Nat) : (s.putFld a x l v).staged = s.staged := rfl
@[simp] theorem State.putFld_ckpts (s : State) (a x l v : Nat) : (s.putFld a x l v).ckpts = s.ckpts := rfl
@[simp] theorem State.putFld_power (s : State) (a x l v : Nat) : (s.putFld a x l v).power = s.power := rfl
@[simp] theorem State.putFld_warm (s : State) (a x l v : Nat) : (s.putFld a x l v).warm = s.warm := rfl
@[simp] theorem State.putFld_flash (s : State) (a x l v : Nat) : (s.putFld a x l v).flash = s.flash := rfl
@[simp] theorem State.putFld_image (s : State) (a x l v : Nat) : (s.putFld a x l v).image = s.image := rfl
@[simp] theorem State.putFld_letters (s : State) (a x l v : Nat) : (s.putFld a x l v).letters = s.letters := rfl
@[simp] theorem State.putFld_evr (s : State) (a x l v : Nat) : (s.putFld a x l v).evr = s.evr := rfl
@[simp] theorem State.putFld_net (s : State) (a x l v : Nat) : (s.putFld a x l v).net = s.net := rfl
@[simp] theorem State.putFld_maint (s : State) (a x l v : Nat) : (s.putFld a x l v).maint = s.maint := rfl
@[simp] theorem State.putFld_time (s : State) (a x l v : Nat) : (s.putFld a x l v).time = s.time := rfl
@[simp] theorem State.putFld_ana (s : State) (a x l v : Nat) : (s.putFld a x l v).ana = s.ana := rfl
@[simp] theorem State.putFld_dio (s : State) (a x l v : Nat) : (s.putFld a x l v).dio = s.dio := rfl
@[simp] theorem State.putFld_acq (s : State) (a x l v : Nat) : (s.putFld a x l v).acq = s.acq := rfl
@[simp] theorem State.putFld_can (s : State) (a x l v : Nat) : (s.putFld a x l v).can = s.can := rfl
@[simp] theorem State.putFld_safe (s : State) (a x l v : Nat) : (s.putFld a x l v).safe = s.safe := rfl
@[simp] theorem State.putFld_integ (s : State) (a x l v : Nat) : (s.putFld a x l v).integ = s.integ := rfl
@[simp] theorem State.putFld_snap (s : State) (a x l v : Nat) : (s.putFld a x l v).snap = s.snap := rfl
@[simp] theorem State.putFld_dram (s : State) (a x l v : Nat) : (s.putFld a x l v).dram = s.dram := rfl
@[simp] theorem State.putFld_slot (s : State) (a x l v : Nat) (k : Nat) : (s.putFld a x l v).slot k = s.slot k := rfl

@[simp] theorem State.maxReg_pending (s : State) (a : Nat) (w : Word) : (s.maxReg a w).pending = s.pending := rfl
@[simp] theorem State.maxReg_out (s : State) (a : Nat) (w : Word) : (s.maxReg a w).out = s.out := rfl
@[simp] theorem State.maxReg_free (s : State) (a : Nat) (w : Word) : (s.maxReg a w).free = s.free := rfl
@[simp] theorem State.maxReg_part (s : State) (a : Nat) (w : Word) : (s.maxReg a w).part = s.part := rfl
@[simp] theorem State.maxReg_edgeBase (s : State) (a : Nat) (w : Word) : (s.maxReg a w).edgeBase = s.edgeBase := rfl
@[simp] theorem State.maxReg_off (s : State) (a : Nat) (w : Word) : (s.maxReg a w).off = s.off := rfl
@[simp] theorem State.maxReg_tick (s : State) (a : Nat) (w : Word) : (s.maxReg a w).tick = s.tick := rfl
@[simp] theorem State.maxReg_counting (s : State) (a : Nat) (w : Word) : (s.maxReg a w).counting = s.counting := rfl
@[simp] theorem State.maxReg_ticked (s : State) (a : Nat) (w : Word) : (s.maxReg a w).ticked = s.ticked := rfl
@[simp] theorem State.maxReg_arch (s : State) (a : Nat) (w : Word) : (s.maxReg a w).arch = s.arch := rfl
@[simp] theorem State.maxReg_staged (s : State) (a : Nat) (w : Word) : (s.maxReg a w).staged = s.staged := rfl
@[simp] theorem State.maxReg_ckpts (s : State) (a : Nat) (w : Word) : (s.maxReg a w).ckpts = s.ckpts := rfl
@[simp] theorem State.maxReg_power (s : State) (a : Nat) (w : Word) : (s.maxReg a w).power = s.power := rfl
@[simp] theorem State.maxReg_warm (s : State) (a : Nat) (w : Word) : (s.maxReg a w).warm = s.warm := rfl
@[simp] theorem State.maxReg_flash (s : State) (a : Nat) (w : Word) : (s.maxReg a w).flash = s.flash := rfl
@[simp] theorem State.maxReg_image (s : State) (a : Nat) (w : Word) : (s.maxReg a w).image = s.image := rfl
@[simp] theorem State.maxReg_letters (s : State) (a : Nat) (w : Word) : (s.maxReg a w).letters = s.letters := rfl
@[simp] theorem State.maxReg_evr (s : State) (a : Nat) (w : Word) : (s.maxReg a w).evr = s.evr := rfl
@[simp] theorem State.maxReg_net (s : State) (a : Nat) (w : Word) : (s.maxReg a w).net = s.net := rfl
@[simp] theorem State.maxReg_maint (s : State) (a : Nat) (w : Word) : (s.maxReg a w).maint = s.maint := rfl
@[simp] theorem State.maxReg_time (s : State) (a : Nat) (w : Word) : (s.maxReg a w).time = s.time := rfl
@[simp] theorem State.maxReg_ana (s : State) (a : Nat) (w : Word) : (s.maxReg a w).ana = s.ana := rfl
@[simp] theorem State.maxReg_dio (s : State) (a : Nat) (w : Word) : (s.maxReg a w).dio = s.dio := rfl
@[simp] theorem State.maxReg_acq (s : State) (a : Nat) (w : Word) : (s.maxReg a w).acq = s.acq := rfl
@[simp] theorem State.maxReg_can (s : State) (a : Nat) (w : Word) : (s.maxReg a w).can = s.can := rfl
@[simp] theorem State.maxReg_safe (s : State) (a : Nat) (w : Word) : (s.maxReg a w).safe = s.safe := rfl
@[simp] theorem State.maxReg_integ (s : State) (a : Nat) (w : Word) : (s.maxReg a w).integ = s.integ := rfl
@[simp] theorem State.maxReg_snap (s : State) (a : Nat) (w : Word) : (s.maxReg a w).snap = s.snap := rfl
@[simp] theorem State.maxReg_dram (s : State) (a : Nat) (w : Word) : (s.maxReg a w).dram = s.dram := rfl
@[simp] theorem State.maxReg_slot (s : State) (a : Nat) (w : Word) (k : Nat) : (s.maxReg a w).slot k = s.slot k := rfl

@[simp] theorem State.useFree_pending (s : State) : s.useFree.pending = s.pending := rfl
@[simp] theorem State.useFree_out (s : State) : s.useFree.out = s.out := rfl
@[simp] theorem State.useFree_part (s : State) : s.useFree.part = s.part := rfl
@[simp] theorem State.useFree_regs (s : State) : s.useFree.regs = s.regs := rfl
@[simp] theorem State.useFree_edgeBase (s : State) : s.useFree.edgeBase = s.edgeBase := rfl
@[simp] theorem State.useFree_off (s : State) : s.useFree.off = s.off := rfl
@[simp] theorem State.useFree_tick (s : State) : s.useFree.tick = s.tick := rfl
@[simp] theorem State.useFree_counting (s : State) : s.useFree.counting = s.counting := rfl
@[simp] theorem State.useFree_ticked (s : State) : s.useFree.ticked = s.ticked := rfl
@[simp] theorem State.useFree_arch (s : State) : s.useFree.arch = s.arch := rfl
@[simp] theorem State.useFree_staged (s : State) : s.useFree.staged = s.staged := rfl
@[simp] theorem State.useFree_ckpts (s : State) : s.useFree.ckpts = s.ckpts := rfl
@[simp] theorem State.useFree_power (s : State) : s.useFree.power = s.power := rfl
@[simp] theorem State.useFree_warm (s : State) : s.useFree.warm = s.warm := rfl
@[simp] theorem State.useFree_flash (s : State) : s.useFree.flash = s.flash := rfl
@[simp] theorem State.useFree_image (s : State) : s.useFree.image = s.image := rfl
@[simp] theorem State.useFree_letters (s : State) : s.useFree.letters = s.letters := rfl
@[simp] theorem State.useFree_evr (s : State) : s.useFree.evr = s.evr := rfl
@[simp] theorem State.useFree_net (s : State) : s.useFree.net = s.net := rfl
@[simp] theorem State.useFree_maint (s : State) : s.useFree.maint = s.maint := rfl
@[simp] theorem State.useFree_time (s : State) : s.useFree.time = s.time := rfl
@[simp] theorem State.useFree_ana (s : State) : s.useFree.ana = s.ana := rfl
@[simp] theorem State.useFree_dio (s : State) : s.useFree.dio = s.dio := rfl
@[simp] theorem State.useFree_acq (s : State) : s.useFree.acq = s.acq := rfl
@[simp] theorem State.useFree_can (s : State) : s.useFree.can = s.can := rfl
@[simp] theorem State.useFree_safe (s : State) : s.useFree.safe = s.safe := rfl
@[simp] theorem State.useFree_integ (s : State) : s.useFree.integ = s.integ := rfl
@[simp] theorem State.useFree_snap (s : State) : s.useFree.snap = s.snap := rfl
@[simp] theorem State.useFree_dram (s : State) : s.useFree.dram = s.dram := rfl
@[simp] theorem State.useFree_reg (s : State) (r : Nat) : s.useFree.reg r = s.reg r := rfl
@[simp] theorem State.useFree_slot (s : State) (k : Nat) : s.useFree.slot k = s.slot k := rfl

@[simp] theorem State.atEdge_pending (s : State) (e : Nat) : (s.atEdge e).pending = s.pending := rfl
@[simp] theorem State.atEdge_out (s : State) (e : Nat) : (s.atEdge e).out = s.out := rfl
@[simp] theorem State.atEdge_free (s : State) (e : Nat) : (s.atEdge e).free = s.free := rfl
@[simp] theorem State.atEdge_part (s : State) (e : Nat) : (s.atEdge e).part = s.part := rfl
@[simp] theorem State.atEdge_regs (s : State) (e : Nat) : (s.atEdge e).regs = s.regs := rfl
@[simp] theorem State.atEdge_edgeBase (s : State) (e : Nat) : (s.atEdge e).edgeBase = s.edgeBase := rfl
@[simp] theorem State.atEdge_tick (s : State) (e : Nat) : (s.atEdge e).tick = s.tick := rfl
@[simp] theorem State.atEdge_counting (s : State) (e : Nat) : (s.atEdge e).counting = s.counting := rfl
@[simp] theorem State.atEdge_ticked (s : State) (e : Nat) : (s.atEdge e).ticked = s.ticked := rfl
@[simp] theorem State.atEdge_arch (s : State) (e : Nat) : (s.atEdge e).arch = s.arch := rfl
@[simp] theorem State.atEdge_staged (s : State) (e : Nat) : (s.atEdge e).staged = s.staged := rfl
@[simp] theorem State.atEdge_ckpts (s : State) (e : Nat) : (s.atEdge e).ckpts = s.ckpts := rfl
@[simp] theorem State.atEdge_power (s : State) (e : Nat) : (s.atEdge e).power = s.power := rfl
@[simp] theorem State.atEdge_warm (s : State) (e : Nat) : (s.atEdge e).warm = s.warm := rfl
@[simp] theorem State.atEdge_flash (s : State) (e : Nat) : (s.atEdge e).flash = s.flash := rfl
@[simp] theorem State.atEdge_image (s : State) (e : Nat) : (s.atEdge e).image = s.image := rfl
@[simp] theorem State.atEdge_letters (s : State) (e : Nat) : (s.atEdge e).letters = s.letters := rfl
@[simp] theorem State.atEdge_evr (s : State) (e : Nat) : (s.atEdge e).evr = s.evr := rfl
@[simp] theorem State.atEdge_net (s : State) (e : Nat) : (s.atEdge e).net = s.net := rfl
@[simp] theorem State.atEdge_maint (s : State) (e : Nat) : (s.atEdge e).maint = s.maint := rfl
@[simp] theorem State.atEdge_time (s : State) (e : Nat) : (s.atEdge e).time = s.time := rfl
@[simp] theorem State.atEdge_ana (s : State) (e : Nat) : (s.atEdge e).ana = s.ana := rfl
@[simp] theorem State.atEdge_dio (s : State) (e : Nat) : (s.atEdge e).dio = s.dio := rfl
@[simp] theorem State.atEdge_acq (s : State) (e : Nat) : (s.atEdge e).acq = s.acq := rfl
@[simp] theorem State.atEdge_can (s : State) (e : Nat) : (s.atEdge e).can = s.can := rfl
@[simp] theorem State.atEdge_safe (s : State) (e : Nat) : (s.atEdge e).safe = s.safe := rfl
@[simp] theorem State.atEdge_integ (s : State) (e : Nat) : (s.atEdge e).integ = s.integ := rfl
@[simp] theorem State.atEdge_snap (s : State) (e : Nat) : (s.atEdge e).snap = s.snap := rfl
@[simp] theorem State.atEdge_dram (s : State) (e : Nat) : (s.atEdge e).dram = s.dram := rfl
@[simp] theorem State.atEdge_reg (s : State) (e : Nat) (r : Nat) : (s.atEdge e).reg r = s.reg r := rfl
@[simp] theorem State.atEdge_slot (s : State) (e : Nat) (k : Nat) : (s.atEdge e).slot k = s.slot k := rfl

@[simp] theorem State.emit_pending (s : State) (x : Sent) : (s.emit x).pending = s.pending := rfl
@[simp] theorem State.emit_free (s : State) (x : Sent) : (s.emit x).free = s.free := rfl
@[simp] theorem State.emit_part (s : State) (x : Sent) : (s.emit x).part = s.part := rfl
@[simp] theorem State.emit_regs (s : State) (x : Sent) : (s.emit x).regs = s.regs := rfl
@[simp] theorem State.emit_edgeBase (s : State) (x : Sent) : (s.emit x).edgeBase = s.edgeBase := rfl
@[simp] theorem State.emit_off (s : State) (x : Sent) : (s.emit x).off = s.off := rfl
@[simp] theorem State.emit_tick (s : State) (x : Sent) : (s.emit x).tick = s.tick := rfl
@[simp] theorem State.emit_counting (s : State) (x : Sent) : (s.emit x).counting = s.counting := rfl
@[simp] theorem State.emit_ticked (s : State) (x : Sent) : (s.emit x).ticked = s.ticked := rfl
@[simp] theorem State.emit_arch (s : State) (x : Sent) : (s.emit x).arch = s.arch := rfl
@[simp] theorem State.emit_staged (s : State) (x : Sent) : (s.emit x).staged = s.staged := rfl
@[simp] theorem State.emit_ckpts (s : State) (x : Sent) : (s.emit x).ckpts = s.ckpts := rfl
@[simp] theorem State.emit_power (s : State) (x : Sent) : (s.emit x).power = s.power := rfl
@[simp] theorem State.emit_warm (s : State) (x : Sent) : (s.emit x).warm = s.warm := rfl
@[simp] theorem State.emit_flash (s : State) (x : Sent) : (s.emit x).flash = s.flash := rfl
@[simp] theorem State.emit_image (s : State) (x : Sent) : (s.emit x).image = s.image := rfl
@[simp] theorem State.emit_letters (s : State) (x : Sent) : (s.emit x).letters = s.letters := rfl
@[simp] theorem State.emit_evr (s : State) (x : Sent) : (s.emit x).evr = s.evr := rfl
@[simp] theorem State.emit_net (s : State) (x : Sent) : (s.emit x).net = s.net := rfl
@[simp] theorem State.emit_maint (s : State) (x : Sent) : (s.emit x).maint = s.maint := rfl
@[simp] theorem State.emit_time (s : State) (x : Sent) : (s.emit x).time = s.time := rfl
@[simp] theorem State.emit_ana (s : State) (x : Sent) : (s.emit x).ana = s.ana := rfl
@[simp] theorem State.emit_dio (s : State) (x : Sent) : (s.emit x).dio = s.dio := rfl
@[simp] theorem State.emit_acq (s : State) (x : Sent) : (s.emit x).acq = s.acq := rfl
@[simp] theorem State.emit_can (s : State) (x : Sent) : (s.emit x).can = s.can := rfl
@[simp] theorem State.emit_safe (s : State) (x : Sent) : (s.emit x).safe = s.safe := rfl
@[simp] theorem State.emit_integ (s : State) (x : Sent) : (s.emit x).integ = s.integ := rfl
@[simp] theorem State.emit_snap (s : State) (x : Sent) : (s.emit x).snap = s.snap := rfl
@[simp] theorem State.emit_dram (s : State) (x : Sent) : (s.emit x).dram = s.dram := rfl
@[simp] theorem State.emit_reg (s : State) (x : Sent) (r : Nat) : (s.emit x).reg r = s.reg r := rfl
@[simp] theorem State.emit_slot (s : State) (x : Sent) (k : Nat) : (s.emit x).slot k = s.slot k := rfl

@[simp] theorem State.modArch_pending (s : State) (f : Arch → Arch) : (s.modArch f).pending = s.pending := rfl
@[simp] theorem State.modArch_out (s : State) (f : Arch → Arch) : (s.modArch f).out = s.out := rfl
@[simp] theorem State.modArch_free (s : State) (f : Arch → Arch) : (s.modArch f).free = s.free := rfl
@[simp] theorem State.modArch_part (s : State) (f : Arch → Arch) : (s.modArch f).part = s.part := rfl
@[simp] theorem State.modArch_regs (s : State) (f : Arch → Arch) : (s.modArch f).regs = s.regs := rfl
@[simp] theorem State.modArch_edgeBase (s : State) (f : Arch → Arch) : (s.modArch f).edgeBase = s.edgeBase := rfl
@[simp] theorem State.modArch_off (s : State) (f : Arch → Arch) : (s.modArch f).off = s.off := rfl
@[simp] theorem State.modArch_tick (s : State) (f : Arch → Arch) : (s.modArch f).tick = s.tick := rfl
@[simp] theorem State.modArch_counting (s : State) (f : Arch → Arch) : (s.modArch f).counting = s.counting := rfl
@[simp] theorem State.modArch_ticked (s : State) (f : Arch → Arch) : (s.modArch f).ticked = s.ticked := rfl
@[simp] theorem State.modArch_staged (s : State) (f : Arch → Arch) : (s.modArch f).staged = s.staged := rfl
@[simp] theorem State.modArch_ckpts (s : State) (f : Arch → Arch) : (s.modArch f).ckpts = s.ckpts := rfl
@[simp] theorem State.modArch_power (s : State) (f : Arch → Arch) : (s.modArch f).power = s.power := rfl
@[simp] theorem State.modArch_warm (s : State) (f : Arch → Arch) : (s.modArch f).warm = s.warm := rfl
@[simp] theorem State.modArch_flash (s : State) (f : Arch → Arch) : (s.modArch f).flash = s.flash := rfl
@[simp] theorem State.modArch_image (s : State) (f : Arch → Arch) : (s.modArch f).image = s.image := rfl
@[simp] theorem State.modArch_letters (s : State) (f : Arch → Arch) : (s.modArch f).letters = s.letters := rfl
@[simp] theorem State.modArch_evr (s : State) (f : Arch → Arch) : (s.modArch f).evr = s.evr := rfl
@[simp] theorem State.modArch_net (s : State) (f : Arch → Arch) : (s.modArch f).net = s.net := rfl
@[simp] theorem State.modArch_maint (s : State) (f : Arch → Arch) : (s.modArch f).maint = s.maint := rfl
@[simp] theorem State.modArch_time (s : State) (f : Arch → Arch) : (s.modArch f).time = s.time := rfl
@[simp] theorem State.modArch_ana (s : State) (f : Arch → Arch) : (s.modArch f).ana = s.ana := rfl
@[simp] theorem State.modArch_dio (s : State) (f : Arch → Arch) : (s.modArch f).dio = s.dio := rfl
@[simp] theorem State.modArch_acq (s : State) (f : Arch → Arch) : (s.modArch f).acq = s.acq := rfl
@[simp] theorem State.modArch_can (s : State) (f : Arch → Arch) : (s.modArch f).can = s.can := rfl
@[simp] theorem State.modArch_safe (s : State) (f : Arch → Arch) : (s.modArch f).safe = s.safe := rfl
@[simp] theorem State.modArch_integ (s : State) (f : Arch → Arch) : (s.modArch f).integ = s.integ := rfl
@[simp] theorem State.modArch_snap (s : State) (f : Arch → Arch) : (s.modArch f).snap = s.snap := rfl
@[simp] theorem State.modArch_dram (s : State) (f : Arch → Arch) : (s.modArch f).dram = s.dram := rfl
@[simp] theorem State.modArch_reg (s : State) (f : Arch → Arch) (r : Nat) : (s.modArch f).reg r = s.reg r := rfl

@[simp] theorem State.setSlot_pending (s : State) (n : Nat) (v : Slot) : (s.setSlot n v).pending = s.pending := rfl
@[simp] theorem State.setSlot_out (s : State) (n : Nat) (v : Slot) : (s.setSlot n v).out = s.out := rfl
@[simp] theorem State.setSlot_free (s : State) (n : Nat) (v : Slot) : (s.setSlot n v).free = s.free := rfl
@[simp] theorem State.setSlot_part (s : State) (n : Nat) (v : Slot) : (s.setSlot n v).part = s.part := rfl
@[simp] theorem State.setSlot_regs (s : State) (n : Nat) (v : Slot) : (s.setSlot n v).regs = s.regs := rfl
@[simp] theorem State.setSlot_edgeBase (s : State) (n : Nat) (v : Slot) : (s.setSlot n v).edgeBase = s.edgeBase := rfl
@[simp] theorem State.setSlot_off (s : State) (n : Nat) (v : Slot) : (s.setSlot n v).off = s.off := rfl
@[simp] theorem State.setSlot_tick (s : State) (n : Nat) (v : Slot) : (s.setSlot n v).tick = s.tick := rfl
@[simp] theorem State.setSlot_counting (s : State) (n : Nat) (v : Slot) : (s.setSlot n v).counting = s.counting := rfl
@[simp] theorem State.setSlot_ticked (s : State) (n : Nat) (v : Slot) : (s.setSlot n v).ticked = s.ticked := rfl
@[simp] theorem State.setSlot_staged (s : State) (n : Nat) (v : Slot) : (s.setSlot n v).staged = s.staged := rfl
@[simp] theorem State.setSlot_ckpts (s : State) (n : Nat) (v : Slot) : (s.setSlot n v).ckpts = s.ckpts := rfl
@[simp] theorem State.setSlot_power (s : State) (n : Nat) (v : Slot) : (s.setSlot n v).power = s.power := rfl
@[simp] theorem State.setSlot_warm (s : State) (n : Nat) (v : Slot) : (s.setSlot n v).warm = s.warm := rfl
@[simp] theorem State.setSlot_flash (s : State) (n : Nat) (v : Slot) : (s.setSlot n v).flash = s.flash := rfl
@[simp] theorem State.setSlot_image (s : State) (n : Nat) (v : Slot) : (s.setSlot n v).image = s.image := rfl
@[simp] theorem State.setSlot_letters (s : State) (n : Nat) (v : Slot) : (s.setSlot n v).letters = s.letters := rfl
@[simp] theorem State.setSlot_evr (s : State) (n : Nat) (v : Slot) : (s.setSlot n v).evr = s.evr := rfl
@[simp] theorem State.setSlot_net (s : State) (n : Nat) (v : Slot) : (s.setSlot n v).net = s.net := rfl
@[simp] theorem State.setSlot_maint (s : State) (n : Nat) (v : Slot) : (s.setSlot n v).maint = s.maint := rfl
@[simp] theorem State.setSlot_time (s : State) (n : Nat) (v : Slot) : (s.setSlot n v).time = s.time := rfl
@[simp] theorem State.setSlot_ana (s : State) (n : Nat) (v : Slot) : (s.setSlot n v).ana = s.ana := rfl
@[simp] theorem State.setSlot_dio (s : State) (n : Nat) (v : Slot) : (s.setSlot n v).dio = s.dio := rfl
@[simp] theorem State.setSlot_acq (s : State) (n : Nat) (v : Slot) : (s.setSlot n v).acq = s.acq := rfl
@[simp] theorem State.setSlot_can (s : State) (n : Nat) (v : Slot) : (s.setSlot n v).can = s.can := rfl
@[simp] theorem State.setSlot_safe (s : State) (n : Nat) (v : Slot) : (s.setSlot n v).safe = s.safe := rfl
@[simp] theorem State.setSlot_integ (s : State) (n : Nat) (v : Slot) : (s.setSlot n v).integ = s.integ := rfl
@[simp] theorem State.setSlot_snap (s : State) (n : Nat) (v : Slot) : (s.setSlot n v).snap = s.snap := rfl
@[simp] theorem State.setSlot_dram (s : State) (n : Nat) (v : Slot) : (s.setSlot n v).dram = s.dram := rfl
@[simp] theorem State.setSlot_reg (s : State) (n : Nat) (v : Slot) (r : Nat) : (s.setSlot n v).reg r = s.reg r := rfl

@[simp] theorem State.modLane_pending (s : State) (n : Nat) (f : Lane → Lane) : (s.modLane n f).pending = s.pending := rfl
@[simp] theorem State.modLane_out (s : State) (n : Nat) (f : Lane → Lane) : (s.modLane n f).out = s.out := rfl
@[simp] theorem State.modLane_free (s : State) (n : Nat) (f : Lane → Lane) : (s.modLane n f).free = s.free := rfl
@[simp] theorem State.modLane_part (s : State) (n : Nat) (f : Lane → Lane) : (s.modLane n f).part = s.part := rfl
@[simp] theorem State.modLane_regs (s : State) (n : Nat) (f : Lane → Lane) : (s.modLane n f).regs = s.regs := rfl
@[simp] theorem State.modLane_edgeBase (s : State) (n : Nat) (f : Lane → Lane) : (s.modLane n f).edgeBase = s.edgeBase := rfl
@[simp] theorem State.modLane_off (s : State) (n : Nat) (f : Lane → Lane) : (s.modLane n f).off = s.off := rfl
@[simp] theorem State.modLane_tick (s : State) (n : Nat) (f : Lane → Lane) : (s.modLane n f).tick = s.tick := rfl
@[simp] theorem State.modLane_counting (s : State) (n : Nat) (f : Lane → Lane) : (s.modLane n f).counting = s.counting := rfl
@[simp] theorem State.modLane_ticked (s : State) (n : Nat) (f : Lane → Lane) : (s.modLane n f).ticked = s.ticked := rfl
@[simp] theorem State.modLane_staged (s : State) (n : Nat) (f : Lane → Lane) : (s.modLane n f).staged = s.staged := rfl
@[simp] theorem State.modLane_ckpts (s : State) (n : Nat) (f : Lane → Lane) : (s.modLane n f).ckpts = s.ckpts := rfl
@[simp] theorem State.modLane_power (s : State) (n : Nat) (f : Lane → Lane) : (s.modLane n f).power = s.power := rfl
@[simp] theorem State.modLane_warm (s : State) (n : Nat) (f : Lane → Lane) : (s.modLane n f).warm = s.warm := rfl
@[simp] theorem State.modLane_flash (s : State) (n : Nat) (f : Lane → Lane) : (s.modLane n f).flash = s.flash := rfl
@[simp] theorem State.modLane_image (s : State) (n : Nat) (f : Lane → Lane) : (s.modLane n f).image = s.image := rfl
@[simp] theorem State.modLane_letters (s : State) (n : Nat) (f : Lane → Lane) : (s.modLane n f).letters = s.letters := rfl
@[simp] theorem State.modLane_evr (s : State) (n : Nat) (f : Lane → Lane) : (s.modLane n f).evr = s.evr := rfl
@[simp] theorem State.modLane_net (s : State) (n : Nat) (f : Lane → Lane) : (s.modLane n f).net = s.net := rfl
@[simp] theorem State.modLane_maint (s : State) (n : Nat) (f : Lane → Lane) : (s.modLane n f).maint = s.maint := rfl
@[simp] theorem State.modLane_time (s : State) (n : Nat) (f : Lane → Lane) : (s.modLane n f).time = s.time := rfl
@[simp] theorem State.modLane_ana (s : State) (n : Nat) (f : Lane → Lane) : (s.modLane n f).ana = s.ana := rfl
@[simp] theorem State.modLane_dio (s : State) (n : Nat) (f : Lane → Lane) : (s.modLane n f).dio = s.dio := rfl
@[simp] theorem State.modLane_acq (s : State) (n : Nat) (f : Lane → Lane) : (s.modLane n f).acq = s.acq := rfl
@[simp] theorem State.modLane_can (s : State) (n : Nat) (f : Lane → Lane) : (s.modLane n f).can = s.can := rfl
@[simp] theorem State.modLane_safe (s : State) (n : Nat) (f : Lane → Lane) : (s.modLane n f).safe = s.safe := rfl
@[simp] theorem State.modLane_integ (s : State) (n : Nat) (f : Lane → Lane) : (s.modLane n f).integ = s.integ := rfl
@[simp] theorem State.modLane_snap (s : State) (n : Nat) (f : Lane → Lane) : (s.modLane n f).snap = s.snap := rfl
@[simp] theorem State.modLane_dram (s : State) (n : Nat) (f : Lane → Lane) : (s.modLane n f).dram = s.dram := rfl
@[simp] theorem State.modLane_reg (s : State) (n : Nat) (f : Lane → Lane) (r : Nat) : (s.modLane n f).reg r = s.reg r := rfl

@[simp] theorem State.modCellX_pending (s : State) (n : Nat) (f : CellX → CellX) : (s.modCellX n f).pending = s.pending := rfl
@[simp] theorem State.modCellX_out (s : State) (n : Nat) (f : CellX → CellX) : (s.modCellX n f).out = s.out := rfl
@[simp] theorem State.modCellX_free (s : State) (n : Nat) (f : CellX → CellX) : (s.modCellX n f).free = s.free := rfl
@[simp] theorem State.modCellX_part (s : State) (n : Nat) (f : CellX → CellX) : (s.modCellX n f).part = s.part := rfl
@[simp] theorem State.modCellX_regs (s : State) (n : Nat) (f : CellX → CellX) : (s.modCellX n f).regs = s.regs := rfl
@[simp] theorem State.modCellX_edgeBase (s : State) (n : Nat) (f : CellX → CellX) : (s.modCellX n f).edgeBase = s.edgeBase := rfl
@[simp] theorem State.modCellX_off (s : State) (n : Nat) (f : CellX → CellX) : (s.modCellX n f).off = s.off := rfl
@[simp] theorem State.modCellX_tick (s : State) (n : Nat) (f : CellX → CellX) : (s.modCellX n f).tick = s.tick := rfl
@[simp] theorem State.modCellX_counting (s : State) (n : Nat) (f : CellX → CellX) : (s.modCellX n f).counting = s.counting := rfl
@[simp] theorem State.modCellX_ticked (s : State) (n : Nat) (f : CellX → CellX) : (s.modCellX n f).ticked = s.ticked := rfl
@[simp] theorem State.modCellX_staged (s : State) (n : Nat) (f : CellX → CellX) : (s.modCellX n f).staged = s.staged := rfl
@[simp] theorem State.modCellX_ckpts (s : State) (n : Nat) (f : CellX → CellX) : (s.modCellX n f).ckpts = s.ckpts := rfl
@[simp] theorem State.modCellX_power (s : State) (n : Nat) (f : CellX → CellX) : (s.modCellX n f).power = s.power := rfl
@[simp] theorem State.modCellX_warm (s : State) (n : Nat) (f : CellX → CellX) : (s.modCellX n f).warm = s.warm := rfl
@[simp] theorem State.modCellX_flash (s : State) (n : Nat) (f : CellX → CellX) : (s.modCellX n f).flash = s.flash := rfl
@[simp] theorem State.modCellX_image (s : State) (n : Nat) (f : CellX → CellX) : (s.modCellX n f).image = s.image := rfl
@[simp] theorem State.modCellX_letters (s : State) (n : Nat) (f : CellX → CellX) : (s.modCellX n f).letters = s.letters := rfl
@[simp] theorem State.modCellX_evr (s : State) (n : Nat) (f : CellX → CellX) : (s.modCellX n f).evr = s.evr := rfl
@[simp] theorem State.modCellX_net (s : State) (n : Nat) (f : CellX → CellX) : (s.modCellX n f).net = s.net := rfl
@[simp] theorem State.modCellX_maint (s : State) (n : Nat) (f : CellX → CellX) : (s.modCellX n f).maint = s.maint := rfl
@[simp] theorem State.modCellX_time (s : State) (n : Nat) (f : CellX → CellX) : (s.modCellX n f).time = s.time := rfl
@[simp] theorem State.modCellX_ana (s : State) (n : Nat) (f : CellX → CellX) : (s.modCellX n f).ana = s.ana := rfl
@[simp] theorem State.modCellX_dio (s : State) (n : Nat) (f : CellX → CellX) : (s.modCellX n f).dio = s.dio := rfl
@[simp] theorem State.modCellX_acq (s : State) (n : Nat) (f : CellX → CellX) : (s.modCellX n f).acq = s.acq := rfl
@[simp] theorem State.modCellX_can (s : State) (n : Nat) (f : CellX → CellX) : (s.modCellX n f).can = s.can := rfl
@[simp] theorem State.modCellX_safe (s : State) (n : Nat) (f : CellX → CellX) : (s.modCellX n f).safe = s.safe := rfl
@[simp] theorem State.modCellX_integ (s : State) (n : Nat) (f : CellX → CellX) : (s.modCellX n f).integ = s.integ := rfl
@[simp] theorem State.modCellX_snap (s : State) (n : Nat) (f : CellX → CellX) : (s.modCellX n f).snap = s.snap := rfl
@[simp] theorem State.modCellX_dram (s : State) (n : Nat) (f : CellX → CellX) : (s.modCellX n f).dram = s.dram := rfl
@[simp] theorem State.modCellX_reg (s : State) (n : Nat) (f : CellX → CellX) (r : Nat) : (s.modCellX n f).reg r = s.reg r := rfl

@[simp] theorem State.modAxis_pending (s : State) (n : Nat) (f : Axis → Axis) : (s.modAxis n f).pending = s.pending := rfl
@[simp] theorem State.modAxis_out (s : State) (n : Nat) (f : Axis → Axis) : (s.modAxis n f).out = s.out := rfl
@[simp] theorem State.modAxis_free (s : State) (n : Nat) (f : Axis → Axis) : (s.modAxis n f).free = s.free := rfl
@[simp] theorem State.modAxis_part (s : State) (n : Nat) (f : Axis → Axis) : (s.modAxis n f).part = s.part := rfl
@[simp] theorem State.modAxis_regs (s : State) (n : Nat) (f : Axis → Axis) : (s.modAxis n f).regs = s.regs := rfl
@[simp] theorem State.modAxis_edgeBase (s : State) (n : Nat) (f : Axis → Axis) : (s.modAxis n f).edgeBase = s.edgeBase := rfl
@[simp] theorem State.modAxis_off (s : State) (n : Nat) (f : Axis → Axis) : (s.modAxis n f).off = s.off := rfl
@[simp] theorem State.modAxis_tick (s : State) (n : Nat) (f : Axis → Axis) : (s.modAxis n f).tick = s.tick := rfl
@[simp] theorem State.modAxis_counting (s : State) (n : Nat) (f : Axis → Axis) : (s.modAxis n f).counting = s.counting := rfl
@[simp] theorem State.modAxis_ticked (s : State) (n : Nat) (f : Axis → Axis) : (s.modAxis n f).ticked = s.ticked := rfl
@[simp] theorem State.modAxis_staged (s : State) (n : Nat) (f : Axis → Axis) : (s.modAxis n f).staged = s.staged := rfl
@[simp] theorem State.modAxis_ckpts (s : State) (n : Nat) (f : Axis → Axis) : (s.modAxis n f).ckpts = s.ckpts := rfl
@[simp] theorem State.modAxis_power (s : State) (n : Nat) (f : Axis → Axis) : (s.modAxis n f).power = s.power := rfl
@[simp] theorem State.modAxis_warm (s : State) (n : Nat) (f : Axis → Axis) : (s.modAxis n f).warm = s.warm := rfl
@[simp] theorem State.modAxis_flash (s : State) (n : Nat) (f : Axis → Axis) : (s.modAxis n f).flash = s.flash := rfl
@[simp] theorem State.modAxis_image (s : State) (n : Nat) (f : Axis → Axis) : (s.modAxis n f).image = s.image := rfl
@[simp] theorem State.modAxis_letters (s : State) (n : Nat) (f : Axis → Axis) : (s.modAxis n f).letters = s.letters := rfl
@[simp] theorem State.modAxis_evr (s : State) (n : Nat) (f : Axis → Axis) : (s.modAxis n f).evr = s.evr := rfl
@[simp] theorem State.modAxis_net (s : State) (n : Nat) (f : Axis → Axis) : (s.modAxis n f).net = s.net := rfl
@[simp] theorem State.modAxis_maint (s : State) (n : Nat) (f : Axis → Axis) : (s.modAxis n f).maint = s.maint := rfl
@[simp] theorem State.modAxis_time (s : State) (n : Nat) (f : Axis → Axis) : (s.modAxis n f).time = s.time := rfl
@[simp] theorem State.modAxis_ana (s : State) (n : Nat) (f : Axis → Axis) : (s.modAxis n f).ana = s.ana := rfl
@[simp] theorem State.modAxis_dio (s : State) (n : Nat) (f : Axis → Axis) : (s.modAxis n f).dio = s.dio := rfl
@[simp] theorem State.modAxis_acq (s : State) (n : Nat) (f : Axis → Axis) : (s.modAxis n f).acq = s.acq := rfl
@[simp] theorem State.modAxis_can (s : State) (n : Nat) (f : Axis → Axis) : (s.modAxis n f).can = s.can := rfl
@[simp] theorem State.modAxis_safe (s : State) (n : Nat) (f : Axis → Axis) : (s.modAxis n f).safe = s.safe := rfl
@[simp] theorem State.modAxis_integ (s : State) (n : Nat) (f : Axis → Axis) : (s.modAxis n f).integ = s.integ := rfl
@[simp] theorem State.modAxis_snap (s : State) (n : Nat) (f : Axis → Axis) : (s.modAxis n f).snap = s.snap := rfl
@[simp] theorem State.modAxis_dram (s : State) (n : Nat) (f : Axis → Axis) : (s.modAxis n f).dram = s.dram := rfl
@[simp] theorem State.modAxis_reg (s : State) (n : Nat) (f : Axis → Axis) (r : Nat) : (s.modAxis n f).reg r = s.reg r := rfl

@[simp] theorem State.modSport_pending (s : State) (n : Nat) (f : StridePort → StridePort) : (s.modSport n f).pending = s.pending := rfl
@[simp] theorem State.modSport_out (s : State) (n : Nat) (f : StridePort → StridePort) : (s.modSport n f).out = s.out := rfl
@[simp] theorem State.modSport_free (s : State) (n : Nat) (f : StridePort → StridePort) : (s.modSport n f).free = s.free := rfl
@[simp] theorem State.modSport_part (s : State) (n : Nat) (f : StridePort → StridePort) : (s.modSport n f).part = s.part := rfl
@[simp] theorem State.modSport_regs (s : State) (n : Nat) (f : StridePort → StridePort) : (s.modSport n f).regs = s.regs := rfl
@[simp] theorem State.modSport_edgeBase (s : State) (n : Nat) (f : StridePort → StridePort) : (s.modSport n f).edgeBase = s.edgeBase := rfl
@[simp] theorem State.modSport_off (s : State) (n : Nat) (f : StridePort → StridePort) : (s.modSport n f).off = s.off := rfl
@[simp] theorem State.modSport_tick (s : State) (n : Nat) (f : StridePort → StridePort) : (s.modSport n f).tick = s.tick := rfl
@[simp] theorem State.modSport_counting (s : State) (n : Nat) (f : StridePort → StridePort) : (s.modSport n f).counting = s.counting := rfl
@[simp] theorem State.modSport_ticked (s : State) (n : Nat) (f : StridePort → StridePort) : (s.modSport n f).ticked = s.ticked := rfl
@[simp] theorem State.modSport_staged (s : State) (n : Nat) (f : StridePort → StridePort) : (s.modSport n f).staged = s.staged := rfl
@[simp] theorem State.modSport_ckpts (s : State) (n : Nat) (f : StridePort → StridePort) : (s.modSport n f).ckpts = s.ckpts := rfl
@[simp] theorem State.modSport_power (s : State) (n : Nat) (f : StridePort → StridePort) : (s.modSport n f).power = s.power := rfl
@[simp] theorem State.modSport_warm (s : State) (n : Nat) (f : StridePort → StridePort) : (s.modSport n f).warm = s.warm := rfl
@[simp] theorem State.modSport_flash (s : State) (n : Nat) (f : StridePort → StridePort) : (s.modSport n f).flash = s.flash := rfl
@[simp] theorem State.modSport_image (s : State) (n : Nat) (f : StridePort → StridePort) : (s.modSport n f).image = s.image := rfl
@[simp] theorem State.modSport_letters (s : State) (n : Nat) (f : StridePort → StridePort) : (s.modSport n f).letters = s.letters := rfl
@[simp] theorem State.modSport_evr (s : State) (n : Nat) (f : StridePort → StridePort) : (s.modSport n f).evr = s.evr := rfl
@[simp] theorem State.modSport_net (s : State) (n : Nat) (f : StridePort → StridePort) : (s.modSport n f).net = s.net := rfl
@[simp] theorem State.modSport_maint (s : State) (n : Nat) (f : StridePort → StridePort) : (s.modSport n f).maint = s.maint := rfl
@[simp] theorem State.modSport_time (s : State) (n : Nat) (f : StridePort → StridePort) : (s.modSport n f).time = s.time := rfl
@[simp] theorem State.modSport_ana (s : State) (n : Nat) (f : StridePort → StridePort) : (s.modSport n f).ana = s.ana := rfl
@[simp] theorem State.modSport_dio (s : State) (n : Nat) (f : StridePort → StridePort) : (s.modSport n f).dio = s.dio := rfl
@[simp] theorem State.modSport_acq (s : State) (n : Nat) (f : StridePort → StridePort) : (s.modSport n f).acq = s.acq := rfl
@[simp] theorem State.modSport_can (s : State) (n : Nat) (f : StridePort → StridePort) : (s.modSport n f).can = s.can := rfl
@[simp] theorem State.modSport_safe (s : State) (n : Nat) (f : StridePort → StridePort) : (s.modSport n f).safe = s.safe := rfl
@[simp] theorem State.modSport_integ (s : State) (n : Nat) (f : StridePort → StridePort) : (s.modSport n f).integ = s.integ := rfl
@[simp] theorem State.modSport_snap (s : State) (n : Nat) (f : StridePort → StridePort) : (s.modSport n f).snap = s.snap := rfl
@[simp] theorem State.modSport_dram (s : State) (n : Nat) (f : StridePort → StridePort) : (s.modSport n f).dram = s.dram := rfl
@[simp] theorem State.modSport_reg (s : State) (n : Nat) (f : StridePort → StridePort) (r : Nat) : (s.modSport n f).reg r = s.reg r := rfl

@[simp] theorem State.dropCkpts_pending (s : State) : s.dropCkpts.pending = s.pending := rfl
@[simp] theorem State.dropCkpts_out (s : State) : s.dropCkpts.out = s.out := rfl
@[simp] theorem State.dropCkpts_free (s : State) : s.dropCkpts.free = s.free := rfl
@[simp] theorem State.dropCkpts_part (s : State) : s.dropCkpts.part = s.part := rfl
@[simp] theorem State.dropCkpts_regs (s : State) : s.dropCkpts.regs = s.regs := rfl
@[simp] theorem State.dropCkpts_edgeBase (s : State) : s.dropCkpts.edgeBase = s.edgeBase := rfl
@[simp] theorem State.dropCkpts_off (s : State) : s.dropCkpts.off = s.off := rfl
@[simp] theorem State.dropCkpts_tick (s : State) : s.dropCkpts.tick = s.tick := rfl
@[simp] theorem State.dropCkpts_counting (s : State) : s.dropCkpts.counting = s.counting := rfl
@[simp] theorem State.dropCkpts_ticked (s : State) : s.dropCkpts.ticked = s.ticked := rfl
@[simp] theorem State.dropCkpts_arch (s : State) : s.dropCkpts.arch = s.arch := rfl
@[simp] theorem State.dropCkpts_staged (s : State) : s.dropCkpts.staged = s.staged := rfl
@[simp] theorem State.dropCkpts_power (s : State) : s.dropCkpts.power = s.power := rfl
@[simp] theorem State.dropCkpts_warm (s : State) : s.dropCkpts.warm = s.warm := rfl
@[simp] theorem State.dropCkpts_flash (s : State) : s.dropCkpts.flash = s.flash := rfl
@[simp] theorem State.dropCkpts_image (s : State) : s.dropCkpts.image = s.image := rfl
@[simp] theorem State.dropCkpts_letters (s : State) : s.dropCkpts.letters = s.letters := rfl
@[simp] theorem State.dropCkpts_evr (s : State) : s.dropCkpts.evr = s.evr := rfl
@[simp] theorem State.dropCkpts_net (s : State) : s.dropCkpts.net = s.net := rfl
@[simp] theorem State.dropCkpts_maint (s : State) : s.dropCkpts.maint = s.maint := rfl
@[simp] theorem State.dropCkpts_time (s : State) : s.dropCkpts.time = s.time := rfl
@[simp] theorem State.dropCkpts_ana (s : State) : s.dropCkpts.ana = s.ana := rfl
@[simp] theorem State.dropCkpts_dio (s : State) : s.dropCkpts.dio = s.dio := rfl
@[simp] theorem State.dropCkpts_acq (s : State) : s.dropCkpts.acq = s.acq := rfl
@[simp] theorem State.dropCkpts_can (s : State) : s.dropCkpts.can = s.can := rfl
@[simp] theorem State.dropCkpts_safe (s : State) : s.dropCkpts.safe = s.safe := rfl
@[simp] theorem State.dropCkpts_integ (s : State) : s.dropCkpts.integ = s.integ := rfl
@[simp] theorem State.dropCkpts_snap (s : State) : s.dropCkpts.snap = s.snap := rfl
@[simp] theorem State.dropCkpts_dram (s : State) : s.dropCkpts.dram = s.dram := rfl
@[simp] theorem State.dropCkpts_reg (s : State) (r : Nat) : s.dropCkpts.reg r = s.reg r := rfl
@[simp] theorem State.dropCkpts_slot (s : State) (k : Nat) : s.dropCkpts.slot k = s.slot k := rfl

@[simp] theorem State.modPort_pending (s : State) (p : Nat) (f : Port → Port) : (s.modPort p f).pending = s.pending := rfl
@[simp] theorem State.modPort_out (s : State) (p : Nat) (f : Port → Port) : (s.modPort p f).out = s.out := rfl
@[simp] theorem State.modPort_free (s : State) (p : Nat) (f : Port → Port) : (s.modPort p f).free = s.free := rfl
@[simp] theorem State.modPort_part (s : State) (p : Nat) (f : Port → Port) : (s.modPort p f).part = s.part := rfl
@[simp] theorem State.modPort_regs (s : State) (p : Nat) (f : Port → Port) : (s.modPort p f).regs = s.regs := rfl
@[simp] theorem State.modPort_edgeBase (s : State) (p : Nat) (f : Port → Port) : (s.modPort p f).edgeBase = s.edgeBase := rfl
@[simp] theorem State.modPort_off (s : State) (p : Nat) (f : Port → Port) : (s.modPort p f).off = s.off := rfl
@[simp] theorem State.modPort_tick (s : State) (p : Nat) (f : Port → Port) : (s.modPort p f).tick = s.tick := rfl
@[simp] theorem State.modPort_counting (s : State) (p : Nat) (f : Port → Port) : (s.modPort p f).counting = s.counting := rfl
@[simp] theorem State.modPort_ticked (s : State) (p : Nat) (f : Port → Port) : (s.modPort p f).ticked = s.ticked := rfl
@[simp] theorem State.modPort_arch (s : State) (p : Nat) (f : Port → Port) : (s.modPort p f).arch = s.arch := rfl
@[simp] theorem State.modPort_staged (s : State) (p : Nat) (f : Port → Port) : (s.modPort p f).staged = s.staged := rfl
@[simp] theorem State.modPort_ckpts (s : State) (p : Nat) (f : Port → Port) : (s.modPort p f).ckpts = s.ckpts := rfl
@[simp] theorem State.modPort_power (s : State) (p : Nat) (f : Port → Port) : (s.modPort p f).power = s.power := rfl
@[simp] theorem State.modPort_warm (s : State) (p : Nat) (f : Port → Port) : (s.modPort p f).warm = s.warm := rfl
@[simp] theorem State.modPort_flash (s : State) (p : Nat) (f : Port → Port) : (s.modPort p f).flash = s.flash := rfl
@[simp] theorem State.modPort_image (s : State) (p : Nat) (f : Port → Port) : (s.modPort p f).image = s.image := rfl
@[simp] theorem State.modPort_letters (s : State) (p : Nat) (f : Port → Port) : (s.modPort p f).letters = s.letters := rfl
@[simp] theorem State.modPort_evr (s : State) (p : Nat) (f : Port → Port) : (s.modPort p f).evr = s.evr := rfl
@[simp] theorem State.modPort_maint (s : State) (p : Nat) (f : Port → Port) : (s.modPort p f).maint = s.maint := rfl
@[simp] theorem State.modPort_time (s : State) (p : Nat) (f : Port → Port) : (s.modPort p f).time = s.time := rfl
@[simp] theorem State.modPort_ana (s : State) (p : Nat) (f : Port → Port) : (s.modPort p f).ana = s.ana := rfl
@[simp] theorem State.modPort_dio (s : State) (p : Nat) (f : Port → Port) : (s.modPort p f).dio = s.dio := rfl
@[simp] theorem State.modPort_acq (s : State) (p : Nat) (f : Port → Port) : (s.modPort p f).acq = s.acq := rfl
@[simp] theorem State.modPort_can (s : State) (p : Nat) (f : Port → Port) : (s.modPort p f).can = s.can := rfl
@[simp] theorem State.modPort_safe (s : State) (p : Nat) (f : Port → Port) : (s.modPort p f).safe = s.safe := rfl
@[simp] theorem State.modPort_integ (s : State) (p : Nat) (f : Port → Port) : (s.modPort p f).integ = s.integ := rfl
@[simp] theorem State.modPort_snap (s : State) (p : Nat) (f : Port → Port) : (s.modPort p f).snap = s.snap := rfl
@[simp] theorem State.modPort_dram (s : State) (p : Nat) (f : Port → Port) : (s.modPort p f).dram = s.dram := rfl
@[simp] theorem State.modPort_reg (s : State) (p : Nat) (f : Port → Port) (r : Nat) : (s.modPort p f).reg r = s.reg r := rfl
@[simp] theorem State.modPort_slot (s : State) (p : Nat) (f : Port → Port) (k : Nat) : (s.modPort p f).slot k = s.slot k := rfl

@[simp] theorem State.modNet_pending (s : State) (f : Net → Net) : (s.modNet f).pending = s.pending := rfl
@[simp] theorem State.modNet_out (s : State) (f : Net → Net) : (s.modNet f).out = s.out := rfl
@[simp] theorem State.modNet_free (s : State) (f : Net → Net) : (s.modNet f).free = s.free := rfl
@[simp] theorem State.modNet_part (s : State) (f : Net → Net) : (s.modNet f).part = s.part := rfl
@[simp] theorem State.modNet_regs (s : State) (f : Net → Net) : (s.modNet f).regs = s.regs := rfl
@[simp] theorem State.modNet_edgeBase (s : State) (f : Net → Net) : (s.modNet f).edgeBase = s.edgeBase := rfl
@[simp] theorem State.modNet_off (s : State) (f : Net → Net) : (s.modNet f).off = s.off := rfl
@[simp] theorem State.modNet_tick (s : State) (f : Net → Net) : (s.modNet f).tick = s.tick := rfl
@[simp] theorem State.modNet_counting (s : State) (f : Net → Net) : (s.modNet f).counting = s.counting := rfl
@[simp] theorem State.modNet_ticked (s : State) (f : Net → Net) : (s.modNet f).ticked = s.ticked := rfl
@[simp] theorem State.modNet_arch (s : State) (f : Net → Net) : (s.modNet f).arch = s.arch := rfl
@[simp] theorem State.modNet_staged (s : State) (f : Net → Net) : (s.modNet f).staged = s.staged := rfl
@[simp] theorem State.modNet_ckpts (s : State) (f : Net → Net) : (s.modNet f).ckpts = s.ckpts := rfl
@[simp] theorem State.modNet_power (s : State) (f : Net → Net) : (s.modNet f).power = s.power := rfl
@[simp] theorem State.modNet_warm (s : State) (f : Net → Net) : (s.modNet f).warm = s.warm := rfl
@[simp] theorem State.modNet_flash (s : State) (f : Net → Net) : (s.modNet f).flash = s.flash := rfl
@[simp] theorem State.modNet_image (s : State) (f : Net → Net) : (s.modNet f).image = s.image := rfl
@[simp] theorem State.modNet_letters (s : State) (f : Net → Net) : (s.modNet f).letters = s.letters := rfl
@[simp] theorem State.modNet_evr (s : State) (f : Net → Net) : (s.modNet f).evr = s.evr := rfl
@[simp] theorem State.modNet_maint (s : State) (f : Net → Net) : (s.modNet f).maint = s.maint := rfl
@[simp] theorem State.modNet_time (s : State) (f : Net → Net) : (s.modNet f).time = s.time := rfl
@[simp] theorem State.modNet_ana (s : State) (f : Net → Net) : (s.modNet f).ana = s.ana := rfl
@[simp] theorem State.modNet_dio (s : State) (f : Net → Net) : (s.modNet f).dio = s.dio := rfl
@[simp] theorem State.modNet_acq (s : State) (f : Net → Net) : (s.modNet f).acq = s.acq := rfl
@[simp] theorem State.modNet_can (s : State) (f : Net → Net) : (s.modNet f).can = s.can := rfl
@[simp] theorem State.modNet_safe (s : State) (f : Net → Net) : (s.modNet f).safe = s.safe := rfl
@[simp] theorem State.modNet_integ (s : State) (f : Net → Net) : (s.modNet f).integ = s.integ := rfl
@[simp] theorem State.modNet_snap (s : State) (f : Net → Net) : (s.modNet f).snap = s.snap := rfl
@[simp] theorem State.modNet_dram (s : State) (f : Net → Net) : (s.modNet f).dram = s.dram := rfl
@[simp] theorem State.modNet_reg (s : State) (f : Net → Net) (r : Nat) : (s.modNet f).reg r = s.reg r := rfl
@[simp] theorem State.modNet_slot (s : State) (f : Net → Net) (k : Nat) : (s.modNet f).slot k = s.slot k := rfl

@[simp] theorem State.modSeal_pending (s : State) (f : Seal → Seal) : (s.modSeal f).pending = s.pending := rfl
@[simp] theorem State.modSeal_out (s : State) (f : Seal → Seal) : (s.modSeal f).out = s.out := rfl
@[simp] theorem State.modSeal_free (s : State) (f : Seal → Seal) : (s.modSeal f).free = s.free := rfl
@[simp] theorem State.modSeal_part (s : State) (f : Seal → Seal) : (s.modSeal f).part = s.part := rfl
@[simp] theorem State.modSeal_regs (s : State) (f : Seal → Seal) : (s.modSeal f).regs = s.regs := rfl
@[simp] theorem State.modSeal_edgeBase (s : State) (f : Seal → Seal) : (s.modSeal f).edgeBase = s.edgeBase := rfl
@[simp] theorem State.modSeal_off (s : State) (f : Seal → Seal) : (s.modSeal f).off = s.off := rfl
@[simp] theorem State.modSeal_tick (s : State) (f : Seal → Seal) : (s.modSeal f).tick = s.tick := rfl
@[simp] theorem State.modSeal_counting (s : State) (f : Seal → Seal) : (s.modSeal f).counting = s.counting := rfl
@[simp] theorem State.modSeal_ticked (s : State) (f : Seal → Seal) : (s.modSeal f).ticked = s.ticked := rfl
@[simp] theorem State.modSeal_arch (s : State) (f : Seal → Seal) : (s.modSeal f).arch = s.arch := rfl
@[simp] theorem State.modSeal_staged (s : State) (f : Seal → Seal) : (s.modSeal f).staged = s.staged := rfl
@[simp] theorem State.modSeal_ckpts (s : State) (f : Seal → Seal) : (s.modSeal f).ckpts = s.ckpts := rfl
@[simp] theorem State.modSeal_power (s : State) (f : Seal → Seal) : (s.modSeal f).power = s.power := rfl
@[simp] theorem State.modSeal_warm (s : State) (f : Seal → Seal) : (s.modSeal f).warm = s.warm := rfl
@[simp] theorem State.modSeal_flash (s : State) (f : Seal → Seal) : (s.modSeal f).flash = s.flash := rfl
@[simp] theorem State.modSeal_image (s : State) (f : Seal → Seal) : (s.modSeal f).image = s.image := rfl
@[simp] theorem State.modSeal_evr (s : State) (f : Seal → Seal) : (s.modSeal f).evr = s.evr := rfl
@[simp] theorem State.modSeal_net (s : State) (f : Seal → Seal) : (s.modSeal f).net = s.net := rfl
@[simp] theorem State.modSeal_maint (s : State) (f : Seal → Seal) : (s.modSeal f).maint = s.maint := rfl
@[simp] theorem State.modSeal_time (s : State) (f : Seal → Seal) : (s.modSeal f).time = s.time := rfl
@[simp] theorem State.modSeal_ana (s : State) (f : Seal → Seal) : (s.modSeal f).ana = s.ana := rfl
@[simp] theorem State.modSeal_dio (s : State) (f : Seal → Seal) : (s.modSeal f).dio = s.dio := rfl
@[simp] theorem State.modSeal_acq (s : State) (f : Seal → Seal) : (s.modSeal f).acq = s.acq := rfl
@[simp] theorem State.modSeal_can (s : State) (f : Seal → Seal) : (s.modSeal f).can = s.can := rfl
@[simp] theorem State.modSeal_safe (s : State) (f : Seal → Seal) : (s.modSeal f).safe = s.safe := rfl
@[simp] theorem State.modSeal_integ (s : State) (f : Seal → Seal) : (s.modSeal f).integ = s.integ := rfl
@[simp] theorem State.modSeal_snap (s : State) (f : Seal → Seal) : (s.modSeal f).snap = s.snap := rfl
@[simp] theorem State.modSeal_dram (s : State) (f : Seal → Seal) : (s.modSeal f).dram = s.dram := rfl
@[simp] theorem State.modSeal_reg (s : State) (f : Seal → Seal) (r : Nat) : (s.modSeal f).reg r = s.reg r := rfl
@[simp] theorem State.modSeal_slot (s : State) (f : Seal → Seal) (k : Nat) : (s.modSeal f).slot k = s.slot k := rfl

@[simp] theorem State.modMaint_pending (s : State) (f : Maint → Maint) : (s.modMaint f).pending = s.pending := rfl
@[simp] theorem State.modMaint_out (s : State) (f : Maint → Maint) : (s.modMaint f).out = s.out := rfl
@[simp] theorem State.modMaint_free (s : State) (f : Maint → Maint) : (s.modMaint f).free = s.free := rfl
@[simp] theorem State.modMaint_part (s : State) (f : Maint → Maint) : (s.modMaint f).part = s.part := rfl
@[simp] theorem State.modMaint_regs (s : State) (f : Maint → Maint) : (s.modMaint f).regs = s.regs := rfl
@[simp] theorem State.modMaint_edgeBase (s : State) (f : Maint → Maint) : (s.modMaint f).edgeBase = s.edgeBase := rfl
@[simp] theorem State.modMaint_off (s : State) (f : Maint → Maint) : (s.modMaint f).off = s.off := rfl
@[simp] theorem State.modMaint_tick (s : State) (f : Maint → Maint) : (s.modMaint f).tick = s.tick := rfl
@[simp] theorem State.modMaint_counting (s : State) (f : Maint → Maint) : (s.modMaint f).counting = s.counting := rfl
@[simp] theorem State.modMaint_ticked (s : State) (f : Maint → Maint) : (s.modMaint f).ticked = s.ticked := rfl
@[simp] theorem State.modMaint_arch (s : State) (f : Maint → Maint) : (s.modMaint f).arch = s.arch := rfl
@[simp] theorem State.modMaint_staged (s : State) (f : Maint → Maint) : (s.modMaint f).staged = s.staged := rfl
@[simp] theorem State.modMaint_ckpts (s : State) (f : Maint → Maint) : (s.modMaint f).ckpts = s.ckpts := rfl
@[simp] theorem State.modMaint_power (s : State) (f : Maint → Maint) : (s.modMaint f).power = s.power := rfl
@[simp] theorem State.modMaint_warm (s : State) (f : Maint → Maint) : (s.modMaint f).warm = s.warm := rfl
@[simp] theorem State.modMaint_flash (s : State) (f : Maint → Maint) : (s.modMaint f).flash = s.flash := rfl
@[simp] theorem State.modMaint_image (s : State) (f : Maint → Maint) : (s.modMaint f).image = s.image := rfl
@[simp] theorem State.modMaint_letters (s : State) (f : Maint → Maint) : (s.modMaint f).letters = s.letters := rfl
@[simp] theorem State.modMaint_evr (s : State) (f : Maint → Maint) : (s.modMaint f).evr = s.evr := rfl
@[simp] theorem State.modMaint_net (s : State) (f : Maint → Maint) : (s.modMaint f).net = s.net := rfl
@[simp] theorem State.modMaint_time (s : State) (f : Maint → Maint) : (s.modMaint f).time = s.time := rfl
@[simp] theorem State.modMaint_ana (s : State) (f : Maint → Maint) : (s.modMaint f).ana = s.ana := rfl
@[simp] theorem State.modMaint_dio (s : State) (f : Maint → Maint) : (s.modMaint f).dio = s.dio := rfl
@[simp] theorem State.modMaint_acq (s : State) (f : Maint → Maint) : (s.modMaint f).acq = s.acq := rfl
@[simp] theorem State.modMaint_can (s : State) (f : Maint → Maint) : (s.modMaint f).can = s.can := rfl
@[simp] theorem State.modMaint_safe (s : State) (f : Maint → Maint) : (s.modMaint f).safe = s.safe := rfl
@[simp] theorem State.modMaint_integ (s : State) (f : Maint → Maint) : (s.modMaint f).integ = s.integ := rfl
@[simp] theorem State.modMaint_snap (s : State) (f : Maint → Maint) : (s.modMaint f).snap = s.snap := rfl
@[simp] theorem State.modMaint_dram (s : State) (f : Maint → Maint) : (s.modMaint f).dram = s.dram := rfl
@[simp] theorem State.modMaint_reg (s : State) (f : Maint → Maint) (r : Nat) : (s.modMaint f).reg r = s.reg r := rfl
@[simp] theorem State.modMaint_slot (s : State) (f : Maint → Maint) (k : Nat) : (s.modMaint f).slot k = s.slot k := rfl

@[simp] theorem State.modTime_pending (s : State) (f : Time → Time) : (s.modTime f).pending = s.pending := rfl
@[simp] theorem State.modTime_out (s : State) (f : Time → Time) : (s.modTime f).out = s.out := rfl
@[simp] theorem State.modTime_free (s : State) (f : Time → Time) : (s.modTime f).free = s.free := rfl
@[simp] theorem State.modTime_part (s : State) (f : Time → Time) : (s.modTime f).part = s.part := rfl
@[simp] theorem State.modTime_regs (s : State) (f : Time → Time) : (s.modTime f).regs = s.regs := rfl
@[simp] theorem State.modTime_edgeBase (s : State) (f : Time → Time) : (s.modTime f).edgeBase = s.edgeBase := rfl
@[simp] theorem State.modTime_off (s : State) (f : Time → Time) : (s.modTime f).off = s.off := rfl
@[simp] theorem State.modTime_tick (s : State) (f : Time → Time) : (s.modTime f).tick = s.tick := rfl
@[simp] theorem State.modTime_counting (s : State) (f : Time → Time) : (s.modTime f).counting = s.counting := rfl
@[simp] theorem State.modTime_ticked (s : State) (f : Time → Time) : (s.modTime f).ticked = s.ticked := rfl
@[simp] theorem State.modTime_arch (s : State) (f : Time → Time) : (s.modTime f).arch = s.arch := rfl
@[simp] theorem State.modTime_staged (s : State) (f : Time → Time) : (s.modTime f).staged = s.staged := rfl
@[simp] theorem State.modTime_ckpts (s : State) (f : Time → Time) : (s.modTime f).ckpts = s.ckpts := rfl
@[simp] theorem State.modTime_power (s : State) (f : Time → Time) : (s.modTime f).power = s.power := rfl
@[simp] theorem State.modTime_warm (s : State) (f : Time → Time) : (s.modTime f).warm = s.warm := rfl
@[simp] theorem State.modTime_flash (s : State) (f : Time → Time) : (s.modTime f).flash = s.flash := rfl
@[simp] theorem State.modTime_image (s : State) (f : Time → Time) : (s.modTime f).image = s.image := rfl
@[simp] theorem State.modTime_letters (s : State) (f : Time → Time) : (s.modTime f).letters = s.letters := rfl
@[simp] theorem State.modTime_evr (s : State) (f : Time → Time) : (s.modTime f).evr = s.evr := rfl
@[simp] theorem State.modTime_net (s : State) (f : Time → Time) : (s.modTime f).net = s.net := rfl
@[simp] theorem State.modTime_maint (s : State) (f : Time → Time) : (s.modTime f).maint = s.maint := rfl
@[simp] theorem State.modTime_ana (s : State) (f : Time → Time) : (s.modTime f).ana = s.ana := rfl
@[simp] theorem State.modTime_dio (s : State) (f : Time → Time) : (s.modTime f).dio = s.dio := rfl
@[simp] theorem State.modTime_acq (s : State) (f : Time → Time) : (s.modTime f).acq = s.acq := rfl
@[simp] theorem State.modTime_can (s : State) (f : Time → Time) : (s.modTime f).can = s.can := rfl
@[simp] theorem State.modTime_safe (s : State) (f : Time → Time) : (s.modTime f).safe = s.safe := rfl
@[simp] theorem State.modTime_integ (s : State) (f : Time → Time) : (s.modTime f).integ = s.integ := rfl
@[simp] theorem State.modTime_snap (s : State) (f : Time → Time) : (s.modTime f).snap = s.snap := rfl
@[simp] theorem State.modTime_dram (s : State) (f : Time → Time) : (s.modTime f).dram = s.dram := rfl
@[simp] theorem State.modTime_reg (s : State) (f : Time → Time) (r : Nat) : (s.modTime f).reg r = s.reg r := rfl
@[simp] theorem State.modTime_slot (s : State) (f : Time → Time) (k : Nat) : (s.modTime f).slot k = s.slot k := rfl

@[simp] theorem State.modCore_pending (s : State) (c : Nat) (f : AdcCore → AdcCore) : (s.modCore c f).pending = s.pending := rfl
@[simp] theorem State.modCore_out (s : State) (c : Nat) (f : AdcCore → AdcCore) : (s.modCore c f).out = s.out := rfl
@[simp] theorem State.modCore_free (s : State) (c : Nat) (f : AdcCore → AdcCore) : (s.modCore c f).free = s.free := rfl
@[simp] theorem State.modCore_part (s : State) (c : Nat) (f : AdcCore → AdcCore) : (s.modCore c f).part = s.part := rfl
@[simp] theorem State.modCore_regs (s : State) (c : Nat) (f : AdcCore → AdcCore) : (s.modCore c f).regs = s.regs := rfl
@[simp] theorem State.modCore_edgeBase (s : State) (c : Nat) (f : AdcCore → AdcCore) : (s.modCore c f).edgeBase = s.edgeBase := rfl
@[simp] theorem State.modCore_off (s : State) (c : Nat) (f : AdcCore → AdcCore) : (s.modCore c f).off = s.off := rfl
@[simp] theorem State.modCore_tick (s : State) (c : Nat) (f : AdcCore → AdcCore) : (s.modCore c f).tick = s.tick := rfl
@[simp] theorem State.modCore_counting (s : State) (c : Nat) (f : AdcCore → AdcCore) : (s.modCore c f).counting = s.counting := rfl
@[simp] theorem State.modCore_ticked (s : State) (c : Nat) (f : AdcCore → AdcCore) : (s.modCore c f).ticked = s.ticked := rfl
@[simp] theorem State.modCore_arch (s : State) (c : Nat) (f : AdcCore → AdcCore) : (s.modCore c f).arch = s.arch := rfl
@[simp] theorem State.modCore_staged (s : State) (c : Nat) (f : AdcCore → AdcCore) : (s.modCore c f).staged = s.staged := rfl
@[simp] theorem State.modCore_ckpts (s : State) (c : Nat) (f : AdcCore → AdcCore) : (s.modCore c f).ckpts = s.ckpts := rfl
@[simp] theorem State.modCore_power (s : State) (c : Nat) (f : AdcCore → AdcCore) : (s.modCore c f).power = s.power := rfl
@[simp] theorem State.modCore_warm (s : State) (c : Nat) (f : AdcCore → AdcCore) : (s.modCore c f).warm = s.warm := rfl
@[simp] theorem State.modCore_flash (s : State) (c : Nat) (f : AdcCore → AdcCore) : (s.modCore c f).flash = s.flash := rfl
@[simp] theorem State.modCore_image (s : State) (c : Nat) (f : AdcCore → AdcCore) : (s.modCore c f).image = s.image := rfl
@[simp] theorem State.modCore_letters (s : State) (c : Nat) (f : AdcCore → AdcCore) : (s.modCore c f).letters = s.letters := rfl
@[simp] theorem State.modCore_evr (s : State) (c : Nat) (f : AdcCore → AdcCore) : (s.modCore c f).evr = s.evr := rfl
@[simp] theorem State.modCore_net (s : State) (c : Nat) (f : AdcCore → AdcCore) : (s.modCore c f).net = s.net := rfl
@[simp] theorem State.modCore_maint (s : State) (c : Nat) (f : AdcCore → AdcCore) : (s.modCore c f).maint = s.maint := rfl
@[simp] theorem State.modCore_time (s : State) (c : Nat) (f : AdcCore → AdcCore) : (s.modCore c f).time = s.time := rfl
@[simp] theorem State.modCore_dio (s : State) (c : Nat) (f : AdcCore → AdcCore) : (s.modCore c f).dio = s.dio := rfl
@[simp] theorem State.modCore_acq (s : State) (c : Nat) (f : AdcCore → AdcCore) : (s.modCore c f).acq = s.acq := rfl
@[simp] theorem State.modCore_can (s : State) (c : Nat) (f : AdcCore → AdcCore) : (s.modCore c f).can = s.can := rfl
@[simp] theorem State.modCore_safe (s : State) (c : Nat) (f : AdcCore → AdcCore) : (s.modCore c f).safe = s.safe := rfl
@[simp] theorem State.modCore_integ (s : State) (c : Nat) (f : AdcCore → AdcCore) : (s.modCore c f).integ = s.integ := rfl
@[simp] theorem State.modCore_snap (s : State) (c : Nat) (f : AdcCore → AdcCore) : (s.modCore c f).snap = s.snap := rfl
@[simp] theorem State.modCore_dram (s : State) (c : Nat) (f : AdcCore → AdcCore) : (s.modCore c f).dram = s.dram := rfl
@[simp] theorem State.modCore_reg (s : State) (c : Nat) (f : AdcCore → AdcCore) (r : Nat) : (s.modCore c f).reg r = s.reg r := rfl
@[simp] theorem State.modCore_slot (s : State) (c : Nat) (f : AdcCore → AdcCore) (k : Nat) : (s.modCore c f).slot k = s.slot k := rfl

@[simp] theorem State.modDio_pending (s : State) (f : Dio → Dio) : (s.modDio f).pending = s.pending := rfl
@[simp] theorem State.modDio_out (s : State) (f : Dio → Dio) : (s.modDio f).out = s.out := rfl
@[simp] theorem State.modDio_free (s : State) (f : Dio → Dio) : (s.modDio f).free = s.free := rfl
@[simp] theorem State.modDio_part (s : State) (f : Dio → Dio) : (s.modDio f).part = s.part := rfl
@[simp] theorem State.modDio_regs (s : State) (f : Dio → Dio) : (s.modDio f).regs = s.regs := rfl
@[simp] theorem State.modDio_edgeBase (s : State) (f : Dio → Dio) : (s.modDio f).edgeBase = s.edgeBase := rfl
@[simp] theorem State.modDio_off (s : State) (f : Dio → Dio) : (s.modDio f).off = s.off := rfl
@[simp] theorem State.modDio_tick (s : State) (f : Dio → Dio) : (s.modDio f).tick = s.tick := rfl
@[simp] theorem State.modDio_counting (s : State) (f : Dio → Dio) : (s.modDio f).counting = s.counting := rfl
@[simp] theorem State.modDio_ticked (s : State) (f : Dio → Dio) : (s.modDio f).ticked = s.ticked := rfl
@[simp] theorem State.modDio_arch (s : State) (f : Dio → Dio) : (s.modDio f).arch = s.arch := rfl
@[simp] theorem State.modDio_staged (s : State) (f : Dio → Dio) : (s.modDio f).staged = s.staged := rfl
@[simp] theorem State.modDio_ckpts (s : State) (f : Dio → Dio) : (s.modDio f).ckpts = s.ckpts := rfl
@[simp] theorem State.modDio_power (s : State) (f : Dio → Dio) : (s.modDio f).power = s.power := rfl
@[simp] theorem State.modDio_warm (s : State) (f : Dio → Dio) : (s.modDio f).warm = s.warm := rfl
@[simp] theorem State.modDio_flash (s : State) (f : Dio → Dio) : (s.modDio f).flash = s.flash := rfl
@[simp] theorem State.modDio_image (s : State) (f : Dio → Dio) : (s.modDio f).image = s.image := rfl
@[simp] theorem State.modDio_letters (s : State) (f : Dio → Dio) : (s.modDio f).letters = s.letters := rfl
@[simp] theorem State.modDio_evr (s : State) (f : Dio → Dio) : (s.modDio f).evr = s.evr := rfl
@[simp] theorem State.modDio_net (s : State) (f : Dio → Dio) : (s.modDio f).net = s.net := rfl
@[simp] theorem State.modDio_maint (s : State) (f : Dio → Dio) : (s.modDio f).maint = s.maint := rfl
@[simp] theorem State.modDio_time (s : State) (f : Dio → Dio) : (s.modDio f).time = s.time := rfl
@[simp] theorem State.modDio_ana (s : State) (f : Dio → Dio) : (s.modDio f).ana = s.ana := rfl
@[simp] theorem State.modDio_acq (s : State) (f : Dio → Dio) : (s.modDio f).acq = s.acq := rfl
@[simp] theorem State.modDio_can (s : State) (f : Dio → Dio) : (s.modDio f).can = s.can := rfl
@[simp] theorem State.modDio_safe (s : State) (f : Dio → Dio) : (s.modDio f).safe = s.safe := rfl
@[simp] theorem State.modDio_integ (s : State) (f : Dio → Dio) : (s.modDio f).integ = s.integ := rfl
@[simp] theorem State.modDio_snap (s : State) (f : Dio → Dio) : (s.modDio f).snap = s.snap := rfl
@[simp] theorem State.modDio_dram (s : State) (f : Dio → Dio) : (s.modDio f).dram = s.dram := rfl
@[simp] theorem State.modDio_reg (s : State) (f : Dio → Dio) (r : Nat) : (s.modDio f).reg r = s.reg r := rfl
@[simp] theorem State.modDio_slot (s : State) (f : Dio → Dio) (k : Nat) : (s.modDio f).slot k = s.slot k := rfl

@[simp] theorem State.modBall_pending (s : State) (n : Nat) (f : Ball → Ball) : (s.modBall n f).pending = s.pending := rfl
@[simp] theorem State.modBall_out (s : State) (n : Nat) (f : Ball → Ball) : (s.modBall n f).out = s.out := rfl
@[simp] theorem State.modBall_free (s : State) (n : Nat) (f : Ball → Ball) : (s.modBall n f).free = s.free := rfl
@[simp] theorem State.modBall_part (s : State) (n : Nat) (f : Ball → Ball) : (s.modBall n f).part = s.part := rfl
@[simp] theorem State.modBall_regs (s : State) (n : Nat) (f : Ball → Ball) : (s.modBall n f).regs = s.regs := rfl
@[simp] theorem State.modBall_edgeBase (s : State) (n : Nat) (f : Ball → Ball) : (s.modBall n f).edgeBase = s.edgeBase := rfl
@[simp] theorem State.modBall_off (s : State) (n : Nat) (f : Ball → Ball) : (s.modBall n f).off = s.off := rfl
@[simp] theorem State.modBall_tick (s : State) (n : Nat) (f : Ball → Ball) : (s.modBall n f).tick = s.tick := rfl
@[simp] theorem State.modBall_counting (s : State) (n : Nat) (f : Ball → Ball) : (s.modBall n f).counting = s.counting := rfl
@[simp] theorem State.modBall_ticked (s : State) (n : Nat) (f : Ball → Ball) : (s.modBall n f).ticked = s.ticked := rfl
@[simp] theorem State.modBall_arch (s : State) (n : Nat) (f : Ball → Ball) : (s.modBall n f).arch = s.arch := rfl
@[simp] theorem State.modBall_staged (s : State) (n : Nat) (f : Ball → Ball) : (s.modBall n f).staged = s.staged := rfl
@[simp] theorem State.modBall_ckpts (s : State) (n : Nat) (f : Ball → Ball) : (s.modBall n f).ckpts = s.ckpts := rfl
@[simp] theorem State.modBall_power (s : State) (n : Nat) (f : Ball → Ball) : (s.modBall n f).power = s.power := rfl
@[simp] theorem State.modBall_warm (s : State) (n : Nat) (f : Ball → Ball) : (s.modBall n f).warm = s.warm := rfl
@[simp] theorem State.modBall_flash (s : State) (n : Nat) (f : Ball → Ball) : (s.modBall n f).flash = s.flash := rfl
@[simp] theorem State.modBall_image (s : State) (n : Nat) (f : Ball → Ball) : (s.modBall n f).image = s.image := rfl
@[simp] theorem State.modBall_letters (s : State) (n : Nat) (f : Ball → Ball) : (s.modBall n f).letters = s.letters := rfl
@[simp] theorem State.modBall_evr (s : State) (n : Nat) (f : Ball → Ball) : (s.modBall n f).evr = s.evr := rfl
@[simp] theorem State.modBall_net (s : State) (n : Nat) (f : Ball → Ball) : (s.modBall n f).net = s.net := rfl
@[simp] theorem State.modBall_maint (s : State) (n : Nat) (f : Ball → Ball) : (s.modBall n f).maint = s.maint := rfl
@[simp] theorem State.modBall_time (s : State) (n : Nat) (f : Ball → Ball) : (s.modBall n f).time = s.time := rfl
@[simp] theorem State.modBall_ana (s : State) (n : Nat) (f : Ball → Ball) : (s.modBall n f).ana = s.ana := rfl
@[simp] theorem State.modBall_acq (s : State) (n : Nat) (f : Ball → Ball) : (s.modBall n f).acq = s.acq := rfl
@[simp] theorem State.modBall_can (s : State) (n : Nat) (f : Ball → Ball) : (s.modBall n f).can = s.can := rfl
@[simp] theorem State.modBall_safe (s : State) (n : Nat) (f : Ball → Ball) : (s.modBall n f).safe = s.safe := rfl
@[simp] theorem State.modBall_integ (s : State) (n : Nat) (f : Ball → Ball) : (s.modBall n f).integ = s.integ := rfl
@[simp] theorem State.modBall_snap (s : State) (n : Nat) (f : Ball → Ball) : (s.modBall n f).snap = s.snap := rfl
@[simp] theorem State.modBall_dram (s : State) (n : Nat) (f : Ball → Ball) : (s.modBall n f).dram = s.dram := rfl
@[simp] theorem State.modBall_reg (s : State) (n : Nat) (f : Ball → Ball) (r : Nat) : (s.modBall n f).reg r = s.reg r := rfl
@[simp] theorem State.modBall_slot (s : State) (n : Nat) (f : Ball → Ball) (k : Nat) : (s.modBall n f).slot k = s.slot k := rfl

@[simp] theorem State.modAcq_pending (s : State) (f : Acq → Acq) : (s.modAcq f).pending = s.pending := rfl
@[simp] theorem State.modAcq_out (s : State) (f : Acq → Acq) : (s.modAcq f).out = s.out := rfl
@[simp] theorem State.modAcq_free (s : State) (f : Acq → Acq) : (s.modAcq f).free = s.free := rfl
@[simp] theorem State.modAcq_part (s : State) (f : Acq → Acq) : (s.modAcq f).part = s.part := rfl
@[simp] theorem State.modAcq_regs (s : State) (f : Acq → Acq) : (s.modAcq f).regs = s.regs := rfl
@[simp] theorem State.modAcq_edgeBase (s : State) (f : Acq → Acq) : (s.modAcq f).edgeBase = s.edgeBase := rfl
@[simp] theorem State.modAcq_off (s : State) (f : Acq → Acq) : (s.modAcq f).off = s.off := rfl
@[simp] theorem State.modAcq_tick (s : State) (f : Acq → Acq) : (s.modAcq f).tick = s.tick := rfl
@[simp] theorem State.modAcq_counting (s : State) (f : Acq → Acq) : (s.modAcq f).counting = s.counting := rfl
@[simp] theorem State.modAcq_ticked (s : State) (f : Acq → Acq) : (s.modAcq f).ticked = s.ticked := rfl
@[simp] theorem State.modAcq_arch (s : State) (f : Acq → Acq) : (s.modAcq f).arch = s.arch := rfl
@[simp] theorem State.modAcq_staged (s : State) (f : Acq → Acq) : (s.modAcq f).staged = s.staged := rfl
@[simp] theorem State.modAcq_ckpts (s : State) (f : Acq → Acq) : (s.modAcq f).ckpts = s.ckpts := rfl
@[simp] theorem State.modAcq_power (s : State) (f : Acq → Acq) : (s.modAcq f).power = s.power := rfl
@[simp] theorem State.modAcq_warm (s : State) (f : Acq → Acq) : (s.modAcq f).warm = s.warm := rfl
@[simp] theorem State.modAcq_flash (s : State) (f : Acq → Acq) : (s.modAcq f).flash = s.flash := rfl
@[simp] theorem State.modAcq_image (s : State) (f : Acq → Acq) : (s.modAcq f).image = s.image := rfl
@[simp] theorem State.modAcq_letters (s : State) (f : Acq → Acq) : (s.modAcq f).letters = s.letters := rfl
@[simp] theorem State.modAcq_evr (s : State) (f : Acq → Acq) : (s.modAcq f).evr = s.evr := rfl
@[simp] theorem State.modAcq_net (s : State) (f : Acq → Acq) : (s.modAcq f).net = s.net := rfl
@[simp] theorem State.modAcq_maint (s : State) (f : Acq → Acq) : (s.modAcq f).maint = s.maint := rfl
@[simp] theorem State.modAcq_time (s : State) (f : Acq → Acq) : (s.modAcq f).time = s.time := rfl
@[simp] theorem State.modAcq_ana (s : State) (f : Acq → Acq) : (s.modAcq f).ana = s.ana := rfl
@[simp] theorem State.modAcq_dio (s : State) (f : Acq → Acq) : (s.modAcq f).dio = s.dio := rfl
@[simp] theorem State.modAcq_can (s : State) (f : Acq → Acq) : (s.modAcq f).can = s.can := rfl
@[simp] theorem State.modAcq_safe (s : State) (f : Acq → Acq) : (s.modAcq f).safe = s.safe := rfl
@[simp] theorem State.modAcq_integ (s : State) (f : Acq → Acq) : (s.modAcq f).integ = s.integ := rfl
@[simp] theorem State.modAcq_snap (s : State) (f : Acq → Acq) : (s.modAcq f).snap = s.snap := rfl
@[simp] theorem State.modAcq_dram (s : State) (f : Acq → Acq) : (s.modAcq f).dram = s.dram := rfl
@[simp] theorem State.modAcq_reg (s : State) (f : Acq → Acq) (r : Nat) : (s.modAcq f).reg r = s.reg r := rfl
@[simp] theorem State.modAcq_slot (s : State) (f : Acq → Acq) (k : Nat) : (s.modAcq f).slot k = s.slot k := rfl

@[simp] theorem State.putDram_pending (s : State) (l : List (Nat × Byte)) : (s.putDram l).pending = s.pending := rfl
@[simp] theorem State.putDram_out (s : State) (l : List (Nat × Byte)) : (s.putDram l).out = s.out := rfl
@[simp] theorem State.putDram_free (s : State) (l : List (Nat × Byte)) : (s.putDram l).free = s.free := rfl
@[simp] theorem State.putDram_part (s : State) (l : List (Nat × Byte)) : (s.putDram l).part = s.part := rfl
@[simp] theorem State.putDram_regs (s : State) (l : List (Nat × Byte)) : (s.putDram l).regs = s.regs := rfl
@[simp] theorem State.putDram_edgeBase (s : State) (l : List (Nat × Byte)) : (s.putDram l).edgeBase = s.edgeBase := rfl
@[simp] theorem State.putDram_off (s : State) (l : List (Nat × Byte)) : (s.putDram l).off = s.off := rfl
@[simp] theorem State.putDram_tick (s : State) (l : List (Nat × Byte)) : (s.putDram l).tick = s.tick := rfl
@[simp] theorem State.putDram_counting (s : State) (l : List (Nat × Byte)) : (s.putDram l).counting = s.counting := rfl
@[simp] theorem State.putDram_ticked (s : State) (l : List (Nat × Byte)) : (s.putDram l).ticked = s.ticked := rfl
@[simp] theorem State.putDram_arch (s : State) (l : List (Nat × Byte)) : (s.putDram l).arch = s.arch := rfl
@[simp] theorem State.putDram_staged (s : State) (l : List (Nat × Byte)) : (s.putDram l).staged = s.staged := rfl
@[simp] theorem State.putDram_ckpts (s : State) (l : List (Nat × Byte)) : (s.putDram l).ckpts = s.ckpts := rfl
@[simp] theorem State.putDram_power (s : State) (l : List (Nat × Byte)) : (s.putDram l).power = s.power := rfl
@[simp] theorem State.putDram_warm (s : State) (l : List (Nat × Byte)) : (s.putDram l).warm = s.warm := rfl
@[simp] theorem State.putDram_flash (s : State) (l : List (Nat × Byte)) : (s.putDram l).flash = s.flash := rfl
@[simp] theorem State.putDram_image (s : State) (l : List (Nat × Byte)) : (s.putDram l).image = s.image := rfl
@[simp] theorem State.putDram_letters (s : State) (l : List (Nat × Byte)) : (s.putDram l).letters = s.letters := rfl
@[simp] theorem State.putDram_evr (s : State) (l : List (Nat × Byte)) : (s.putDram l).evr = s.evr := rfl
@[simp] theorem State.putDram_net (s : State) (l : List (Nat × Byte)) : (s.putDram l).net = s.net := rfl
@[simp] theorem State.putDram_maint (s : State) (l : List (Nat × Byte)) : (s.putDram l).maint = s.maint := rfl
@[simp] theorem State.putDram_time (s : State) (l : List (Nat × Byte)) : (s.putDram l).time = s.time := rfl
@[simp] theorem State.putDram_ana (s : State) (l : List (Nat × Byte)) : (s.putDram l).ana = s.ana := rfl
@[simp] theorem State.putDram_dio (s : State) (l : List (Nat × Byte)) : (s.putDram l).dio = s.dio := rfl
@[simp] theorem State.putDram_acq (s : State) (l : List (Nat × Byte)) : (s.putDram l).acq = s.acq := rfl
@[simp] theorem State.putDram_can (s : State) (l : List (Nat × Byte)) : (s.putDram l).can = s.can := rfl
@[simp] theorem State.putDram_safe (s : State) (l : List (Nat × Byte)) : (s.putDram l).safe = s.safe := rfl
@[simp] theorem State.putDram_integ (s : State) (l : List (Nat × Byte)) : (s.putDram l).integ = s.integ := rfl
@[simp] theorem State.putDram_snap (s : State) (l : List (Nat × Byte)) : (s.putDram l).snap = s.snap := rfl
@[simp] theorem State.putDram_reg (s : State) (l : List (Nat × Byte)) (r : Nat) : (s.putDram l).reg r = s.reg r := rfl
@[simp] theorem State.putDram_slot (s : State) (l : List (Nat × Byte)) (k : Nat) : (s.putDram l).slot k = s.slot k := rfl

@[simp] theorem State.modCtl_pending (s : State) (c : Nat) (f : CanCtl → CanCtl) : (s.modCtl c f).pending = s.pending := rfl
@[simp] theorem State.modCtl_out (s : State) (c : Nat) (f : CanCtl → CanCtl) : (s.modCtl c f).out = s.out := rfl
@[simp] theorem State.modCtl_free (s : State) (c : Nat) (f : CanCtl → CanCtl) : (s.modCtl c f).free = s.free := rfl
@[simp] theorem State.modCtl_part (s : State) (c : Nat) (f : CanCtl → CanCtl) : (s.modCtl c f).part = s.part := rfl
@[simp] theorem State.modCtl_regs (s : State) (c : Nat) (f : CanCtl → CanCtl) : (s.modCtl c f).regs = s.regs := rfl
@[simp] theorem State.modCtl_edgeBase (s : State) (c : Nat) (f : CanCtl → CanCtl) : (s.modCtl c f).edgeBase = s.edgeBase := rfl
@[simp] theorem State.modCtl_off (s : State) (c : Nat) (f : CanCtl → CanCtl) : (s.modCtl c f).off = s.off := rfl
@[simp] theorem State.modCtl_tick (s : State) (c : Nat) (f : CanCtl → CanCtl) : (s.modCtl c f).tick = s.tick := rfl
@[simp] theorem State.modCtl_counting (s : State) (c : Nat) (f : CanCtl → CanCtl) : (s.modCtl c f).counting = s.counting := rfl
@[simp] theorem State.modCtl_ticked (s : State) (c : Nat) (f : CanCtl → CanCtl) : (s.modCtl c f).ticked = s.ticked := rfl
@[simp] theorem State.modCtl_arch (s : State) (c : Nat) (f : CanCtl → CanCtl) : (s.modCtl c f).arch = s.arch := rfl
@[simp] theorem State.modCtl_staged (s : State) (c : Nat) (f : CanCtl → CanCtl) : (s.modCtl c f).staged = s.staged := rfl
@[simp] theorem State.modCtl_ckpts (s : State) (c : Nat) (f : CanCtl → CanCtl) : (s.modCtl c f).ckpts = s.ckpts := rfl
@[simp] theorem State.modCtl_power (s : State) (c : Nat) (f : CanCtl → CanCtl) : (s.modCtl c f).power = s.power := rfl
@[simp] theorem State.modCtl_warm (s : State) (c : Nat) (f : CanCtl → CanCtl) : (s.modCtl c f).warm = s.warm := rfl
@[simp] theorem State.modCtl_flash (s : State) (c : Nat) (f : CanCtl → CanCtl) : (s.modCtl c f).flash = s.flash := rfl
@[simp] theorem State.modCtl_image (s : State) (c : Nat) (f : CanCtl → CanCtl) : (s.modCtl c f).image = s.image := rfl
@[simp] theorem State.modCtl_letters (s : State) (c : Nat) (f : CanCtl → CanCtl) : (s.modCtl c f).letters = s.letters := rfl
@[simp] theorem State.modCtl_evr (s : State) (c : Nat) (f : CanCtl → CanCtl) : (s.modCtl c f).evr = s.evr := rfl
@[simp] theorem State.modCtl_net (s : State) (c : Nat) (f : CanCtl → CanCtl) : (s.modCtl c f).net = s.net := rfl
@[simp] theorem State.modCtl_maint (s : State) (c : Nat) (f : CanCtl → CanCtl) : (s.modCtl c f).maint = s.maint := rfl
@[simp] theorem State.modCtl_time (s : State) (c : Nat) (f : CanCtl → CanCtl) : (s.modCtl c f).time = s.time := rfl
@[simp] theorem State.modCtl_ana (s : State) (c : Nat) (f : CanCtl → CanCtl) : (s.modCtl c f).ana = s.ana := rfl
@[simp] theorem State.modCtl_dio (s : State) (c : Nat) (f : CanCtl → CanCtl) : (s.modCtl c f).dio = s.dio := rfl
@[simp] theorem State.modCtl_acq (s : State) (c : Nat) (f : CanCtl → CanCtl) : (s.modCtl c f).acq = s.acq := rfl
@[simp] theorem State.modCtl_safe (s : State) (c : Nat) (f : CanCtl → CanCtl) : (s.modCtl c f).safe = s.safe := rfl
@[simp] theorem State.modCtl_integ (s : State) (c : Nat) (f : CanCtl → CanCtl) : (s.modCtl c f).integ = s.integ := rfl
@[simp] theorem State.modCtl_snap (s : State) (c : Nat) (f : CanCtl → CanCtl) : (s.modCtl c f).snap = s.snap := rfl
@[simp] theorem State.modCtl_dram (s : State) (c : Nat) (f : CanCtl → CanCtl) : (s.modCtl c f).dram = s.dram := rfl
@[simp] theorem State.modCtl_reg (s : State) (c : Nat) (f : CanCtl → CanCtl) (r : Nat) : (s.modCtl c f).reg r = s.reg r := rfl
@[simp] theorem State.modCtl_slot (s : State) (c : Nat) (f : CanCtl → CanCtl) (k : Nat) : (s.modCtl c f).slot k = s.slot k := rfl

@[simp] theorem State.modCanObj_pending (s : State) (c o : Nat) (f : CanObj → CanObj) : (s.modCanObj c o f).pending = s.pending := rfl
@[simp] theorem State.modCanObj_out (s : State) (c o : Nat) (f : CanObj → CanObj) : (s.modCanObj c o f).out = s.out := rfl
@[simp] theorem State.modCanObj_free (s : State) (c o : Nat) (f : CanObj → CanObj) : (s.modCanObj c o f).free = s.free := rfl
@[simp] theorem State.modCanObj_part (s : State) (c o : Nat) (f : CanObj → CanObj) : (s.modCanObj c o f).part = s.part := rfl
@[simp] theorem State.modCanObj_regs (s : State) (c o : Nat) (f : CanObj → CanObj) : (s.modCanObj c o f).regs = s.regs := rfl
@[simp] theorem State.modCanObj_edgeBase (s : State) (c o : Nat) (f : CanObj → CanObj) : (s.modCanObj c o f).edgeBase = s.edgeBase := rfl
@[simp] theorem State.modCanObj_off (s : State) (c o : Nat) (f : CanObj → CanObj) : (s.modCanObj c o f).off = s.off := rfl
@[simp] theorem State.modCanObj_tick (s : State) (c o : Nat) (f : CanObj → CanObj) : (s.modCanObj c o f).tick = s.tick := rfl
@[simp] theorem State.modCanObj_counting (s : State) (c o : Nat) (f : CanObj → CanObj) : (s.modCanObj c o f).counting = s.counting := rfl
@[simp] theorem State.modCanObj_ticked (s : State) (c o : Nat) (f : CanObj → CanObj) : (s.modCanObj c o f).ticked = s.ticked := rfl
@[simp] theorem State.modCanObj_arch (s : State) (c o : Nat) (f : CanObj → CanObj) : (s.modCanObj c o f).arch = s.arch := rfl
@[simp] theorem State.modCanObj_staged (s : State) (c o : Nat) (f : CanObj → CanObj) : (s.modCanObj c o f).staged = s.staged := rfl
@[simp] theorem State.modCanObj_ckpts (s : State) (c o : Nat) (f : CanObj → CanObj) : (s.modCanObj c o f).ckpts = s.ckpts := rfl
@[simp] theorem State.modCanObj_power (s : State) (c o : Nat) (f : CanObj → CanObj) : (s.modCanObj c o f).power = s.power := rfl
@[simp] theorem State.modCanObj_warm (s : State) (c o : Nat) (f : CanObj → CanObj) : (s.modCanObj c o f).warm = s.warm := rfl
@[simp] theorem State.modCanObj_flash (s : State) (c o : Nat) (f : CanObj → CanObj) : (s.modCanObj c o f).flash = s.flash := rfl
@[simp] theorem State.modCanObj_image (s : State) (c o : Nat) (f : CanObj → CanObj) : (s.modCanObj c o f).image = s.image := rfl
@[simp] theorem State.modCanObj_letters (s : State) (c o : Nat) (f : CanObj → CanObj) : (s.modCanObj c o f).letters = s.letters := rfl
@[simp] theorem State.modCanObj_evr (s : State) (c o : Nat) (f : CanObj → CanObj) : (s.modCanObj c o f).evr = s.evr := rfl
@[simp] theorem State.modCanObj_net (s : State) (c o : Nat) (f : CanObj → CanObj) : (s.modCanObj c o f).net = s.net := rfl
@[simp] theorem State.modCanObj_maint (s : State) (c o : Nat) (f : CanObj → CanObj) : (s.modCanObj c o f).maint = s.maint := rfl
@[simp] theorem State.modCanObj_time (s : State) (c o : Nat) (f : CanObj → CanObj) : (s.modCanObj c o f).time = s.time := rfl
@[simp] theorem State.modCanObj_ana (s : State) (c o : Nat) (f : CanObj → CanObj) : (s.modCanObj c o f).ana = s.ana := rfl
@[simp] theorem State.modCanObj_dio (s : State) (c o : Nat) (f : CanObj → CanObj) : (s.modCanObj c o f).dio = s.dio := rfl
@[simp] theorem State.modCanObj_acq (s : State) (c o : Nat) (f : CanObj → CanObj) : (s.modCanObj c o f).acq = s.acq := rfl
@[simp] theorem State.modCanObj_safe (s : State) (c o : Nat) (f : CanObj → CanObj) : (s.modCanObj c o f).safe = s.safe := rfl
@[simp] theorem State.modCanObj_integ (s : State) (c o : Nat) (f : CanObj → CanObj) : (s.modCanObj c o f).integ = s.integ := rfl
@[simp] theorem State.modCanObj_snap (s : State) (c o : Nat) (f : CanObj → CanObj) : (s.modCanObj c o f).snap = s.snap := rfl
@[simp] theorem State.modCanObj_dram (s : State) (c o : Nat) (f : CanObj → CanObj) : (s.modCanObj c o f).dram = s.dram := rfl
@[simp] theorem State.modCanObj_reg (s : State) (c o : Nat) (f : CanObj → CanObj) (r : Nat) : (s.modCanObj c o f).reg r = s.reg r := rfl
@[simp] theorem State.modCanObj_slot (s : State) (c o : Nat) (f : CanObj → CanObj) (k : Nat) : (s.modCanObj c o f).slot k = s.slot k := rfl

@[simp] theorem State.modSafe_pending (s : State) (f : Safe → Safe) : (s.modSafe f).pending = s.pending := rfl
@[simp] theorem State.modSafe_out (s : State) (f : Safe → Safe) : (s.modSafe f).out = s.out := rfl
@[simp] theorem State.modSafe_free (s : State) (f : Safe → Safe) : (s.modSafe f).free = s.free := rfl
@[simp] theorem State.modSafe_part (s : State) (f : Safe → Safe) : (s.modSafe f).part = s.part := rfl
@[simp] theorem State.modSafe_regs (s : State) (f : Safe → Safe) : (s.modSafe f).regs = s.regs := rfl
@[simp] theorem State.modSafe_edgeBase (s : State) (f : Safe → Safe) : (s.modSafe f).edgeBase = s.edgeBase := rfl
@[simp] theorem State.modSafe_off (s : State) (f : Safe → Safe) : (s.modSafe f).off = s.off := rfl
@[simp] theorem State.modSafe_tick (s : State) (f : Safe → Safe) : (s.modSafe f).tick = s.tick := rfl
@[simp] theorem State.modSafe_counting (s : State) (f : Safe → Safe) : (s.modSafe f).counting = s.counting := rfl
@[simp] theorem State.modSafe_ticked (s : State) (f : Safe → Safe) : (s.modSafe f).ticked = s.ticked := rfl
@[simp] theorem State.modSafe_arch (s : State) (f : Safe → Safe) : (s.modSafe f).arch = s.arch := rfl
@[simp] theorem State.modSafe_staged (s : State) (f : Safe → Safe) : (s.modSafe f).staged = s.staged := rfl
@[simp] theorem State.modSafe_ckpts (s : State) (f : Safe → Safe) : (s.modSafe f).ckpts = s.ckpts := rfl
@[simp] theorem State.modSafe_power (s : State) (f : Safe → Safe) : (s.modSafe f).power = s.power := rfl
@[simp] theorem State.modSafe_warm (s : State) (f : Safe → Safe) : (s.modSafe f).warm = s.warm := rfl
@[simp] theorem State.modSafe_flash (s : State) (f : Safe → Safe) : (s.modSafe f).flash = s.flash := rfl
@[simp] theorem State.modSafe_image (s : State) (f : Safe → Safe) : (s.modSafe f).image = s.image := rfl
@[simp] theorem State.modSafe_letters (s : State) (f : Safe → Safe) : (s.modSafe f).letters = s.letters := rfl
@[simp] theorem State.modSafe_evr (s : State) (f : Safe → Safe) : (s.modSafe f).evr = s.evr := rfl
@[simp] theorem State.modSafe_net (s : State) (f : Safe → Safe) : (s.modSafe f).net = s.net := rfl
@[simp] theorem State.modSafe_maint (s : State) (f : Safe → Safe) : (s.modSafe f).maint = s.maint := rfl
@[simp] theorem State.modSafe_time (s : State) (f : Safe → Safe) : (s.modSafe f).time = s.time := rfl
@[simp] theorem State.modSafe_ana (s : State) (f : Safe → Safe) : (s.modSafe f).ana = s.ana := rfl
@[simp] theorem State.modSafe_dio (s : State) (f : Safe → Safe) : (s.modSafe f).dio = s.dio := rfl
@[simp] theorem State.modSafe_acq (s : State) (f : Safe → Safe) : (s.modSafe f).acq = s.acq := rfl
@[simp] theorem State.modSafe_can (s : State) (f : Safe → Safe) : (s.modSafe f).can = s.can := rfl
@[simp] theorem State.modSafe_integ (s : State) (f : Safe → Safe) : (s.modSafe f).integ = s.integ := rfl
@[simp] theorem State.modSafe_snap (s : State) (f : Safe → Safe) : (s.modSafe f).snap = s.snap := rfl
@[simp] theorem State.modSafe_dram (s : State) (f : Safe → Safe) : (s.modSafe f).dram = s.dram := rfl
@[simp] theorem State.modSafe_reg (s : State) (f : Safe → Safe) (r : Nat) : (s.modSafe f).reg r = s.reg r := rfl
@[simp] theorem State.modSafe_slot (s : State) (f : Safe → Safe) (k : Nat) : (s.modSafe f).slot k = s.slot k := rfl

@[simp] theorem State.modInteg_pending (s : State) (f : Integ → Integ) : (s.modInteg f).pending = s.pending := rfl
@[simp] theorem State.modInteg_out (s : State) (f : Integ → Integ) : (s.modInteg f).out = s.out := rfl
@[simp] theorem State.modInteg_free (s : State) (f : Integ → Integ) : (s.modInteg f).free = s.free := rfl
@[simp] theorem State.modInteg_part (s : State) (f : Integ → Integ) : (s.modInteg f).part = s.part := rfl
@[simp] theorem State.modInteg_regs (s : State) (f : Integ → Integ) : (s.modInteg f).regs = s.regs := rfl
@[simp] theorem State.modInteg_edgeBase (s : State) (f : Integ → Integ) : (s.modInteg f).edgeBase = s.edgeBase := rfl
@[simp] theorem State.modInteg_off (s : State) (f : Integ → Integ) : (s.modInteg f).off = s.off := rfl
@[simp] theorem State.modInteg_tick (s : State) (f : Integ → Integ) : (s.modInteg f).tick = s.tick := rfl
@[simp] theorem State.modInteg_counting (s : State) (f : Integ → Integ) : (s.modInteg f).counting = s.counting := rfl
@[simp] theorem State.modInteg_ticked (s : State) (f : Integ → Integ) : (s.modInteg f).ticked = s.ticked := rfl
@[simp] theorem State.modInteg_arch (s : State) (f : Integ → Integ) : (s.modInteg f).arch = s.arch := rfl
@[simp] theorem State.modInteg_staged (s : State) (f : Integ → Integ) : (s.modInteg f).staged = s.staged := rfl
@[simp] theorem State.modInteg_ckpts (s : State) (f : Integ → Integ) : (s.modInteg f).ckpts = s.ckpts := rfl
@[simp] theorem State.modInteg_power (s : State) (f : Integ → Integ) : (s.modInteg f).power = s.power := rfl
@[simp] theorem State.modInteg_warm (s : State) (f : Integ → Integ) : (s.modInteg f).warm = s.warm := rfl
@[simp] theorem State.modInteg_flash (s : State) (f : Integ → Integ) : (s.modInteg f).flash = s.flash := rfl
@[simp] theorem State.modInteg_image (s : State) (f : Integ → Integ) : (s.modInteg f).image = s.image := rfl
@[simp] theorem State.modInteg_letters (s : State) (f : Integ → Integ) : (s.modInteg f).letters = s.letters := rfl
@[simp] theorem State.modInteg_evr (s : State) (f : Integ → Integ) : (s.modInteg f).evr = s.evr := rfl
@[simp] theorem State.modInteg_net (s : State) (f : Integ → Integ) : (s.modInteg f).net = s.net := rfl
@[simp] theorem State.modInteg_maint (s : State) (f : Integ → Integ) : (s.modInteg f).maint = s.maint := rfl
@[simp] theorem State.modInteg_time (s : State) (f : Integ → Integ) : (s.modInteg f).time = s.time := rfl
@[simp] theorem State.modInteg_ana (s : State) (f : Integ → Integ) : (s.modInteg f).ana = s.ana := rfl
@[simp] theorem State.modInteg_dio (s : State) (f : Integ → Integ) : (s.modInteg f).dio = s.dio := rfl
@[simp] theorem State.modInteg_acq (s : State) (f : Integ → Integ) : (s.modInteg f).acq = s.acq := rfl
@[simp] theorem State.modInteg_can (s : State) (f : Integ → Integ) : (s.modInteg f).can = s.can := rfl
@[simp] theorem State.modInteg_safe (s : State) (f : Integ → Integ) : (s.modInteg f).safe = s.safe := rfl
@[simp] theorem State.modInteg_snap (s : State) (f : Integ → Integ) : (s.modInteg f).snap = s.snap := rfl
@[simp] theorem State.modInteg_dram (s : State) (f : Integ → Integ) : (s.modInteg f).dram = s.dram := rfl
@[simp] theorem State.modInteg_reg (s : State) (f : Integ → Integ) (r : Nat) : (s.modInteg f).reg r = s.reg r := rfl
@[simp] theorem State.modInteg_slot (s : State) (f : Integ → Integ) (k : Nat) : (s.modInteg f).slot k = s.slot k := rfl

@[simp] theorem State.modSnap_pending (s : State) (f : Snap → Snap) : (s.modSnap f).pending = s.pending := rfl
@[simp] theorem State.modSnap_out (s : State) (f : Snap → Snap) : (s.modSnap f).out = s.out := rfl
@[simp] theorem State.modSnap_free (s : State) (f : Snap → Snap) : (s.modSnap f).free = s.free := rfl
@[simp] theorem State.modSnap_part (s : State) (f : Snap → Snap) : (s.modSnap f).part = s.part := rfl
@[simp] theorem State.modSnap_regs (s : State) (f : Snap → Snap) : (s.modSnap f).regs = s.regs := rfl
@[simp] theorem State.modSnap_edgeBase (s : State) (f : Snap → Snap) : (s.modSnap f).edgeBase = s.edgeBase := rfl
@[simp] theorem State.modSnap_off (s : State) (f : Snap → Snap) : (s.modSnap f).off = s.off := rfl
@[simp] theorem State.modSnap_tick (s : State) (f : Snap → Snap) : (s.modSnap f).tick = s.tick := rfl
@[simp] theorem State.modSnap_counting (s : State) (f : Snap → Snap) : (s.modSnap f).counting = s.counting := rfl
@[simp] theorem State.modSnap_ticked (s : State) (f : Snap → Snap) : (s.modSnap f).ticked = s.ticked := rfl
@[simp] theorem State.modSnap_arch (s : State) (f : Snap → Snap) : (s.modSnap f).arch = s.arch := rfl
@[simp] theorem State.modSnap_staged (s : State) (f : Snap → Snap) : (s.modSnap f).staged = s.staged := rfl
@[simp] theorem State.modSnap_ckpts (s : State) (f : Snap → Snap) : (s.modSnap f).ckpts = s.ckpts := rfl
@[simp] theorem State.modSnap_power (s : State) (f : Snap → Snap) : (s.modSnap f).power = s.power := rfl
@[simp] theorem State.modSnap_warm (s : State) (f : Snap → Snap) : (s.modSnap f).warm = s.warm := rfl
@[simp] theorem State.modSnap_flash (s : State) (f : Snap → Snap) : (s.modSnap f).flash = s.flash := rfl
@[simp] theorem State.modSnap_image (s : State) (f : Snap → Snap) : (s.modSnap f).image = s.image := rfl
@[simp] theorem State.modSnap_letters (s : State) (f : Snap → Snap) : (s.modSnap f).letters = s.letters := rfl
@[simp] theorem State.modSnap_evr (s : State) (f : Snap → Snap) : (s.modSnap f).evr = s.evr := rfl
@[simp] theorem State.modSnap_net (s : State) (f : Snap → Snap) : (s.modSnap f).net = s.net := rfl
@[simp] theorem State.modSnap_maint (s : State) (f : Snap → Snap) : (s.modSnap f).maint = s.maint := rfl
@[simp] theorem State.modSnap_time (s : State) (f : Snap → Snap) : (s.modSnap f).time = s.time := rfl
@[simp] theorem State.modSnap_ana (s : State) (f : Snap → Snap) : (s.modSnap f).ana = s.ana := rfl
@[simp] theorem State.modSnap_dio (s : State) (f : Snap → Snap) : (s.modSnap f).dio = s.dio := rfl
@[simp] theorem State.modSnap_acq (s : State) (f : Snap → Snap) : (s.modSnap f).acq = s.acq := rfl
@[simp] theorem State.modSnap_can (s : State) (f : Snap → Snap) : (s.modSnap f).can = s.can := rfl
@[simp] theorem State.modSnap_safe (s : State) (f : Snap → Snap) : (s.modSnap f).safe = s.safe := rfl
@[simp] theorem State.modSnap_integ (s : State) (f : Snap → Snap) : (s.modSnap f).integ = s.integ := rfl
@[simp] theorem State.modSnap_dram (s : State) (f : Snap → Snap) : (s.modSnap f).dram = s.dram := rfl
@[simp] theorem State.modSnap_reg (s : State) (f : Snap → Snap) (r : Nat) : (s.modSnap f).reg r = s.reg r := rfl
@[simp] theorem State.modSnap_slot (s : State) (f : Snap → Snap) (k : Nat) : (s.modSnap f).slot k = s.slot k := rfl

@[simp] theorem State.touch_pending (s : State) (sp a n : Nat) : (s.touch sp a n).pending = s.pending := rfl
@[simp] theorem State.touch_out (s : State) (sp a n : Nat) : (s.touch sp a n).out = s.out := rfl
@[simp] theorem State.touch_free (s : State) (sp a n : Nat) : (s.touch sp a n).free = s.free := rfl
@[simp] theorem State.touch_part (s : State) (sp a n : Nat) : (s.touch sp a n).part = s.part := rfl
@[simp] theorem State.touch_regs (s : State) (sp a n : Nat) : (s.touch sp a n).regs = s.regs := rfl
@[simp] theorem State.touch_edgeBase (s : State) (sp a n : Nat) : (s.touch sp a n).edgeBase = s.edgeBase := rfl
@[simp] theorem State.touch_off (s : State) (sp a n : Nat) : (s.touch sp a n).off = s.off := rfl
@[simp] theorem State.touch_tick (s : State) (sp a n : Nat) : (s.touch sp a n).tick = s.tick := rfl
@[simp] theorem State.touch_counting (s : State) (sp a n : Nat) : (s.touch sp a n).counting = s.counting := rfl
@[simp] theorem State.touch_ticked (s : State) (sp a n : Nat) : (s.touch sp a n).ticked = s.ticked := rfl
@[simp] theorem State.touch_arch (s : State) (sp a n : Nat) : (s.touch sp a n).arch = s.arch := rfl
@[simp] theorem State.touch_staged (s : State) (sp a n : Nat) : (s.touch sp a n).staged = s.staged := rfl
@[simp] theorem State.touch_ckpts (s : State) (sp a n : Nat) : (s.touch sp a n).ckpts = s.ckpts := rfl
@[simp] theorem State.touch_power (s : State) (sp a n : Nat) : (s.touch sp a n).power = s.power := rfl
@[simp] theorem State.touch_warm (s : State) (sp a n : Nat) : (s.touch sp a n).warm = s.warm := rfl
@[simp] theorem State.touch_flash (s : State) (sp a n : Nat) : (s.touch sp a n).flash = s.flash := rfl
@[simp] theorem State.touch_image (s : State) (sp a n : Nat) : (s.touch sp a n).image = s.image := rfl
@[simp] theorem State.touch_letters (s : State) (sp a n : Nat) : (s.touch sp a n).letters = s.letters := rfl
@[simp] theorem State.touch_evr (s : State) (sp a n : Nat) : (s.touch sp a n).evr = s.evr := rfl
@[simp] theorem State.touch_net (s : State) (sp a n : Nat) : (s.touch sp a n).net = s.net := rfl
@[simp] theorem State.touch_maint (s : State) (sp a n : Nat) : (s.touch sp a n).maint = s.maint := rfl
@[simp] theorem State.touch_time (s : State) (sp a n : Nat) : (s.touch sp a n).time = s.time := rfl
@[simp] theorem State.touch_ana (s : State) (sp a n : Nat) : (s.touch sp a n).ana = s.ana := rfl
@[simp] theorem State.touch_dio (s : State) (sp a n : Nat) : (s.touch sp a n).dio = s.dio := rfl
@[simp] theorem State.touch_acq (s : State) (sp a n : Nat) : (s.touch sp a n).acq = s.acq := rfl
@[simp] theorem State.touch_can (s : State) (sp a n : Nat) : (s.touch sp a n).can = s.can := rfl
@[simp] theorem State.touch_safe (s : State) (sp a n : Nat) : (s.touch sp a n).safe = s.safe := rfl
@[simp] theorem State.touch_snap (s : State) (sp a n : Nat) : (s.touch sp a n).snap = s.snap := rfl
@[simp] theorem State.touch_dram (s : State) (sp a n : Nat) : (s.touch sp a n).dram = s.dram := rfl
@[simp] theorem State.touch_reg (s : State) (sp a n : Nat) (r : Nat) : (s.touch sp a n).reg r = s.reg r := rfl
@[simp] theorem State.touch_slot (s : State) (sp a n : Nat) (k : Nat) : (s.touch sp a n).slot k = s.slot k := rfl

end Sys2Proof.Machine
end

