-- ==== Sys2Proof/Laws/Frame.lean ====
section
/-! SUPPORT. How `OnlyRegs` and `AlsoEvents` pass through the operations of Machine/Ops.lean, and what recording an event
leaves in the holding queue. -/

namespace Sys2Proof.Machine

theorem State.setReg_eq (s : State) (a : Nat) (w : Word) :
    s.setReg a w = { s with regs := tabSet regReset s.regs a w } := rfl

theorem OnlyRegs.refl (l : List Nat) (s : State) : OnlyRegs l s s := ⟨rfl, fun _ _ => rfl⟩

theorem OnlyRegs.trans {l : List Nat} {s t u : State} (h : OnlyRegs l s t) (g : OnlyRegs l t u) : OnlyRegs l s u :=
  ⟨by rw [g.1, h.1], fun a ha => (g.2 a ha).trans (h.2 a ha)⟩

theorem OnlyRegs.setReg {l : List Nat} {s t : State} {a : Nat} (w : Word) (ha : a ∈ l) (h : OnlyRegs l s t) :
    OnlyRegs l s (t.setReg a w) := by
  refine h.trans ⟨rfl, fun b hb => ?_⟩
  have : b ≠ a := fun e => hb (e ▸ ha)
  simp [this]

theorem OnlyRegs.modReg {l : List Nat} {s t : State} {a : Nat} (f : Word → Word) (ha : a ∈ l) (h : OnlyRegs l s t) :
    OnlyRegs l s (t.modReg a f) := h.setReg _ ha

theorem OnlyRegs.bumpBy {l : List Nat} {s t : State} {a : Nat} (n : Nat) (ha : a ∈ l) (h : OnlyRegs l s t) :
    OnlyRegs l s (t.bumpBy a n) := h.setReg _ ha

theorem OnlyRegs.bump {l : List Nat} {s t : State} {a : Nat} (ha : a ∈ l) (h : OnlyRegs l s t) :
    OnlyRegs l s (t.bump a) := h.setReg _ ha

theorem OnlyRegs.orReg {l : List Nat} {s t : State} {a : Nat} (m : Word) (ha : a ∈ l) (h : OnlyRegs l s t) :
    OnlyRegs l s (t.orReg a m) := h.setReg _ ha

theorem OnlyRegs.clrReg {l : List Nat} {s t : State} {a : Nat} (m : Word) (ha : a ∈ l) (h : OnlyRegs l s t) :
    OnlyRegs l s (t.clrReg a m) := h.setReg _ ha

theorem OnlyRegs.putFld {l : List Nat} {s t : State} {a : Nat} (x y v : Nat) (ha : a ∈ l) (h : OnlyRegs l s t) :
    OnlyRegs l s (t.putFld a x y v) := h.setReg _ ha

theorem OnlyRegs.maxReg {l : List Nat} {s t : State} {a : Nat} (w : Word) (ha : a ∈ l) (h : OnlyRegs l s t) :
    OnlyRegs l s (t.maxReg a w) := h.setReg _ ha

theorem OnlyRegs.ite {l : List Nat} {s t u : State} {p : Prop} [Decidable p] (h : OnlyRegs l s t) (g : OnlyRegs l s u) :
    OnlyRegs l s (if p then t else u) := by
  split
  · exact h
  · exact g

theorem AlsoEvents.of_onlyRegs {l : List Nat} {s t : State} (h : OnlyRegs l s t) : AlsoEvents l s t := by
  have e := h.1
  refine ⟨?_, fun a ha _ => h.2 a ha, ⟨[], ?_⟩, ⟨[], ?_⟩⟩
  · rw [e]
  · rw [List.append_nil, e]
  · rw [List.append_nil, e]

theorem AlsoEvents.refl (l : List Nat) (s : State) : AlsoEvents l s s := .of_onlyRegs (.refl l s)

theorem AlsoEvents.trans {l : List Nat} {s t u : State} (h : AlsoEvents l s t) (g : AlsoEvents l t u) :
    AlsoEvents l s u :=
  ⟨by rw [g.1, h.1], fun a ha hb => (g.2.1 a ha hb).trans (h.2.1 a ha hb), h.2.2.1.trans g.2.2.1, h.2.2.2.trans g.2.2.2⟩

theorem AlsoEvents.mono {l k : List Nat} {s t : State} (hl : ∀ a ∈ l, a ∈ k) (h : AlsoEvents l s t) : AlsoEvents k s t :=
  ⟨h.1, fun a ha hb => h.2.1 a (fun e => ha (hl a e)) hb, h.2.2⟩

theorem AlsoEvents.setReg {l : List Nat} {s t : State} {a : Nat} (w : Word) (ha : a ∈ l) (h : AlsoEvents l s t) :
    AlsoEvents l s (t.setReg a w) := h.trans (.of_onlyRegs ((OnlyRegs.refl l t).setReg w ha))

theorem AlsoEvents.ite {l : List Nat} {s t u : State} {p : Prop} [Decidable p] (h : AlsoEvents l s t)
    (g : AlsoEvents l s u) : AlsoEvents l s (if p then t else u) := by
  split
  · exact h
  · exact g

theorem AlsoEvents.setEventReg {l : List Nat} {s t : State} {a : Nat} (w : Word) (ha : a ∈ eventRegs)
    (h : AlsoEvents l s t) : AlsoEvents l s (t.setReg a w) := by
  refine h.trans ⟨rfl, fun b _ hb => ?_, List.prefix_rfl, List.prefix_rfl⟩
  have : b ≠ a := fun e => hb (e ▸ ha)
  simp [this]

theorem AlsoEvents.emit {l : List Nat} {s t : State} (x : Sent) (h : AlsoEvents l s t) : AlsoEvents l s (t.emit x) :=
  h.trans ⟨rfl, fun _ _ _ => rfl, List.prefix_rfl, List.prefix_append _ _⟩

theorem AlsoEvents.emitOn {l : List Nat} {s t : State} {p : Nat} (hp : p < 2) (x : Sent) (h : AlsoEvents l s t) :
    AlsoEvents l s (t.emitOn p x) := by
  refine (h.emit x).setEventReg _ ?_
  have : p = 0 ∨ p = 1 := by omega
  rcases this with rfl | rfl <;> decide

theorem AlsoEvents.prpSeq {l : List Nat} {s t : State} (n : Nat) (h : AlsoEvents l s t) :
    AlsoEvents l s { t with net := { t.net with prpSeq := n } } :=
  h.trans ⟨rfl, fun _ _ _ => rfl, List.prefix_rfl, List.prefix_rfl⟩

theorem AlsoEvents.windows {l : List Nat} {s t : State} (n : List Window) (h : AlsoEvents l s t) :
    AlsoEvents l s { t with evr := { t.evr with windows := n } } :=
  h.trans ⟨rfl, fun _ _ _ => rfl, List.prefix_rfl, List.prefix_rfl⟩

theorem AlsoEvents.lost {l : List Nat} {s t : State} (n : Option LostRun) (h : AlsoEvents l s t) :
    AlsoEvents l s { t with evr := { t.evr with lost := n } } :=
  h.trans ⟨rfl, fun _ _ _ => rfl, List.prefix_rfl, List.prefix_rfl⟩

theorem AlsoEvents.originate {l : List Nat} {s t : State} {p : Nat} (hp : p < 2) (m g : Nat) (n : Option Nat)
    (b : List Byte) (h : AlsoEvents l s t) : AlsoEvents l s (t.originate p m g n b) := by
  unfold State.originate
  split
  · exact h
  · split
    · exact h
    · split
      · exact h.emitOn hp _
      · refine h.setEventReg _ ?_
        have : p = 0 ∨ p = 1 := by omega
        rcases this with rfl | rfl <;> decide

theorem AlsoEvents.originateAll {l : List Nat} {s t : State} (m g : Nat) (b : List Byte) (h : AlsoEvents l s t) :
    AlsoEvents l s (t.originateAll m g b) := by
  unfold State.originateAll
  exact AlsoEvents.originate (by decide) _ _ _ _ (AlsoEvents.originate (by decide) _ _ _ _ (AlsoEvents.ite (h.prpSeq _) h))

/-- A reply changes only what sending a frame does. -/
theorem AlsoEvents.reply {l : List Nat} {s t : State} (o : Origin) (m : Nat) (b : List Byte)
    (h : AlsoEvents l s t) : AlsoEvents l s (t.reply o m b) := by
  unfold State.reply
  split
  · exact ((h.prpSeq _).emitOn (by decide) _).emitOn (by decide) _
  · split
    · next hr =>
      refine h.emitOn ?_ _
      simp only [State.portRuns, Bool.and_eq_true, decide_eq_true_eq] at hr
      exact hr.1.1.1.1.1
    · exact h

theorem AlsoEvents.announce {l : List Nat} {s t : State} (r : EvRec) (h : AlsoEvents l s t) :
    AlsoEvents l s (t.announce r) := by
  have h1 : AlsoEvents l s (if r.sev = 4 then t.setReg R.PWR_LASTFAULT (BitVec.ofNat 32 r.code) else t) :=
    .ite (h.setEventReg _ (by decide)) h
  unfold State.announce
  extract_lets a b
  have h2 : AlsoEvents l s b := .ite (h1.setEventReg _ (by decide)) h1
  exact .ite (h2.originateAll _ _ _) h2

theorem AlsoEvents.enqueue {l : List Nat} {s t : State} (r : EvRec) (h : AlsoEvents l s t) :
    AlsoEvents l s (t.enqueue r) := by
  unfold State.enqueue
  split
  · unfold State.loseRecord
    exact AlsoEvents.lost _ ((h.setEventReg _ (by decide)).setEventReg _ (by decide))
  · exact h.trans ⟨rfl, fun _ _ _ => rfl, List.prefix_append _ _, List.prefix_rfl⟩

theorem AlsoEvents.createOne {l : List Nat} {s t : State} (c x : Nat) (p q r w : Word) (h : AlsoEvents l s t) :
    AlsoEvents l s (t.createOne c x p q r w) := by
  unfold State.createOne
  exact ((h.setEventReg _ (by decide)).enqueue _).announce _

/-- Everything that recording an event can do. -/
theorem AlsoEvents.raise {l : List Nat} {s t : State} (c x : Nat) (p q r w : Word) (h : AlsoEvents l s t) :
    AlsoEvents l s (t.raise c x p q r w) := by
  unfold State.raise
  split
  · exact h.createOne _ _ _ _ _ _
  · split
    · exact h.createOne _ _ _ _ _ _
    · exact ((h.lost _).createOne _ _ _ _ _ _).createOne _ _ _ _ _ _

theorem AlsoEvents.raiseLimited {l : List Nat} {s t : State} (k c x : Nat) (p q r w : Word) (h : AlsoEvents l s t) :
    AlsoEvents l s (t.raiseLimited k c x p q r w) := by
  unfold State.raiseLimited
  split
  · exact h
  · exact (h.raise _ _ _ _ _ _).windows _

theorem AlsoEvents.raiseCounted {l : List Nat} {s t : State} (k c x : Nat) (p q r w : Word) (h : AlsoEvents l s t) :
    AlsoEvents l s (t.raiseCounted k c x p q r w) := by
  unfold State.raiseCounted
  split
  · exact h.windows _
  · exact (h.raise _ _ _ _ _ _).windows _

/-! Device states. -/

theorem OnlyRegs.enter {l : List Nat} {s t : State} (st c : Nat) (w : Bool) (h1 : R.PWR_STATE ∈ l)
    (h2 : R.MAINT_IRQSTAT ∈ l) (h : OnlyRegs l s t) : OnlyRegs l s (t.enter st c w) :=
  .ite (h.setReg _ h1) ((h.setReg _ h1).setReg _ h2)

theorem State.enter_reg (s : State) (st c : Nat) (w : Bool) :
    (s.enter st c w).reg R.PWR_STATE = BitVec.ofNat 32 (c * 65536 + w.toNat * 256 + st) := by
  unfold State.enter
  split <;> simp [R.PWR_STATE, R.MAINT_IRQSTAT]

/-- The state, cause and WARM flag that a device state is entered with. -/
theorem State.enter_dev (s : State) {st c : Nat} (w : Bool) (h : st < 8) (hc : c < 256) :
    (s.enter st c w).dev = st ∧ (s.enter st c w).cause = c ∧ (s.enter st c w).fldOf R.PWR_STATE 8 8 = w.toNat := by
  have e := s.enter_reg st c w
  have k : w.toNat ≤ 1 := by cases w <;> decide
  simp only [State.dev, State.cause, State.fldOf, fld, e, BitVec.toNat_ofNat]
  omega

/-! Folds of register writes. -/

theorem OnlyRegs.foldl {α : Type} {k : List Nat} {s t : State} (l : List α) (f : State → α → State)
    (hf : ∀ x ∈ l, ∀ u, OnlyRegs k s u → OnlyRegs k s (f u x)) (h : OnlyRegs k s t) : OnlyRegs k s (l.foldl f t) := by
  induction l generalizing t with
  | nil => exact h
  | cons a l ih =>
    exact ih (fun x hx => hf x (List.mem_cons_of_mem _ hx)) (hf a (List.mem_cons_self ..) t h)

/-- Copying the registers of `l` from `s` leaves each of them as it is in `s`. -/
theorem State.foldl_copy_reg (l : List Nat) (s t : State) (a : Nat) (h : a ∈ l ∨ t.reg a = s.reg a) :
    (l.foldl (fun t a => t.setReg a (s.reg a)) t).reg a = s.reg a := by
  induction l generalizing t with
  | nil => simpa using h
  | cons b l ih =>
    refine ih _ ?_
    by_cases e : a = b
    · right; subst e; simp
    · rcases h with h | h
      · left; simpa [e] using h
      · right; simp [e, h]

/-! The holding queue after an event. -/

@[simp] theorem State.originate_evr (s : State) (p m g : Nat) (n : Option Nat) (b : List Byte) :
    (s.originate p m g n b).evr = s.evr := by
  unfold State.originate
  split
  · rfl
  · split
    · rfl
    · split <;> rfl

@[simp] theorem State.originateAll_evr (s : State) (m g : Nat) (b : List Byte) : (s.originateAll m g b).evr = s.evr := by
  simp only [State.originateAll, State.originate_evr]
  split <;> rfl

@[simp] theorem State.announce_evr (s : State) (r : EvRec) : (s.announce r).evr = s.evr := by
  simp only [State.announce]
  repeat' first | rfl | rw [State.originateAll_evr] | split

@[simp] theorem State.reply_evr (s : State) (o : Origin) (m : Nat) (b : List Byte) : (s.reply o m b).evr = s.evr := by
  unfold State.reply
  split
  · rfl
  · split <;> rfl

theorem State.createOne_queue (s : State) (c x : Nat) (p q r w : Word) (h : s.evr.queue.length < 256) :
    (s.createOne c x p q r w).evr.queue = s.evr.queue ++ [s.stamp c x p q r w] := by
  have e : ¬ 256 ≤ s.takeSeq.evr.queue.length := Nat.not_le.2 h
  simp only [State.createOne, State.announce_evr, State.enqueue, if_neg e, ge_iff_le]
  rfl

theorem State.createOne_full (s : State) (c x : Nat) (p q r w : Word) (h : 256 ≤ s.evr.queue.length) :
    (s.createOne c x p q r w).evr.queue = s.evr.queue := by
  have e : 256 ≤ s.takeSeq.evr.queue.length := h
  simp only [State.createOne, State.announce_evr, State.enqueue, if_pos e, ge_iff_le]
  rfl

/-- With room in the holding queue, the event recorded is its last record. -/
theorem State.raise_last (s : State) (c x : Nat) (p q r w : Word) (hx : x < 256) (h : s.room 1) :
    LastEvent (s.raise c x p q r w) c x p q r w := by
  have h' : s.evr.queue.length + 1 < 256 := h
  have k : ∀ t : State, t.evr.queue.length < 256 → LastEvent (t.createOne c x p q r w) c x p q r w := by
    intro t ht
    refine ⟨t.stamp c x p q r w, ?_, rfl, Nat.mod_eq_of_lt hx, rfl, rfl, rfl, rfl⟩
    rw [State.createOne_queue _ _ _ _ _ _ _ ht, List.getLast?_concat]
  unfold State.raise
  split
  · exact k _ (by omega)
  · split
    · exact k _ (by omega)
    · refine k _ ?_
      rw [State.createOne_queue _ _ _ _ _ _ _ (by simpa using (by omega : s.evr.queue.length < 256)), List.length_append]
      exact h'

/-- Recording an event leaves at most two more records in the holding queue. -/
theorem State.raise_length (s : State) (c x : Nat) (p q r w : Word) :
    (s.raise c x p q r w).evr.queue.length ≤ s.evr.queue.length + 2 := by
  have k : ∀ (t : State) (c x : Nat) (p q r w : Word),
      (t.createOne c x p q r w).evr.queue.length ≤ t.evr.queue.length + 1 := by
    intro t c x p q r w
    by_cases h : t.evr.queue.length < 256
    · rw [State.createOne_queue _ _ _ _ _ _ _ h, List.length_append]; simp
    · rw [State.createOne_full _ _ _ _ _ _ _ (Nat.not_lt.1 h)]; omega
  unfold State.raise
  split
  · exact Nat.le_trans (k _ _ _ _ _ _ _) (by omega)
  · split
    · exact Nat.le_trans (k _ _ _ _ _ _ _) (by omega)
    · exact Nat.le_trans (k _ _ _ _ _ _ _) (Nat.add_le_add_right (k _ _ _ _ _ _ _) 1)

end Sys2Proof.Machine
end

