-- ==== Sys2Proof/Laws/Cold.lean ====
section
/-! SUPPORT. What a cold reset leaves (R54, R57, R65, R604). -/

namespace Sys2Proof.Machine

/-- The calibration set of ENVM changes registers of the calibration set alone, and empties the analog die. -/
theorem State.calCold_only (s : State) :
    ∃ l, (∀ a ∈ l, calReg a = true) ∧ OnlyRegs l { s with ana := { envm := s.ana.envm } } s.calCold := by
  refine ⟨(s.ana.envm.filter (fun x => calReg x.1)).map (·.1), ?_, ?_⟩
  · intro a ha
    obtain ⟨x, hx, rfl⟩ := List.mem_map.1 ha
    exact (List.mem_filter.1 hx).2
  · exact OnlyRegs.foldl _ _ (fun x hx u hu => hu.setReg _ (List.mem_map_of_mem hx)) (.refl _ _)

/-- Copies of registers, then the calibration set, on a device whose analog die is empty. -/
theorem OnlyRegs.calCold {k : List Nat} {b v : State} (hb : b.ana = { envm := b.ana.envm }) (h : OnlyRegs k b v) :
    ∃ l, (∀ a ∈ l, calReg a = true) ∧ OnlyRegs (k ++ l) b v.calCold ∧ ∀ a, a ∉ l → v.calCold.reg a = v.reg a := by
  obtain ⟨l, hl, hc⟩ := v.calCold_only
  have e : ({ v with ana := { envm := v.ana.envm } } : State) = v := by
    rw [h.1]
    dsimp only
    rw [← hb]
  rw [e] at hc
  refine ⟨l, hl, ⟨?_, fun a ha => ?_⟩, hc.2⟩
  · rw [hc.1, h.1]
  · simp only [List.mem_append, not_or] at ha
    exact (hc.2 a ha.2).trans (h.2 a ha.1)

/-- The registers that a cold reset copies, the last passes of the holding tests among them. -/
def coldList : List Nat := coldRegs ++ ((List.range 8).map R.SAFE_HTLAST ++ [R.SAFE_STAT, R.CLK_STAT])

/-- The copies of a cold reset, before the calibration set of ENVM is read. -/
def State.coldCopy (s : State) : State :=
  let t := coldRegs.foldl (fun t a => t.setReg a (s.reg a)) s.coldBase
  let t := if s.hasIsland then
      forUpTo 8 (fun c t => t.setReg (R.SAFE_HTLAST c) (s.power.saved.getD (4 + c) 0)) t
    else t
  (t.setReg R.SAFE_STAT (s.reg R.SAFE_STAT &&& 0x300)).setReg R.CLK_STAT (s.reg R.CLK_STAT &&& 7)

/-- The copies change registers of the list alone, and a register of `coldRegs` holds what it held. -/
theorem State.coldCopy_spec (s : State) :
    OnlyRegs coldList s.coldBase s.coldCopy ∧ ∀ a ∈ coldRegs, s.coldCopy.reg a = s.reg a := by
  obtain ⟨t, ht⟩ : ∃ t, t = coldRegs.foldl (fun t a => t.setReg a (s.reg a)) s.coldBase := ⟨_, rfl⟩
  have h1 : OnlyRegs coldRegs s.coldBase t := by
    rw [ht]
    exact OnlyRegs.foldl _ _ (fun x hx u hu => hu.setReg _ hx) (.refl _ _)
  obtain ⟨k, hk⟩ : ∃ k : List Nat, k = (List.range 8).map R.SAFE_HTLAST ++ [R.SAFE_STAT, R.CLK_STAT] := ⟨_, rfl⟩
  have h2 : OnlyRegs k t s.coldCopy := by
    unfold State.coldCopy
    rw [← ht, hk]
    refine ((OnlyRegs.ite ?_ (.refl _ _)).setReg _ (by simp)).setReg _ (by simp)
    refine OnlyRegs.foldl _ _ (fun x hx u hu => hu.setReg _ ?_) (.refl _ _)
    exact List.mem_append_left _ (List.mem_map_of_mem hx)
  have apart : ∀ a ∈ coldRegs, a ∉ k := by
    rw [hk]
    decide
  refine ⟨⟨?_, fun a ha => ?_⟩, fun a ha => ?_⟩
  · rw [h2.1, h1.1]
  · simp only [coldList, ← hk, List.mem_append, not_or] at ha
    exact (h2.2 a ha.2).trans (h1.2 a ha.1)
  · rw [h2.2 a (apart a ha), ht]
    exact State.foldl_copy_reg _ _ _ _ (.inl ha)

/-- A cold reset keeps `coldBase`; beside it only registers change, and those of its list hold what they held. -/
theorem State.coldKeep_spec (s : State) :
    (∃ l, OnlyRegs l s.coldBase s.coldKeep) ∧ ∀ a ∈ coldRegs, calReg a = false → s.coldKeep.reg a = s.reg a := by
  obtain ⟨h, r⟩ := s.coldCopy_spec
  have e : s.coldKeep = s.coldCopy.calCold := rfl
  obtain ⟨l, hl, hc, hr⟩ := h.calCold rfl
  rw [e]
  refine ⟨⟨_, hc⟩, fun a ha h1 => ?_⟩
  have na : a ∉ l := fun k => by simp [hl a k] at h1
  exact (hr a na).trans (r a ha)

end Sys2Proof.Machine
end

