-- ==== Sys2Proof/Laws/Keeps.lean ====
section
/-! SUPPORT. What every operation keeps, and how it passes through updates, conditionals and loops. -/

namespace Sys2Proof.Machine

/-- What every operation of the device keeps: the queue and the variant stand, what was sent stays sent, free values are
used in order, and well-formed states stay well-formed. -/
structure Keeps (s t : State) : Prop where
  pending : t.pending = s.pending
  part : t.part = s.part
  out : s.out <+: t.out
  free : s.free ≤ t.free
  wf : s.wf = true → t.wf = true

theorem Keeps.refl (s : State) : Keeps s s := ⟨rfl, rfl, List.prefix_rfl, Nat.le_refl _, id⟩

theorem Keeps.upd_iff {s t : State} {edgeBase1 : Nat} {off1 : Nat} {tick1 : Nat} {counting1 : Bool} {ticked1 : Option Nat} {staged1 : List Staged} {power1 : Power} {warm1 : Warm} {flash1 : Flash} {image1 : Image} {letters1 : Seal} {evr1 : Evr} {net1 : Net} {maint1 : Maint} {time1 : Time} {ana1 : Analog} {dio1 : Dio} {acq1 : Acq} {can1 : Can} {safe1 : Safe} {integ1 : Integ} {snap1 : Snap}
    (h1 : flash1.bytes = t.flash.bytes) (h2 : ana1.envm = t.ana.envm) (h3 : evr1.main = t.evr.main)
    (h4 : evr1.safety = t.evr.safety) (h5 : can1.objs = t.can.objs) (h6 : can1.groups = t.can.groups)
    (h7 : can1.seen = t.can.seen) (h8 : maint1.scratch = t.maint.scratch) (h9 : power1.size = t.power.size)
    (h10 : letters1.size = t.letters.size) (h11 : net1.size = t.net.size) (h12 : time1.size = t.time.size)
    (h13 : ana1.size = t.ana.size) (h14 : dio1.size = t.dio.size) (h15 : acq1.size = t.acq.size)
    (h16 : can1.size = t.can.size) (h17 : safe1.size = t.safe.size) (h18 : integ1.size = t.integ.size)
    (h19 : snap1.size = t.snap.size) :
    Keeps s (State.mk t.pending t.out t.free t.part t.regs edgeBase1 off1 tick1 counting1 ticked1 t.arch staged1 t.ckpts power1 warm1 flash1 image1 letters1 evr1 net1 maint1 time1 ana1 dio1 acq1 can1 safe1 integ1 snap1 t.dram) ↔ Keeps s t := by
  have e : (State.mk t.pending t.out t.free t.part t.regs edgeBase1 off1 tick1 counting1 ticked1 t.arch staged1 t.ckpts power1 warm1 flash1 image1 letters1 evr1 net1 maint1 time1 ana1 dio1 acq1 can1 safe1 integ1 snap1 t.dram).wf = t.wf := by
    simp only [State.wf, h1, h2, h3, h4, h5, h6, h7, h8, h9, h10, h11, h12, h13, h14, h15, h16, h17, h18, h19]
  exact ⟨fun h => ⟨h.pending, h.part, h.out, h.free, fun k => e ▸ h.wf k⟩,
    fun h => ⟨h.pending, h.part, h.out, h.free, fun k => e.symm ▸ h.wf k⟩⟩

theorem Keeps.ite {s t u : State} {p : Prop} [Decidable p] (h : Keeps s t) (g : Keeps s u) :
    Keeps s (if p then t else u) := by
  split
  · exact h
  · exact g

theorem Keeps.foldl {α : Type} {s t : State} {l : List α} {f : State → α → State}
    (hf : ∀ a x, Keeps s a → Keeps s (f a x)) (h : Keeps s t) : Keeps s (l.foldl f t) := by
  induction l generalizing t with
  | nil => exact h
  | cons x l ih => exact ih (hf t x h)

theorem Keeps.foldlFst {α β : Type} {s : State} {l : List α} {p : State × β} {f : State × β → α → State × β}
    (hf : ∀ a x, Keeps s a.1 → Keeps s (f a x).1) (h : Keeps s p.1) : Keeps s (l.foldl f p).1 := by
  induction l generalizing p with
  | nil => exact h
  | cons x l ih => exact ih (hf p x h)

theorem Keeps.forUpTo {s t : State} {n : Nat} {f : Nat → State → State}
    (hf : ∀ x a, Keeps s a → Keeps s (f x a)) (h : Keeps s t) : Keeps s (forUpTo n f t) :=
  Keeps.foldl (fun a x ha => hf x a ha) h

theorem Keeps.forEach {α : Type} {s t : State} {l : List α} {f : α → State → State}
    (hf : ∀ x a, Keeps s a → Keeps s (f x a)) (h : Keeps s t) : Keeps s (forEach l f t) :=
  Keeps.foldl (fun a x ha => hf x a ha) h

/-- Every next state that an outcome gives keeps what `Keeps` says. -/
def OutKeeps (s : State) (o : Out) : Prop := ∀ t, o = .next t → Keeps s t

theorem OutKeeps.next {s t : State} (h : Keeps s t) : OutKeeps s (.next t) := fun _ e => by cases e; exact h

theorem OutKeeps.answer {s t : State} {b : Bool} (h : Keeps s t) : OutKeeps s (answer b t) := by
  cases b
  · intro _ e
    cases e
  · exact OutKeeps.next h

theorem Keeps.step {s t u : State} (h : Keeps s t) (h1 : u.pending = t.pending) (h2 : u.part = t.part)
    (h3 : u.out = t.out) (h4 : u.free = t.free) (h5 : t.wf = true → u.wf = true) : Keeps s u :=
  ⟨h1.trans h.pending, h2.trans h.part, h3 ▸ h.out, h4 ▸ h.free, fun k => h5 (h.wf k)⟩

theorem modifyAt_length {α : Type} (l : List α) (i : Nat) (f : α → α) : (modifyAt l i f).length = l.length := by
  induction l generalizing i with
  | nil => rfl
  | cons a l ih => cases i with
    | zero => rfl
    | succ i => simp only [modifyAt, List.length_cons, ih]

theorem Arch.wf_lanes {a : Arch} (l : List Lane) (hl : l.length = 8) (h : a.wf = true) :
    ({ a with lanes := l } : Arch).wf = true := by
  simp only [Arch.wf, Bool.and_eq_true, beq_iff_eq] at h ⊢
  simp only [h, hl, and_self]

theorem Arch.wf_axes {a : Arch} (l : List Axis) (hl : l.length = 64) (h : a.wf = true) :
    ({ a with axes := l } : Arch).wf = true := by
  simp only [Arch.wf, Bool.and_eq_true, beq_iff_eq] at h ⊢
  simp only [h, hl, and_self]

theorem Arch.wf_stride {a : Arch} (l : List StridePort) (hl : l.length = 8) (h : a.wf = true) :
    ({ a with stride := l } : Arch).wf = true := by
  simp only [Arch.wf, Bool.and_eq_true, beq_iff_eq] at h ⊢
  simp only [h, hl, and_self]

theorem Arch.wf_slots {a : Arch} (t : Tab Slot) (ht : tabWf (fun _ => Slot.unwritten) t = true) (h : a.wf = true) :
    ({ a with slots := t } : Arch).wf = true := by
  simp only [Arch.wf, Bool.and_eq_true, beq_iff_eq] at h ⊢
  simp only [h, ht, and_self]

theorem Arch.wf_cells {a : Arch} (t : Tab CellX) (ht : tabWf (fun _ => {}) t = true) (h : a.wf = true) :
    ({ a with cells := t } : Arch).wf = true := by
  simp only [Arch.wf, Bool.and_eq_true, beq_iff_eq] at h ⊢
  simp only [h, ht, and_self]

theorem Arch.wf_reds {a : Arch} (t : Tab Reduce) (ht : tabWf (fun _ => {}) t = true) (h : a.wf = true) :
    ({ a with reds := t } : Arch).wf = true := by
  simp only [Arch.wf, Bool.and_eq_true, beq_iff_eq] at h ⊢
  simp only [h, ht, and_self]

theorem Arch.wf_conds {a : Arch} (t : Tab Cond) (ht : tabWf (fun _ => {}) t = true) (h : a.wf = true) :
    ({ a with conds := t } : Arch).wf = true := by
  simp only [Arch.wf, Bool.and_eq_true, beq_iff_eq] at h ⊢
  simp only [h, ht, and_self]

theorem Arch.wf_parts {a : Arch} (h : a.wf = true) :
    tabWf (fun _ => Slot.unwritten) a.slots = true ∧ tabWf (fun _ => {}) a.cells = true ∧
      tabWf (fun _ => {}) a.reds = true ∧ tabWf (fun _ => {}) a.conds = true ∧ a.lanes.length = 8 ∧
      a.axes.length = 64 ∧ a.stride.length = 8 := by
  simp only [Arch.wf, Bool.and_eq_true, beq_iff_eq] at h
  simp only [h, and_self]

theorem Evr.pop_main (e : Evr) : e.pop.main = e.main := by
  unfold Evr.pop
  split <;> rfl

theorem Evr.pop_safety (e : Evr) : e.pop.safety = e.safety := by
  unfold Evr.pop
  split <;> rfl

theorem Keeps.bank {s t : State} (h : Keeps s t) (f : Evr → Evr)
    (hm : tabRise t.evr.main = true → tabRise (f t.evr).main = true)
    (hs : tabRise t.evr.safety = true → tabRise (f t.evr).safety = true) : Keeps s { t with evr := f t.evr } := by
  refine h.step rfl rfl rfl rfl fun k => ?_
  simp only [State.wf, Bool.and_eq_true] at k ⊢
  simp only [k, and_true, true_and]
  exact ⟨hm (by simp only [k]), hs (by simp only [k])⟩

theorem Ckpt.wf_parts {c : Ckpt} (h : c.wf = true) : c.arch.wf = true ∧ tabWf regReset c.regs = true := by
  simpa only [Ckpt.wf, Bool.and_eq_true] using h

theorem State.checkpoint_wf {t : State} (n : Nat) (h : t.wf = true) : (t.checkpoint n).wf = true := by
  simp only [State.wf, Bool.and_eq_true] at h
  have g : t.arch.wf = true := by simp only [h]
  have n : t.arch.lanes.length = 8 := (Arch.wf_parts g).2.2.2.2.1
  simp only [Ckpt.wf, State.checkpoint, Bool.and_eq_true]
  exact ⟨Arch.wf_lanes _ (by rw [List.length_map, n]) g, tabFilter_wf (by simp only [h])⟩

theorem State.wf_ckpts {t : State} (h : t.wf = true) : ∀ c ∈ t.ckpts, c.wf = true := by
  simp only [State.wf, Bool.and_eq_true] at h
  exact List.all_eq_true.mp (by simp only [h])

theorem Keeps.ckpts {s t : State} (h : Keeps s t) (l : List Ckpt) (hl : t.wf = true → ∀ c ∈ l, c.wf = true) :
    Keeps s { t with ckpts := l } := by
  refine h.step rfl rfl rfl rfl fun k => ?_
  have g := List.all_eq_true.mpr (hl k)
  simp only [State.wf, Bool.and_eq_true] at k ⊢
  simp only [k, g, and_self]

theorem State.newestCkpt_mem {t : State} {b : Bool} {c : Ckpt} (h : t.newestCkpt b = some c) : c ∈ t.ckpts := by
  unfold State.newestCkpt at h
  split at h
  · cases h
  · next d r e =>
    rw [e]
    split at h
    · cases h
      exact List.mem_cons_self
    · exact List.mem_cons_of_mem _ (List.mem_of_mem_head? h)

theorem Slot.resumed_ne {v : Slot} (h : v ≠ Slot.unwritten) : v.resumed ≠ Slot.unwritten := by
  unfold Slot.resumed
  split
  · intro e
    have q : (v.qual ||| 2) &&& 0xFFFFFFFE = 0#32 := congrArg Slot.qual e
    have b := congrArg (fun w => BitVec.getLsbD w 1) q
    simp at b
  · exact h

theorem Evr.markRetried_main (e : Evr) : e.markRetried.main = e.main := by
  unfold Evr.markRetried
  dsimp only
  split
  · rfl
  · split <;> rfl

theorem Evr.markRetried_safety (e : Evr) : e.markRetried.safety = e.safety := by
  unfold Evr.markRetried
  dsimp only
  split
  · rfl
  · split <;> rfl

theorem Maint.pbNext_scratch (m : Maint) : m.pbNext.scratch = m.scratch := by
  unfold Maint.pbNext
  dsimp only
  split <;> rfl

end Sys2Proof.Machine
end

