-- ==== Sys2Proof/Laws/KeptOps.lean ====
section
/-! SUPPORT. What the operations of Machine/Ops.lean keep. -/

set_option linter.all false

namespace Sys2Proof.Machine

theorem State.setReg_keeps {s t : State} (a : Nat) (w : Word) (h : Keeps s t) : Keeps s (t.setReg a w) := by
  refine h.step rfl rfl rfl rfl fun k => ?_
  simp only [State.wf, State.setReg, Bool.and_eq_true] at k ⊢
  simp only [k, and_true]
  exact tabSet_wf (by simp only [k])

theorem State.modReg_keeps {s t : State} (a : Nat) (f : Word → Word) (h : Keeps s t) : Keeps s (State.modReg t a f) := by
  unfold State.modReg
  try dsimp only
  repeat' first
    | with_reducible apply State.setReg_keeps
    | with_reducible apply Keeps.ite
    | with_reducible apply Keeps.forUpTo
    | with_reducible apply Keeps.forEach
    | with_reducible apply Keeps.foldl
    | with_reducible apply Keeps.foldlFst
    | intro _ _ _
    | intro _ _
    | intro _
    | simp only [Keeps.upd_iff]
    | simp only [Keeps.upd_iff, Power.size, Seal.size, Net.size, Time.size, Analog.size, Dio.size, Acq.size, Can.size, Safe.size, Integ.size, Snap.size, modifyAt_length, List.length_map]
    | with_reducible assumption
    | split

theorem State.bumpBy_keeps {s t : State} (a : Nat) (n : Nat) (h : Keeps s t) : Keeps s (State.bumpBy t a n) := by
  unfold State.bumpBy
  try dsimp only
  repeat' first
    | with_reducible apply State.modReg_keeps
    | with_reducible apply Keeps.ite
    | with_reducible apply Keeps.forUpTo
    | with_reducible apply Keeps.forEach
    | with_reducible apply Keeps.foldl
    | with_reducible apply Keeps.foldlFst
    | intro _ _ _
    | intro _ _
    | intro _
    | simp only [Keeps.upd_iff]
    | simp only [Keeps.upd_iff, Power.size, Seal.size, Net.size, Time.size, Analog.size, Dio.size, Acq.size, Can.size, Safe.size, Integ.size, Snap.size, modifyAt_length, List.length_map]
    | with_reducible assumption
    | split

theorem State.bump_keeps {s t : State} (a : Nat) (h : Keeps s t) : Keeps s (State.bump t a) := by
  unfold State.bump
  try dsimp only
  repeat' first
    | with_reducible apply State.bumpBy_keeps
    | with_reducible apply Keeps.ite
    | with_reducible apply Keeps.forUpTo
    | with_reducible apply Keeps.forEach
    | with_reducible apply Keeps.foldl
    | with_reducible apply Keeps.foldlFst
    | intro _ _ _
    | intro _ _
    | intro _
    | simp only [Keeps.upd_iff]
    | simp only [Keeps.upd_iff, Power.size, Seal.size, Net.size, Time.size, Analog.size, Dio.size, Acq.size, Can.size, Safe.size, Integ.size, Snap.size, modifyAt_length, List.length_map]
    | with_reducible assumption
    | split

theorem State.orReg_keeps {s t : State} (a : Nat) (m : Word) (h : Keeps s t) : Keeps s (State.orReg t a m) := by
  unfold State.orReg
  try dsimp only
  repeat' first
    | with_reducible apply State.modReg_keeps
    | with_reducible apply Keeps.ite
    | with_reducible apply Keeps.forUpTo
    | with_reducible apply Keeps.forEach
    | with_reducible apply Keeps.foldl
    | with_reducible apply Keeps.foldlFst
    | intro _ _ _
    | intro _ _
    | intro _
    | simp only [Keeps.upd_iff]
    | simp only [Keeps.upd_iff, Power.size, Seal.size, Net.size, Time.size, Analog.size, Dio.size, Acq.size, Can.size, Safe.size, Integ.size, Snap.size, modifyAt_length, List.length_map]
    | with_reducible assumption
    | split

theorem State.clrReg_keeps {s t : State} (a : Nat) (m : Word) (h : Keeps s t) : Keeps s (State.clrReg t a m) := by
  unfold State.clrReg
  try dsimp only
  repeat' first
    | with_reducible apply State.modReg_keeps
    | with_reducible apply Keeps.ite
    | with_reducible apply Keeps.forUpTo
    | with_reducible apply Keeps.forEach
    | with_reducible apply Keeps.foldl
    | with_reducible apply Keeps.foldlFst
    | intro _ _ _
    | intro _ _
    | intro _
    | simp only [Keeps.upd_iff]
    | simp only [Keeps.upd_iff, Power.size, Seal.size, Net.size, Time.size, Analog.size, Dio.size, Acq.size, Can.size, Safe.size, Integ.size, Snap.size, modifyAt_length, List.length_map]
    | with_reducible assumption
    | split

theorem State.putFld_keeps {s t : State} (a : Nat) (hq : Nat) (l : Nat) (v : Nat) (h : Keeps s t) : Keeps s (State.putFld t a hq l v) := by
  unfold State.putFld
  try dsimp only
  repeat' first
    | with_reducible apply State.modReg_keeps
    | with_reducible apply Keeps.ite
    | with_reducible apply Keeps.forUpTo
    | with_reducible apply Keeps.forEach
    | with_reducible apply Keeps.foldl
    | with_reducible apply Keeps.foldlFst
    | intro _ _ _
    | intro _ _
    | intro _
    | simp only [Keeps.upd_iff]
    | simp only [Keeps.upd_iff, Power.size, Seal.size, Net.size, Time.size, Analog.size, Dio.size, Acq.size, Can.size, Safe.size, Integ.size, Snap.size, modifyAt_length, List.length_map]
    | with_reducible assumption
    | split

theorem State.setReg64_keeps {s t : State} (a : Nat) (d : DWord) (h : Keeps s t) : Keeps s (State.setReg64 t a d) := by
  unfold State.setReg64
  try dsimp only
  repeat' first
    | with_reducible apply State.setReg_keeps
    | with_reducible apply Keeps.ite
    | with_reducible apply Keeps.forUpTo
    | with_reducible apply Keeps.forEach
    | with_reducible apply Keeps.foldl
    | with_reducible apply Keeps.foldlFst
    | intro _ _ _
    | intro _ _
    | intro _
    | simp only [Keeps.upd_iff]
    | simp only [Keeps.upd_iff, Power.size, Seal.size, Net.size, Time.size, Analog.size, Dio.size, Acq.size, Can.size, Safe.size, Integ.size, Snap.size, modifyAt_length, List.length_map]
    | with_reducible assumption
    | split

theorem State.maxReg_keeps {s t : State} (a : Nat) (w : Word) (h : Keeps s t) : Keeps s (State.maxReg t a w) := by
  unfold State.maxReg
  try dsimp only
  repeat' first
    | with_reducible apply State.modReg_keeps
    | with_reducible apply Keeps.ite
    | with_reducible apply Keeps.forUpTo
    | with_reducible apply Keeps.forEach
    | with_reducible apply Keeps.foldl
    | with_reducible apply Keeps.foldlFst
    | intro _ _ _
    | intro _ _
    | intro _
    | simp only [Keeps.upd_iff]
    | simp only [Keeps.upd_iff, Power.size, Seal.size, Net.size, Time.size, Analog.size, Dio.size, Acq.size, Can.size, Safe.size, Integ.size, Snap.size, modifyAt_length, List.length_map]
    | with_reducible assumption
    | split

theorem State.atEdge_keeps {s t : State} (e : Nat) (h : Keeps s t) : Keeps s (State.atEdge t e) := by
  unfold State.atEdge
  try dsimp only
  repeat' first
    | with_reducible apply Keeps.ite
    | with_reducible apply Keeps.forUpTo
    | with_reducible apply Keeps.forEach
    | with_reducible apply Keeps.foldl
    | with_reducible apply Keeps.foldlFst
    | intro _ _ _
    | intro _ _
    | intro _
    | simp only [Keeps.upd_iff]
    | simp only [Keeps.upd_iff, Power.size, Seal.size, Net.size, Time.size, Analog.size, Dio.size, Acq.size, Can.size, Safe.size, Integ.size, Snap.size, modifyAt_length, List.length_map]
    | with_reducible assumption
    | split

theorem State.enter_keeps {s t : State} (st : Nat) (cause : Nat) (warm : Bool) (h : Keeps s t) : Keeps s (State.enter t st cause warm) := by
  unfold State.enter
  try dsimp only
  repeat' first
    | with_reducible apply State.setReg_keeps
    | with_reducible apply State.orReg_keeps
    | with_reducible apply Keeps.ite
    | with_reducible apply Keeps.forUpTo
    | with_reducible apply Keeps.forEach
    | with_reducible apply Keeps.foldl
    | with_reducible apply Keeps.foldlFst
    | intro _ _ _
    | intro _ _
    | intro _
    | simp only [Keeps.upd_iff]
    | simp only [Keeps.upd_iff, Power.size, Seal.size, Net.size, Time.size, Analog.size, Dio.size, Acq.size, Can.size, Safe.size, Integ.size, Snap.size, modifyAt_length, List.length_map]
    | with_reducible assumption
    | split

theorem State.useFree_keeps {s t : State} (h : Keeps s t) : Keeps s t.useFree :=
  ⟨h.pending, h.part, h.out, Nat.le_succ_of_le h.free, h.wf⟩

theorem State.waited_keeps {s t : State} (p : Nat) (n : Nat) (h : Keeps s t) : Keeps s (State.waited t p n) := by
  unfold State.waited
  try dsimp only
  repeat' first
    | with_reducible apply State.bumpBy_keeps
    | with_reducible apply State.maxReg_keeps
    | with_reducible apply Keeps.ite
    | with_reducible apply Keeps.forUpTo
    | with_reducible apply Keeps.forEach
    | with_reducible apply Keeps.foldl
    | with_reducible apply Keeps.foldlFst
    | intro _ _ _
    | intro _ _
    | intro _
    | simp only [Keeps.upd_iff]
    | simp only [Keeps.upd_iff, Power.size, Seal.size, Net.size, Time.size, Analog.size, Dio.size, Acq.size, Can.size, Safe.size, Integ.size, Snap.size, modifyAt_length, List.length_map]
    | with_reducible assumption
    | split

theorem State.deferIf_keeps {s t : State} (c : Bool) (h : Keeps s t) : Keeps s (State.deferIf t c) := by
  unfold State.deferIf
  try dsimp only
  repeat' first
    | with_reducible apply State.bump_keeps
    | with_reducible apply Keeps.ite
    | with_reducible apply Keeps.forUpTo
    | with_reducible apply Keeps.forEach
    | with_reducible apply Keeps.foldl
    | with_reducible apply Keeps.foldlFst
    | intro _ _ _
    | intro _ _
    | intro _
    | simp only [Keeps.upd_iff]
    | simp only [Keeps.upd_iff, Power.size, Seal.size, Net.size, Time.size, Analog.size, Dio.size, Acq.size, Can.size, Safe.size, Integ.size, Snap.size, modifyAt_length, List.length_map]
    | with_reducible assumption
    | split

theorem State.modPort_keeps {s t : State} (p : Nat) (f : Port → Port) (h : Keeps s t) : Keeps s (State.modPort t p f) := by
  unfold State.modPort
  try dsimp only
  repeat' first
    | with_reducible apply Keeps.ite
    | with_reducible apply Keeps.forUpTo
    | with_reducible apply Keeps.forEach
    | with_reducible apply Keeps.foldl
    | with_reducible apply Keeps.foldlFst
    | intro _ _ _
    | intro _ _
    | intro _
    | simp only [Keeps.upd_iff]
    | simp only [Keeps.upd_iff, Power.size, Seal.size, Net.size, Time.size, Analog.size, Dio.size, Acq.size, Can.size, Safe.size, Integ.size, Snap.size, modifyAt_length, List.length_map]
    | with_reducible assumption
    | split

theorem State.emit_keeps {s t : State} (x : Sent) (h : Keeps s t) : Keeps s (t.emit x) :=
  ⟨h.pending, h.part, h.out.trans (List.prefix_append _ _), h.free, h.wf⟩

theorem State.emitOn_keeps {s t : State} (p : Nat) (x : Sent) (h : Keeps s t) : Keeps s (State.emitOn t p x) := by
  unfold State.emitOn
  try dsimp only
  repeat' first
    | with_reducible apply State.bump_keeps
    | with_reducible apply State.emit_keeps
    | with_reducible apply Keeps.ite
    | with_reducible apply Keeps.forUpTo
    | with_reducible apply Keeps.forEach
    | with_reducible apply Keeps.foldl
    | with_reducible apply Keeps.foldlFst
    | intro _ _ _
    | intro _ _
    | intro _
    | simp only [Keeps.upd_iff]
    | simp only [Keeps.upd_iff, Power.size, Seal.size, Net.size, Time.size, Analog.size, Dio.size, Acq.size, Can.size, Safe.size, Integ.size, Snap.size, modifyAt_length, List.length_map]
    | with_reducible assumption
    | split

theorem State.reply_keeps {s t : State} (o : Origin) (mtype : Nat) (payload : List Byte) (h : Keeps s t) : Keeps s (State.reply t o mtype payload) := by
  unfold State.reply
  try dsimp only
  repeat' first
    | with_reducible apply State.emitOn_keeps
    | with_reducible apply Keeps.ite
    | with_reducible apply Keeps.forUpTo
    | with_reducible apply Keeps.forEach
    | with_reducible apply Keeps.foldl
    | with_reducible apply Keeps.foldlFst
    | intro _ _ _
    | intro _ _
    | intro _
    | simp only [Keeps.upd_iff]
    | simp only [Keeps.upd_iff, Power.size, Seal.size, Net.size, Time.size, Analog.size, Dio.size, Acq.size, Can.size, Safe.size, Integ.size, Snap.size, modifyAt_length, List.length_map]
    | with_reducible assumption
    | split

theorem State.originate_keeps {s t : State} (p : Nat) (mtype : Nat) (tag : Nat) (prp : Option Nat) (payload : List Byte) (h : Keeps s t) : Keeps s (State.originate t p mtype tag prp payload) := by
  unfold State.originate
  try dsimp only
  repeat' first
    | with_reducible apply State.bump_keeps
    | with_reducible apply State.emitOn_keeps
    | with_reducible apply Keeps.ite
    | with_reducible apply Keeps.forUpTo
    | with_reducible apply Keeps.forEach
    | with_reducible apply Keeps.foldl
    | with_reducible apply Keeps.foldlFst
    | intro _ _ _
    | intro _ _
    | intro _
    | simp only [Keeps.upd_iff]
    | simp only [Keeps.upd_iff, Power.size, Seal.size, Net.size, Time.size, Analog.size, Dio.size, Acq.size, Can.size, Safe.size, Integ.size, Snap.size, modifyAt_length, List.length_map]
    | with_reducible assumption
    | split

theorem State.originateAll_keeps {s t : State} (mtype : Nat) (tag : Nat) (payload : List Byte) (h : Keeps s t) : Keeps s (State.originateAll t mtype tag payload) := by
  unfold State.originateAll
  try dsimp only
  repeat' first
    | with_reducible apply State.originate_keeps
    | with_reducible apply Keeps.ite
    | with_reducible apply Keeps.forUpTo
    | with_reducible apply Keeps.forEach
    | with_reducible apply Keeps.foldl
    | with_reducible apply Keeps.foldlFst
    | intro _ _ _
    | intro _ _
    | intro _
    | simp only [Keeps.upd_iff]
    | simp only [Keeps.upd_iff, Power.size, Seal.size, Net.size, Time.size, Analog.size, Dio.size, Acq.size, Can.size, Safe.size, Integ.size, Snap.size, modifyAt_length, List.length_map]
    | with_reducible assumption
    | split

theorem State.takeSeq_keeps {s t : State} (h : Keeps s t) : Keeps s (State.takeSeq t) := by
  unfold State.takeSeq
  try dsimp only
  repeat' first
    | with_reducible apply State.setReg_keeps
    | with_reducible apply Keeps.ite
    | with_reducible apply Keeps.forUpTo
    | with_reducible apply Keeps.forEach
    | with_reducible apply Keeps.foldl
    | with_reducible apply Keeps.foldlFst
    | intro _ _ _
    | intro _ _
    | intro _
    | simp only [Keeps.upd_iff]
    | simp only [Keeps.upd_iff, Power.size, Seal.size, Net.size, Time.size, Analog.size, Dio.size, Acq.size, Can.size, Safe.size, Integ.size, Snap.size, modifyAt_length, List.length_map]
    | with_reducible assumption
    | split

theorem State.announce_keeps {s t : State} (r : EvRec) (h : Keeps s t) : Keeps s (State.announce t r) := by
  unfold State.announce
  try dsimp only
  repeat' first
    | with_reducible apply State.setReg_keeps
    | with_reducible apply State.orReg_keeps
    | with_reducible apply State.originateAll_keeps
    | with_reducible apply Keeps.ite
    | with_reducible apply Keeps.forUpTo
    | with_reducible apply Keeps.forEach
    | with_reducible apply Keeps.foldl
    | with_reducible apply Keeps.foldlFst
    | intro _ _ _
    | intro _ _
    | intro _
    | simp only [Keeps.upd_iff]
    | simp only [Keeps.upd_iff, Power.size, Seal.size, Net.size, Time.size, Analog.size, Dio.size, Acq.size, Can.size, Safe.size, Integ.size, Snap.size, modifyAt_length, List.length_map]
    | with_reducible assumption
    | split

theorem State.loseRecord_keeps {s t : State} (seq : Nat) (h : Keeps s t) : Keeps s (State.loseRecord t seq) := by
  unfold State.loseRecord
  try dsimp only
  repeat' first
    | with_reducible apply State.bump_keeps
    | with_reducible apply Keeps.ite
    | with_reducible apply Keeps.forUpTo
    | with_reducible apply Keeps.forEach
    | with_reducible apply Keeps.foldl
    | with_reducible apply Keeps.foldlFst
    | intro _ _ _
    | intro _ _
    | intro _
    | simp only [Keeps.upd_iff]
    | simp only [Keeps.upd_iff, Power.size, Seal.size, Net.size, Time.size, Analog.size, Dio.size, Acq.size, Can.size, Safe.size, Integ.size, Snap.size, modifyAt_length, List.length_map]
    | with_reducible assumption
    | split

theorem State.enqueue_keeps {s t : State} (r : EvRec) (h : Keeps s t) : Keeps s (State.enqueue t r) := by
  unfold State.enqueue
  try dsimp only
  repeat' first
    | with_reducible apply State.loseRecord_keeps
    | with_reducible apply Keeps.ite
    | with_reducible apply Keeps.forUpTo
    | with_reducible apply Keeps.forEach
    | with_reducible apply Keeps.foldl
    | with_reducible apply Keeps.foldlFst
    | intro _ _ _
    | intro _ _
    | intro _
    | simp only [Keeps.upd_iff]
    | simp only [Keeps.upd_iff, Power.size, Seal.size, Net.size, Time.size, Analog.size, Dio.size, Acq.size, Can.size, Safe.size, Integ.size, Snap.size, modifyAt_length, List.length_map]
    | with_reducible assumption
    | split

theorem State.createOne_keeps {s t : State} (code : Nat) (source : Nat) (p0 : Word) (p1 : Word) (p2 : Word) (p3 : Word) (h : Keeps s t) : Keeps s (State.createOne t code source p0 p1 p2 p3) := by
  unfold State.createOne
  try dsimp only
  repeat' first
    | with_reducible apply State.takeSeq_keeps
    | with_reducible apply State.announce_keeps
    | with_reducible apply State.enqueue_keeps
    | with_reducible apply Keeps.ite
    | with_reducible apply Keeps.forUpTo
    | with_reducible apply Keeps.forEach
    | with_reducible apply Keeps.foldl
    | with_reducible apply Keeps.foldlFst
    | intro _ _ _
    | intro _ _
    | intro _
    | simp only [Keeps.upd_iff]
    | simp only [Keeps.upd_iff, Power.size, Seal.size, Net.size, Time.size, Analog.size, Dio.size, Acq.size, Can.size, Safe.size, Integ.size, Snap.size, modifyAt_length, List.length_map]
    | with_reducible assumption
    | split

theorem State.raise_keeps {s t : State} (code : Nat) (source : Nat) (p0 : Word) (p1 : Word) (p2 : Word) (p3 : Word) (h : Keeps s t) : Keeps s (State.raise t code source p0 p1 p2 p3) := by
  unfold State.raise
  try dsimp only
  repeat' first
    | with_reducible apply State.createOne_keeps
    | with_reducible apply Keeps.ite
    | with_reducible apply Keeps.forUpTo
    | with_reducible apply Keeps.forEach
    | with_reducible apply Keeps.foldl
    | with_reducible apply Keeps.foldlFst
    | intro _ _ _
    | intro _ _
    | intro _
    | simp only [Keeps.upd_iff]
    | simp only [Keeps.upd_iff, Power.size, Seal.size, Net.size, Time.size, Analog.size, Dio.size, Acq.size, Can.size, Safe.size, Integ.size, Snap.size, modifyAt_length, List.length_map]
    | with_reducible assumption
    | split

theorem State.raiseLimited_keeps {s t : State} (scope : Nat) (code : Nat) (source : Nat) (p0 : Word) (p1 : Word) (p2 : Word) (p3 : Word) (h : Keeps s t) : Keeps s (State.raiseLimited t scope code source p0 p1 p2 p3) := by
  unfold State.raiseLimited
  try dsimp only
  repeat' first
    | with_reducible apply State.raise_keeps
    | with_reducible apply Keeps.ite
    | with_reducible apply Keeps.forUpTo
    | with_reducible apply Keeps.forEach
    | with_reducible apply Keeps.foldl
    | with_reducible apply Keeps.foldlFst
    | intro _ _ _
    | intro _ _
    | intro _
    | simp only [Keeps.upd_iff]
    | simp only [Keeps.upd_iff, Power.size, Seal.size, Net.size, Time.size, Analog.size, Dio.size, Acq.size, Can.size, Safe.size, Integ.size, Snap.size, modifyAt_length, List.length_map]
    | with_reducible assumption
    | split

theorem State.raiseP_keeps {s t : State} (code : Nat) (source : Nat) (p : Word × Word × Word × Word) (h : Keeps s t) : Keeps s (State.raiseP t code source p) := by
  unfold State.raiseP
  try dsimp only
  repeat' first
    | with_reducible apply State.raise_keeps
    | with_reducible apply Keeps.ite
    | with_reducible apply Keeps.forUpTo
    | with_reducible apply Keeps.forEach
    | with_reducible apply Keeps.foldl
    | with_reducible apply Keeps.foldlFst
    | intro _ _ _
    | intro _ _
    | intro _
    | simp only [Keeps.upd_iff]
    | simp only [Keeps.upd_iff, Power.size, Seal.size, Net.size, Time.size, Analog.size, Dio.size, Acq.size, Can.size, Safe.size, Integ.size, Snap.size, modifyAt_length, List.length_map]
    | with_reducible assumption
    | split

theorem State.raiseCounted_keeps {s t : State} (scope : Nat) (code : Nat) (source : Nat) (p0 : Word) (p1 : Word) (p2 : Word) (p3 : Word) (h : Keeps s t) : Keeps s (State.raiseCounted t scope code source p0 p1 p2 p3) := by
  unfold State.raiseCounted
  try dsimp only
  repeat' first
    | with_reducible apply State.raiseP_keeps
    | with_reducible apply Keeps.ite
    | with_reducible apply Keeps.forUpTo
    | with_reducible apply Keeps.forEach
    | with_reducible apply Keeps.foldl
    | with_reducible apply Keeps.foldlFst
    | intro _ _ _
    | intro _ _
    | intro _
    | simp only [Keeps.upd_iff]
    | simp only [Keeps.upd_iff, Power.size, Seal.size, Net.size, Time.size, Analog.size, Dio.size, Acq.size, Can.size, Safe.size, Integ.size, Snap.size, modifyAt_length, List.length_map]
    | with_reducible assumption
    | split

theorem State.closeWindow_keeps {s t : State} (code : Nat) (scope : Nat) (h : Keeps s t) : Keeps s (State.closeWindow t code scope) := by
  unfold State.closeWindow
  try dsimp only
  repeat' first
    | with_reducible apply State.raiseP_keeps
    | with_reducible apply Keeps.ite
    | with_reducible apply Keeps.forUpTo
    | with_reducible apply Keeps.forEach
    | with_reducible apply Keeps.foldl
    | with_reducible apply Keeps.foldlFst
    | intro _ _ _
    | intro _ _
    | intro _
    | simp only [Keeps.upd_iff]
    | simp only [Keeps.upd_iff, Power.size, Seal.size, Net.size, Time.size, Analog.size, Dio.size, Acq.size, Can.size, Safe.size, Integ.size, Snap.size, modifyAt_length, List.length_map]
    | with_reducible assumption
    | split

theorem State.badAccess_keeps {s t : State} (a : Nat) (h : Keeps s t) : Keeps s (State.badAccess t a) := by
  unfold State.badAccess
  try dsimp only
  repeat' first
    | with_reducible apply State.raiseLimited_keeps
    | with_reducible apply Keeps.ite
    | with_reducible apply Keeps.forUpTo
    | with_reducible apply Keeps.forEach
    | with_reducible apply Keeps.foldl
    | with_reducible apply Keeps.foldlFst
    | intro _ _ _
    | intro _ _
    | intro _
    | simp only [Keeps.upd_iff]
    | simp only [Keeps.upd_iff, Power.size, Seal.size, Net.size, Time.size, Analog.size, Dio.size, Acq.size, Can.size, Safe.size, Integ.size, Snap.size, modifyAt_length, List.length_map]
    | with_reducible assumption
    | split

theorem State.modArch_keeps {s t : State} (f : Arch → Arch) (hf : ∀ a, a.wf = true → (f a).wf = true) (h : Keeps s t) :
    Keeps s (t.modArch f) := by
  refine h.step rfl rfl rfl rfl fun k => ?_
  simp only [State.wf, State.modArch, Bool.and_eq_true] at k ⊢
  simp only [k, and_true, true_and]
  exact hf _ (by simp only [k])

theorem State.setSlot_keeps {s t : State} (n : Nat) (v : Slot) (h : Keeps s t) : Keeps s (t.setSlot n v) :=
  State.modArch_keeps (fun a => { a with slots := tabSet (fun _ => Slot.unwritten) a.slots n v })
    (fun _ k => Arch.wf_slots _ (tabSet_wf (Arch.wf_parts k).1) k) h

theorem State.stageAt_keeps {s t : State} (e : Nat) (writer : Nat) (slot : Nat) (v : F32) (q : Word) (h : Keeps s t) : Keeps s (State.stageAt t e writer slot v q) := by
  unfold State.stageAt
  try dsimp only
  repeat' first
    | with_reducible apply Keeps.ite
    | with_reducible apply Keeps.forUpTo
    | with_reducible apply Keeps.forEach
    | with_reducible apply Keeps.foldl
    | with_reducible apply Keeps.foldlFst
    | intro _ _ _
    | intro _ _
    | intro _
    | simp only [Keeps.upd_iff]
    | simp only [Keeps.upd_iff, Power.size, Seal.size, Net.size, Time.size, Analog.size, Dio.size, Acq.size, Can.size, Safe.size, Integ.size, Snap.size, modifyAt_length, List.length_map]
    | with_reducible assumption
    | split

theorem State.stageQ_keeps {s t : State} (writer : Nat) (slot : Nat) (v : F32) (q : Word) (h : Keeps s t) : Keeps s (State.stageQ t writer slot v q) := by
  unfold State.stageQ
  try dsimp only
  repeat' first
    | with_reducible apply State.stageAt_keeps
    | with_reducible apply Keeps.ite
    | with_reducible apply Keeps.forUpTo
    | with_reducible apply Keeps.forEach
    | with_reducible apply Keeps.foldl
    | with_reducible apply Keeps.foldlFst
    | intro _ _ _
    | intro _ _
    | intro _
    | simp only [Keeps.upd_iff]
    | simp only [Keeps.upd_iff, Power.size, Seal.size, Net.size, Time.size, Analog.size, Dio.size, Acq.size, Can.size, Safe.size, Integ.size, Snap.size, modifyAt_length, List.length_map]
    | with_reducible assumption
    | split

theorem State.stage_keeps {s t : State} (writer : Nat) (slot : Nat) (v : F32) (flags : Nat) (h : Keeps s t) : Keeps s (State.stage t writer slot v flags) := by
  unfold State.stage
  try dsimp only
  repeat' first
    | with_reducible apply State.stageQ_keeps
    | with_reducible apply Keeps.ite
    | with_reducible apply Keeps.forUpTo
    | with_reducible apply Keeps.forEach
    | with_reducible apply Keeps.foldl
    | with_reducible apply Keeps.foldlFst
    | intro _ _ _
    | intro _ _
    | intro _
    | simp only [Keeps.upd_iff]
    | simp only [Keeps.upd_iff, Power.size, Seal.size, Net.size, Time.size, Analog.size, Dio.size, Acq.size, Can.size, Safe.size, Integ.size, Snap.size, modifyAt_length, List.length_map]
    | with_reducible assumption
    | split

theorem State.stageVia_keeps {s t : State} (binding : Word) (writer : Nat) (v : F32) (flags : Nat) (h : Keeps s t) : Keeps s (State.stageVia t binding writer v flags) := by
  unfold State.stageVia
  try dsimp only
  repeat' first
    | with_reducible apply State.stage_keeps
    | with_reducible apply Keeps.ite
    | with_reducible apply Keeps.forUpTo
    | with_reducible apply Keeps.forEach
    | with_reducible apply Keeps.foldl
    | with_reducible apply Keeps.foldlFst
    | intro _ _ _
    | intro _ _
    | intro _
    | simp only [Keeps.upd_iff]
    | simp only [Keeps.upd_iff, Power.size, Seal.size, Net.size, Time.size, Analog.size, Dio.size, Acq.size, Can.size, Safe.size, Integ.size, Snap.size, modifyAt_length, List.length_map]
    | with_reducible assumption
    | split

theorem State.noteMulti_keeps {s t : State} (l : List Staged) (n : Nat) (h : Keeps s t) : Keeps s (State.noteMulti t l n) := by
  unfold State.noteMulti
  try dsimp only
  repeat' first
    | with_reducible apply State.bump_keeps
    | with_reducible apply State.raiseLimited_keeps
    | with_reducible apply Keeps.ite
    | with_reducible apply Keeps.forUpTo
    | with_reducible apply Keeps.forEach
    | with_reducible apply Keeps.foldl
    | with_reducible apply Keeps.foldlFst
    | intro _ _ _
    | intro _ _
    | intro _
    | simp only [Keeps.upd_iff]
    | simp only [Keeps.upd_iff, Power.size, Seal.size, Net.size, Time.size, Analog.size, Dio.size, Acq.size, Can.size, Safe.size, Integ.size, Snap.size, modifyAt_length, List.length_map]
    | with_reducible assumption
    | split

theorem State.commitStaged_keeps {s t : State} (stamp : Nat) (h : Keeps s t) : Keeps s (State.commitStaged t stamp) := by
  unfold State.commitStaged
  try dsimp only
  repeat' first
    | with_reducible apply State.setSlot_keeps
    | with_reducible apply Keeps.ite
    | with_reducible apply Keeps.forUpTo
    | with_reducible apply Keeps.forEach
    | with_reducible apply Keeps.foldl
    | with_reducible apply Keeps.foldlFst
    | intro _ _ _
    | intro _ _
    | intro _
    | simp only [Keeps.upd_iff]
    | simp only [Keeps.upd_iff, Power.size, Seal.size, Net.size, Time.size, Analog.size, Dio.size, Acq.size, Can.size, Safe.size, Integ.size, Snap.size, modifyAt_length, List.length_map]
    | with_reducible assumption
    | split

theorem State.countMulti_keeps {s t : State} (l : List Staged) (h : Keeps s t) : Keeps s (State.countMulti t l) := by
  unfold State.countMulti
  try dsimp only
  repeat' first
    | with_reducible apply State.noteMulti_keeps
    | with_reducible apply Keeps.ite
    | with_reducible apply Keeps.forUpTo
    | with_reducible apply Keeps.forEach
    | with_reducible apply Keeps.foldl
    | with_reducible apply Keeps.foldlFst
    | intro _ _ _
    | intro _ _
    | intro _
    | simp only [Keeps.upd_iff]
    | simp only [Keeps.upd_iff, Power.size, Seal.size, Net.size, Time.size, Analog.size, Dio.size, Acq.size, Can.size, Safe.size, Integ.size, Snap.size, modifyAt_length, List.length_map]
    | with_reducible assumption
    | split

theorem State.modLane_keeps {s t : State} (n : Nat) (f : Lane → Lane) (h : Keeps s t) : Keeps s (t.modLane n f) :=
  State.modArch_keeps (fun a => { a with lanes := modifyAt a.lanes n f })
    (fun _ k => Arch.wf_lanes _ ((modifyAt_length _ _ _).trans (Arch.wf_parts k).2.2.2.2.1) k) h

theorem State.modCellX_keeps {s t : State} (n : Nat) (f : CellX → CellX) (h : Keeps s t) : Keeps s (t.modCellX n f) :=
  State.modArch_keeps (fun a => { a with cells := tabSet (fun _ => {}) a.cells n (f (t.cellX n)) })
    (fun _ k => Arch.wf_cells _ (tabSet_wf (Arch.wf_parts k).2.1) k) h

theorem State.dropCkpts_keeps {s t : State} (h : Keeps s t) : Keeps s t.dropCkpts := by
  refine h.step rfl rfl rfl rfl fun k => ?_
  simp only [State.wf, State.dropCkpts, Bool.and_eq_true] at k ⊢
  simp only [k, and_true, true_and]
  rfl

theorem State.clearArch_keeps {s t : State} (keep : Nat → Bool) (h : Keeps s t) : Keeps s (t.clearArch keep) := by
  refine h.step rfl rfl rfl rfl fun k => ?_
  simp only [State.wf, Bool.and_eq_true] at k
  have n : t.arch.stride.length = 8 := (Arch.wf_parts (a := t.arch) (by simp only [k])).2.2.2.2.2.2
  have a : ({ stride := t.arch.stride.map (fun x => { restart := x.restart }) } : Arch).wf = true := by
    simp only [Arch.wf, List.length_map, n]; rfl
  simp only [State.wf, State.clearArch, State.dropCkpts, Bool.and_eq_true]
  simp only [k, a, and_true]
  exact ⟨tabFilter_wf (by simp only [k]), rfl⟩

end Sys2Proof.Machine
end

