-- ==== Sys2Proof/Laws/KeptRx.lean ====
section
/-! SUPPORT. What the operations of Machine/Rx.lean keep. -/

set_option linter.all false

namespace Sys2Proof.Machine

theorem State.modNet_keeps {s t : State} (f : Net → Net) (hf : ∀ x, x.size = 2 → (f x).size = 2) (h : Keeps s t) :
    Keeps s (t.modNet f) := by
  refine h.step rfl rfl rfl rfl fun k => ?_
  simp only [State.wf, State.modNet, Bool.and_eq_true, beq_iff_eq] at k ⊢
  simp only [k, and_true, true_and]
  exact hf _ (by simp only [k])

theorem State.orphanOn_keeps {s t : State} (p : Nat) (h : Keeps s t) : Keeps s (State.orphanOn t p) := by
  unfold State.orphanOn
  try dsimp only
  repeat' first
    | with_reducible apply State.bump_keeps
    | with_reducible apply State.raiseLimited_keeps
    | with_reducible apply Keeps.ite
    | with_reducible apply Keeps.forUpTo
    | with_reducible apply Keeps.forEach
    | with_reducible apply Keeps.foldl
    | with_reducible apply Keeps.foldlFst
    | intro _ _ _
    | intro _ _
    | intro _
    | simp only [Keeps.upd_iff]
    | simp only [Keeps.upd_iff, Power.size, Seal.size, Net.size, Time.size, Analog.size, Dio.size, Acq.size, Can.size, Safe.size, Integ.size, Snap.size, modifyAt_length, List.length_map]
    | with_reducible assumption
    | split

theorem State.orphan_keeps {s t : State} (l : List Held) (h : Keeps s t) : Keeps s (State.orphan t l) := by
  unfold State.orphan
  try dsimp only
  repeat' first
    | with_reducible apply State.orphanOn_keeps
    | with_reducible apply Keeps.ite
    | with_reducible apply Keeps.forUpTo
    | with_reducible apply Keeps.forEach
    | with_reducible apply Keeps.foldl
    | with_reducible apply Keeps.foldlFst
    | intro _ _ _
    | intro _ _
    | intro _
    | simp only [Keeps.upd_iff]
    | simp only [Keeps.upd_iff, Power.size, Seal.size, Net.size, Time.size, Analog.size, Dio.size, Acq.size, Can.size, Safe.size, Integ.size, Snap.size, modifyAt_length, List.length_map]
    | with_reducible assumption
    | split

theorem State.frameOn_keeps {s t : State} (p : Nat) (h : Keeps s t) : Keeps s (State.frameOn t p) := by
  unfold State.frameOn
  try dsimp only
  repeat' first
    | with_reducible apply State.modNet_keeps
    | with_reducible apply State.orphan_keeps
    | with_reducible apply Keeps.ite
    | with_reducible apply Keeps.forUpTo
    | with_reducible apply Keeps.forEach
    | with_reducible apply Keeps.foldl
    | with_reducible apply Keeps.foldlFst
    | exact fun _ k => k
    | exact fun _ _ => rfl
    | exact fun _ k => by simpa only [Power.size, Seal.size, Net.size, Time.size, Analog.size, Dio.size, Acq.size, Can.size, Safe.size, Integ.size, Snap.size, modifyAt_length, List.length_map] using k
    | intro _ _ _
    | intro _ _
    | intro _
    | simp only [Keeps.upd_iff]
    | simp only [Keeps.upd_iff, Power.size, Seal.size, Net.size, Time.size, Analog.size, Dio.size, Acq.size, Can.size, Safe.size, Integ.size, Snap.size, modifyAt_length, List.length_map]
    | with_reducible assumption
    | split

theorem State.accept_keeps {s t : State} (o : Origin) (letter : Bool) (h : Keeps s t) : Keeps s (State.accept t o letter).1 := by
  unfold State.accept
  try dsimp only
  repeat' first
    | with_reducible apply State.bump_keeps
    | with_reducible apply State.modNet_keeps
    | with_reducible apply State.frameOn_keeps
    | with_reducible apply Keeps.ite
    | with_reducible apply Keeps.forUpTo
    | with_reducible apply Keeps.forEach
    | with_reducible apply Keeps.foldl
    | with_reducible apply Keeps.foldlFst
    | exact fun _ k => k
    | exact fun _ _ => rfl
    | exact fun _ k => by simpa only [Power.size, Seal.size, Net.size, Time.size, Analog.size, Dio.size, Acq.size, Can.size, Safe.size, Integ.size, Snap.size, modifyAt_length, List.length_map] using k
    | intro _ _ _
    | intro _ _
    | intro _
    | simp only [Keeps.upd_iff]
    | simp only [Keeps.upd_iff, Power.size, Seal.size, Net.size, Time.size, Analog.size, Dio.size, Acq.size, Can.size, Safe.size, Integ.size, Snap.size, modifyAt_length, List.length_map]
    | with_reducible assumption
    | split

theorem State.onFrame_keeps {s t : State} (o : Origin) (f : State → State) (hf : ∀ a, Keeps s a → Keeps s (f a))
    (h : Keeps s t) : Keeps s (t.onFrame o f) := by
  have k := State.accept_keeps o false h
  unfold State.onFrame
  revert k
  generalize t.accept o false = x
  obtain ⟨a, b⟩ := x
  intro k
  cases b
  · exact k
  · exact hf a k

end Sys2Proof.Machine
end

