-- ==== Sys2Proof/Laws/KeptBulk.lean ====
section
/-! SUPPORT. What the operations of Machine/Bulk.lean keep. -/

set_option linter.all false

namespace Sys2Proof.Machine

theorem State.bulkData_keeps {s t : State} (o : Origin) (status : Nat) (op : Nat) (unit : Nat) (last : Bool) (pos : Nat) (offset : Nat) (data : List Byte) (h : Keeps s t) : Keeps s (State.bulkData t o status op unit last pos offset data) := by
  unfold State.bulkData
  try dsimp only
  repeat' first
    | with_reducible apply State.reply_keeps
    | with_reducible apply Keeps.ite
    | with_reducible apply Keeps.forUpTo
    | with_reducible apply Keeps.forEach
    | with_reducible apply Keeps.foldl
    | with_reducible apply Keeps.foldlFst
    | intro _ _ _
    | intro _ _
    | intro _
    | simp only [Keeps.upd_iff]
    | simp only [Keeps.upd_iff, Power.size, Seal.size, Net.size, Time.size, Analog.size, Dio.size, Acq.size, Can.size, Safe.size, Integ.size, Snap.size, modifyAt_length, List.length_map]
    | with_reducible assumption
    | split

theorem State.bulkEnd_keeps {s t : State} (b : Bulk) (status : Nat) (h : Keeps s t) : Keeps s (State.bulkEnd t b status) := by
  unfold State.bulkEnd
  try dsimp only
  repeat' first
    | with_reducible apply State.bulkData_keeps
    | with_reducible apply Keeps.ite
    | with_reducible apply Keeps.forUpTo
    | with_reducible apply Keeps.forEach
    | with_reducible apply Keeps.foldl
    | with_reducible apply Keeps.foldlFst
    | intro _ _ _
    | intro _ _
    | intro _
    | simp only [Keeps.upd_iff]
    | simp only [Keeps.upd_iff, Power.size, Seal.size, Net.size, Time.size, Analog.size, Dio.size, Acq.size, Can.size, Safe.size, Integ.size, Snap.size, modifyAt_length, List.length_map]
    | with_reducible assumption
    | split

end Sys2Proof.Machine
end

