-- ==== Sys2Proof/Laws/KeptEvr.lean ====
section
/-! SUPPORT. What the operations of Machine/Evr.lean keep. -/

set_option linter.all false

namespace Sys2Proof.Machine

theorem State.setCursor_keeps {s t : State} (p : Nat) (w : Word) (h : Keeps s t) : Keeps s (State.setCursor t p w) := by
  unfold State.setCursor
  try dsimp only
  repeat' first
    | with_reducible apply Keeps.ite
    | with_reducible apply Keeps.forUpTo
    | with_reducible apply Keeps.forEach
    | with_reducible apply Keeps.foldl
    | with_reducible apply Keeps.foldlFst
    | intro _ _ _
    | intro _ _
    | intro _
    | simp only [Keeps.upd_iff]
    | simp only [Keeps.upd_iff, Power.size, Seal.size, Net.size, Time.size, Analog.size, Dio.size, Acq.size, Can.size, Safe.size, Integ.size, Snap.size, modifyAt_length, List.length_map]
    | with_reducible assumption
    | split

theorem State.winFetch_keeps {s t : State} (p : Nat) (h : Keeps s t) : Keeps s (State.winFetch t p) := by
  unfold State.winFetch
  try dsimp only
  repeat' first
    | with_reducible apply Keeps.ite
    | with_reducible apply Keeps.forUpTo
    | with_reducible apply Keeps.forEach
    | with_reducible apply Keeps.foldl
    | with_reducible apply Keeps.foldlFst
    | intro _ _ _
    | intro _ _
    | intro _
    | simp only [Keeps.upd_iff]
    | simp only [Keeps.upd_iff, Power.size, Seal.size, Net.size, Time.size, Analog.size, Dio.size, Acq.size, Can.size, Safe.size, Integ.size, Snap.size, modifyAt_length, List.length_map]
    | with_reducible assumption
    | split

theorem State.winAdvance_keeps {s t : State} (p : Nat) (h : Keeps s t) : Keeps s (State.winAdvance t p) := by
  unfold State.winAdvance
  try dsimp only
  repeat' first
    | with_reducible apply State.setCursor_keeps
    | with_reducible apply Keeps.ite
    | with_reducible apply Keeps.forUpTo
    | with_reducible apply Keeps.forEach
    | with_reducible apply Keeps.foldl
    | with_reducible apply Keeps.foldlFst
    | intro _ _ _
    | intro _ _
    | intro _
    | simp only [Keeps.upd_iff]
    | simp only [Keeps.upd_iff, Power.size, Seal.size, Net.size, Time.size, Analog.size, Dio.size, Acq.size, Can.size, Safe.size, Integ.size, Snap.size, modifyAt_length, List.length_map]
    | with_reducible assumption
    | split

theorem State.writeCursor_keeps {s t : State} (p : Nat) (w : Word) (h : Keeps s t) : Keeps s (State.writeCursor t p w) := by
  unfold State.writeCursor
  try dsimp only
  repeat' first
    | with_reducible apply State.setCursor_keeps
    | with_reducible apply Keeps.ite
    | with_reducible apply Keeps.forUpTo
    | with_reducible apply Keeps.forEach
    | with_reducible apply Keeps.foldl
    | with_reducible apply Keeps.foldlFst
    | intro _ _ _
    | intro _ _
    | intro _
    | simp only [Keeps.upd_iff]
    | simp only [Keeps.upd_iff, Power.size, Seal.size, Net.size, Time.size, Analog.size, Dio.size, Acq.size, Can.size, Safe.size, Integ.size, Snap.size, modifyAt_length, List.length_map]
    | with_reducible assumption
    | split

theorem State.freeze_keeps {s t : State} (h : Keeps s t) : Keeps s (State.freeze t) := by
  unfold State.freeze
  try dsimp only
  repeat' first
    | with_reducible apply Keeps.ite
    | with_reducible apply Keeps.forUpTo
    | with_reducible apply Keeps.forEach
    | with_reducible apply Keeps.foldl
    | with_reducible apply Keeps.foldlFst
    | intro _ _ _
    | intro _ _
    | intro _
    | simp only [Keeps.upd_iff]
    | simp only [Keeps.upd_iff, Power.size, Seal.size, Net.size, Time.size, Analog.size, Dio.size, Acq.size, Can.size, Safe.size, Integ.size, Snap.size, modifyAt_length, List.length_map]
    | with_reducible assumption
    | split

theorem State.unfreeze_keeps {s t : State} (h : Keeps s t) : Keeps s (State.unfreeze t) := by
  unfold State.unfreeze
  try dsimp only
  repeat' first
    | with_reducible apply Keeps.ite
    | with_reducible apply Keeps.forUpTo
    | with_reducible apply Keeps.forEach
    | with_reducible apply Keeps.foldl
    | with_reducible apply Keeps.foldlFst
    | intro _ _ _
    | intro _ _
    | intro _
    | simp only [Keeps.upd_iff]
    | simp only [Keeps.upd_iff, Power.size, Seal.size, Net.size, Time.size, Analog.size, Dio.size, Acq.size, Can.size, Safe.size, Integ.size, Snap.size, modifyAt_length, List.length_map]
    | with_reducible assumption
    | split

theorem State.writeFrz_keeps {s t : State} (w : Word) (h : Keeps s t) : Keeps s (State.writeFrz t w) := by
  unfold State.writeFrz
  try dsimp only
  repeat' first
    | with_reducible apply State.freeze_keeps
    | with_reducible apply State.unfreeze_keeps
    | with_reducible apply Keeps.ite
    | with_reducible apply Keeps.forUpTo
    | with_reducible apply Keeps.forEach
    | with_reducible apply Keeps.foldl
    | with_reducible apply Keeps.foldlFst
    | intro _ _ _
    | intro _ _
    | intro _
    | simp only [Keeps.upd_iff]
    | simp only [Keeps.upd_iff, Power.size, Seal.size, Net.size, Time.size, Analog.size, Dio.size, Acq.size, Can.size, Safe.size, Integ.size, Snap.size, modifyAt_length, List.length_map]
    | with_reducible assumption
    | split

theorem State.evrAnswer_keeps {s t : State} (b : Bulk) (status : Nat) (h : Keeps s t) : Keeps s (State.evrAnswer t b status) := by
  unfold State.evrAnswer
  try dsimp only
  repeat' first
    | with_reducible apply State.bulkData_keeps
    | with_reducible apply Keeps.ite
    | with_reducible apply Keeps.forUpTo
    | with_reducible apply Keeps.forEach
    | with_reducible apply Keeps.foldl
    | with_reducible apply Keeps.foldlFst
    | intro _ _ _
    | intro _ _
    | intro _
    | simp only [Keeps.upd_iff]
    | simp only [Keeps.upd_iff, Power.size, Seal.size, Net.size, Time.size, Analog.size, Dio.size, Acq.size, Can.size, Safe.size, Integ.size, Snap.size, modifyAt_length, List.length_map]
    | with_reducible assumption
    | split

theorem State.evrSeek_keeps {s t : State} (b : Bulk) (h : Keeps s t) : Keeps s (State.evrSeek t b) := by
  unfold State.evrSeek
  try dsimp only
  repeat' first
    | with_reducible apply State.setCursor_keeps
    | with_reducible apply State.evrAnswer_keeps
    | with_reducible apply Keeps.ite
    | with_reducible apply Keeps.forUpTo
    | with_reducible apply Keeps.forEach
    | with_reducible apply Keeps.foldl
    | with_reducible apply Keeps.foldlFst
    | intro _ _ _
    | intro _ _
    | intro _
    | simp only [Keeps.upd_iff]
    | simp only [Keeps.upd_iff, Power.size, Seal.size, Net.size, Time.size, Analog.size, Dio.size, Acq.size, Can.size, Safe.size, Integ.size, Snap.size, modifyAt_length, List.length_map]
    | with_reducible assumption
    | split

theorem State.evrFreezeNet_keeps {s t : State} (b : Bulk) (op : Nat) (f : State → State) (hf : ∀ a, Keeps s a → Keeps s (f a)) (h : Keeps s t) : Keeps s (State.evrFreezeNet t b op f) := by
  unfold State.evrFreezeNet
  try dsimp only
  repeat' first
    | apply hf
    | with_reducible apply State.evrAnswer_keeps
    | with_reducible apply Keeps.ite
    | with_reducible apply Keeps.forUpTo
    | with_reducible apply Keeps.forEach
    | with_reducible apply Keeps.foldl
    | with_reducible apply Keeps.foldlFst
    | intro _ _ _
    | intro _ _
    | intro _
    | simp only [Keeps.upd_iff]
    | simp only [Keeps.upd_iff, Power.size, Seal.size, Net.size, Time.size, Analog.size, Dio.size, Acq.size, Can.size, Safe.size, Integ.size, Snap.size, modifyAt_length, List.length_map]
    | with_reducible assumption
    | split

theorem State.showBad_keeps {s t : State} (h : Keeps s t) : Keeps s (State.showBad t) := by
  unfold State.showBad
  try dsimp only
  repeat' first
    | with_reducible apply State.setReg_keeps
    | with_reducible apply Keeps.ite
    | with_reducible apply Keeps.forUpTo
    | with_reducible apply Keeps.forEach
    | with_reducible apply Keeps.foldl
    | with_reducible apply Keeps.foldlFst
    | intro _ _ _
    | intro _ _
    | intro _
    | simp only [Keeps.upd_iff]
    | simp only [Keeps.upd_iff, Power.size, Seal.size, Net.size, Time.size, Analog.size, Dio.size, Acq.size, Can.size, Safe.size, Integ.size, Snap.size, modifyAt_length, List.length_map]
    | with_reducible assumption
    | split

theorem State.logWritten_keeps {s t : State} (r : EvRec) (p : Nat) (h : Keeps s t) : Keeps s (t.logWritten r p) := by
  have h1 : Keeps s { t with evr := { t.evr.pop with consecFail := 0, safety := tabInsert t.evr.pop.safety p r, retry := none } } :=
    h.bank (fun e => { e.pop with consecFail := 0, safety := tabInsert e.pop.safety p r, retry := none })
      (fun k => (Evr.pop_main _).symm ▸ k) (fun k => tabInsert_rise ((Evr.pop_safety _).symm ▸ k) (fun _ hx => nomatch hx))
  have h2 : Keeps s { t with evr := { t.evr.pop with
      consecFail := 0, main := tabInsert t.evr.pop.main p r, mainPos := (p + 1) % mainSlots, retry := none } } :=
    h.bank (fun e => { e.pop with consecFail := 0, main := tabInsert e.pop.main p r, mainPos := (p + 1) % mainSlots, retry := none })
      (fun k => tabInsert_rise ((Evr.pop_main _).symm ▸ k) (fun _ hx => nomatch hx)) (fun k => (Evr.pop_safety _).symm ▸ k)
  have h3 := State.bump_keeps R.EVR_WRAPCNT h2
  unfold State.logWritten
  dsimp only
  split
  · exact Keeps.ite h1 (Keeps.ite h3 h2)
  · exact State.announce_keeps _ ((State.takeSeq_keeps (Keeps.ite h1 (Keeps.ite h3 h2))).step rfl rfl rfl rfl id)

theorem State.degrade_keeps {s t : State} (offset : Nat) (h : Keeps s t) : Keeps s (State.degrade t offset) := by
  unfold State.degrade
  try dsimp only
  repeat' first
    | with_reducible apply State.takeSeq_keeps
    | with_reducible apply State.announce_keeps
    | with_reducible apply State.loseRecord_keeps
    | with_reducible apply Keeps.ite
    | with_reducible apply Keeps.forUpTo
    | with_reducible apply Keeps.forEach
    | with_reducible apply Keeps.foldl
    | with_reducible apply Keeps.foldlFst
    | intro _ _ _
    | intro _ _
    | intro _
    | simp only [Keeps.upd_iff]
    | simp only [Keeps.upd_iff, Power.size, Seal.size, Net.size, Time.size, Analog.size, Dio.size, Acq.size, Can.size, Safe.size, Integ.size, Snap.size, modifyAt_length, List.length_map]
    | with_reducible assumption
    | split

theorem State.logFailed_keeps {s t : State} (r : EvRec) (p : Nat) (h : Keeps s t) : Keeps s (t.logFailed r p) := by
  have key : ∀ u : Evr, (tabRise t.evr.main = true → tabRise u.main = true) →
      (tabRise t.evr.safety = true → tabRise u.safety = true) →
      Keeps s (({ t with evr := u } : State).bump R.EVR_MEDIAFAIL).showBad := fun u hm hs =>
    State.showBad_keeps (State.bump_keeps _ (h.bank (fun _ => u) hm hs))
  unfold State.logFailed
  cases isSafetyCode r.code
  · have k := key { t.evr.markRetried with
        consecFail := t.evr.markRetried.consecFail + 1, retry := some ⟨32 * p + 0, t.evr.markRetried.consecFail + 1⟩,
        mainBad := p :: t.evr.markRetried.mainBad, main := tabErase t.evr.markRetried.main p }
      (fun k => tabErase_rise ((Evr.markRetried_main _).symm ▸ k)) (fun k => (Evr.markRetried_safety _).symm ▸ k)
    exact Keeps.ite (State.degrade_keeps _ k) k
  · have k := key { t.evr.markRetried with
        consecFail := t.evr.markRetried.consecFail + 1,
        retry := some ⟨32 * p + safetyBase, t.evr.markRetried.consecFail + 1⟩,
        safetyBad := p :: t.evr.markRetried.safetyBad }
      (fun k => (Evr.markRetried_main _).symm ▸ k) (fun k => (Evr.markRetried_safety _).symm ▸ k)
    exact Keeps.ite (State.degrade_keeps _ k) k

theorem State.logWriteDone_keeps {s t : State} (ok : Bool) (h : Keeps s t) : Keeps s (t.logWriteDone ok) := by
  unfold State.logWriteDone
  refine Keeps.ite h ?_
  split
  · exact h
  · refine Keeps.ite ?_ (Keeps.ite (State.logWritten_keeps _ _ h) (State.logFailed_keeps _ _ h))
    split
    · exact State.loseRecord_keeps _ (h.bank (fun e => { e.pop with retry := none })
        (fun k => (Evr.pop_main _).symm ▸ k) (fun k => (Evr.pop_safety _).symm ▸ k))
    · exact Keeps.ite (State.logWritten_keeps _ _ h) (State.logFailed_keeps _ _ h)

theorem State.counterSave_keeps {s t : State} (h : Keeps s t) : Keeps s t.counterSave := by
  refine h.step rfl rfl rfl rfl fun k => ?_
  simp only [State.wf, State.counterSave, Bool.and_eq_true, beq_iff_eq] at k ⊢
  simp only [Power.size, Seal.size, Net.size, Time.size, Analog.size, Dio.size, Acq.size, Can.size, Safe.size, Integ.size, Snap.size, Prod.mk.injEq, List.length_map] at k ⊢
  simp only [k, and_true, true_and]
  rfl

theorem State.envmDefer_keeps {s t : State} (c : Nat) (h : Keeps s t) : Keeps s (State.envmDefer t c) := by
  unfold State.envmDefer
  try dsimp only
  repeat' first
    | with_reducible apply State.bumpBy_keeps
    | with_reducible apply Keeps.ite
    | with_reducible apply Keeps.forUpTo
    | with_reducible apply Keeps.forEach
    | with_reducible apply Keeps.foldl
    | with_reducible apply Keeps.foldlFst
    | intro _ _ _
    | intro _ _
    | intro _
    | simp only [Keeps.upd_iff]
    | simp only [Keeps.upd_iff, Power.size, Seal.size, Net.size, Time.size, Analog.size, Dio.size, Acq.size, Can.size, Safe.size, Integ.size, Snap.size, modifyAt_length, List.length_map]
    | with_reducible assumption
    | split

theorem State.envmDone_keeps {s t : State} (c : Nat) (h : Keeps s t) : Keeps s (State.envmDone t c) := by
  unfold State.envmDone
  try dsimp only
  repeat' first
    | with_reducible apply State.counterSave_keeps
    | with_reducible apply State.envmDefer_keeps
    | with_reducible apply Keeps.ite
    | with_reducible apply Keeps.forUpTo
    | with_reducible apply Keeps.forEach
    | with_reducible apply Keeps.foldl
    | with_reducible apply Keeps.foldlFst
    | intro _ _ _
    | intro _ _
    | intro _
    | simp only [Keeps.upd_iff]
    | simp only [Keeps.upd_iff, Power.size, Seal.size, Net.size, Time.size, Analog.size, Dio.size, Acq.size, Can.size, Safe.size, Integ.size, Snap.size, modifyAt_length, List.length_map]
    | with_reducible assumption
    | split

theorem State.onMaint_keeps {s t : State} (f : State → State) (hf : Keeps s (f t)) (h : Keeps s t) :
    Keeps s (t.onMaint f) := Keeps.ite hf h

end Sys2Proof.Machine
end

