-- ==== Sys2Proof/Laws/KeptImage.lean ====
section
/-! SUPPORT. What the operations of Machine/Image.lean keep. -/

set_option linter.all false

namespace Sys2Proof.Machine

theorem State.setImage_keeps {s t : State} (ws : List (Nat × Nat × Word)) (h : Keeps s t) : Keeps s (State.setImage t ws) := by
  unfold State.setImage
  try dsimp only
  repeat' first
    | with_reducible apply State.setReg_keeps
    | with_reducible apply Keeps.ite
    | with_reducible apply Keeps.forUpTo
    | with_reducible apply Keeps.forEach
    | with_reducible apply Keeps.foldl
    | with_reducible apply Keeps.foldlFst
    | intro _ _ _
    | intro _ _
    | intro _
    | simp only [Keeps.upd_iff]
    | simp only [Keeps.upd_iff, Power.size, Seal.size, Net.size, Time.size, Analog.size, Dio.size, Acq.size, Can.size, Safe.size, Integ.size, Snap.size, modifyAt_length, List.length_map]
    | with_reducible assumption
    | split

end Sys2Proof.Machine
end

