-- ==== Sys2Proof/Laws/KeptAnalog.lean ====
section
/-! SUPPORT. What the operations of Machine/Analog.lean keep. -/

set_option linter.all false

namespace Sys2Proof.Machine

theorem State.modCore_keeps {s t : State} (c : Nat) (f : AdcCore → AdcCore) (h : Keeps s t) : Keeps s (State.modCore t c f) := by
  unfold State.modCore
  try dsimp only
  repeat' first
    | with_reducible apply Keeps.ite
    | with_reducible apply Keeps.forUpTo
    | with_reducible apply Keeps.forEach
    | with_reducible apply Keeps.foldl
    | with_reducible apply Keeps.foldlFst
    | intro _ _ _
    | intro _ _
    | intro _
    | simp only [Keeps.upd_iff]
    | simp only [Keeps.upd_iff, Power.size, Seal.size, Net.size, Time.size, Analog.size, Dio.size, Acq.size, Can.size, Safe.size, Integ.size, Snap.size, modifyAt_length, List.length_map]
    | with_reducible assumption
    | split

theorem State.adcStart_keeps {s t : State} (c : Nat) (h : Keeps s t) : Keeps s (State.adcStart t c) := by
  unfold State.adcStart
  try dsimp only
  repeat' first
    | with_reducible apply State.modCore_keeps
    | with_reducible apply State.bump_keeps
    | with_reducible apply State.raiseCounted_keeps
    | with_reducible apply Keeps.ite
    | with_reducible apply Keeps.forUpTo
    | with_reducible apply Keeps.forEach
    | with_reducible apply Keeps.foldl
    | with_reducible apply Keeps.foldlFst
    | intro _ _ _
    | intro _ _
    | intro _
    | simp only [Keeps.upd_iff]
    | simp only [Keeps.upd_iff, Power.size, Seal.size, Net.size, Time.size, Analog.size, Dio.size, Acq.size, Can.size, Safe.size, Integ.size, Snap.size, modifyAt_length, List.length_map]
    | with_reducible assumption
    | split

theorem State.adcDefer_keeps {s t : State} (c : Nat) (lag : Nat) (h : Keeps s t) : Keeps s (State.adcDefer t c lag) := by
  unfold State.adcDefer
  try dsimp only
  repeat' first
    | with_reducible apply State.modCore_keeps
    | with_reducible apply Keeps.ite
    | with_reducible apply Keeps.forUpTo
    | with_reducible apply Keeps.forEach
    | with_reducible apply Keeps.foldl
    | with_reducible apply Keeps.foldlFst
    | intro _ _ _
    | intro _ _
    | intro _
    | simp only [Keeps.upd_iff]
    | simp only [Keeps.upd_iff, Power.size, Seal.size, Net.size, Time.size, Analog.size, Dio.size, Acq.size, Can.size, Safe.size, Integ.size, Snap.size, modifyAt_length, List.length_map]
    | with_reducible assumption
    | split

theorem State.adcResult_keeps {s t : State} (c : Nat) (code : Int) (h : Keeps s t) : Keeps s (State.adcResult t c code).1 := by
  unfold State.adcResult
  try dsimp only
  repeat' first
    | with_reducible apply State.modCore_keeps
    | with_reducible apply State.setReg_keeps
    | with_reducible apply State.bump_keeps
    | with_reducible apply State.stageVia_keeps
    | with_reducible apply Keeps.ite
    | with_reducible apply Keeps.forUpTo
    | with_reducible apply Keeps.forEach
    | with_reducible apply Keeps.foldl
    | with_reducible apply Keeps.foldlFst
    | intro _ _ _
    | intro _ _
    | intro _
    | simp only [Keeps.upd_iff]
    | simp only [Keeps.upd_iff, Power.size, Seal.size, Net.size, Time.size, Analog.size, Dio.size, Acq.size, Can.size, Safe.size, Integ.size, Snap.size, modifyAt_length, List.length_map]
    | with_reducible assumption
    | split

theorem State.adcDiscard_keeps {s t : State} (h : Keeps s t) : Keeps s (State.adcDiscard t) := by
  unfold State.adcDiscard
  try dsimp only
  repeat' first
    | with_reducible apply Keeps.ite
    | with_reducible apply Keeps.forUpTo
    | with_reducible apply Keeps.forEach
    | with_reducible apply Keeps.foldl
    | with_reducible apply Keeps.foldlFst
    | intro _ _ _
    | intro _ _
    | intro _
    | simp only [Keeps.upd_iff]
    | simp only [Keeps.upd_iff, Power.size, Seal.size, Net.size, Time.size, Analog.size, Dio.size, Acq.size, Can.size, Safe.size, Integ.size, Snap.size, modifyAt_length, List.length_map]
    | with_reducible assumption
    | split

theorem State.timerFire_keeps {s t : State} (n : Nat) (h : Keeps s t) : Keeps s (State.timerFire t n) := by
  unfold State.timerFire
  try dsimp only
  repeat' first
    | with_reducible apply State.adcStart_keeps
    | with_reducible apply State.atEdge_keeps
    | with_reducible apply Keeps.ite
    | with_reducible apply Keeps.forUpTo
    | with_reducible apply Keeps.forEach
    | with_reducible apply Keeps.foldl
    | with_reducible apply Keeps.foldlFst
    | intro _ _ _
    | intro _ _
    | intro _
    | simp only [Keeps.upd_iff]
    | simp only [Keeps.upd_iff, Power.size, Seal.size, Net.size, Time.size, Analog.size, Dio.size, Acq.size, Can.size, Safe.size, Integ.size, Snap.size, modifyAt_length, List.length_map]
    | with_reducible assumption
    | split

theorem State.pwmStarts_keeps {s t : State} (d : Nat) (edge : Nat) (h : Keeps s t) : Keeps s (State.pwmStarts t d edge) := by
  unfold State.pwmStarts
  try dsimp only
  repeat' first
    | with_reducible apply State.adcStart_keeps
    | with_reducible apply Keeps.ite
    | with_reducible apply Keeps.forUpTo
    | with_reducible apply Keeps.forEach
    | with_reducible apply Keeps.foldl
    | with_reducible apply Keeps.foldlFst
    | intro _ _ _
    | intro _ _
    | intro _
    | simp only [Keeps.upd_iff]
    | simp only [Keeps.upd_iff, Power.size, Seal.size, Net.size, Time.size, Analog.size, Dio.size, Acq.size, Can.size, Safe.size, Integ.size, Snap.size, modifyAt_length, List.length_map]
    | with_reducible assumption
    | split

theorem State.dacDrive_keeps {s t : State} (ch : Nat) (x : F32) (h : Keeps s t) : Keeps s (State.dacDrive t ch x) := by
  unfold State.dacDrive
  try dsimp only
  repeat' first
    | with_reducible apply State.setReg_keeps
    | with_reducible apply State.orReg_keeps
    | with_reducible apply State.raiseLimited_keeps
    | with_reducible apply Keeps.ite
    | with_reducible apply Keeps.forUpTo
    | with_reducible apply Keeps.forEach
    | with_reducible apply Keeps.foldl
    | with_reducible apply Keeps.foldlFst
    | intro _ _ _
    | intro _ _
    | intro _
    | simp only [Keeps.upd_iff]
    | simp only [Keeps.upd_iff, Power.size, Seal.size, Net.size, Time.size, Analog.size, Dio.size, Acq.size, Can.size, Safe.size, Integ.size, Snap.size, modifyAt_length, List.length_map]
    | with_reducible assumption
    | split

theorem State.dacHeld_keeps {s t : State} (ch : Nat) (h : Keeps s t) : Keeps s (State.dacHeld t ch) := by
  unfold State.dacHeld
  try dsimp only
  repeat' first
    | with_reducible apply State.setReg_keeps
    | with_reducible apply Keeps.ite
    | with_reducible apply Keeps.forUpTo
    | with_reducible apply Keeps.forEach
    | with_reducible apply Keeps.foldl
    | with_reducible apply Keeps.foldlFst
    | intro _ _ _
    | intro _ _
    | intro _
    | simp only [Keeps.upd_iff]
    | simp only [Keeps.upd_iff, Power.size, Seal.size, Net.size, Time.size, Analog.size, Dio.size, Acq.size, Can.size, Safe.size, Integ.size, Snap.size, modifyAt_length, List.length_map]
    | with_reducible assumption
    | split

theorem State.dacHold_keeps {s t : State} (h : Keeps s t) : Keeps s (State.dacHold t) := by
  unfold State.dacHold
  try dsimp only
  repeat' first
    | with_reducible apply Keeps.ite
    | with_reducible apply Keeps.forUpTo
    | with_reducible apply Keeps.forEach
    | with_reducible apply Keeps.foldl
    | with_reducible apply Keeps.foldlFst
    | intro _ _ _
    | intro _ _
    | intro _
    | simp only [Keeps.upd_iff]
    | simp only [Keeps.upd_iff, Power.size, Seal.size, Net.size, Time.size, Analog.size, Dio.size, Acq.size, Can.size, Safe.size, Integ.size, Snap.size, modifyAt_length, List.length_map]
    | with_reducible assumption
    | split

theorem State.dacUpdate_keeps {s t : State} (ch : Nat) (h : Keeps s t) : Keeps s (State.dacUpdate t ch) := by
  unfold State.dacUpdate
  try dsimp only
  repeat' first
    | with_reducible apply State.dacDrive_keeps
    | with_reducible apply State.dacHeld_keeps
    | with_reducible apply State.setReg_keeps
    | with_reducible apply State.putFld_keeps
    | with_reducible apply Keeps.ite
    | with_reducible apply Keeps.forUpTo
    | with_reducible apply Keeps.forEach
    | with_reducible apply Keeps.foldl
    | with_reducible apply Keeps.foldlFst
    | intro _ _ _
    | intro _ _
    | intro _
    | simp only [Keeps.upd_iff]
    | simp only [Keeps.upd_iff, Power.size, Seal.size, Net.size, Time.size, Analog.size, Dio.size, Acq.size, Can.size, Safe.size, Integ.size, Snap.size, modifyAt_length, List.length_map]
    | with_reducible assumption
    | split

theorem State.dacAll_keeps {s t : State} (h : Keeps s t) : Keeps s (State.dacAll t) := by
  unfold State.dacAll
  try dsimp only
  repeat' first
    | with_reducible apply State.dacUpdate_keeps
    | with_reducible apply Keeps.ite
    | with_reducible apply Keeps.forUpTo
    | with_reducible apply Keeps.forEach
    | with_reducible apply Keeps.foldl
    | with_reducible apply Keeps.foldlFst
    | intro _ _ _
    | intro _ _
    | intro _
    | simp only [Keeps.upd_iff]
    | simp only [Keeps.upd_iff, Power.size, Seal.size, Net.size, Time.size, Analog.size, Dio.size, Acq.size, Can.size, Safe.size, Integ.size, Snap.size, modifyAt_length, List.length_map]
    | with_reducible assumption
    | split

theorem State.dacMoved_keeps {s t : State} (h : Keeps s t) : Keeps s (State.dacMoved t) := by
  unfold State.dacMoved
  try dsimp only
  repeat' first
    | with_reducible apply State.dacUpdate_keeps
    | with_reducible apply Keeps.ite
    | with_reducible apply Keeps.forUpTo
    | with_reducible apply Keeps.forEach
    | with_reducible apply Keeps.foldl
    | with_reducible apply Keeps.foldlFst
    | intro _ _ _
    | intro _ _
    | intro _
    | simp only [Keeps.upd_iff]
    | simp only [Keeps.upd_iff, Power.size, Seal.size, Net.size, Time.size, Analog.size, Dio.size, Acq.size, Can.size, Safe.size, Integ.size, Snap.size, modifyAt_length, List.length_map]
    | with_reducible assumption
    | split

theorem State.calSave_keeps {s t : State} (ws : List (Nat × Word)) (h : Keeps s t) : Keeps s (State.calSave t ws) := by
  unfold State.calSave
  try dsimp only
  repeat' first
    | with_reducible apply Keeps.ite
    | with_reducible apply Keeps.forUpTo
    | with_reducible apply Keeps.forEach
    | with_reducible apply Keeps.foldl
    | with_reducible apply Keeps.foldlFst
    | intro _ _ _
    | intro _ _
    | intro _
    | simp only [Keeps.upd_iff]
    | simp only [Keeps.upd_iff, Power.size, Seal.size, Net.size, Time.size, Analog.size, Dio.size, Acq.size, Can.size, Safe.size, Integ.size, Snap.size, modifyAt_length, List.length_map]
    | with_reducible assumption
    | split

theorem State.calibrate_keeps {s t : State} (items : List CalItem) (seq : Nat) (h : Keeps s t) : Keeps s (State.calibrate t items seq) := by
  unfold State.calibrate
  try dsimp only
  repeat' first
    | with_reducible apply State.calSave_keeps
    | with_reducible apply State.setReg_keeps
    | with_reducible apply State.orReg_keeps
    | with_reducible apply Keeps.ite
    | with_reducible apply Keeps.forUpTo
    | with_reducible apply Keeps.forEach
    | with_reducible apply Keeps.foldl
    | with_reducible apply Keeps.foldlFst
    | intro _ _ _
    | intro _ _
    | intro _
    | simp only [Keeps.upd_iff]
    | simp only [Keeps.upd_iff, Power.size, Seal.size, Net.size, Time.size, Analog.size, Dio.size, Acq.size, Can.size, Safe.size, Integ.size, Snap.size, modifyAt_length, List.length_map]
    | with_reducible assumption
    | split

theorem State.calSource_keeps {s t : State} (a : Nat) (h : Keeps s t) : Keeps s (State.calSource t a) := by
  unfold State.calSource
  try dsimp only
  repeat' first
    | with_reducible apply State.orReg_keeps
    | with_reducible apply Keeps.ite
    | with_reducible apply Keeps.forUpTo
    | with_reducible apply Keeps.forEach
    | with_reducible apply Keeps.foldl
    | with_reducible apply Keeps.foldlFst
    | intro _ _ _
    | intro _ _
    | intro _
    | simp only [Keeps.upd_iff]
    | simp only [Keeps.upd_iff, Power.size, Seal.size, Net.size, Time.size, Analog.size, Dio.size, Acq.size, Can.size, Safe.size, Integ.size, Snap.size, modifyAt_length, List.length_map]
    | with_reducible assumption
    | split

theorem State.putEnvm_keeps {s t : State} (l : List (Nat × Word)) (h : Keeps s t) : Keeps s (t.putEnvm l) := by
  refine h.step rfl rfl rfl rfl fun k => ?_
  simp only [State.wf, State.putEnvm, Bool.and_eq_true] at k ⊢
  simp only [k, and_true, true_and]
  exact tabSetMany_wf (by simp only [k])

theorem State.calWriteDone_keeps {s t : State} (ok : Bool) (h : Keeps s t) : Keeps s (State.calWriteDone t ok) := by
  unfold State.calWriteDone
  try dsimp only
  repeat' first
    | with_reducible apply State.calSource_keeps
    | with_reducible apply State.putEnvm_keeps
    | with_reducible apply State.bump_keeps
    | with_reducible apply State.orReg_keeps
    | with_reducible apply State.clrReg_keeps
    | with_reducible apply State.raise_keeps
    | with_reducible apply Keeps.ite
    | with_reducible apply Keeps.forUpTo
    | with_reducible apply Keeps.forEach
    | with_reducible apply Keeps.foldl
    | with_reducible apply Keeps.foldlFst
    | intro _ _ _
    | intro _ _
    | intro _
    | simp only [Keeps.upd_iff]
    | simp only [Keeps.upd_iff, Power.size, Seal.size, Net.size, Time.size, Analog.size, Dio.size, Acq.size, Can.size, Safe.size, Integ.size, Snap.size, modifyAt_length, List.length_map]
    | with_reducible assumption
    | split

theorem State.calCold_keeps {s t : State} (h : Keeps s t) : Keeps s t.calCold := by
  unfold State.calCold
  refine Keeps.foldl (fun a x ha => State.setReg_keeps _ _ ha) (h.step rfl rfl rfl rfl fun k => ?_)
  simp only [State.wf, Bool.and_eq_true, beq_iff_eq] at k ⊢
  simp only [k, and_true]
  exact ⟨trivial, rfl⟩

theorem State.loadAnalog_keeps {s t : State} (h : Keeps s t) : Keeps s t.loadAnalog := by
  have k : Keeps s ({ t with ana := { t.ana with cores := List.replicate 16 {} } } : State) := by
    refine h.step rfl rfl rfl rfl fun k => ?_
    simp only [State.wf, Bool.and_eq_true, beq_iff_eq] at k ⊢
    simp only [k, and_true]
    exact ⟨trivial, rfl⟩
  unfold State.loadAnalog
  dsimp only
  refine Keeps.forUpTo (fun c a ha => ?_) k
  have g := State.setReg_keeps (R.ADC_LATECNT c) 0 (State.setReg_keeps (R.ADC_MISSED c) 0
    (State.setReg_keeps (R.ADC_STARTS c) 0 ha))
  exact Keeps.ite (State.setReg_keeps _ _ (Keeps.forUpTo (fun i b hb => State.setReg_keeps _ _ hb) g))
    (Keeps.forUpTo (fun i b hb => State.setReg_keeps _ _ hb) g)

end Sys2Proof.Machine
end

