-- ==== Sys2Proof/Laws/KeptTime.lean ====
section
/-! SUPPORT. What the operations of Machine/Time.lean keep. -/

set_option linter.all false

namespace Sys2Proof.Machine

theorem State.modTime_keeps {s t : State} (f : Time → Time) (hf : ∀ x, x.size = (4, 4) → (f x).size = (4, 4)) (h : Keeps s t) :
    Keeps s (t.modTime f) := by
  refine h.step rfl rfl rfl rfl fun k => ?_
  simp only [State.wf, State.modTime, Bool.and_eq_true, beq_iff_eq] at k ⊢
  simp only [k, and_true, true_and]
  exact hf _ (by simp only [k])

theorem State.timeFlag_keeps {s t : State} (i : Nat) (b : Bool) (h : Keeps s t) : Keeps s (State.timeFlag t i b) := by
  unfold State.timeFlag
  try dsimp only
  repeat' first
    | with_reducible apply State.putFld_keeps
    | with_reducible apply Keeps.ite
    | with_reducible apply Keeps.forUpTo
    | with_reducible apply Keeps.forEach
    | with_reducible apply Keeps.foldl
    | with_reducible apply Keeps.foldlFst
    | intro _ _ _
    | intro _ _
    | intro _
    | simp only [Keeps.upd_iff]
    | simp only [Keeps.upd_iff, Power.size, Seal.size, Net.size, Time.size, Analog.size, Dio.size, Acq.size, Can.size, Safe.size, Integ.size, Snap.size, modifyAt_length, List.length_map]
    | with_reducible assumption
    | split

theorem State.rebase_keeps {s t : State} (h : Keeps s t) : Keeps s (State.rebase t) := by
  unfold State.rebase
  try dsimp only
  repeat' first
    | with_reducible apply State.modTime_keeps
    | with_reducible apply Keeps.ite
    | with_reducible apply Keeps.forUpTo
    | with_reducible apply Keeps.forEach
    | with_reducible apply Keeps.foldl
    | with_reducible apply Keeps.foldlFst
    | exact fun _ k => k
    | exact fun _ _ => rfl
    | exact fun _ k => by simpa only [Power.size, Seal.size, Net.size, Time.size, Analog.size, Dio.size, Acq.size, Can.size, Safe.size, Integ.size, Snap.size, modifyAt_length, List.length_map] using k
    | intro _ _ _
    | intro _ _
    | intro _
    | simp only [Keeps.upd_iff]
    | simp only [Keeps.upd_iff, Power.size, Seal.size, Net.size, Time.size, Analog.size, Dio.size, Acq.size, Can.size, Safe.size, Integ.size, Snap.size, modifyAt_length, List.length_map]
    | with_reducible assumption
    | split

theorem State.setRate_keeps {s t : State} (r : F64) (h : Keeps s t) : Keeps s (State.setRate t r) := by
  unfold State.setRate
  try dsimp only
  repeat' first
    | with_reducible apply State.setReg_keeps
    | with_reducible apply State.modTime_keeps
    | with_reducible apply State.rebase_keeps
    | with_reducible apply Keeps.ite
    | with_reducible apply Keeps.forUpTo
    | with_reducible apply Keeps.forEach
    | with_reducible apply Keeps.foldl
    | with_reducible apply Keeps.foldlFst
    | exact fun _ k => k
    | exact fun _ _ => rfl
    | exact fun _ k => by simpa only [Power.size, Seal.size, Net.size, Time.size, Analog.size, Dio.size, Acq.size, Can.size, Safe.size, Integ.size, Snap.size, modifyAt_length, List.length_map] using k
    | intro _ _ _
    | intro _ _
    | intro _
    | simp only [Keeps.upd_iff]
    | simp only [Keeps.upd_iff, Power.size, Seal.size, Net.size, Time.size, Analog.size, Dio.size, Acq.size, Can.size, Safe.size, Integ.size, Snap.size, modifyAt_length, List.length_map]
    | with_reducible assumption
    | split

theorem State.timeMark_keeps {s t : State} (h : Keeps s t) : Keeps s (State.timeMark t) := by
  unfold State.timeMark
  try dsimp only
  repeat' first
    | with_reducible apply State.raise_keeps
    | with_reducible apply Keeps.ite
    | with_reducible apply Keeps.forUpTo
    | with_reducible apply Keeps.forEach
    | with_reducible apply Keeps.foldl
    | with_reducible apply Keeps.foldlFst
    | intro _ _ _
    | intro _ _
    | intro _
    | simp only [Keeps.upd_iff]
    | simp only [Keeps.upd_iff, Power.size, Seal.size, Net.size, Time.size, Analog.size, Dio.size, Acq.size, Can.size, Safe.size, Integ.size, Snap.size, modifyAt_length, List.length_map]
    | with_reducible assumption
    | split

theorem State.modTpo_keeps {s t : State} (n : Nat) (f : Tpo → Tpo) (h : Keeps s t) : Keeps s (State.modTpo t n f) := by
  unfold State.modTpo
  try dsimp only
  repeat' first
    | with_reducible apply State.modTime_keeps
    | with_reducible apply Keeps.ite
    | with_reducible apply Keeps.forUpTo
    | with_reducible apply Keeps.forEach
    | with_reducible apply Keeps.foldl
    | with_reducible apply Keeps.foldlFst
    | exact fun _ k => k
    | exact fun _ _ => rfl
    | exact fun _ k => by simpa only [Power.size, Seal.size, Net.size, Time.size, Analog.size, Dio.size, Acq.size, Can.size, Safe.size, Integ.size, Snap.size, modifyAt_length, List.length_map] using k
    | intro _ _ _
    | intro _ _
    | intro _
    | simp only [Keeps.upd_iff]
    | simp only [Keeps.upd_iff, Power.size, Seal.size, Net.size, Time.size, Analog.size, Dio.size, Acq.size, Can.size, Safe.size, Integ.size, Snap.size, modifyAt_length, List.length_map]
    | with_reducible assumption
    | split

theorem State.disarm_keeps {s t : State} (n : Nat) (h : Keeps s t) : Keeps s (State.disarm t n) := by
  unfold State.disarm
  try dsimp only
  repeat' first
    | with_reducible apply State.clrReg_keeps
    | with_reducible apply Keeps.ite
    | with_reducible apply Keeps.forUpTo
    | with_reducible apply Keeps.forEach
    | with_reducible apply Keeps.foldl
    | with_reducible apply Keeps.foldlFst
    | intro _ _ _
    | intro _ _
    | intro _
    | simp only [Keeps.upd_iff]
    | simp only [Keeps.upd_iff, Power.size, Seal.size, Net.size, Time.size, Analog.size, Dio.size, Acq.size, Can.size, Safe.size, Integ.size, Snap.size, modifyAt_length, List.length_map]
    | with_reducible assumption
    | split

theorem State.writeTpoCtrl_keeps {s t : State} (n : Nat) (w : Word) (h : Keeps s t) : Keeps s (State.writeTpoCtrl t n w) := by
  unfold State.writeTpoCtrl
  try dsimp only
  repeat' first
    | with_reducible apply State.setReg_keeps
    | with_reducible apply State.orReg_keeps
    | with_reducible apply State.clrReg_keeps
    | with_reducible apply State.modTpo_keeps
    | with_reducible apply State.disarm_keeps
    | with_reducible apply Keeps.ite
    | with_reducible apply Keeps.forUpTo
    | with_reducible apply Keeps.forEach
    | with_reducible apply Keeps.foldl
    | with_reducible apply Keeps.foldlFst
    | intro _ _ _
    | intro _ _
    | intro _
    | simp only [Keeps.upd_iff]
    | simp only [Keeps.upd_iff, Power.size, Seal.size, Net.size, Time.size, Analog.size, Dio.size, Acq.size, Can.size, Safe.size, Integ.size, Snap.size, modifyAt_length, List.length_map]
    | with_reducible assumption
    | split

theorem State.tpoAfterStep_keeps {s t : State} (d : Int) (n : Nat) (h : Keeps s t) : Keeps s (State.tpoAfterStep t d n) := by
  unfold State.tpoAfterStep
  try dsimp only
  repeat' first
    | with_reducible apply State.orReg_keeps
    | with_reducible apply State.modTpo_keeps
    | with_reducible apply State.disarm_keeps
    | with_reducible apply Keeps.ite
    | with_reducible apply Keeps.forUpTo
    | with_reducible apply Keeps.forEach
    | with_reducible apply Keeps.foldl
    | with_reducible apply Keeps.foldlFst
    | intro _ _ _
    | intro _ _
    | intro _
    | simp only [Keeps.upd_iff]
    | simp only [Keeps.upd_iff, Power.size, Seal.size, Net.size, Time.size, Analog.size, Dio.size, Acq.size, Can.size, Safe.size, Integ.size, Snap.size, modifyAt_length, List.length_map]
    | with_reducible assumption
    | split

theorem State.tpoPulse_keeps {s t : State} (n : Nat) (h : Keeps s t) : Keeps s (State.tpoPulse t n) := by
  unfold State.tpoPulse
  try dsimp only
  repeat' first
    | with_reducible apply State.bump_keeps
    | with_reducible apply State.orReg_keeps
    | with_reducible apply State.modTpo_keeps
    | with_reducible apply Keeps.ite
    | with_reducible apply Keeps.forUpTo
    | with_reducible apply Keeps.forEach
    | with_reducible apply Keeps.foldl
    | with_reducible apply Keeps.foldlFst
    | intro _ _ _
    | intro _ _
    | intro _
    | simp only [Keeps.upd_iff]
    | simp only [Keeps.upd_iff, Power.size, Seal.size, Net.size, Time.size, Analog.size, Dio.size, Acq.size, Can.size, Safe.size, Integ.size, Snap.size, modifyAt_length, List.length_map]
    | with_reducible assumption
    | split

theorem State.tpoEnd_keeps {s t : State} (n : Nat) (h : Keeps s t) : Keeps s (State.tpoEnd t n) := by
  unfold State.tpoEnd
  try dsimp only
  repeat' first
    | with_reducible apply State.clrReg_keeps
    | with_reducible apply State.modTpo_keeps
    | with_reducible apply State.disarm_keeps
    | with_reducible apply Keeps.ite
    | with_reducible apply Keeps.forUpTo
    | with_reducible apply Keeps.forEach
    | with_reducible apply Keeps.foldl
    | with_reducible apply Keeps.foldlFst
    | intro _ _ _
    | intro _ _
    | intro _
    | simp only [Keeps.upd_iff]
    | simp only [Keeps.upd_iff, Power.size, Seal.size, Net.size, Time.size, Analog.size, Dio.size, Acq.size, Can.size, Safe.size, Integ.size, Snap.size, modifyAt_length, List.length_map]
    | with_reducible assumption
    | split

theorem State.timeStep_keeps {s t : State} (d : Int) (h : Keeps s t) : Keeps s (State.timeStep t d) := by
  unfold State.timeStep
  try dsimp only
  repeat' first
    | with_reducible apply State.bump_keeps
    | with_reducible apply State.raise_keeps
    | with_reducible apply State.modTime_keeps
    | with_reducible apply State.timeFlag_keeps
    | with_reducible apply State.rebase_keeps
    | with_reducible apply State.timeMark_keeps
    | with_reducible apply State.tpoAfterStep_keeps
    | with_reducible apply Keeps.ite
    | with_reducible apply Keeps.forUpTo
    | with_reducible apply Keeps.forEach
    | with_reducible apply Keeps.foldl
    | with_reducible apply Keeps.foldlFst
    | exact fun _ k => k
    | exact fun _ _ => rfl
    | exact fun _ k => by simpa only [Power.size, Seal.size, Net.size, Time.size, Analog.size, Dio.size, Acq.size, Can.size, Safe.size, Integ.size, Snap.size, modifyAt_length, List.length_map] using k
    | intro _ _ _
    | intro _ _
    | intro _
    | simp only [Keeps.upd_iff]
    | simp only [Keeps.upd_iff, Power.size, Seal.size, Net.size, Time.size, Analog.size, Dio.size, Acq.size, Can.size, Safe.size, Integ.size, Snap.size, modifyAt_length, List.length_map]
    | with_reducible assumption
    | split

theorem State.servo_keeps {s t : State} (o : Int) (h : Keeps s t) : Keeps s (State.servo t o) := by
  unfold State.servo
  try dsimp only
  repeat' first
    | with_reducible apply State.setReg_keeps
    | with_reducible apply State.raise_keeps
    | with_reducible apply State.modTime_keeps
    | with_reducible apply State.timeFlag_keeps
    | with_reducible apply State.setRate_keeps
    | with_reducible apply State.timeStep_keeps
    | with_reducible apply Keeps.ite
    | with_reducible apply Keeps.forUpTo
    | with_reducible apply Keeps.forEach
    | with_reducible apply Keeps.foldl
    | with_reducible apply Keeps.foldlFst
    | exact fun _ k => k
    | exact fun _ _ => rfl
    | exact fun _ k => by simpa only [Power.size, Seal.size, Net.size, Time.size, Analog.size, Dio.size, Acq.size, Can.size, Safe.size, Integ.size, Snap.size, modifyAt_length, List.length_map] using k
    | intro _ _ _
    | intro _ _
    | intro _
    | simp only [Keeps.upd_iff]
    | simp only [Keeps.upd_iff, Power.size, Seal.size, Net.size, Time.size, Analog.size, Dio.size, Acq.size, Can.size, Safe.size, Integ.size, Snap.size, modifyAt_length, List.length_map]
    | with_reducible assumption
    | split

theorem State.sendPtp_keeps {s t : State} (i : Nat) (kind : Nat) (seq : Nat) (fields : List Int) (h : Keeps s t) : Keeps s (State.sendPtp t i kind seq fields) := by
  unfold State.sendPtp
  try dsimp only
  repeat' first
    | with_reducible apply State.bump_keeps
    | with_reducible apply State.emit_keeps
    | with_reducible apply Keeps.ite
    | with_reducible apply Keeps.forUpTo
    | with_reducible apply Keeps.forEach
    | with_reducible apply Keeps.foldl
    | with_reducible apply Keeps.foldlFst
    | intro _ _ _
    | intro _ _
    | intro _
    | simp only [Keeps.upd_iff]
    | simp only [Keeps.upd_iff, Power.size, Seal.size, Net.size, Time.size, Analog.size, Dio.size, Acq.size, Can.size, Safe.size, Integ.size, Snap.size, modifyAt_length, List.length_map]
    | with_reducible assumption
    | split

theorem State.ptpArrive_keeps {s t : State} (h : Keeps s t) : Keeps s (State.ptpArrive t) := by
  unfold State.ptpArrive
  try dsimp only
  repeat' first
    | with_reducible apply State.frameOn_keeps
    | with_reducible apply Keeps.ite
    | with_reducible apply Keeps.forUpTo
    | with_reducible apply Keeps.forEach
    | with_reducible apply Keeps.foldl
    | with_reducible apply Keeps.foldlFst
    | intro _ _ _
    | intro _ _
    | intro _
    | simp only [Keeps.upd_iff]
    | simp only [Keeps.upd_iff, Power.size, Seal.size, Net.size, Time.size, Analog.size, Dio.size, Acq.size, Can.size, Safe.size, Integ.size, Snap.size, modifyAt_length, List.length_map]
    | with_reducible assumption
    | split

theorem State.timeStart_keeps {s t : State} (h : Keeps s t) : Keeps s (State.timeStart t) := by
  unfold State.timeStart
  try dsimp only
  repeat' first
    | with_reducible apply State.modTime_keeps
    | with_reducible apply Keeps.ite
    | with_reducible apply Keeps.forUpTo
    | with_reducible apply Keeps.forEach
    | with_reducible apply Keeps.foldl
    | with_reducible apply Keeps.foldlFst
    | exact fun _ k => k
    | exact fun _ _ => rfl
    | exact fun _ k => by simpa only [Power.size, Seal.size, Net.size, Time.size, Analog.size, Dio.size, Acq.size, Can.size, Safe.size, Integ.size, Snap.size, modifyAt_length, List.length_map] using k
    | intro _ _ _
    | intro _ _
    | intro _
    | simp only [Keeps.upd_iff]
    | simp only [Keeps.upd_iff, Power.size, Seal.size, Net.size, Time.size, Analog.size, Dio.size, Acq.size, Can.size, Safe.size, Integ.size, Snap.size, modifyAt_length, List.length_map]
    | with_reducible assumption
    | split

theorem State.ptpDiscard_keeps {s t : State} (h : Keeps s t) : Keeps s (State.ptpDiscard t) := by
  unfold State.ptpDiscard
  try dsimp only
  repeat' first
    | with_reducible apply State.bump_keeps
    | with_reducible apply Keeps.ite
    | with_reducible apply Keeps.forUpTo
    | with_reducible apply Keeps.forEach
    | with_reducible apply Keeps.foldl
    | with_reducible apply Keeps.foldlFst
    | intro _ _ _
    | intro _ _
    | intro _
    | simp only [Keeps.upd_iff]
    | simp only [Keeps.upd_iff, Power.size, Seal.size, Net.size, Time.size, Analog.size, Dio.size, Acq.size, Can.size, Safe.size, Integ.size, Snap.size, modifyAt_length, List.length_map]
    | with_reducible assumption
    | split

theorem State.syncComplete_keeps {s t : State} (t1 : Int) (t2 : Int) (corr : Int) (h : Keeps s t) : Keeps s (State.syncComplete t t1 t2 corr) := by
  unfold State.syncComplete
  try dsimp only
  repeat' first
    | with_reducible apply State.modTime_keeps
    | with_reducible apply State.servo_keeps
    | with_reducible apply Keeps.ite
    | with_reducible apply Keeps.forUpTo
    | with_reducible apply Keeps.forEach
    | with_reducible apply Keeps.foldl
    | with_reducible apply Keeps.foldlFst
    | exact fun _ k => k
    | exact fun _ _ => rfl
    | exact fun _ k => by simpa only [Power.size, Seal.size, Net.size, Time.size, Analog.size, Dio.size, Acq.size, Can.size, Safe.size, Integ.size, Snap.size, modifyAt_length, List.length_map] using k
    | intro _ _ _
    | intro _ _
    | intro _
    | simp only [Keeps.upd_iff]
    | simp only [Keeps.upd_iff, Power.size, Seal.size, Net.size, Time.size, Analog.size, Dio.size, Acq.size, Can.size, Safe.size, Integ.size, Snap.size, modifyAt_length, List.length_map]
    | with_reducible assumption
    | split

theorem State.delayDone_keeps {s t : State} (d : Int) (h : Keeps s t) : Keeps s (State.delayDone t d) := by
  unfold State.delayDone
  try dsimp only
  repeat' first
    | with_reducible apply State.setReg_keeps
    | with_reducible apply State.modTime_keeps
    | with_reducible apply Keeps.ite
    | with_reducible apply Keeps.forUpTo
    | with_reducible apply Keeps.forEach
    | with_reducible apply Keeps.foldl
    | with_reducible apply Keeps.foldlFst
    | exact fun _ k => k
    | exact fun _ _ => rfl
    | exact fun _ k => by simpa only [Power.size, Seal.size, Net.size, Time.size, Analog.size, Dio.size, Acq.size, Can.size, Safe.size, Integ.size, Snap.size, modifyAt_length, List.length_map] using k
    | intro _ _ _
    | intro _ _
    | intro _
    | simp only [Keeps.upd_iff]
    | simp only [Keeps.upd_iff, Power.size, Seal.size, Net.size, Time.size, Analog.size, Dio.size, Acq.size, Can.size, Safe.size, Integ.size, Snap.size, modifyAt_length, List.length_map]
    | with_reducible assumption
    | split

theorem State.holdover_keeps {s t : State} (h : Keeps s t) : Keeps s (State.holdover t) := by
  unfold State.holdover
  try dsimp only
  repeat' first
    | with_reducible apply State.raise_keeps
    | with_reducible apply State.modTime_keeps
    | with_reducible apply State.timeFlag_keeps
    | with_reducible apply Keeps.ite
    | with_reducible apply Keeps.forUpTo
    | with_reducible apply Keeps.forEach
    | with_reducible apply Keeps.foldl
    | with_reducible apply Keeps.foldlFst
    | exact fun _ k => k
    | exact fun _ _ => rfl
    | exact fun _ k => by simpa only [Power.size, Seal.size, Net.size, Time.size, Analog.size, Dio.size, Acq.size, Can.size, Safe.size, Integ.size, Snap.size, modifyAt_length, List.length_map] using k
    | intro _ _ _
    | intro _ _
    | intro _
    | simp only [Keeps.upd_iff]
    | simp only [Keeps.upd_iff, Power.size, Seal.size, Net.size, Time.size, Analog.size, Dio.size, Acq.size, Can.size, Safe.size, Integ.size, Snap.size, modifyAt_length, List.length_map]
    | with_reducible assumption
    | split

theorem State.tciEdge_keeps {s t : State} (n : Nat) (rising : Bool) (h : Keeps s t) : Keeps s (State.tciEdge t n rising) := by
  unfold State.tciEdge
  try dsimp only
  repeat' first
    | with_reducible apply State.setReg_keeps
    | with_reducible apply State.modReg_keeps
    | with_reducible apply State.bump_keeps
    | with_reducible apply State.setReg64_keeps
    | with_reducible apply State.modTime_keeps
    | with_reducible apply Keeps.ite
    | with_reducible apply Keeps.forUpTo
    | with_reducible apply Keeps.forEach
    | with_reducible apply Keeps.foldl
    | with_reducible apply Keeps.foldlFst
    | exact fun _ k => k
    | exact fun _ _ => rfl
    | exact fun _ k => by simpa only [Power.size, Seal.size, Net.size, Time.size, Analog.size, Dio.size, Acq.size, Can.size, Safe.size, Integ.size, Snap.size, modifyAt_length, List.length_map] using k
    | intro _ _ _
    | intro _ _
    | intro _
    | simp only [Keeps.upd_iff]
    | simp only [Keeps.upd_iff, Power.size, Seal.size, Net.size, Time.size, Analog.size, Dio.size, Acq.size, Can.size, Safe.size, Integ.size, Snap.size, modifyAt_length, List.length_map]
    | with_reducible assumption
    | split

theorem State.latchBoundary_keeps {s t : State} (k : Nat) (h : Keeps s t) : Keeps s (State.latchBoundary t k) := by
  unfold State.latchBoundary
  try dsimp only
  repeat' first
    | with_reducible apply State.setReg_keeps
    | with_reducible apply State.setReg64_keeps
    | with_reducible apply Keeps.ite
    | with_reducible apply Keeps.forUpTo
    | with_reducible apply Keeps.forEach
    | with_reducible apply Keeps.foldl
    | with_reducible apply Keeps.foldlFst
    | intro _ _ _
    | intro _ _
    | intro _
    | simp only [Keeps.upd_iff]
    | simp only [Keeps.upd_iff, Power.size, Seal.size, Net.size, Time.size, Analog.size, Dio.size, Acq.size, Can.size, Safe.size, Integ.size, Snap.size, modifyAt_length, List.length_map]
    | with_reducible assumption
    | split

theorem State.timeSet_keeps {s t : State} (sec : Nat) (ns : Nat) (h : Keeps s t) : Keeps s (State.timeSet t sec ns) := by
  unfold State.timeSet
  try dsimp only
  repeat' first
    | with_reducible apply State.rebase_keeps
    | with_reducible apply State.timeStep_keeps
    | with_reducible apply Keeps.ite
    | with_reducible apply Keeps.forUpTo
    | with_reducible apply Keeps.forEach
    | with_reducible apply Keeps.foldl
    | with_reducible apply Keeps.foldlFst
    | intro _ _ _
    | intro _ _
    | intro _
    | simp only [Keeps.upd_iff]
    | simp only [Keeps.upd_iff, Power.size, Seal.size, Net.size, Time.size, Analog.size, Dio.size, Acq.size, Can.size, Safe.size, Integ.size, Snap.size, modifyAt_length, List.length_map]
    | with_reducible assumption
    | split

theorem State.loadTime_keeps {s t : State} (h : Keeps s t) : Keeps s (State.loadTime t) := by
  unfold State.loadTime
  try dsimp only
  repeat' first
    | with_reducible apply State.setImage_keeps
    | with_reducible apply State.setReg_keeps
    | with_reducible apply State.modReg_keeps
    | with_reducible apply State.modTime_keeps
    | with_reducible apply Keeps.ite
    | with_reducible apply Keeps.forUpTo
    | with_reducible apply Keeps.forEach
    | with_reducible apply Keeps.foldl
    | with_reducible apply Keeps.foldlFst
    | exact fun _ k => k
    | exact fun _ _ => rfl
    | exact fun _ k => by simpa only [Power.size, Seal.size, Net.size, Time.size, Analog.size, Dio.size, Acq.size, Can.size, Safe.size, Integ.size, Snap.size, modifyAt_length, List.length_map] using k
    | intro _ _ _
    | intro _ _
    | intro _
    | simp only [Keeps.upd_iff]
    | simp only [Keeps.upd_iff, Power.size, Seal.size, Net.size, Time.size, Analog.size, Dio.size, Acq.size, Can.size, Safe.size, Integ.size, Snap.size, modifyAt_length, List.length_map]
    | with_reducible assumption
    | split

end Sys2Proof.Machine
end

