-- ==== Sys2Proof/Laws/KeptAcq.lean ====
section
/-! SUPPORT. What the operations of Machine/Acq.lean keep. -/

set_option linter.all false

namespace Sys2Proof.Machine

theorem State.touch_keeps {s t : State} (space : Nat) (a : Nat) (n : Nat) (h : Keeps s t) : Keeps s (State.touch t space a n) := by
  unfold State.touch
  try dsimp only
  repeat' first
    | with_reducible apply Keeps.ite
    | with_reducible apply Keeps.forUpTo
    | with_reducible apply Keeps.forEach
    | with_reducible apply Keeps.foldl
    | with_reducible apply Keeps.foldlFst
    | intro _ _ _
    | intro _ _
    | intro _
    | simp only [Keeps.upd_iff]
    | simp only [Keeps.upd_iff, Power.size, Seal.size, Net.size, Time.size, Analog.size, Dio.size, Acq.size, Can.size, Safe.size, Integ.size, Snap.size, modifyAt_length, List.length_map]
    | with_reducible assumption
    | split

theorem State.putDram_keeps {s t : State} (l : List (Nat × Byte)) (h : Keeps s t) : Keeps s (t.putDram l) := by
  refine h.step rfl rfl rfl rfl fun k => ?_
  simp only [State.wf, State.putDram, Bool.and_eq_true] at k ⊢
  simp only [k, and_true, true_and]
  exact tabSetMany_wf (by simp only [k])

theorem State.clearDram_keeps {s t : State} (h : Keeps s t) : Keeps s t.clearDram := by
  refine h.step rfl rfl rfl rfl fun k => ?_
  simp only [State.wf, State.clearDram, Bool.and_eq_true] at k ⊢
  simp only [k, and_true, true_and]
  rfl

theorem State.dramWrite_keeps {s t : State} (a : Nat) (l : List Byte) (h : Keeps s t) : Keeps s (State.dramWrite t a l) := by
  unfold State.dramWrite
  try dsimp only
  repeat' first
    | with_reducible apply State.touch_keeps
    | with_reducible apply State.putDram_keeps
    | with_reducible apply Keeps.ite
    | with_reducible apply Keeps.forUpTo
    | with_reducible apply Keeps.forEach
    | with_reducible apply Keeps.foldl
    | with_reducible apply Keeps.foldlFst
    | intro _ _ _
    | intro _ _
    | intro _
    | simp only [Keeps.upd_iff]
    | simp only [Keeps.upd_iff, Power.size, Seal.size, Net.size, Time.size, Analog.size, Dio.size, Acq.size, Can.size, Safe.size, Integ.size, Snap.size, modifyAt_length, List.length_map]
    | with_reducible assumption
    | split

theorem State.modAcq_keeps {s t : State} (f : Acq → Acq) (hf : ∀ x, x.size = (8, 32, 2) → (f x).size = (8, 32, 2)) (h : Keeps s t) :
    Keeps s (t.modAcq f) := by
  refine h.step rfl rfl rfl rfl fun k => ?_
  simp only [State.wf, State.modAcq, Bool.and_eq_true, beq_iff_eq] at k ⊢
  simp only [k, and_true, true_and]
  exact hf _ (by simp only [k])

theorem State.setRed_keeps {s t : State} (n i : Nat) (r : Reduce) (h : Keeps s t) : Keeps s (t.setRed n i r) :=
  State.modArch_keeps (fun a => { a with reds := tabSet (fun _ => {}) a.reds (2048 * n + i) r })
    (fun _ k => Arch.wf_reds _ (tabSet_wf (Arch.wf_parts k).2.2.1) k) h

theorem State.modTrace_keeps {s t : State} (tq : Nat) (f : TraceX → TraceX) (h : Keeps s t) : Keeps s (State.modTrace t tq f) := by
  unfold State.modTrace
  try dsimp only
  repeat' first
    | with_reducible apply State.modAcq_keeps
    | with_reducible apply Keeps.ite
    | with_reducible apply Keeps.forUpTo
    | with_reducible apply Keeps.forEach
    | with_reducible apply Keeps.foldl
    | with_reducible apply Keeps.foldlFst
    | exact fun _ k => k
    | exact fun _ _ => rfl
    | exact fun _ k => by simpa only [Power.size, Seal.size, Net.size, Time.size, Analog.size, Dio.size, Acq.size, Can.size, Safe.size, Integ.size, Snap.size, modifyAt_length, List.length_map] using k
    | intro _ _ _
    | intro _ _
    | intro _
    | simp only [Keeps.upd_iff]
    | simp only [Keeps.upd_iff, Power.size, Seal.size, Net.size, Time.size, Analog.size, Dio.size, Acq.size, Can.size, Safe.size, Integ.size, Snap.size, modifyAt_length, List.length_map]
    | with_reducible assumption
    | split

theorem State.modEng_keeps {s t : State} (e : Nat) (f : Engine → Engine) (h : Keeps s t) : Keeps s (State.modEng t e f) := by
  unfold State.modEng
  try dsimp only
  repeat' first
    | with_reducible apply State.modAcq_keeps
    | with_reducible apply Keeps.ite
    | with_reducible apply Keeps.forUpTo
    | with_reducible apply Keeps.forEach
    | with_reducible apply Keeps.foldl
    | with_reducible apply Keeps.foldlFst
    | exact fun _ k => k
    | exact fun _ _ => rfl
    | exact fun _ k => by simpa only [Power.size, Seal.size, Net.size, Time.size, Analog.size, Dio.size, Acq.size, Can.size, Safe.size, Integ.size, Snap.size, modifyAt_length, List.length_map] using k
    | intro _ _ _
    | intro _ _
    | intro _
    | simp only [Keeps.upd_iff]
    | simp only [Keeps.upd_iff, Power.size, Seal.size, Net.size, Time.size, Analog.size, Dio.size, Acq.size, Can.size, Safe.size, Integ.size, Snap.size, modifyAt_length, List.length_map]
    | with_reducible assumption
    | split

theorem State.notePeak_keeps {s t : State} (tq : Nat) (h : Keeps s t) : Keeps s (State.notePeak t tq) := by
  unfold State.notePeak
  try dsimp only
  repeat' first
    | with_reducible apply State.maxReg_keeps
    | with_reducible apply Keeps.ite
    | with_reducible apply Keeps.forUpTo
    | with_reducible apply Keeps.forEach
    | with_reducible apply Keeps.foldl
    | with_reducible apply Keeps.foldlFst
    | intro _ _ _
    | intro _ _
    | intro _
    | simp only [Keeps.upd_iff]
    | simp only [Keeps.upd_iff, Power.size, Seal.size, Net.size, Time.size, Analog.size, Dio.size, Acq.size, Can.size, Safe.size, Integ.size, Snap.size, modifyAt_length, List.length_map]
    | with_reducible assumption
    | split

theorem State.traceEnqueue_keeps {s t : State} (tq : Nat) (h : Keeps s t) : Keeps s (State.traceEnqueue t tq) := by
  unfold State.traceEnqueue
  try dsimp only
  repeat' first
    | with_reducible apply State.modTrace_keeps
    | with_reducible apply State.notePeak_keeps
    | with_reducible apply Keeps.ite
    | with_reducible apply Keeps.forUpTo
    | with_reducible apply Keeps.forEach
    | with_reducible apply Keeps.foldl
    | with_reducible apply Keeps.foldlFst
    | intro _ _ _
    | intro _ _
    | intro _
    | simp only [Keeps.upd_iff]
    | simp only [Keeps.upd_iff, Power.size, Seal.size, Net.size, Time.size, Analog.size, Dio.size, Acq.size, Can.size, Safe.size, Integ.size, Snap.size, modifyAt_length, List.length_map]
    | with_reducible assumption
    | split

theorem State.closeEntries_keeps {s t : State} (tq : Nat) (e : Nat) (flags : Nat) (pick : TEntry → Nat → Bool) (h : Keeps s t) : Keeps s (State.closeEntries t tq e flags pick) := by
  unfold State.closeEntries
  try dsimp only
  repeat' first
    | with_reducible apply State.setRed_keeps
    | with_reducible apply State.modTrace_keeps
    | with_reducible apply Keeps.ite
    | with_reducible apply Keeps.forUpTo
    | with_reducible apply Keeps.forEach
    | with_reducible apply Keeps.foldl
    | with_reducible apply Keeps.foldlFst
    | intro _ _ _
    | intro _ _
    | intro _
    | simp only [Keeps.upd_iff]
    | simp only [Keeps.upd_iff, Power.size, Seal.size, Net.size, Time.size, Analog.size, Dio.size, Acq.size, Can.size, Safe.size, Integ.size, Snap.size, modifyAt_length, List.length_map]
    | with_reducible assumption
    | split

theorem State.traceClose_keeps {s t : State} (tq : Nat) (k : Nat) (h : Keeps s t) : Keeps s (State.traceClose t tq k) := by
  unfold State.traceClose
  try dsimp only
  repeat' first
    | with_reducible apply State.closeEntries_keeps
    | with_reducible apply Keeps.ite
    | with_reducible apply Keeps.forUpTo
    | with_reducible apply Keeps.forEach
    | with_reducible apply Keeps.foldl
    | with_reducible apply Keeps.foldlFst
    | intro _ _ _
    | intro _ _
    | intro _
    | simp only [Keeps.upd_iff]
    | simp only [Keeps.upd_iff, Power.size, Seal.size, Net.size, Time.size, Analog.size, Dio.size, Acq.size, Can.size, Safe.size, Integ.size, Snap.size, modifyAt_length, List.length_map]
    | with_reducible assumption
    | split

theorem State.traceSample_keeps {s t : State} (tq : Nat) (k : Nat) (h : Keeps s t) : Keeps s (State.traceSample t tq k) := by
  unfold State.traceSample
  try dsimp only
  repeat' first
    | with_reducible apply State.setRed_keeps
    | with_reducible apply Keeps.ite
    | with_reducible apply Keeps.forUpTo
    | with_reducible apply Keeps.forEach
    | with_reducible apply Keeps.foldl
    | with_reducible apply Keeps.foldlFst
    | intro _ _ _
    | intro _ _
    | intro _
    | simp only [Keeps.upd_iff]
    | simp only [Keeps.upd_iff, Power.size, Seal.size, Net.size, Time.size, Analog.size, Dio.size, Acq.size, Can.size, Safe.size, Integ.size, Snap.size, modifyAt_length, List.length_map]
    | with_reducible assumption
    | split

theorem State.put64_keeps {s t : State} (a : Nat) (n : Nat) (h : Keeps s t) : Keeps s (State.put64 t a n) := by
  unfold State.put64
  try dsimp only
  repeat' first
    | with_reducible apply State.setReg64_keeps
    | with_reducible apply Keeps.ite
    | with_reducible apply Keeps.forUpTo
    | with_reducible apply Keeps.forEach
    | with_reducible apply Keeps.foldl
    | with_reducible apply Keeps.foldlFst
    | intro _ _ _
    | intro _ _
    | intro _
    | simp only [Keeps.upd_iff]
    | simp only [Keeps.upd_iff, Power.size, Seal.size, Net.size, Time.size, Analog.size, Dio.size, Acq.size, Can.size, Safe.size, Integ.size, Snap.size, modifyAt_length, List.length_map]
    | with_reducible assumption
    | split

theorem State.showOld_keeps {s t : State} (tq : Nat) (h : Keeps s t) : Keeps s (State.showOld t tq) := by
  unfold State.showOld
  try dsimp only
  repeat' first
    | with_reducible apply State.put64_keeps
    | with_reducible apply Keeps.ite
    | with_reducible apply Keeps.forUpTo
    | with_reducible apply Keeps.forEach
    | with_reducible apply Keeps.foldl
    | with_reducible apply Keeps.foldlFst
    | intro _ _ _
    | intro _ _
    | intro _
    | simp only [Keeps.upd_iff]
    | simp only [Keeps.upd_iff, Power.size, Seal.size, Net.size, Time.size, Analog.size, Dio.size, Acq.size, Can.size, Safe.size, Integ.size, Snap.size, modifyAt_length, List.length_map]
    | with_reducible assumption
    | split

theorem State.ringPut_keeps {s t : State} (tq : Nat) (f : TFrame) (h : Keeps s t) : Keeps s (State.ringPut t tq f) := by
  unfold State.ringPut
  try dsimp only
  repeat' first
    | with_reducible apply State.touch_keeps
    | with_reducible apply State.putDram_keeps
    | with_reducible apply State.modTrace_keeps
    | with_reducible apply State.put64_keeps
    | with_reducible apply Keeps.ite
    | with_reducible apply Keeps.forUpTo
    | with_reducible apply Keeps.forEach
    | with_reducible apply Keeps.foldl
    | with_reducible apply Keeps.foldlFst
    | intro _ _ _
    | intro _ _
    | intro _
    | simp only [Keeps.upd_iff]
    | simp only [Keeps.upd_iff, Power.size, Seal.size, Net.size, Time.size, Analog.size, Dio.size, Acq.size, Can.size, Safe.size, Integ.size, Snap.size, modifyAt_length, List.length_map]
    | with_reducible assumption
    | split

theorem State.ringOverwrite_keeps {s t : State} (tq : Nat) (f : TFrame) (h : Keeps s t) : Keeps s (State.ringOverwrite t tq f) := by
  unfold State.ringOverwrite
  try dsimp only
  repeat' first
    | with_reducible apply State.modTrace_keeps
    | with_reducible apply State.put64_keeps
    | with_reducible apply State.showOld_keeps
    | with_reducible apply State.ringPut_keeps
    | with_reducible apply State.bumpBy_keeps
    | with_reducible apply State.orReg_keeps
    | with_reducible apply State.raiseCounted_keeps
    | with_reducible apply Keeps.ite
    | with_reducible apply Keeps.forUpTo
    | with_reducible apply Keeps.forEach
    | with_reducible apply Keeps.foldl
    | with_reducible apply Keeps.foldlFst
    | intro _ _ _
    | intro _ _
    | intro _
    | simp only [Keeps.upd_iff]
    | simp only [Keeps.upd_iff, Power.size, Seal.size, Net.size, Time.size, Analog.size, Dio.size, Acq.size, Can.size, Safe.size, Integ.size, Snap.size, modifyAt_length, List.length_map]
    | with_reducible assumption
    | split

theorem State.ringStopWrite_keeps {s t : State} (tq : Nat) (f : TFrame) (h : Keeps s t) : Keeps s (State.ringStopWrite t tq f) := by
  unfold State.ringStopWrite
  try dsimp only
  repeat' first
    | with_reducible apply State.modTrace_keeps
    | with_reducible apply State.showOld_keeps
    | with_reducible apply State.ringPut_keeps
    | with_reducible apply State.bump_keeps
    | with_reducible apply State.orReg_keeps
    | with_reducible apply State.clrReg_keeps
    | with_reducible apply State.raise_keeps
    | with_reducible apply Keeps.ite
    | with_reducible apply Keeps.forUpTo
    | with_reducible apply Keeps.forEach
    | with_reducible apply Keeps.foldl
    | with_reducible apply Keeps.foldlFst
    | intro _ _ _
    | intro _ _
    | intro _
    | simp only [Keeps.upd_iff]
    | simp only [Keeps.upd_iff, Power.size, Seal.size, Net.size, Time.size, Analog.size, Dio.size, Acq.size, Can.size, Safe.size, Integ.size, Snap.size, modifyAt_length, List.length_map]
    | with_reducible assumption
    | split

theorem State.traceWrite_keeps {s t : State} (tq : Nat) (h : Keeps s t) : Keeps s (State.traceWrite t tq) := by
  unfold State.traceWrite
  try dsimp only
  repeat' first
    | with_reducible apply State.modTrace_keeps
    | with_reducible apply State.ringOverwrite_keeps
    | with_reducible apply State.ringStopWrite_keeps
    | with_reducible apply Keeps.ite
    | with_reducible apply Keeps.forUpTo
    | with_reducible apply Keeps.forEach
    | with_reducible apply Keeps.foldl
    | with_reducible apply Keeps.foldlFst
    | intro _ _ _
    | intro _ _
    | intro _
    | simp only [Keeps.upd_iff]
    | simp only [Keeps.upd_iff, Power.size, Seal.size, Net.size, Time.size, Analog.size, Dio.size, Acq.size, Can.size, Safe.size, Integ.size, Snap.size, modifyAt_length, List.length_map]
    | with_reducible assumption
    | split

theorem State.traceConsume_keeps {s t : State} (tq : Nat) (pos : Nat) (h : Keeps s t) : Keeps s (State.traceConsume t tq pos) := by
  unfold State.traceConsume
  try dsimp only
  repeat' first
    | with_reducible apply State.modTrace_keeps
    | with_reducible apply State.put64_keeps
    | with_reducible apply State.showOld_keeps
    | with_reducible apply Keeps.ite
    | with_reducible apply Keeps.forUpTo
    | with_reducible apply Keeps.forEach
    | with_reducible apply Keeps.foldl
    | with_reducible apply Keeps.foldlFst
    | intro _ _ _
    | intro _ _
    | intro _
    | simp only [Keeps.upd_iff]
    | simp only [Keeps.upd_iff, Power.size, Seal.size, Net.size, Time.size, Analog.size, Dio.size, Acq.size, Can.size, Safe.size, Integ.size, Snap.size, modifyAt_length, List.length_map]
    | with_reducible assumption
    | split

theorem State.setCond_keeps {s t : State} (e i : Nat) (c : Cond) (h : Keeps s t) : Keeps s (t.setCond e i c) :=
  State.modArch_keeps (fun a => { a with conds := tabSet (fun _ => {}) a.conds (8 * e + i) c })
    (fun _ k => Arch.wf_conds _ (tabSet_wf (Arch.wf_parts k).2.2.2.1) k) h

theorem State.setEng_keeps {s t : State} (e : Nat) (st : Nat) (h : Keeps s t) : Keeps s (State.setEng t e st) := by
  unfold State.setEng
  try dsimp only
  repeat' first
    | with_reducible apply State.putFld_keeps
    | with_reducible apply Keeps.ite
    | with_reducible apply Keeps.forUpTo
    | with_reducible apply Keeps.forEach
    | with_reducible apply Keeps.foldl
    | with_reducible apply Keeps.foldlFst
    | intro _ _ _
    | intro _ _
    | intro _
    | simp only [Keeps.upd_iff]
    | simp only [Keeps.upd_iff, Power.size, Seal.size, Net.size, Time.size, Analog.size, Dio.size, Acq.size, Can.size, Safe.size, Integ.size, Snap.size, modifyAt_length, List.length_map]
    | with_reducible assumption
    | split

theorem State.armEng_keeps {s t : State} (e : Nat) (h : Keeps s t) : Keeps s (State.armEng t e) := by
  unfold State.armEng
  try dsimp only
  repeat' first
    | with_reducible apply State.modEng_keeps
    | with_reducible apply State.put64_keeps
    | with_reducible apply State.setEng_keeps
    | with_reducible apply Keeps.ite
    | with_reducible apply Keeps.forUpTo
    | with_reducible apply Keeps.forEach
    | with_reducible apply Keeps.foldl
    | with_reducible apply Keeps.foldlFst
    | intro _ _ _
    | intro _ _
    | intro _
    | simp only [Keeps.upd_iff]
    | simp only [Keeps.upd_iff, Power.size, Seal.size, Net.size, Time.size, Analog.size, Dio.size, Acq.size, Can.size, Safe.size, Integ.size, Snap.size, modifyAt_length, List.length_map]
    | with_reducible assumption
    | split

theorem State.lapComplete_keeps {s t : State} (e : Nat) (c : CapCfg) (l : Lap) (h : Keeps s t) : Keeps s (State.lapComplete t e c l) := by
  unfold State.lapComplete
  try dsimp only
  repeat' first
    | with_reducible apply State.modEng_keeps
    | with_reducible apply State.notePeak_keeps
    | with_reducible apply State.setEng_keeps
    | with_reducible apply State.orReg_keeps
    | with_reducible apply State.raise_keeps
    | with_reducible apply Keeps.ite
    | with_reducible apply Keeps.forUpTo
    | with_reducible apply Keeps.forEach
    | with_reducible apply Keeps.foldl
    | with_reducible apply Keeps.foldlFst
    | intro _ _ _
    | intro _ _
    | intro _
    | simp only [Keeps.upd_iff]
    | simp only [Keeps.upd_iff, Power.size, Seal.size, Net.size, Time.size, Analog.size, Dio.size, Acq.size, Can.size, Safe.size, Integ.size, Snap.size, modifyAt_length, List.length_map]
    | with_reducible assumption
    | split

theorem State.lapCheck_keeps {s t : State} (e : Nat) (c : CapCfg) (h : Keeps s t) : Keeps s (State.lapCheck t e c) := by
  unfold State.lapCheck
  try dsimp only
  repeat' first
    | with_reducible apply State.lapComplete_keeps
    | with_reducible apply Keeps.ite
    | with_reducible apply Keeps.forUpTo
    | with_reducible apply Keeps.forEach
    | with_reducible apply Keeps.foldl
    | with_reducible apply Keeps.foldlFst
    | intro _ _ _
    | intro _ _
    | intro _
    | simp only [Keeps.upd_iff]
    | simp only [Keeps.upd_iff, Power.size, Seal.size, Net.size, Time.size, Analog.size, Dio.size, Acq.size, Can.size, Safe.size, Integ.size, Snap.size, modifyAt_length, List.length_map]
    | with_reducible assumption
    | split

theorem State.lapSettle_keeps {s t : State} (e : Nat) (c : CapCfg) (h : Keeps s t) : Keeps s (State.lapSettle t e c) := by
  unfold State.lapSettle
  try dsimp only
  repeat' first
    | with_reducible apply State.lapCheck_keeps
    | with_reducible apply Keeps.ite
    | with_reducible apply Keeps.forUpTo
    | with_reducible apply Keeps.forEach
    | with_reducible apply Keeps.foldl
    | with_reducible apply Keeps.foldlFst
    | intro _ _ _
    | intro _ _
    | intro _
    | simp only [Keeps.upd_iff]
    | simp only [Keeps.upd_iff, Power.size, Seal.size, Net.size, Time.size, Analog.size, Dio.size, Acq.size, Can.size, Safe.size, Integ.size, Snap.size, modifyAt_length, List.length_map]
    | with_reducible assumption
    | split

theorem State.frameIn_keeps {s t : State} (e : Nat) (c : CapCfg) (f : Frame) (h : Keeps s t) : Keeps s (State.frameIn t e c f) := by
  unfold State.frameIn
  try dsimp only
  repeat' first
    | with_reducible apply State.modEng_keeps
    | with_reducible apply State.notePeak_keeps
    | with_reducible apply State.lapCheck_keeps
    | with_reducible apply State.lapSettle_keeps
    | with_reducible apply Keeps.ite
    | with_reducible apply Keeps.forUpTo
    | with_reducible apply Keeps.forEach
    | with_reducible apply Keeps.foldl
    | with_reducible apply Keeps.foldlFst
    | intro _ _ _
    | intro _ _
    | intro _
    | simp only [Keeps.upd_iff]
    | simp only [Keeps.upd_iff, Power.size, Seal.size, Net.size, Time.size, Analog.size, Dio.size, Acq.size, Can.size, Safe.size, Integ.size, Snap.size, modifyAt_length, List.length_map]
    | with_reducible assumption
    | split

theorem State.takeLap_keeps {s t : State} (e : Nat) (c : CapCfg) (forced : Bool) (primary : Nat) (tq : Nat) (h : Keeps s t) : Keeps s (State.takeLap t e c forced primary tq) := by
  unfold State.takeLap
  try dsimp only
  repeat' first
    | with_reducible apply State.modEng_keeps
    | with_reducible apply State.notePeak_keeps
    | with_reducible apply State.setEng_keeps
    | with_reducible apply State.setReg_keeps
    | with_reducible apply State.bump_keeps
    | with_reducible apply Keeps.ite
    | with_reducible apply Keeps.forUpTo
    | with_reducible apply Keeps.forEach
    | with_reducible apply Keeps.foldl
    | with_reducible apply Keeps.foldlFst
    | intro _ _ _
    | intro _ _
    | intro _
    | simp only [Keeps.upd_iff]
    | simp only [Keeps.upd_iff, Power.size, Seal.size, Net.size, Time.size, Analog.size, Dio.size, Acq.size, Can.size, Safe.size, Integ.size, Snap.size, modifyAt_length, List.length_map]
    | with_reducible assumption
    | split

theorem State.occur_keeps {s t : State} (e : Nat) (c : CapCfg) (m : Nat) (tq : Nat) (h : Keeps s t) : Keeps s (State.occur t e c m tq) := by
  unfold State.occur
  try dsimp only
  repeat' first
    | with_reducible apply State.modEng_keeps
    | with_reducible apply State.lapSettle_keeps
    | with_reducible apply State.takeLap_keeps
    | with_reducible apply State.setReg_keeps
    | with_reducible apply State.bump_keeps
    | with_reducible apply Keeps.ite
    | with_reducible apply Keeps.forUpTo
    | with_reducible apply Keeps.forEach
    | with_reducible apply Keeps.foldl
    | with_reducible apply Keeps.foldlFst
    | intro _ _ _
    | intro _ _
    | intro _
    | simp only [Keeps.upd_iff]
    | simp only [Keeps.upd_iff, Power.size, Seal.size, Net.size, Time.size, Analog.size, Dio.size, Acq.size, Can.size, Safe.size, Integ.size, Snap.size, modifyAt_length, List.length_map]
    | with_reducible assumption
    | split

theorem State.evalConds_keeps {s t : State} (e : Nat) (c : CapCfg) (tq : Nat) (x : CondCfg → Option F32) (h : Keeps s t) : Keeps s (State.evalConds t e c tq x) := by
  unfold State.evalConds
  try dsimp only
  repeat' first
    | with_reducible apply State.setCond_keeps
    | with_reducible apply State.occur_keeps
    | with_reducible apply Keeps.ite
    | with_reducible apply Keeps.forUpTo
    | with_reducible apply Keeps.forEach
    | with_reducible apply Keeps.foldl
    | with_reducible apply Keeps.foldlFst
    | intro _ _ _
    | intro _ _
    | intro _
    | simp only [Keeps.upd_iff]
    | simp only [Keeps.upd_iff, Power.size, Seal.size, Net.size, Time.size, Analog.size, Dio.size, Acq.size, Can.size, Safe.size, Integ.size, Snap.size, modifyAt_length, List.length_map]
    | with_reducible assumption
    | split

theorem State.engBoundary_keeps {s t : State} (e : Nat) (h : Keeps s t) : Keeps s (State.engBoundary t e) := by
  unfold State.engBoundary
  try dsimp only
  repeat' first
    | with_reducible apply State.frameIn_keeps
    | with_reducible apply State.evalConds_keeps
    | with_reducible apply Keeps.ite
    | with_reducible apply Keeps.forUpTo
    | with_reducible apply Keeps.forEach
    | with_reducible apply Keeps.foldl
    | with_reducible apply Keeps.foldlFst
    | intro _ _ _
    | intro _ _
    | intro _
    | simp only [Keeps.upd_iff]
    | simp only [Keeps.upd_iff, Power.size, Seal.size, Net.size, Time.size, Analog.size, Dio.size, Acq.size, Can.size, Safe.size, Integ.size, Snap.size, modifyAt_length, List.length_map]
    | with_reducible assumption
    | split

theorem State.engSample_keeps {s t : State} (e : Nat) (k : Nat) (x : AdcSample) (h : Keeps s t) : Keeps s (State.engSample t e k x) := by
  unfold State.engSample
  try dsimp only
  repeat' first
    | with_reducible apply State.modEng_keeps
    | with_reducible apply State.frameIn_keeps
    | with_reducible apply State.evalConds_keeps
    | with_reducible apply Keeps.ite
    | with_reducible apply Keeps.forUpTo
    | with_reducible apply Keeps.forEach
    | with_reducible apply Keeps.foldl
    | with_reducible apply Keeps.foldlFst
    | intro _ _ _
    | intro _ _
    | intro _
    | simp only [Keeps.upd_iff]
    | simp only [Keeps.upd_iff, Power.size, Seal.size, Net.size, Time.size, Analog.size, Dio.size, Acq.size, Can.size, Safe.size, Integ.size, Snap.size, modifyAt_length, List.length_map]
    | with_reducible assumption
    | split

theorem State.acqSample_keeps {s t : State} (k : Nat) (x : AdcSample) (h : Keeps s t) : Keeps s (State.acqSample t k x) := by
  unfold State.acqSample
  try dsimp only
  repeat' first
    | with_reducible apply State.engSample_keeps
    | with_reducible apply Keeps.ite
    | with_reducible apply Keeps.forUpTo
    | with_reducible apply Keeps.forEach
    | with_reducible apply Keeps.foldl
    | with_reducible apply Keeps.foldlFst
    | intro _ _ _
    | intro _ _
    | intro _
    | simp only [Keeps.upd_iff]
    | simp only [Keeps.upd_iff, Power.size, Seal.size, Net.size, Time.size, Analog.size, Dio.size, Acq.size, Can.size, Safe.size, Integ.size, Snap.size, modifyAt_length, List.length_map]
    | with_reducible assumption
    | split

theorem State.acqClose_keeps {s t : State} (k : Nat) (h : Keeps s t) : Keeps s (State.acqClose t k) := by
  unfold State.acqClose
  try dsimp only
  repeat' first
    | with_reducible apply State.modAcq_keeps
    | with_reducible apply State.traceEnqueue_keeps
    | with_reducible apply State.traceClose_keeps
    | with_reducible apply Keeps.ite
    | with_reducible apply Keeps.forUpTo
    | with_reducible apply Keeps.forEach
    | with_reducible apply Keeps.foldl
    | with_reducible apply Keeps.foldlFst
    | exact fun _ k => k
    | exact fun _ _ => rfl
    | exact fun _ k => by simpa only [Power.size, Seal.size, Net.size, Time.size, Analog.size, Dio.size, Acq.size, Can.size, Safe.size, Integ.size, Snap.size, modifyAt_length, List.length_map] using k
    | intro _ _ _
    | intro _ _
    | intro _
    | simp only [Keeps.upd_iff]
    | simp only [Keeps.upd_iff, Power.size, Seal.size, Net.size, Time.size, Analog.size, Dio.size, Acq.size, Can.size, Safe.size, Integ.size, Snap.size, modifyAt_length, List.length_map]
    | with_reducible assumption
    | split

theorem State.acqSamples_keeps {s t : State} (k : Nat) (h : Keeps s t) : Keeps s (State.acqSamples t k) := by
  unfold State.acqSamples
  try dsimp only
  repeat' first
    | with_reducible apply State.traceSample_keeps
    | with_reducible apply State.armEng_keeps
    | with_reducible apply State.lapSettle_keeps
    | with_reducible apply State.engBoundary_keeps
    | with_reducible apply Keeps.ite
    | with_reducible apply Keeps.forUpTo
    | with_reducible apply Keeps.forEach
    | with_reducible apply Keeps.foldl
    | with_reducible apply Keeps.foldlFst
    | intro _ _ _
    | intro _ _
    | intro _
    | simp only [Keeps.upd_iff]
    | simp only [Keeps.upd_iff, Power.size, Seal.size, Net.size, Time.size, Analog.size, Dio.size, Acq.size, Can.size, Safe.size, Integ.size, Snap.size, modifyAt_length, List.length_map]
    | with_reducible assumption
    | split

theorem State.forceTrigger_keeps {s t : State} (e : Nat) (h : Keeps s t) : Keeps s (State.forceTrigger t e) := by
  unfold State.forceTrigger
  try dsimp only
  repeat' first
    | with_reducible apply State.lapSettle_keeps
    | with_reducible apply State.takeLap_keeps
    | with_reducible apply Keeps.ite
    | with_reducible apply Keeps.forUpTo
    | with_reducible apply Keeps.forEach
    | with_reducible apply Keeps.foldl
    | with_reducible apply Keeps.foldlFst
    | intro _ _ _
    | intro _ _
    | intro _
    | simp only [Keeps.upd_iff]
    | simp only [Keeps.upd_iff, Power.size, Seal.size, Net.size, Time.size, Analog.size, Dio.size, Acq.size, Can.size, Safe.size, Integ.size, Snap.size, modifyAt_length, List.length_map]
    | with_reducible assumption
    | split

theorem State.rearm_keeps {s t : State} (e : Nat) (h : Keeps s t) : Keeps s (State.rearm t e) := by
  unfold State.rearm
  try dsimp only
  repeat' first
    | with_reducible apply State.armEng_keeps
    | with_reducible apply State.lapSettle_keeps
    | with_reducible apply Keeps.ite
    | with_reducible apply Keeps.forUpTo
    | with_reducible apply Keeps.forEach
    | with_reducible apply Keeps.foldl
    | with_reducible apply Keeps.foldlFst
    | intro _ _ _
    | intro _ _
    | intro _
    | simp only [Keeps.upd_iff]
    | simp only [Keeps.upd_iff, Power.size, Seal.size, Net.size, Time.size, Analog.size, Dio.size, Acq.size, Can.size, Safe.size, Integ.size, Snap.size, modifyAt_length, List.length_map]
    | with_reducible assumption
    | split

theorem State.headerWritten_keeps {s t : State} (e : Nat) (h : Keeps s t) : Keeps s (State.headerWritten t e) := by
  unfold State.headerWritten
  try dsimp only
  repeat' first
    | with_reducible apply State.dramWrite_keeps
    | with_reducible apply State.modEng_keeps
    | with_reducible apply State.put64_keeps
    | with_reducible apply Keeps.ite
    | with_reducible apply Keeps.forUpTo
    | with_reducible apply Keeps.forEach
    | with_reducible apply Keeps.foldl
    | with_reducible apply Keeps.foldlFst
    | intro _ _ _
    | intro _ _
    | intro _
    | simp only [Keeps.upd_iff]
    | simp only [Keeps.upd_iff, Power.size, Seal.size, Net.size, Time.size, Analog.size, Dio.size, Acq.size, Can.size, Safe.size, Integ.size, Snap.size, modifyAt_length, List.length_map]
    | with_reducible assumption
    | split

theorem State.traceResume_keeps {s t : State} (tq : Nat) (r : Nat) (h : Keeps s t) : Keeps s (State.traceResume t tq r) := by
  unfold State.traceResume
  try dsimp only
  repeat' first
    | with_reducible apply State.closeEntries_keeps
    | with_reducible apply Keeps.ite
    | with_reducible apply Keeps.forUpTo
    | with_reducible apply Keeps.forEach
    | with_reducible apply Keeps.foldl
    | with_reducible apply Keeps.foldlFst
    | intro _ _ _
    | intro _ _
    | intro _
    | simp only [Keeps.upd_iff]
    | simp only [Keeps.upd_iff, Power.size, Seal.size, Net.size, Time.size, Analog.size, Dio.size, Acq.size, Can.size, Safe.size, Integ.size, Snap.size, modifyAt_length, List.length_map]
    | with_reducible assumption
    | split

theorem State.lapResume_keeps {s t : State} (e : Nat) (n : Nat) (h : Keeps s t) : Keeps s (State.lapResume t e n) := by
  unfold State.lapResume
  try dsimp only
  repeat' first
    | with_reducible apply State.modEng_keeps
    | with_reducible apply State.setEng_keeps
    | with_reducible apply State.raise_keeps
    | with_reducible apply Keeps.ite
    | with_reducible apply Keeps.forUpTo
    | with_reducible apply Keeps.forEach
    | with_reducible apply Keeps.foldl
    | with_reducible apply Keeps.foldlFst
    | intro _ _ _
    | intro _ _
    | intro _
    | simp only [Keeps.upd_iff]
    | simp only [Keeps.upd_iff, Power.size, Seal.size, Net.size, Time.size, Analog.size, Dio.size, Acq.size, Can.size, Safe.size, Integ.size, Snap.size, modifyAt_length, List.length_map]
    | with_reducible assumption
    | split

theorem State.acqDiscard_keeps {s t : State} (h : Keeps s t) : Keeps s t.acqDiscard :=
  State.modAcq_keeps _ (fun x k => by
    simp only [Acq.size, Prod.mk.injEq, List.length_map] at k ⊢
    exact ⟨k.1, k.2.1, rfl⟩) h

theorem State.acceptRead_keeps {s t : State} (b : Bulk) (next : Nat) (stop : Nat) (slot : Nat) (h : Keeps s t) : Keeps s (State.acceptRead t b next stop slot) := by
  unfold State.acceptRead
  try dsimp only
  repeat' first
    | with_reducible apply State.modAcq_keeps
    | with_reducible apply State.bulkEnd_keeps
    | with_reducible apply State.bump_keeps
    | with_reducible apply Keeps.ite
    | with_reducible apply Keeps.forUpTo
    | with_reducible apply Keeps.forEach
    | with_reducible apply Keeps.foldl
    | with_reducible apply Keeps.foldlFst
    | exact fun _ k => k
    | exact fun _ _ => rfl
    | exact fun _ k => by simpa only [Power.size, Seal.size, Net.size, Time.size, Analog.size, Dio.size, Acq.size, Can.size, Safe.size, Integ.size, Snap.size, modifyAt_length, List.length_map] using k
    | intro _ _ _
    | intro _ _
    | intro _
    | simp only [Keeps.upd_iff]
    | simp only [Keeps.upd_iff, Power.size, Seal.size, Net.size, Time.size, Analog.size, Dio.size, Acq.size, Can.size, Safe.size, Integ.size, Snap.size, modifyAt_length, List.length_map]
    | with_reducible assumption
    | split

theorem State.traceRead_keeps {s t : State} (b : Bulk) (h : Keeps s t) : Keeps s (State.traceRead t b) := by
  unfold State.traceRead
  try dsimp only
  repeat' first
    | with_reducible apply State.acceptRead_keeps
    | with_reducible apply State.bulkEnd_keeps
    | with_reducible apply Keeps.ite
    | with_reducible apply Keeps.forUpTo
    | with_reducible apply Keeps.forEach
    | with_reducible apply Keeps.foldl
    | with_reducible apply Keeps.foldlFst
    | intro _ _ _
    | intro _ _
    | intro _
    | simp only [Keeps.upd_iff]
    | simp only [Keeps.upd_iff, Power.size, Seal.size, Net.size, Time.size, Analog.size, Dio.size, Acq.size, Can.size, Safe.size, Integ.size, Snap.size, modifyAt_length, List.length_map]
    | with_reducible assumption
    | split

theorem State.lapRead_keeps {s t : State} (b : Bulk) (h : Keeps s t) : Keeps s (State.lapRead t b) := by
  unfold State.lapRead
  try dsimp only
  repeat' first
    | with_reducible apply State.acceptRead_keeps
    | with_reducible apply State.bulkEnd_keeps
    | with_reducible apply Keeps.ite
    | with_reducible apply Keeps.forUpTo
    | with_reducible apply Keeps.forEach
    | with_reducible apply Keeps.foldl
    | with_reducible apply Keeps.foldlFst
    | intro _ _ _
    | intro _ _
    | intro _
    | simp only [Keeps.upd_iff]
    | simp only [Keeps.upd_iff, Power.size, Seal.size, Net.size, Time.size, Analog.size, Dio.size, Acq.size, Can.size, Safe.size, Integ.size, Snap.size, modifyAt_length, List.length_map]
    | with_reducible assumption
    | split

theorem State.consumed_keeps {s t : State} (b : Bulk) (status : Nat) (pos : Nat) (h : Keeps s t) : Keeps s (State.consumed t b status pos) := by
  unfold State.consumed
  try dsimp only
  repeat' first
    | with_reducible apply State.bulkData_keeps
    | with_reducible apply Keeps.ite
    | with_reducible apply Keeps.forUpTo
    | with_reducible apply Keeps.forEach
    | with_reducible apply Keeps.foldl
    | with_reducible apply Keeps.foldlFst
    | intro _ _ _
    | intro _ _
    | intro _
    | simp only [Keeps.upd_iff]
    | simp only [Keeps.upd_iff, Power.size, Seal.size, Net.size, Time.size, Analog.size, Dio.size, Acq.size, Can.size, Safe.size, Integ.size, Snap.size, modifyAt_length, List.length_map]
    | with_reducible assumption
    | split

theorem State.traceConsumeReq_keeps {s t : State} (b : Bulk) (h : Keeps s t) : Keeps s (State.traceConsumeReq t b) := by
  unfold State.traceConsumeReq
  try dsimp only
  repeat' first
    | with_reducible apply State.traceConsume_keeps
    | with_reducible apply State.consumed_keeps
    | with_reducible apply Keeps.ite
    | with_reducible apply Keeps.forUpTo
    | with_reducible apply Keeps.forEach
    | with_reducible apply Keeps.foldl
    | with_reducible apply Keeps.foldlFst
    | intro _ _ _
    | intro _ _
    | intro _
    | simp only [Keeps.upd_iff]
    | simp only [Keeps.upd_iff, Power.size, Seal.size, Net.size, Time.size, Analog.size, Dio.size, Acq.size, Can.size, Safe.size, Integ.size, Snap.size, modifyAt_length, List.length_map]
    | with_reducible assumption
    | split

theorem State.lapConsumeReq_keeps {s t : State} (b : Bulk) (h : Keeps s t) : Keeps s (State.lapConsumeReq t b) := by
  unfold State.lapConsumeReq
  try dsimp only
  repeat' first
    | with_reducible apply State.put64_keeps
    | with_reducible apply State.consumed_keeps
    | with_reducible apply Keeps.ite
    | with_reducible apply Keeps.forUpTo
    | with_reducible apply Keeps.forEach
    | with_reducible apply Keeps.foldl
    | with_reducible apply Keeps.foldlFst
    | intro _ _ _
    | intro _ _
    | intro _
    | simp only [Keeps.upd_iff]
    | simp only [Keeps.upd_iff, Power.size, Seal.size, Net.size, Time.size, Analog.size, Dio.size, Acq.size, Can.size, Safe.size, Integ.size, Snap.size, modifyAt_length, List.length_map]
    | with_reducible assumption
    | split

theorem State.loadAcqTile_keeps {s t : State} (tq : Nat) (h : Keeps s t) : Keeps s (State.loadAcqTile t tq) := by
  unfold State.loadAcqTile
  try dsimp only
  repeat' first
    | with_reducible apply State.setReg_keeps
    | with_reducible apply Keeps.ite
    | with_reducible apply Keeps.forUpTo
    | with_reducible apply Keeps.forEach
    | with_reducible apply Keeps.foldl
    | with_reducible apply Keeps.foldlFst
    | intro _ _ _
    | intro _ _
    | intro _
    | simp only [Keeps.upd_iff]
    | simp only [Keeps.upd_iff, Power.size, Seal.size, Net.size, Time.size, Analog.size, Dio.size, Acq.size, Can.size, Safe.size, Integ.size, Snap.size, modifyAt_length, List.length_map]
    | with_reducible assumption
    | split

theorem State.loadAcq_keeps {s t : State} (h : Keeps s t) : Keeps s t.loadAcq := by
  have k := State.modArch_keeps (fun a => { a with reds := [], conds := [] })
    (fun a k => Arch.wf_conds (a := { a with reds := [] }) _ rfl (Arch.wf_reds _ rfl k)) h
  have g : Keeps s ({ t.modArch (fun a => { a with reds := [], conds := [] }) with acq := {} } : State) := by
    refine k.step rfl rfl rfl rfl fun k => ?_
    simp only [State.wf, Bool.and_eq_true, beq_iff_eq] at k ⊢
    simp only [k, and_true]
    decide
  unfold State.loadAcq
  exact Keeps.forEach (fun x a ha => State.loadAcqTile_keeps _ ha) (State.setReg_keeps _ _ (State.setReg_keeps _ _ g))

theorem State.triggerOccurrence_keeps {s t : State} (e : Nat) (m : Nat) (h : Keeps s t) : Keeps s (State.triggerOccurrence t e m) := by
  unfold State.triggerOccurrence
  try dsimp only
  repeat' first
    | with_reducible apply State.setCond_keeps
    | with_reducible apply State.occur_keeps
    | with_reducible apply Keeps.ite
    | with_reducible apply Keeps.forUpTo
    | with_reducible apply Keeps.forEach
    | with_reducible apply Keeps.foldl
    | with_reducible apply Keeps.foldlFst
    | intro _ _ _
    | intro _ _
    | intro _
    | simp only [Keeps.upd_iff]
    | simp only [Keeps.upd_iff, Power.size, Seal.size, Net.size, Time.size, Analog.size, Dio.size, Acq.size, Can.size, Safe.size, Integ.size, Snap.size, modifyAt_length, List.length_map]
    | with_reducible assumption
    | split

end Sys2Proof.Machine
end

