-- ==== Sys2Proof/Laws/KeptCan.lean ====
section
/-! SUPPORT. What the operations of Machine/Can.lean keep. -/

set_option linter.all false

namespace Sys2Proof.Machine

theorem State.modCtl_keeps {s t : State} (c : Nat) (f : CanCtl → CanCtl) (h : Keeps s t) : Keeps s (State.modCtl t c f) := by
  unfold State.modCtl
  try dsimp only
  repeat' first
    | with_reducible apply Keeps.ite
    | with_reducible apply Keeps.forUpTo
    | with_reducible apply Keeps.forEach
    | with_reducible apply Keeps.foldl
    | with_reducible apply Keeps.foldlFst
    | intro _ _ _
    | intro _ _
    | intro _
    | simp only [Keeps.upd_iff]
    | simp only [Keeps.upd_iff, Power.size, Seal.size, Net.size, Time.size, Analog.size, Dio.size, Acq.size, Can.size, Safe.size, Integ.size, Snap.size, modifyAt_length, List.length_map]
    | with_reducible assumption
    | split

theorem State.modCanObj_keeps {s t : State} (c o : Nat) (f : CanObj → CanObj) (h : Keeps s t) :
    Keeps s (t.modCanObj c o f) := by
  refine h.step rfl rfl rfl rfl fun k => ?_
  simp only [State.wf, State.modCanObj, Bool.and_eq_true] at k ⊢
  simp only [k, and_true, true_and]
  exact tabSet_wf (by simp only [k])

theorem State.seenNow_keeps {s t : State} (c e : Nat) (h : Keeps s t) : Keeps s (t.seenNow c e) := by
  refine h.step rfl rfl rfl rfl fun k => ?_
  simp only [State.wf, State.seenNow, Bool.and_eq_true] at k ⊢
  simp only [k, and_true, true_and]
  exact tabSet_wf (by simp only [k])

theorem State.canEvent_keeps {s t : State} (c : Nat) (code : Nat) (p1 : Word) (p2 : Word) (p3 : Word) (h : Keeps s t) : Keeps s (State.canEvent t c code p1 p2 p3) := by
  unfold State.canEvent
  try dsimp only
  repeat' first
    | with_reducible apply State.raiseLimited_keeps
    | with_reducible apply Keeps.ite
    | with_reducible apply Keeps.forUpTo
    | with_reducible apply Keeps.forEach
    | with_reducible apply Keeps.foldl
    | with_reducible apply Keeps.foldlFst
    | intro _ _ _
    | intro _ _
    | intro _
    | simp only [Keeps.upd_iff]
    | simp only [Keeps.upd_iff, Power.size, Seal.size, Net.size, Time.size, Analog.size, Dio.size, Acq.size, Can.size, Safe.size, Integ.size, Snap.size, modifyAt_length, List.length_map]
    | with_reducible assumption
    | split

theorem State.canEnds_keeps {s t : State} (c : Nat) (h : Keeps s t) : Keeps s (State.canEnds t c) := by
  refine (State.modCtl_keeps c (fun x => { x with freeAt := t.now }) h).step rfl rfl rfl rfl fun k => ?_
  simp only [State.wf, State.canEnds, State.modCtl, Bool.and_eq_true] at k ⊢
  simp only [k, and_true, true_and]
  refine tabMap_wf (fun x => ?_) (fun x hx => ?_) (by simp only [k])
  · split <;> rfl
  · split
    · intro e
      apply hx
      have hp : x.2.pend = none := Option.map_eq_none_iff.mp (congrArg CanObj.pend e)
      refine Eq.trans ?_ e
      show x.2 = { x.2 with pend := x.2.pend.map CanReq.newest }
      rw [hp, Option.map_none, ← hp]
    · exact hx

theorem State.canRequest_keeps {s t : State} (c : Nat) (o : Nat) (b : List Byte) (h : Keeps s t) : Keeps s (State.canRequest t c o b) := by
  unfold State.canRequest
  try dsimp only
  repeat' first
    | with_reducible apply State.modCanObj_keeps
    | with_reducible apply State.bump_keeps
    | with_reducible apply Keeps.ite
    | with_reducible apply Keeps.forUpTo
    | with_reducible apply Keeps.forEach
    | with_reducible apply Keeps.foldl
    | with_reducible apply Keeps.foldlFst
    | intro _ _ _
    | intro _ _
    | intro _
    | simp only [Keeps.upd_iff]
    | simp only [Keeps.upd_iff, Power.size, Seal.size, Net.size, Time.size, Analog.size, Dio.size, Acq.size, Can.size, Safe.size, Integ.size, Snap.size, modifyAt_length, List.length_map]
    | with_reducible assumption
    | split

theorem State.canDrop_keeps {s t : State} (c : Nat) (o : Nat) (h : Keeps s t) : Keeps s (State.canDrop t c o) := by
  unfold State.canDrop
  try dsimp only
  repeat' first
    | with_reducible apply State.modCanObj_keeps
    | with_reducible apply Keeps.ite
    | with_reducible apply Keeps.forUpTo
    | with_reducible apply Keeps.forEach
    | with_reducible apply Keeps.foldl
    | with_reducible apply Keeps.foldlFst
    | intro _ _ _
    | intro _ _
    | intro _
    | simp only [Keeps.upd_iff]
    | simp only [Keeps.upd_iff, Power.size, Seal.size, Net.size, Time.size, Analog.size, Dio.size, Acq.size, Can.size, Safe.size, Integ.size, Snap.size, modifyAt_length, List.length_map]
    | with_reducible assumption
    | split

theorem State.canUsed_keeps {s t : State} (c : Nat) (o : Nat) (e : Nat) (h : Keeps s t) : Keeps s (State.canUsed t c o e) := by
  unfold State.canUsed
  try dsimp only
  repeat' first
    | with_reducible apply State.modCanObj_keeps
    | with_reducible apply Keeps.ite
    | with_reducible apply Keeps.forUpTo
    | with_reducible apply Keeps.forEach
    | with_reducible apply Keeps.foldl
    | with_reducible apply Keeps.foldlFst
    | intro _ _ _
    | intro _ _
    | intro _
    | simp only [Keeps.upd_iff]
    | simp only [Keeps.upd_iff, Power.size, Seal.size, Net.size, Time.size, Analog.size, Dio.size, Acq.size, Can.size, Safe.size, Integ.size, Snap.size, modifyAt_length, List.length_map]
    | with_reducible assumption
    | split

theorem State.canSolicit_keeps {s t : State} (c : Nat) (node : Nat) (h : Keeps s t) : Keeps s (State.canSolicit t c node) := by
  unfold State.canSolicit
  try dsimp only
  repeat' first
    | with_reducible apply State.modCtl_keeps
    | with_reducible apply Keeps.ite
    | with_reducible apply Keeps.forUpTo
    | with_reducible apply Keeps.forEach
    | with_reducible apply Keeps.foldl
    | with_reducible apply Keeps.foldlFst
    | intro _ _ _
    | intro _ _
    | intro _
    | simp only [Keeps.upd_iff]
    | simp only [Keeps.upd_iff, Power.size, Seal.size, Net.size, Time.size, Analog.size, Dio.size, Acq.size, Can.size, Safe.size, Integ.size, Snap.size, modifyAt_length, List.length_map]
    | with_reducible assumption
    | split

theorem State.canSolicitAll_keeps {s t : State} (c : Nat) (h : Keeps s t) : Keeps s (State.canSolicitAll t c) := by
  unfold State.canSolicitAll
  try dsimp only
  repeat' first
    | with_reducible apply State.canSolicit_keeps
    | with_reducible apply Keeps.ite
    | with_reducible apply Keeps.forUpTo
    | with_reducible apply Keeps.forEach
    | with_reducible apply Keeps.foldl
    | with_reducible apply Keeps.foldlFst
    | intro _ _ _
    | intro _ _
    | intro _
    | simp only [Keeps.upd_iff]
    | simp only [Keeps.upd_iff, Power.size, Seal.size, Net.size, Time.size, Analog.size, Dio.size, Acq.size, Can.size, Safe.size, Integ.size, Snap.size, modifyAt_length, List.length_map]
    | with_reducible assumption
    | split

theorem State.canRequests_keeps {s t : State} (k : Nat) (h : Keeps s t) : Keeps s (State.canRequests t k) := by
  unfold State.canRequests
  try dsimp only
  repeat' first
    | with_reducible apply State.canRequest_keeps
    | with_reducible apply State.orReg_keeps
    | with_reducible apply Keeps.ite
    | with_reducible apply Keeps.forUpTo
    | with_reducible apply Keeps.forEach
    | with_reducible apply Keeps.foldl
    | with_reducible apply Keeps.foldlFst
    | intro _ _ _
    | intro _ _
    | intro _
    | simp only [Keeps.upd_iff]
    | simp only [Keeps.upd_iff, Power.size, Seal.size, Net.size, Time.size, Analog.size, Dio.size, Acq.size, Can.size, Safe.size, Integ.size, Snap.size, modifyAt_length, List.length_map]
    | with_reducible assumption
    | split

theorem State.canShow_keeps {s t : State} (c : Nat) (h : Keeps s t) : Keeps s (State.canShow t c) := by
  unfold State.canShow
  try dsimp only
  repeat' first
    | with_reducible apply State.putFld_keeps
    | with_reducible apply Keeps.ite
    | with_reducible apply Keeps.forUpTo
    | with_reducible apply Keeps.forEach
    | with_reducible apply Keeps.foldl
    | with_reducible apply Keeps.foldlFst
    | intro _ _ _
    | intro _ _
    | intro _
    | simp only [Keeps.upd_iff]
    | simp only [Keeps.upd_iff, Power.size, Seal.size, Net.size, Time.size, Analog.size, Dio.size, Acq.size, Can.size, Safe.size, Integ.size, Snap.size, modifyAt_length, List.length_map]
    | with_reducible assumption
    | split

theorem State.canBusOff_keeps {s t : State} (c : Nat) (h : Keeps s t) : Keeps s (State.canBusOff t c) := by
  unfold State.canBusOff
  try dsimp only
  repeat' first
    | with_reducible apply State.modCtl_keeps
    | with_reducible apply State.canEvent_keeps
    | with_reducible apply State.canDrop_keeps
    | with_reducible apply State.bump_keeps
    | with_reducible apply State.orReg_keeps
    | with_reducible apply State.putFld_keeps
    | with_reducible apply Keeps.ite
    | with_reducible apply Keeps.forUpTo
    | with_reducible apply Keeps.forEach
    | with_reducible apply Keeps.foldl
    | with_reducible apply Keeps.foldlFst
    | intro _ _ _
    | intro _ _
    | intro _
    | simp only [Keeps.upd_iff]
    | simp only [Keeps.upd_iff, Power.size, Seal.size, Net.size, Time.size, Analog.size, Dio.size, Acq.size, Can.size, Safe.size, Integ.size, Snap.size, modifyAt_length, List.length_map]
    | with_reducible assumption
    | split

theorem State.canConfine_keeps {s t : State} (c : Nat) (h : Keeps s t) : Keeps s (State.canConfine t c) := by
  unfold State.canConfine
  try dsimp only
  repeat' first
    | with_reducible apply State.canEvent_keeps
    | with_reducible apply State.canShow_keeps
    | with_reducible apply State.canBusOff_keeps
    | with_reducible apply State.putFld_keeps
    | with_reducible apply Keeps.ite
    | with_reducible apply Keeps.forUpTo
    | with_reducible apply Keeps.forEach
    | with_reducible apply Keeps.foldl
    | with_reducible apply Keeps.foldlFst
    | intro _ _ _
    | intro _ _
    | intro _
    | simp only [Keeps.upd_iff]
    | simp only [Keeps.upd_iff, Power.size, Seal.size, Net.size, Time.size, Analog.size, Dio.size, Acq.size, Can.size, Safe.size, Integ.size, Snap.size, modifyAt_length, List.length_map]
    | with_reducible assumption
    | split

theorem State.canCount_keeps {s t : State} (c : Nat) (tx : Nat) (rx : Nat) (h : Keeps s t) : Keeps s (State.canCount t c tx rx) := by
  unfold State.canCount
  try dsimp only
  repeat' first
    | with_reducible apply State.modCtl_keeps
    | with_reducible apply State.canConfine_keeps
    | with_reducible apply Keeps.ite
    | with_reducible apply Keeps.forUpTo
    | with_reducible apply Keeps.forEach
    | with_reducible apply Keeps.foldl
    | with_reducible apply Keeps.foldlFst
    | intro _ _ _
    | intro _ _
    | intro _
    | simp only [Keeps.upd_iff]
    | simp only [Keeps.upd_iff, Power.size, Seal.size, Net.size, Time.size, Analog.size, Dio.size, Acq.size, Can.size, Safe.size, Integ.size, Snap.size, modifyAt_length, List.length_map]
    | with_reducible assumption
    | split

theorem State.canFails_keeps {s t : State} (c : Nat) (o : Nat) (e : Nat) (h : Keeps s t) : Keeps s (State.canFails t c o e) := by
  unfold State.canFails
  try dsimp only
  repeat' first
    | with_reducible apply State.canUsed_keeps
    | with_reducible apply State.orReg_keeps
    | with_reducible apply Keeps.ite
    | with_reducible apply Keeps.forUpTo
    | with_reducible apply Keeps.forEach
    | with_reducible apply Keeps.foldl
    | with_reducible apply Keeps.foldlFst
    | intro _ _ _
    | intro _ _
    | intro _
    | simp only [Keeps.upd_iff]
    | simp only [Keeps.upd_iff, Power.size, Seal.size, Net.size, Time.size, Analog.size, Dio.size, Acq.size, Can.size, Safe.size, Integ.size, Snap.size, modifyAt_length, List.length_map]
    | with_reducible assumption
    | split

theorem State.canMeasure_keeps {s t : State} (c : Nat) (o : Nat) (tdcv : Nat) (h : Keeps s t) : Keeps s (State.canMeasure t c o tdcv) := by
  unfold State.canMeasure
  try dsimp only
  repeat' first
    | with_reducible apply State.setReg_keeps
    | with_reducible apply State.orReg_keeps
    | with_reducible apply Keeps.ite
    | with_reducible apply Keeps.forUpTo
    | with_reducible apply Keeps.forEach
    | with_reducible apply Keeps.foldl
    | with_reducible apply Keeps.foldlFst
    | intro _ _ _
    | intro _ _
    | intro _
    | simp only [Keeps.upd_iff]
    | simp only [Keeps.upd_iff, Power.size, Seal.size, Net.size, Time.size, Analog.size, Dio.size, Acq.size, Can.size, Safe.size, Integ.size, Snap.size, modifyAt_length, List.length_map]
    | with_reducible assumption
    | split

theorem State.canUnacked_keeps {s t : State} (c : Nat) (o : Nat) (h : Keeps s t) : Keeps s (State.canUnacked t c o) := by
  unfold State.canUnacked
  try dsimp only
  repeat' first
    | with_reducible apply State.canEvent_keeps
    | with_reducible apply State.canDrop_keeps
    | with_reducible apply State.setReg_keeps
    | with_reducible apply State.orReg_keeps
    | with_reducible apply Keeps.ite
    | with_reducible apply Keeps.forUpTo
    | with_reducible apply Keeps.forEach
    | with_reducible apply Keeps.foldl
    | with_reducible apply Keeps.foldlFst
    | intro _ _ _
    | intro _ _
    | intro _
    | simp only [Keeps.upd_iff]
    | simp only [Keeps.upd_iff, Power.size, Seal.size, Net.size, Time.size, Analog.size, Dio.size, Acq.size, Can.size, Safe.size, Integ.size, Snap.size, modifyAt_length, List.length_map]
    | with_reducible assumption
    | split

theorem State.canAckError_keeps {s t : State} (c : Nat) (dominant : Bool) (tdcv : Nat) (len : Nat) (h : Keeps s t) : Keeps s (State.canAckError t c dominant tdcv len) := by
  unfold State.canAckError
  try dsimp only
  repeat' first
    | with_reducible apply State.canEnds_keeps
    | with_reducible apply State.canCount_keeps
    | with_reducible apply State.canFails_keeps
    | with_reducible apply State.canMeasure_keeps
    | with_reducible apply State.canUnacked_keeps
    | with_reducible apply State.putFld_keeps
    | with_reducible apply Keeps.ite
    | with_reducible apply Keeps.forUpTo
    | with_reducible apply Keeps.forEach
    | with_reducible apply Keeps.foldl
    | with_reducible apply Keeps.foldlFst
    | intro _ _ _
    | intro _ _
    | intro _
    | simp only [Keeps.upd_iff]
    | simp only [Keeps.upd_iff, Power.size, Seal.size, Net.size, Time.size, Analog.size, Dio.size, Acq.size, Can.size, Safe.size, Integ.size, Snap.size, modifyAt_length, List.length_map]
    | with_reducible assumption
    | split

theorem State.canBusError_keeps {s t : State} (c : Nat) (lec : Nat) (tx : Bool) (extra : Nat) (tdcv : Option Nat) (len : Nat) (h : Keeps s t) : Keeps s (State.canBusError t c lec tx extra tdcv len) := by
  unfold State.canBusError
  try dsimp only
  repeat' first
    | with_reducible apply State.canEnds_keeps
    | with_reducible apply State.canCount_keeps
    | with_reducible apply State.canFails_keeps
    | with_reducible apply State.canMeasure_keeps
    | with_reducible apply State.putFld_keeps
    | with_reducible apply Keeps.ite
    | with_reducible apply Keeps.forUpTo
    | with_reducible apply Keeps.forEach
    | with_reducible apply Keeps.foldl
    | with_reducible apply Keeps.foldlFst
    | intro _ _ _
    | intro _ _
    | intro _
    | simp only [Keeps.upd_iff]
    | simp only [Keeps.upd_iff, Power.size, Seal.size, Net.size, Time.size, Analog.size, Dio.size, Acq.size, Can.size, Safe.size, Integ.size, Snap.size, modifyAt_length, List.length_map]
    | with_reducible assumption
    | split

theorem State.canArbLost_keeps {s t : State} (c : Nat) (len : Nat) (h : Keeps s t) : Keeps s (State.canArbLost t c len) := by
  unfold State.canArbLost
  try dsimp only
  repeat' first
    | with_reducible apply State.canEnds_keeps
    | with_reducible apply State.canFails_keeps
    | with_reducible apply Keeps.ite
    | with_reducible apply Keeps.forUpTo
    | with_reducible apply Keeps.forEach
    | with_reducible apply Keeps.foldl
    | with_reducible apply Keeps.foldlFst
    | intro _ _ _
    | intro _ _
    | intro _
    | simp only [Keeps.upd_iff]
    | simp only [Keeps.upd_iff, Power.size, Seal.size, Net.size, Time.size, Analog.size, Dio.size, Acq.size, Can.size, Safe.size, Integ.size, Snap.size, modifyAt_length, List.length_map]
    | with_reducible assumption
    | split

theorem State.canRecover_keeps {s t : State} (c : Nat) (h : Keeps s t) : Keeps s (State.canRecover t c) := by
  unfold State.canRecover
  try dsimp only
  repeat' first
    | with_reducible apply State.modCtl_keeps
    | with_reducible apply State.canEvent_keeps
    | with_reducible apply State.canEnds_keeps
    | with_reducible apply State.canSolicitAll_keeps
    | with_reducible apply State.canShow_keeps
    | with_reducible apply State.putFld_keeps
    | with_reducible apply Keeps.ite
    | with_reducible apply Keeps.forUpTo
    | with_reducible apply Keeps.forEach
    | with_reducible apply Keeps.foldl
    | with_reducible apply Keeps.foldlFst
    | intro _ _ _
    | intro _ _
    | intro _
    | simp only [Keeps.upd_iff]
    | simp only [Keeps.upd_iff, Power.size, Seal.size, Net.size, Time.size, Analog.size, Dio.size, Acq.size, Can.size, Safe.size, Integ.size, Snap.size, modifyAt_length, List.length_map]
    | with_reducible assumption
    | split

theorem State.canIntegrated_keeps {s t : State} (c : Nat) (h : Keeps s t) : Keeps s (State.canIntegrated t c) := by
  unfold State.canIntegrated
  try dsimp only
  repeat' first
    | with_reducible apply State.modCtl_keeps
    | with_reducible apply State.canEnds_keeps
    | with_reducible apply State.canShow_keeps
    | with_reducible apply State.putFld_keeps
    | with_reducible apply Keeps.ite
    | with_reducible apply Keeps.forUpTo
    | with_reducible apply Keeps.forEach
    | with_reducible apply Keeps.foldl
    | with_reducible apply Keeps.foldlFst
    | intro _ _ _
    | intro _ _
    | intro _
    | simp only [Keeps.upd_iff]
    | simp only [Keeps.upd_iff, Power.size, Seal.size, Net.size, Time.size, Analog.size, Dio.size, Acq.size, Can.size, Safe.size, Integ.size, Snap.size, modifyAt_length, List.length_map]
    | with_reducible assumption
    | split

theorem State.canObjSent_keeps {s t : State} (c : Nat) (o : Nat) (tdcv : Nat) (e : Nat) (b : List Byte) (h : Keeps s t) : Keeps s (State.canObjSent t c o tdcv e b) := by
  unfold State.canObjSent
  try dsimp only
  repeat' first
    | with_reducible apply State.canUsed_keeps
    | with_reducible apply State.canMeasure_keeps
    | with_reducible apply State.setReg_keeps
    | with_reducible apply State.bump_keeps
    | with_reducible apply State.clrReg_keeps
    | with_reducible apply State.emit_keeps
    | with_reducible apply Keeps.ite
    | with_reducible apply Keeps.forUpTo
    | with_reducible apply Keeps.forEach
    | with_reducible apply Keeps.foldl
    | with_reducible apply Keeps.foldlFst
    | intro _ _ _
    | intro _ _
    | intro _
    | simp only [Keeps.upd_iff]
    | simp only [Keeps.upd_iff, Power.size, Seal.size, Net.size, Time.size, Analog.size, Dio.size, Acq.size, Can.size, Safe.size, Integ.size, Snap.size, modifyAt_length, List.length_map]
    | with_reducible assumption
    | split

theorem State.canSolicited_keeps {s t : State} (c : Nat) (node : Nat) (h : Keeps s t) : Keeps s (State.canSolicited t c node) := by
  unfold State.canSolicited
  try dsimp only
  repeat' first
    | with_reducible apply State.modCtl_keeps
    | with_reducible apply State.emit_keeps
    | with_reducible apply Keeps.ite
    | with_reducible apply Keeps.forUpTo
    | with_reducible apply Keeps.forEach
    | with_reducible apply Keeps.foldl
    | with_reducible apply Keeps.foldlFst
    | intro _ _ _
    | intro _ _
    | intro _
    | simp only [Keeps.upd_iff]
    | simp only [Keeps.upd_iff, Power.size, Seal.size, Net.size, Time.size, Analog.size, Dio.size, Acq.size, Can.size, Safe.size, Integ.size, Snap.size, modifyAt_length, List.length_map]
    | with_reducible assumption
    | split

theorem State.canSent_keeps {s t : State} (c : Nat) (tdcv : Nat) (len : Nat) (h : Keeps s t) : Keeps s (State.canSent t c tdcv len) := by
  unfold State.canSent
  try dsimp only
  repeat' first
    | with_reducible apply State.modCtl_keeps
    | with_reducible apply State.canEnds_keeps
    | with_reducible apply State.canConfine_keeps
    | with_reducible apply State.canObjSent_keeps
    | with_reducible apply State.canSolicited_keeps
    | with_reducible apply State.bump_keeps
    | with_reducible apply Keeps.ite
    | with_reducible apply Keeps.forUpTo
    | with_reducible apply Keeps.forEach
    | with_reducible apply Keeps.foldl
    | with_reducible apply Keeps.foldlFst
    | intro _ _ _
    | intro _ _
    | intro _
    | simp only [Keeps.upd_iff]
    | simp only [Keeps.upd_iff, Power.size, Seal.size, Net.size, Time.size, Analog.size, Dio.size, Acq.size, Can.size, Safe.size, Integ.size, Snap.size, modifyAt_length, List.length_map]
    | with_reducible assumption
    | split

theorem State.canGood_keeps {s t : State} (c : Nat) (h : Keeps s t) : Keeps s (State.canGood t c) := by
  unfold State.canGood
  try dsimp only
  repeat' first
    | with_reducible apply State.modCtl_keeps
    | with_reducible apply State.canConfine_keeps
    | with_reducible apply State.useFree_keeps
    | with_reducible apply Keeps.ite
    | with_reducible apply Keeps.forUpTo
    | with_reducible apply Keeps.forEach
    | with_reducible apply Keeps.foldl
    | with_reducible apply Keeps.foldlFst
    | intro _ _ _
    | intro _ _
    | intro _
    | simp only [Keeps.upd_iff]
    | simp only [Keeps.upd_iff, Power.size, Seal.size, Net.size, Time.size, Analog.size, Dio.size, Acq.size, Can.size, Safe.size, Integ.size, Snap.size, modifyAt_length, List.length_map]
    | with_reducible assumption
    | split

theorem State.canTurn_keeps {s t : State} (c o : Nat) (h : Keeps s t) : Keeps s (t.canTurn c o).1 := by
  unfold State.canTurn
  dsimp only
  split
  · exact h
  · refine h.step rfl rfl rfl rfl fun k => ?_
    simp only [State.wf, Bool.and_eq_true] at k ⊢
    simp only [k, and_true, true_and]
    exact tabSet_wf (by simp only [k])

theorem State.canAccept_keeps {s t : State} (c : Nat) (o : Nat) (lag : Nat) (f : CanFrame) (h : Keeps s t) : Keeps s (State.canAccept t c o lag f) := by
  unfold State.canAccept
  try dsimp only
  repeat' first
    | with_reducible apply State.modCanObj_keeps
    | with_reducible apply State.setReg_keeps
    | with_reducible apply State.bump_keeps
    | with_reducible apply State.orReg_keeps
    | with_reducible apply State.clrReg_keeps
    | with_reducible apply State.stageAt_keeps
    | with_reducible apply Keeps.ite
    | with_reducible apply Keeps.forUpTo
    | with_reducible apply Keeps.forEach
    | with_reducible apply Keeps.foldl
    | with_reducible apply Keeps.foldlFst
    | intro _ _ _
    | intro _ _
    | intro _
    | simp only [Keeps.upd_iff]
    | simp only [Keeps.upd_iff, Power.size, Seal.size, Net.size, Time.size, Analog.size, Dio.size, Acq.size, Can.size, Safe.size, Integ.size, Snap.size, modifyAt_length, List.length_map]
    | with_reducible assumption
    | split

theorem State.canStale_keeps {s t : State} (c : Nat) (o : Nat) (h : Keeps s t) : Keeps s (State.canStale t c o) := by
  unfold State.canStale
  try dsimp only
  repeat' first
    | with_reducible apply State.stage_keeps
    | with_reducible apply Keeps.ite
    | with_reducible apply Keeps.forUpTo
    | with_reducible apply Keeps.forEach
    | with_reducible apply Keeps.foldl
    | with_reducible apply Keeps.foldlFst
    | intro _ _ _
    | intro _ _
    | intro _
    | simp only [Keeps.upd_iff]
    | simp only [Keeps.upd_iff, Power.size, Seal.size, Net.size, Time.size, Analog.size, Dio.size, Acq.size, Can.size, Safe.size, Integ.size, Snap.size, modifyAt_length, List.length_map]
    | with_reducible assumption
    | split

theorem State.canTimeout_keeps {s t : State} (c : Nat) (o : Nat) (h : Keeps s t) : Keeps s (State.canTimeout t c o) := by
  unfold State.canTimeout
  try dsimp only
  repeat' first
    | with_reducible apply State.canEvent_keeps
    | with_reducible apply State.canStale_keeps
    | with_reducible apply State.orReg_keeps
    | with_reducible apply Keeps.ite
    | with_reducible apply Keeps.forUpTo
    | with_reducible apply Keeps.forEach
    | with_reducible apply Keeps.foldl
    | with_reducible apply Keeps.foldlFst
    | intro _ _ _
    | intro _ _
    | intro _
    | simp only [Keeps.upd_iff]
    | simp only [Keeps.upd_iff, Power.size, Seal.size, Net.size, Time.size, Analog.size, Dio.size, Acq.size, Can.size, Safe.size, Integ.size, Snap.size, modifyAt_length, List.length_map]
    | with_reducible assumption
    | split

theorem State.canTimeouts_keeps {s t : State} (h : Keeps s t) : Keeps s (State.canTimeouts t) := by
  unfold State.canTimeouts
  try dsimp only
  repeat' first
    | with_reducible apply State.canTimeout_keeps
    | with_reducible apply Keeps.ite
    | with_reducible apply Keeps.forUpTo
    | with_reducible apply Keeps.forEach
    | with_reducible apply Keeps.foldl
    | with_reducible apply Keeps.foldlFst
    | intro _ _ _
    | intro _ _
    | intro _
    | simp only [Keeps.upd_iff]
    | simp only [Keeps.upd_iff, Power.size, Seal.size, Net.size, Time.size, Analog.size, Dio.size, Acq.size, Can.size, Safe.size, Integ.size, Snap.size, modifyAt_length, List.length_map]
    | with_reducible assumption
    | split

theorem State.cenSeen_keeps {s t : State} (c : Nat) (e : Nat) (h : Keeps s t) : Keeps s (State.cenSeen t c e) := by
  unfold State.cenSeen
  try dsimp only
  repeat' first
    | with_reducible apply State.seenNow_keeps
    | with_reducible apply State.setReg_keeps
    | with_reducible apply Keeps.ite
    | with_reducible apply Keeps.forUpTo
    | with_reducible apply Keeps.forEach
    | with_reducible apply Keeps.foldl
    | with_reducible apply Keeps.foldlFst
    | intro _ _ _
    | intro _ _
    | intro _
    | simp only [Keeps.upd_iff]
    | simp only [Keeps.upd_iff, Power.size, Seal.size, Net.size, Time.size, Analog.size, Dio.size, Acq.size, Can.size, Safe.size, Integ.size, Snap.size, modifyAt_length, List.length_map]
    | with_reducible assumption
    | split

theorem State.cenJoin_keeps {s t : State} (c : Nat) (e : Nat) (n : Nat) (b : List Byte) (h : Keeps s t) : Keeps s (State.cenJoin t c e n b) := by
  unfold State.cenJoin
  try dsimp only
  repeat' first
    | with_reducible apply State.cenSeen_keeps
    | with_reducible apply State.setReg_keeps
    | with_reducible apply State.bump_keeps
    | with_reducible apply State.putFld_keeps
    | with_reducible apply State.raise_keeps
    | with_reducible apply Keeps.ite
    | with_reducible apply Keeps.forUpTo
    | with_reducible apply Keeps.forEach
    | with_reducible apply Keeps.foldl
    | with_reducible apply Keeps.foldlFst
    | intro _ _ _
    | intro _ _
    | intro _
    | simp only [Keeps.upd_iff]
    | simp only [Keeps.upd_iff, Power.size, Seal.size, Net.size, Time.size, Analog.size, Dio.size, Acq.size, Can.size, Safe.size, Integ.size, Snap.size, modifyAt_length, List.length_map]
    | with_reducible assumption
    | split

theorem State.cenAnnounce_keeps {s t : State} (c : Nat) (n : Nat) (b : List Byte) (h : Keeps s t) : Keeps s (State.cenAnnounce t c n b) := by
  unfold State.cenAnnounce
  try dsimp only
  repeat' first
    | with_reducible apply State.canEvent_keeps
    | with_reducible apply State.cenSeen_keeps
    | with_reducible apply State.cenJoin_keeps
    | with_reducible apply State.bump_keeps
    | with_reducible apply State.orReg_keeps
    | with_reducible apply Keeps.ite
    | with_reducible apply Keeps.forUpTo
    | with_reducible apply Keeps.forEach
    | with_reducible apply Keeps.foldl
    | with_reducible apply Keeps.foldlFst
    | intro _ _ _
    | intro _ _
    | intro _
    | simp only [Keeps.upd_iff]
    | simp only [Keeps.upd_iff, Power.size, Seal.size, Net.size, Time.size, Analog.size, Dio.size, Acq.size, Can.size, Safe.size, Integ.size, Snap.size, modifyAt_length, List.length_map]
    | with_reducible assumption
    | split

theorem State.cenHeartbeat_keeps {s t : State} (c : Nat) (n : Nat) (b : List Byte) (h : Keeps s t) : Keeps s (State.cenHeartbeat t c n b) := by
  unfold State.cenHeartbeat
  try dsimp only
  repeat' first
    | with_reducible apply State.canSolicit_keeps
    | with_reducible apply State.cenSeen_keeps
    | with_reducible apply State.putFld_keeps
    | with_reducible apply Keeps.ite
    | with_reducible apply Keeps.forUpTo
    | with_reducible apply Keeps.forEach
    | with_reducible apply Keeps.foldl
    | with_reducible apply Keeps.foldlFst
    | intro _ _ _
    | intro _ _
    | intro _
    | simp only [Keeps.upd_iff]
    | simp only [Keeps.upd_iff, Power.size, Seal.size, Net.size, Time.size, Analog.size, Dio.size, Acq.size, Can.size, Safe.size, Integ.size, Snap.size, modifyAt_length, List.length_map]
    | with_reducible assumption
    | split

theorem State.cenLeave_keeps {s t : State} (c : Nat) (e : Nat) (h : Keeps s t) : Keeps s (State.cenLeave t c e) := by
  unfold State.cenLeave
  try dsimp only
  repeat' first
    | with_reducible apply State.putFld_keeps
    | with_reducible apply State.raise_keeps
    | with_reducible apply Keeps.ite
    | with_reducible apply Keeps.forUpTo
    | with_reducible apply Keeps.forEach
    | with_reducible apply Keeps.foldl
    | with_reducible apply Keeps.foldlFst
    | intro _ _ _
    | intro _ _
    | intro _
    | simp only [Keeps.upd_iff]
    | simp only [Keeps.upd_iff, Power.size, Seal.size, Net.size, Time.size, Analog.size, Dio.size, Acq.size, Can.size, Safe.size, Integ.size, Snap.size, modifyAt_length, List.length_map]
    | with_reducible assumption
    | split

theorem State.cenAbsent_keeps {s t : State} (c : Nat) (e : Nat) (h : Keeps s t) : Keeps s (State.cenAbsent t c e) := by
  unfold State.cenAbsent
  try dsimp only
  repeat' first
    | with_reducible apply State.cenLeave_keeps
    | with_reducible apply Keeps.ite
    | with_reducible apply Keeps.forUpTo
    | with_reducible apply Keeps.forEach
    | with_reducible apply Keeps.foldl
    | with_reducible apply Keeps.foldlFst
    | intro _ _ _
    | intro _ _
    | intro _
    | simp only [Keeps.upd_iff]
    | simp only [Keeps.upd_iff, Power.size, Seal.size, Net.size, Time.size, Analog.size, Dio.size, Acq.size, Can.size, Safe.size, Integ.size, Snap.size, modifyAt_length, List.length_map]
    | with_reducible assumption
    | split

theorem State.septedFrame_keeps {s t : State} (c : Nat) (f : CanFrame) (h : Keeps s t) : Keeps s (State.septedFrame t c f) := by
  unfold State.septedFrame
  try dsimp only
  repeat' first
    | with_reducible apply State.cenAnnounce_keeps
    | with_reducible apply State.cenHeartbeat_keeps
    | with_reducible apply State.cenLeave_keeps
    | with_reducible apply State.bump_keeps
    | with_reducible apply Keeps.ite
    | with_reducible apply Keeps.forUpTo
    | with_reducible apply Keeps.forEach
    | with_reducible apply Keeps.foldl
    | with_reducible apply Keeps.foldlFst
    | intro _ _ _
    | intro _ _
    | intro _
    | simp only [Keeps.upd_iff]
    | simp only [Keeps.upd_iff, Power.size, Seal.size, Net.size, Time.size, Analog.size, Dio.size, Acq.size, Can.size, Safe.size, Integ.size, Snap.size, modifyAt_length, List.length_map]
    | with_reducible assumption
    | split

theorem State.canReceive_keeps {s t : State} (c : Nat) (lag : Nat) (f : CanFrame) (h : Keeps s t) : Keeps s (State.canReceive t c lag f).1 := by
  unfold State.canReceive
  try dsimp only
  repeat' first
    | with_reducible apply State.canEnds_keeps
    | with_reducible apply State.canGood_keeps
    | with_reducible apply State.canTurn_keeps
    | with_reducible apply State.canAccept_keeps
    | with_reducible apply State.septedFrame_keeps
    | with_reducible apply State.bump_keeps
    | with_reducible apply Keeps.ite
    | with_reducible apply Keeps.forUpTo
    | with_reducible apply Keeps.forEach
    | with_reducible apply Keeps.foldl
    | with_reducible apply Keeps.foldlFst
    | intro _ _ _
    | intro _ _
    | intro _
    | simp only [Keeps.upd_iff]
    | simp only [Keeps.upd_iff, Power.size, Seal.size, Net.size, Time.size, Analog.size, Dio.size, Acq.size, Can.size, Safe.size, Integ.size, Snap.size, modifyAt_length, List.length_map]
    | with_reducible assumption
    | split

theorem State.canLeft_keeps {s t : State} (h : Keeps s t) : Keeps s (State.canLeft t) := by
  unfold State.canLeft
  try dsimp only
  repeat' first
    | with_reducible apply State.canStale_keeps
    | with_reducible apply Keeps.ite
    | with_reducible apply Keeps.forUpTo
    | with_reducible apply Keeps.forEach
    | with_reducible apply Keeps.foldl
    | with_reducible apply Keeps.foldlFst
    | intro _ _ _
    | intro _ _
    | intro _
    | simp only [Keeps.upd_iff]
    | simp only [Keeps.upd_iff, Power.size, Seal.size, Net.size, Time.size, Analog.size, Dio.size, Acq.size, Can.size, Safe.size, Integ.size, Snap.size, modifyAt_length, List.length_map]
    | with_reducible assumption
    | split

theorem State.canEntered_keeps {s t : State} (h : Keeps s t) : Keeps s (State.canEntered t) := by
  unfold State.canEntered
  try dsimp only
  repeat' first
    | with_reducible apply State.modCtl_keeps
    | with_reducible apply State.canSolicitAll_keeps
    | with_reducible apply State.putFld_keeps
    | with_reducible apply Keeps.ite
    | with_reducible apply Keeps.forUpTo
    | with_reducible apply Keeps.forEach
    | with_reducible apply Keeps.foldl
    | with_reducible apply Keeps.foldlFst
    | intro _ _ _
    | intro _ _
    | intro _
    | simp only [Keeps.upd_iff]
    | simp only [Keeps.upd_iff, Power.size, Seal.size, Net.size, Time.size, Analog.size, Dio.size, Acq.size, Can.size, Safe.size, Integ.size, Snap.size, modifyAt_length, List.length_map]
    | with_reducible assumption
    | split

theorem State.canResume_keeps {s t : State} (h : Keeps s t) : Keeps s (State.canResume t) := by
  unfold State.canResume
  try dsimp only
  repeat' first
    | with_reducible apply State.modCtl_keeps
    | with_reducible apply State.modCanObj_keeps
    | with_reducible apply State.seenNow_keeps
    | with_reducible apply State.canSolicitAll_keeps
    | with_reducible apply State.canShow_keeps
    | with_reducible apply State.setReg_keeps
    | with_reducible apply State.bumpBy_keeps
    | with_reducible apply State.putFld_keeps
    | with_reducible apply Keeps.ite
    | with_reducible apply Keeps.forUpTo
    | with_reducible apply Keeps.forEach
    | with_reducible apply Keeps.foldl
    | with_reducible apply Keeps.foldlFst
    | intro _ _ _
    | intro _ _
    | intro _
    | simp only [Keeps.upd_iff]
    | simp only [Keeps.upd_iff, Power.size, Seal.size, Net.size, Time.size, Analog.size, Dio.size, Acq.size, Can.size, Safe.size, Integ.size, Snap.size, modifyAt_length, List.length_map]
    | with_reducible assumption
    | split

theorem State.clearCan_keeps {s t : State} (h : Keeps s t) : Keeps s t.clearCan := by
  refine h.step rfl rfl rfl rfl fun k => ?_
  simp only [State.wf, State.clearCan, Bool.and_eq_true] at k ⊢
  simp only [k, and_true, true_and]
  decide

theorem State.loadCan_keeps {s t : State} (h : Keeps s t) : Keeps s (State.loadCan t) := by
  unfold State.loadCan
  try dsimp only
  repeat' first
    | with_reducible apply State.clearCan_keeps
    | with_reducible apply State.setImage_keeps
    | with_reducible apply State.setReg_keeps
    | with_reducible apply Keeps.ite
    | with_reducible apply Keeps.forUpTo
    | with_reducible apply Keeps.forEach
    | with_reducible apply Keeps.foldl
    | with_reducible apply Keeps.foldlFst
    | intro _ _ _
    | intro _ _
    | intro _
    | simp only [Keeps.upd_iff]
    | simp only [Keeps.upd_iff, Power.size, Seal.size, Net.size, Time.size, Analog.size, Dio.size, Acq.size, Can.size, Safe.size, Integ.size, Snap.size, modifyAt_length, List.length_map]
    | with_reducible assumption
    | split

end Sys2Proof.Machine
end

