-- ==== Sys2Proof/Laws/KeptCells.lean ====
section
/-! SUPPORT. What the operations of Machine/Cells.lean keep. -/

set_option linter.all false

namespace Sys2Proof.Machine

theorem State.setRegs_keeps {s t : State} (addr : Nat → Nat) (l : List Word) (h : Keeps s t) : Keeps s (State.setRegs t addr l) := by
  unfold State.setRegs
  try dsimp only
  repeat' first
    | with_reducible apply State.setReg_keeps
    | with_reducible apply Keeps.ite
    | with_reducible apply Keeps.forUpTo
    | with_reducible apply Keeps.forEach
    | with_reducible apply Keeps.foldl
    | with_reducible apply Keeps.foldlFst
    | intro _ _ _
    | intro _ _
    | intro _
    | simp only [Keeps.upd_iff]
    | simp only [Keeps.upd_iff, Power.size, Seal.size, Net.size, Time.size, Analog.size, Dio.size, Acq.size, Can.size, Safe.size, Integ.size, Snap.size, modifyAt_length, List.length_map]
    | with_reducible assumption
    | split

theorem State.putLawSt_keeps {s t : State} (n : Nat) (kind : Nat) (st : LawSt) (h : Keeps s t) : Keeps s (State.putLawSt t n kind st) := by
  unfold State.putLawSt
  try dsimp only
  repeat' first
    | with_reducible apply State.setRegs_keeps
    | with_reducible apply State.setReg_keeps
    | with_reducible apply Keeps.ite
    | with_reducible apply Keeps.forUpTo
    | with_reducible apply Keeps.forEach
    | with_reducible apply Keeps.foldl
    | with_reducible apply Keeps.foldlFst
    | intro _ _ _
    | intro _ _
    | intro _
    | simp only [Keeps.upd_iff]
    | simp only [Keeps.upd_iff, Power.size, Seal.size, Net.size, Time.size, Analog.size, Dio.size, Acq.size, Can.size, Safe.size, Integ.size, Snap.size, modifyAt_length, List.length_map]
    | with_reducible assumption
    | split

theorem State.feReset_keeps {s t : State} (n : Nat) (h : Keeps s t) : Keeps s (State.feReset t n) := by
  unfold State.feReset
  try dsimp only
  repeat' first
    | with_reducible apply State.setReg_keeps
    | with_reducible apply State.modCellX_keeps
    | with_reducible apply Keeps.ite
    | with_reducible apply Keeps.forUpTo
    | with_reducible apply Keeps.forEach
    | with_reducible apply Keeps.foldl
    | with_reducible apply Keeps.foldlFst
    | intro _ _ _
    | intro _ _
    | intro _
    | simp only [Keeps.upd_iff]
    | simp only [Keeps.upd_iff, Power.size, Seal.size, Net.size, Time.size, Analog.size, Dio.size, Acq.size, Can.size, Safe.size, Integ.size, Snap.size, modifyAt_length, List.length_map]
    | with_reducible assumption
    | split

theorem State.applyMode_keeps {s t : State} (n : Nat) (h : Keeps s t) : Keeps s (State.applyMode t n) := by
  unfold State.applyMode
  try dsimp only
  repeat' first
    | with_reducible apply State.setRegs_keeps
    | with_reducible apply State.feReset_keeps
    | with_reducible apply State.orReg_keeps
    | with_reducible apply State.clrReg_keeps
    | with_reducible apply State.putFld_keeps
    | with_reducible apply State.modCellX_keeps
    | with_reducible apply Keeps.ite
    | with_reducible apply Keeps.forUpTo
    | with_reducible apply Keeps.forEach
    | with_reducible apply Keeps.foldl
    | with_reducible apply Keeps.foldlFst
    | intro _ _ _
    | intro _ _
    | intro _
    | simp only [Keeps.upd_iff]
    | simp only [Keeps.upd_iff, Power.size, Seal.size, Net.size, Time.size, Analog.size, Dio.size, Acq.size, Can.size, Safe.size, Integ.size, Snap.size, modifyAt_length, List.length_map]
    | with_reducible assumption
    | split

theorem State.commitMode_keeps {s t : State} (n : Nat) (mode : Nat) (manual : Option (List F32)) (h : Keeps s t) : Keeps s (State.commitMode t n mode manual) := by
  unfold State.commitMode
  try dsimp only
  repeat' first
    | with_reducible apply State.setRegs_keeps
    | with_reducible apply State.feReset_keeps
    | with_reducible apply State.clrReg_keeps
    | with_reducible apply State.raise_keeps
    | with_reducible apply State.modCellX_keeps
    | with_reducible apply Keeps.ite
    | with_reducible apply Keeps.forUpTo
    | with_reducible apply Keeps.forEach
    | with_reducible apply Keeps.foldl
    | with_reducible apply Keeps.foldlFst
    | intro _ _ _
    | intro _ _
    | intro _
    | simp only [Keeps.upd_iff]
    | simp only [Keeps.upd_iff, Power.size, Seal.size, Net.size, Time.size, Analog.size, Dio.size, Acq.size, Can.size, Safe.size, Integ.size, Snap.size, modifyAt_length, List.length_map]
    | with_reducible assumption
    | split

theorem State.supervise_keeps {s t : State} (n : Nat) (k : Nat) (e : F32) (h : Keeps s t) : Keeps s (State.supervise t n k e).1 := by
  unfold State.supervise
  try dsimp only
  repeat' first
    | with_reducible apply State.feReset_keeps
    | with_reducible apply State.setReg_keeps
    | with_reducible apply State.orReg_keeps
    | with_reducible apply State.modCellX_keeps
    | with_reducible apply Keeps.ite
    | with_reducible apply Keeps.forUpTo
    | with_reducible apply Keeps.forEach
    | with_reducible apply Keeps.foldl
    | with_reducible apply Keeps.foldlFst
    | intro _ _ _
    | intro _ _
    | intro _
    | simp only [Keeps.upd_iff]
    | simp only [Keeps.upd_iff, Power.size, Seal.size, Net.size, Time.size, Analog.size, Dio.size, Acq.size, Can.size, Safe.size, Integ.size, Snap.size, modifyAt_length, List.length_map]
    | with_reducible assumption
    | split

theorem State.feTrip_keeps {s t : State} (n : Nat) (k : Nat) (e : F32) (h : Keeps s t) : Keeps s (State.feTrip t n k e) := by
  unfold State.feTrip
  try dsimp only
  repeat' first
    | with_reducible apply State.bump_keeps
    | with_reducible apply State.orReg_keeps
    | with_reducible apply State.raiseLimited_keeps
    | with_reducible apply State.modCellX_keeps
    | with_reducible apply Keeps.ite
    | with_reducible apply Keeps.forUpTo
    | with_reducible apply Keeps.forEach
    | with_reducible apply Keeps.foldl
    | with_reducible apply Keeps.foldlFst
    | intro _ _ _
    | intro _ _
    | intro _
    | simp only [Keeps.upd_iff]
    | simp only [Keeps.upd_iff, Power.size, Seal.size, Net.size, Time.size, Analog.size, Dio.size, Acq.size, Can.size, Safe.size, Integ.size, Snap.size, modifyAt_length, List.length_map]
    | with_reducible assumption
    | split

theorem State.finishRun_keeps {s t : State} (n : Nat) (k : Nat) (kind : Nat) (reads : List Slot) (c : CellRun) (h : Keeps s t) : Keeps s (State.finishRun t n k kind reads c) := by
  unfold State.finishRun
  try dsimp only
  repeat' first
    | with_reducible apply State.putLawSt_keeps
    | with_reducible apply State.raiseCounted_keeps
    | with_reducible apply State.stageVia_keeps
    | with_reducible apply Keeps.ite
    | with_reducible apply Keeps.forUpTo
    | with_reducible apply Keeps.forEach
    | with_reducible apply Keeps.foldl
    | with_reducible apply Keeps.foldlFst
    | intro _ _ _
    | intro _ _
    | intro _
    | simp only [Keeps.upd_iff]
    | simp only [Keeps.upd_iff, Power.size, Seal.size, Net.size, Time.size, Analog.size, Dio.size, Acq.size, Can.size, Safe.size, Integ.size, Snap.size, modifyAt_length, List.length_map]
    | with_reducible assumption
    | split

theorem State.runLaw_keeps {s t : State} (n : Nat) (k : Nat) (r : Rec) (meas : List Slot) (ff : Option Slot) (sp : Slot) (h : Keeps s t) : Keeps s (State.runLaw t n k r meas ff sp) := by
  unfold State.runLaw
  try dsimp only
  repeat' first
    | with_reducible apply State.supervise_keeps
    | with_reducible apply State.feTrip_keeps
    | with_reducible apply State.finishRun_keeps
    | with_reducible apply Keeps.ite
    | with_reducible apply Keeps.forUpTo
    | with_reducible apply Keeps.forEach
    | with_reducible apply Keeps.foldl
    | with_reducible apply Keeps.foldlFst
    | intro _ _ _
    | intro _ _
    | intro _
    | simp only [Keeps.upd_iff]
    | simp only [Keeps.upd_iff, Power.size, Seal.size, Net.size, Time.size, Analog.size, Dio.size, Acq.size, Can.size, Safe.size, Integ.size, Snap.size, modifyAt_length, List.length_map]
    | with_reducible assumption
    | split

theorem State.runTrack_keeps {s t : State} (n : Nat) (k : Nat) (r : Rec) (meas : List Slot) (ff : Option Slot) (h : Keeps s t) : Keeps s (State.runTrack t n k r meas ff) := by
  unfold State.runTrack
  try dsimp only
  repeat' first
    | with_reducible apply State.finishRun_keeps
    | with_reducible apply Keeps.ite
    | with_reducible apply Keeps.forUpTo
    | with_reducible apply Keeps.forEach
    | with_reducible apply Keeps.foldl
    | with_reducible apply Keeps.foldlFst
    | intro _ _ _
    | intro _ _
    | intro _
    | simp only [Keeps.upd_iff]
    | simp only [Keeps.upd_iff, Power.size, Seal.size, Net.size, Time.size, Analog.size, Dio.size, Acq.size, Can.size, Safe.size, Integ.size, Snap.size, modifyAt_length, List.length_map]
    | with_reducible assumption
    | split

theorem State.runManual_keeps {s t : State} (n : Nat) (k : Nat) (r : Rec) (meas : List Slot) (ff : Option Slot) (h : Keeps s t) : Keeps s (State.runManual t n k r meas ff) := by
  unfold State.runManual
  try dsimp only
  repeat' first
    | with_reducible apply State.finishRun_keeps
    | with_reducible apply Keeps.ite
    | with_reducible apply Keeps.forUpTo
    | with_reducible apply Keeps.forEach
    | with_reducible apply Keeps.foldl
    | with_reducible apply Keeps.foldlFst
    | intro _ _ _
    | intro _ _
    | intro _
    | simp only [Keeps.upd_iff]
    | simp only [Keeps.upd_iff, Power.size, Seal.size, Net.size, Time.size, Analog.size, Dio.size, Acq.size, Can.size, Safe.size, Integ.size, Snap.size, modifyAt_length, List.length_map]
    | with_reducible assumption
    | split

theorem State.cellExec_keeps {s t : State} (n : Nat) (k : Nat) (h : Keeps s t) : Keeps s (State.cellExec t n k) := by
  unfold State.cellExec
  try dsimp only
  repeat' first
    | with_reducible apply State.applyMode_keeps
    | with_reducible apply State.runLaw_keeps
    | with_reducible apply State.runTrack_keeps
    | with_reducible apply State.runManual_keeps
    | with_reducible apply State.setReg_keeps
    | with_reducible apply State.bump_keeps
    | with_reducible apply State.clrReg_keeps
    | with_reducible apply Keeps.ite
    | with_reducible apply Keeps.forUpTo
    | with_reducible apply Keeps.forEach
    | with_reducible apply Keeps.foldl
    | with_reducible apply Keeps.foldlFst
    | intro _ _ _
    | intro _ _
    | intro _
    | simp only [Keeps.upd_iff]
    | simp only [Keeps.upd_iff, Power.size, Seal.size, Net.size, Time.size, Analog.size, Dio.size, Acq.size, Can.size, Safe.size, Integ.size, Snap.size, modifyAt_length, List.length_map]
    | with_reducible assumption
    | split

theorem State.cellSkip_keeps {s t : State} (n : Nat) (k : Nat) (h : Keeps s t) : Keeps s (State.cellSkip t n k) := by
  unfold State.cellSkip
  try dsimp only
  repeat' first
    | with_reducible apply State.bump_keeps
    | with_reducible apply State.orReg_keeps
    | with_reducible apply State.raiseCounted_keeps
    | with_reducible apply State.stageQ_keeps
    | with_reducible apply Keeps.ite
    | with_reducible apply Keeps.forUpTo
    | with_reducible apply Keeps.forEach
    | with_reducible apply Keeps.foldl
    | with_reducible apply Keeps.foldlFst
    | intro _ _ _
    | intro _ _
    | intro _
    | simp only [Keeps.upd_iff]
    | simp only [Keeps.upd_iff, Power.size, Seal.size, Net.size, Time.size, Analog.size, Dio.size, Acq.size, Can.size, Safe.size, Integ.size, Snap.size, modifyAt_length, List.length_map]
    | with_reducible assumption
    | split

theorem State.tileCells_keeps {s t : State} (tq : Nat) (k : Nat) (h : Keeps s t) : Keeps s (State.tileCells t tq k) := by
  unfold State.tileCells
  try dsimp only
  repeat' first
    | with_reducible apply State.cellExec_keeps
    | with_reducible apply State.cellSkip_keeps
    | with_reducible apply Keeps.ite
    | with_reducible apply Keeps.forUpTo
    | with_reducible apply Keeps.forEach
    | with_reducible apply Keeps.foldl
    | with_reducible apply Keeps.foldlFst
    | intro _ _ _
    | intro _ _
    | intro _
    | simp only [Keeps.upd_iff]
    | simp only [Keeps.upd_iff, Power.size, Seal.size, Net.size, Time.size, Analog.size, Dio.size, Acq.size, Can.size, Safe.size, Integ.size, Snap.size, modifyAt_length, List.length_map]
    | with_reducible assumption
    | split

theorem State.runCells_keeps {s t : State} (k : Nat) (h : Keeps s t) : Keeps s (State.runCells t k) := by
  unfold State.runCells
  try dsimp only
  repeat' first
    | with_reducible apply State.tileCells_keeps
    | with_reducible apply Keeps.ite
    | with_reducible apply Keeps.forUpTo
    | with_reducible apply Keeps.forEach
    | with_reducible apply Keeps.foldl
    | with_reducible apply Keeps.foldlFst
    | intro _ _ _
    | intro _ _
    | intro _
    | simp only [Keeps.upd_iff]
    | simp only [Keeps.upd_iff, Power.size, Seal.size, Net.size, Time.size, Analog.size, Dio.size, Acq.size, Can.size, Safe.size, Integ.size, Snap.size, modifyAt_length, List.length_map]
    | with_reducible assumption
    | split

theorem State.publishTile_keeps {s t : State} (tq : Nat) (k : Nat) (h : Keeps s t) : Keeps s (State.publishTile t tq k) := by
  unfold State.publishTile
  try dsimp only
  repeat' first
    | with_reducible apply State.setReg_keeps
    | with_reducible apply State.bump_keeps
    | with_reducible apply State.maxReg_keeps
    | with_reducible apply Keeps.ite
    | with_reducible apply Keeps.forUpTo
    | with_reducible apply Keeps.forEach
    | with_reducible apply Keeps.foldl
    | with_reducible apply Keeps.foldlFst
    | intro _ _ _
    | intro _ _
    | intro _
    | simp only [Keeps.upd_iff]
    | simp only [Keeps.upd_iff, Power.size, Seal.size, Net.size, Time.size, Analog.size, Dio.size, Acq.size, Can.size, Safe.size, Integ.size, Snap.size, modifyAt_length, List.length_map]
    | with_reducible assumption
    | split

theorem State.loadCell_keeps {s t : State} (r : Rec) (h : Keeps s t) : Keeps s (State.loadCell t r) := by
  unfold State.loadCell
  try dsimp only
  repeat' first
    | with_reducible apply State.setRegs_keeps
    | with_reducible apply State.setImage_keeps
    | with_reducible apply State.setReg_keeps
    | with_reducible apply Keeps.ite
    | with_reducible apply Keeps.forUpTo
    | with_reducible apply Keeps.forEach
    | with_reducible apply Keeps.foldl
    | with_reducible apply Keeps.foldlFst
    | intro _ _ _
    | intro _ _
    | intro _
    | simp only [Keeps.upd_iff]
    | simp only [Keeps.upd_iff, Power.size, Seal.size, Net.size, Time.size, Analog.size, Dio.size, Acq.size, Can.size, Safe.size, Integ.size, Snap.size, modifyAt_length, List.length_map]
    | with_reducible assumption
    | split

theorem State.loadTile_keeps {s t : State} (tq : Nat) (h : Keeps s t) : Keeps s (State.loadTile t tq) := by
  unfold State.loadTile
  try dsimp only
  repeat' first
    | with_reducible apply State.setReg_keeps
    | with_reducible apply Keeps.ite
    | with_reducible apply Keeps.forUpTo
    | with_reducible apply Keeps.forEach
    | with_reducible apply Keeps.foldl
    | with_reducible apply Keeps.foldlFst
    | intro _ _ _
    | intro _ _
    | intro _
    | simp only [Keeps.upd_iff]
    | simp only [Keeps.upd_iff, Power.size, Seal.size, Net.size, Time.size, Analog.size, Dio.size, Acq.size, Can.size, Safe.size, Integ.size, Snap.size, modifyAt_length, List.length_map]
    | with_reducible assumption
    | split

theorem State.loadCells_keeps {s t : State} (h : Keeps s t) : Keeps s (State.loadCells t) := by
  unfold State.loadCells
  try dsimp only
  repeat' first
    | with_reducible apply State.loadCell_keeps
    | with_reducible apply State.loadTile_keeps
    | with_reducible apply Keeps.ite
    | with_reducible apply Keeps.forUpTo
    | with_reducible apply Keeps.forEach
    | with_reducible apply Keeps.foldl
    | with_reducible apply Keeps.foldlFst
    | intro _ _ _
    | intro _ _
    | intro _
    | simp only [Keeps.upd_iff]
    | simp only [Keeps.upd_iff, Power.size, Seal.size, Net.size, Time.size, Analog.size, Dio.size, Acq.size, Can.size, Safe.size, Integ.size, Snap.size, modifyAt_length, List.length_map]
    | with_reducible assumption
    | split

theorem State.unloadCells_keeps {s t : State} (h : Keeps s t) : Keeps s (State.unloadCells t) := by
  refine (State.modArch_keeps (fun a => { a with cells := [] }) (fun _ k => Arch.wf_cells _ rfl k) h).step rfl rfl rfl rfl
    fun k => ?_
  simp only [State.wf, State.unloadCells, State.modArch, Bool.and_eq_true] at k ⊢
  simp only [k, and_true]
  exact tabFilter_wf (by simp only [k])

end Sys2Proof.Machine
end

