-- ==== Sys2Proof/Laws/KeptCheck.lean ====
section
/-! SUPPORT. What the operations of Machine/Check.lean keep. -/

set_option linter.all false

namespace Sys2Proof.Machine

theorem State.modInteg_keeps {s t : State} (f : Integ → Integ) (hf : ∀ x, x.size = (8, 16, 8) → (f x).size = (8, 16, 8)) (h : Keeps s t) :
    Keeps s (t.modInteg f) := by
  refine h.step rfl rfl rfl rfl fun k => ?_
  simp only [State.wf, State.modInteg, Bool.and_eq_true, beq_iff_eq] at k ⊢
  simp only [k, and_true, true_and]
  exact hf _ (by simp only [k])

theorem State.setScan_keeps {s t : State} (c : Nat) (x : Option ChkScan) (h : Keeps s t) : Keeps s (State.setScan t c x) := by
  unfold State.setScan
  try dsimp only
  repeat' first
    | with_reducible apply State.modInteg_keeps
    | with_reducible apply Keeps.ite
    | with_reducible apply Keeps.forUpTo
    | with_reducible apply Keeps.forEach
    | with_reducible apply Keeps.foldl
    | with_reducible apply Keeps.foldlFst
    | exact fun _ k => k
    | exact fun _ _ => rfl
    | exact fun _ k => by simpa only [Power.size, Seal.size, Net.size, Time.size, Analog.size, Dio.size, Acq.size, Can.size, Safe.size, Integ.size, Snap.size, modifyAt_length, List.length_map] using k
    | intro _ _ _
    | intro _ _
    | intro _
    | simp only [Keeps.upd_iff]
    | simp only [Keeps.upd_iff, Power.size, Seal.size, Net.size, Time.size, Analog.size, Dio.size, Acq.size, Can.size, Safe.size, Integ.size, Snap.size, modifyAt_length, List.length_map]
    | with_reducible assumption
    | split

theorem State.chkError_keeps {s t : State} (c : Nat) (err : Nat) (done : Nat) (h : Keeps s t) : Keeps s (State.chkError t c err done) := by
  unfold State.chkError
  try dsimp only
  repeat' first
    | with_reducible apply State.setScan_keeps
    | with_reducible apply State.setReg_keeps
    | with_reducible apply Keeps.ite
    | with_reducible apply Keeps.forUpTo
    | with_reducible apply Keeps.forEach
    | with_reducible apply Keeps.foldl
    | with_reducible apply Keeps.foldlFst
    | intro _ _ _
    | intro _ _
    | intro _
    | simp only [Keeps.upd_iff]
    | simp only [Keeps.upd_iff, Power.size, Seal.size, Net.size, Time.size, Analog.size, Dio.size, Acq.size, Can.size, Safe.size, Integ.size, Snap.size, modifyAt_length, List.length_map]
    | with_reducible assumption
    | split

theorem State.chkStart_keeps {s t : State} (c : Nat) (h : Keeps s t) : Keeps s (State.chkStart t c) := by
  unfold State.chkStart
  try dsimp only
  repeat' first
    | with_reducible apply State.setScan_keeps
    | with_reducible apply State.chkError_keeps
    | with_reducible apply State.setReg_keeps
    | with_reducible apply Keeps.ite
    | with_reducible apply Keeps.forUpTo
    | with_reducible apply Keeps.forEach
    | with_reducible apply Keeps.foldl
    | with_reducible apply Keeps.foldlFst
    | intro _ _ _
    | intro _ _
    | intro _
    | simp only [Keeps.upd_iff]
    | simp only [Keeps.upd_iff, Power.size, Seal.size, Net.size, Time.size, Analog.size, Dio.size, Acq.size, Can.size, Safe.size, Integ.size, Snap.size, modifyAt_length, List.length_map]
    | with_reducible assumption
    | split

theorem State.chkAbort_keeps {s t : State} (c : Nat) (done : Nat) (h : Keeps s t) : Keeps s (State.chkAbort t c done) := by
  unfold State.chkAbort
  try dsimp only
  repeat' first
    | with_reducible apply State.chkError_keeps
    | with_reducible apply Keeps.ite
    | with_reducible apply Keeps.forUpTo
    | with_reducible apply Keeps.forEach
    | with_reducible apply Keeps.foldl
    | with_reducible apply Keeps.foldlFst
    | intro _ _ _
    | intro _ _
    | intro _
    | simp only [Keeps.upd_iff]
    | simp only [Keeps.upd_iff, Power.size, Seal.size, Net.size, Time.size, Analog.size, Dio.size, Acq.size, Can.size, Safe.size, Integ.size, Snap.size, modifyAt_length, List.length_map]
    | with_reducible assumption
    | split

theorem State.writeChk_keeps {s t : State} (c : Nat) (w : Word) (h : Keeps s t) : Keeps s (State.writeChk t c w) := by
  unfold State.writeChk
  try dsimp only
  repeat' first
    | with_reducible apply State.chkStart_keeps
    | with_reducible apply State.chkAbort_keeps
    | with_reducible apply State.setReg_keeps
    | with_reducible apply Keeps.ite
    | with_reducible apply Keeps.forUpTo
    | with_reducible apply Keeps.forEach
    | with_reducible apply Keeps.foldl
    | with_reducible apply Keeps.foldlFst
    | intro _ _ _
    | intro _ _
    | intro _
    | simp only [Keeps.upd_iff]
    | simp only [Keeps.upd_iff, Power.size, Seal.size, Net.size, Time.size, Analog.size, Dio.size, Acq.size, Can.size, Safe.size, Integ.size, Snap.size, modifyAt_length, List.length_map]
    | with_reducible assumption
    | split

theorem State.chkScanDone_keeps {s t : State} (c : Nat) (ecc : Option Nat) (h : Keeps s t) : Keeps s (State.chkScanDone t c ecc) := by
  unfold State.chkScanDone
  try dsimp only
  repeat' first
    | with_reducible apply State.modInteg_keeps
    | with_reducible apply State.setScan_keeps
    | with_reducible apply State.chkError_keeps
    | with_reducible apply State.setReg_keeps
    | with_reducible apply State.setReg64_keeps
    | with_reducible apply State.useFree_keeps
    | with_reducible apply Keeps.ite
    | with_reducible apply Keeps.forUpTo
    | with_reducible apply Keeps.forEach
    | with_reducible apply Keeps.foldl
    | with_reducible apply Keeps.foldlFst
    | exact fun _ k => k
    | exact fun _ _ => rfl
    | exact fun _ k => by simpa only [Power.size, Seal.size, Net.size, Time.size, Analog.size, Dio.size, Acq.size, Can.size, Safe.size, Integ.size, Snap.size, modifyAt_length, List.length_map] using k
    | intro _ _ _
    | intro _ _
    | intro _
    | simp only [Keeps.upd_iff]
    | simp only [Keeps.upd_iff, Power.size, Seal.size, Net.size, Time.size, Analog.size, Dio.size, Acq.size, Can.size, Safe.size, Integ.size, Snap.size, modifyAt_length, List.length_map]
    | with_reducible assumption
    | split

theorem State.chkT0_keeps {s t : State} (h : Keeps s t) : Keeps s (State.chkT0 t) := by
  unfold State.chkT0
  try dsimp only
  repeat' first
    | with_reducible apply State.chkError_keeps
    | with_reducible apply Keeps.ite
    | with_reducible apply Keeps.forUpTo
    | with_reducible apply Keeps.forEach
    | with_reducible apply Keeps.foldl
    | with_reducible apply Keeps.foldlFst
    | intro _ _ _
    | intro _ _
    | intro _
    | simp only [Keeps.upd_iff]
    | simp only [Keeps.upd_iff, Power.size, Seal.size, Net.size, Time.size, Analog.size, Dio.size, Acq.size, Can.size, Safe.size, Integ.size, Snap.size, modifyAt_length, List.length_map]
    | with_reducible assumption
    | split

theorem State.writeRec_keeps {s t : State} (r : TestRec) (h : Keeps s t) : Keeps s (State.writeRec t r) := by
  unfold State.writeRec
  try dsimp only
  repeat' first
    | with_reducible apply State.setReg_keeps
    | with_reducible apply State.bump_keeps
    | with_reducible apply State.putFld_keeps
    | with_reducible apply Keeps.ite
    | with_reducible apply Keeps.forUpTo
    | with_reducible apply Keeps.forEach
    | with_reducible apply Keeps.foldl
    | with_reducible apply Keeps.foldlFst
    | intro _ _ _
    | intro _ _
    | intro _
    | simp only [Keeps.upd_iff]
    | simp only [Keeps.upd_iff, Power.size, Seal.size, Net.size, Time.size, Analog.size, Dio.size, Acq.size, Can.size, Safe.size, Integ.size, Snap.size, modifyAt_length, List.length_map]
    | with_reducible assumption
    | split

theorem State.emptyRecs_keeps {s t : State} (last : Nat) (h : Keeps s t) : Keeps s (State.emptyRecs t last) := by
  unfold State.emptyRecs
  try dsimp only
  repeat' first
    | with_reducible apply State.setReg_keeps
    | with_reducible apply Keeps.ite
    | with_reducible apply Keeps.forUpTo
    | with_reducible apply Keeps.forEach
    | with_reducible apply Keeps.foldl
    | with_reducible apply Keeps.foldlFst
    | intro _ _ _
    | intro _ _
    | intro _
    | simp only [Keeps.upd_iff]
    | simp only [Keeps.upd_iff, Power.size, Seal.size, Net.size, Time.size, Analog.size, Dio.size, Acq.size, Can.size, Safe.size, Integ.size, Snap.size, modifyAt_length, List.length_map]
    | with_reducible assumption
    | split

theorem State.markFailed_keeps {s t : State} (u : Nat) (h : Keeps s t) : Keeps s (State.markFailed t u) := by
  unfold State.markFailed
  try dsimp only
  repeat' first
    | with_reducible apply State.orReg_keeps
    | with_reducible apply State.modLane_keeps
    | with_reducible apply Keeps.ite
    | with_reducible apply Keeps.forUpTo
    | with_reducible apply Keeps.forEach
    | with_reducible apply Keeps.foldl
    | with_reducible apply Keeps.foldlFst
    | intro _ _ _
    | intro _ _
    | intro _
    | simp only [Keeps.upd_iff]
    | simp only [Keeps.upd_iff, Power.size, Seal.size, Net.size, Time.size, Analog.size, Dio.size, Acq.size, Can.size, Safe.size, Integ.size, Snap.size, modifyAt_length, List.length_map]
    | with_reducible assumption
    | split

theorem State.takeResults_keeps {s t : State} (l : List TestRec) (h : Keeps s t) : Keeps s (State.takeResults t l) := by
  unfold State.takeResults
  try dsimp only
  repeat' first
    | with_reducible apply State.writeRec_keeps
    | with_reducible apply State.markFailed_keeps
    | with_reducible apply State.bumpBy_keeps
    | with_reducible apply Keeps.ite
    | with_reducible apply Keeps.forUpTo
    | with_reducible apply Keeps.forEach
    | with_reducible apply Keeps.foldl
    | with_reducible apply Keeps.foldlFst
    | intro _ _ _
    | intro _ _
    | intro _
    | simp only [Keeps.upd_iff]
    | simp only [Keeps.upd_iff, Power.size, Seal.size, Net.size, Time.size, Analog.size, Dio.size, Acq.size, Can.size, Safe.size, Integ.size, Snap.size, modifyAt_length, List.length_map]
    | with_reducible assumption
    | split

theorem State.postEvents_keeps {s t : State} (l : List TestRec) (held : Bool) (h : Keeps s t) : Keeps s (State.postEvents t l held) := by
  unfold State.postEvents
  try dsimp only
  repeat' first
    | with_reducible apply State.raise_keeps
    | with_reducible apply Keeps.ite
    | with_reducible apply Keeps.forUpTo
    | with_reducible apply Keeps.forEach
    | with_reducible apply Keeps.foldl
    | with_reducible apply Keeps.foldlFst
    | intro _ _ _
    | intro _ _
    | intro _
    | simp only [Keeps.upd_iff]
    | simp only [Keeps.upd_iff, Power.size, Seal.size, Net.size, Time.size, Analog.size, Dio.size, Acq.size, Can.size, Safe.size, Integ.size, Snap.size, modifyAt_length, List.length_map]
    | with_reducible assumption
    | split

theorem State.setLaneTest_keeps {s t : State} (tq : Nat) (x : Option Nat) (h : Keeps s t) : Keeps s (State.setLaneTest t tq x) := by
  unfold State.setLaneTest
  try dsimp only
  repeat' first
    | with_reducible apply State.modInteg_keeps
    | with_reducible apply Keeps.ite
    | with_reducible apply Keeps.forUpTo
    | with_reducible apply Keeps.forEach
    | with_reducible apply Keeps.foldl
    | with_reducible apply Keeps.foldlFst
    | exact fun _ k => k
    | exact fun _ _ => rfl
    | exact fun _ k => by simpa only [Power.size, Seal.size, Net.size, Time.size, Analog.size, Dio.size, Acq.size, Can.size, Safe.size, Integ.size, Snap.size, modifyAt_length, List.length_map] using k
    | intro _ _ _
    | intro _ _
    | intro _
    | simp only [Keeps.upd_iff]
    | simp only [Keeps.upd_iff, Power.size, Seal.size, Net.size, Time.size, Analog.size, Dio.size, Acq.size, Can.size, Safe.size, Integ.size, Snap.size, modifyAt_length, List.length_map]
    | with_reducible assumption
    | split

theorem State.istFail_keeps {s t : State} (u : Nat) (inst : Nat) (data : Word) (h : Keeps s t) : Keeps s (State.istFail t u inst data) := by
  unfold State.istFail
  try dsimp only
  repeat' first
    | with_reducible apply State.writeRec_keeps
    | with_reducible apply State.markFailed_keeps
    | with_reducible apply State.raise_keeps
    | with_reducible apply Keeps.ite
    | with_reducible apply Keeps.forUpTo
    | with_reducible apply Keeps.forEach
    | with_reducible apply Keeps.foldl
    | with_reducible apply Keeps.foldlFst
    | intro _ _ _
    | intro _ _
    | intro _
    | simp only [Keeps.upd_iff]
    | simp only [Keeps.upd_iff, Power.size, Seal.size, Net.size, Time.size, Analog.size, Dio.size, Acq.size, Can.size, Safe.size, Integ.size, Snap.size, modifyAt_length, List.length_map]
    | with_reducible assumption
    | split

theorem State.lanePeriod_keeps {s t : State} (tq : Nat) (h : Keeps s t) : Keeps s (State.lanePeriod t tq) := by
  unfold State.lanePeriod
  try dsimp only
  repeat' first
    | with_reducible apply State.setLaneTest_keeps
    | with_reducible apply State.bump_keeps
    | with_reducible apply Keeps.ite
    | with_reducible apply Keeps.forUpTo
    | with_reducible apply Keeps.forEach
    | with_reducible apply Keeps.foldl
    | with_reducible apply Keeps.foldlFst
    | intro _ _ _
    | intro _ _
    | intro _
    | simp only [Keeps.upd_iff]
    | simp only [Keeps.upd_iff, Power.size, Seal.size, Net.size, Time.size, Analog.size, Dio.size, Acq.size, Can.size, Safe.size, Integ.size, Snap.size, modifyAt_length, List.length_map]
    | with_reducible assumption
    | split

theorem State.segmentDone_keeps {s t : State} (tq : Nat) (pass : Bool) (sig : Word) (h : Keeps s t) : Keeps s (State.segmentDone t tq pass sig) := by
  unfold State.segmentDone
  try dsimp only
  repeat' first
    | with_reducible apply State.setLaneTest_keeps
    | with_reducible apply State.istFail_keeps
    | with_reducible apply State.bump_keeps
    | with_reducible apply Keeps.ite
    | with_reducible apply Keeps.forUpTo
    | with_reducible apply Keeps.forEach
    | with_reducible apply Keeps.foldl
    | with_reducible apply Keeps.foldlFst
    | intro _ _ _
    | intro _ _
    | intro _
    | simp only [Keeps.upd_iff]
    | simp only [Keeps.upd_iff, Power.size, Seal.size, Net.size, Time.size, Analog.size, Dio.size, Acq.size, Can.size, Safe.size, Integ.size, Snap.size, modifyAt_length, List.length_map]
    | with_reducible assumption
    | split

theorem State.laneYield_keeps {s t : State} (tq : Nat) (h : Keeps s t) : Keeps s (State.laneYield t tq) := by
  unfold State.laneYield
  try dsimp only
  repeat' first
    | with_reducible apply State.bump_keeps
    | with_reducible apply Keeps.ite
    | with_reducible apply Keeps.forUpTo
    | with_reducible apply Keeps.forEach
    | with_reducible apply Keeps.foldl
    | with_reducible apply Keeps.foldlFst
    | intro _ _ _
    | intro _ _
    | intro _
    | simp only [Keeps.upd_iff]
    | simp only [Keeps.upd_iff, Power.size, Seal.size, Net.size, Time.size, Analog.size, Dio.size, Acq.size, Can.size, Safe.size, Integ.size, Snap.size, modifyAt_length, List.length_map]
    | with_reducible assumption
    | split

theorem State.adcSelfTest_keeps {s t : State} (c : Nat) (ref : Int) (zero : Int) (h : Keeps s t) : Keeps s (State.adcSelfTest t c ref zero) := by
  unfold State.adcSelfTest
  try dsimp only
  repeat' first
    | with_reducible apply State.modInteg_keeps
    | with_reducible apply State.istFail_keeps
    | with_reducible apply State.bump_keeps
    | with_reducible apply Keeps.ite
    | with_reducible apply Keeps.forUpTo
    | with_reducible apply Keeps.forEach
    | with_reducible apply Keeps.foldl
    | with_reducible apply Keeps.foldlFst
    | exact fun _ k => k
    | exact fun _ _ => rfl
    | exact fun _ k => by simpa only [Power.size, Seal.size, Net.size, Time.size, Analog.size, Dio.size, Acq.size, Can.size, Safe.size, Integ.size, Snap.size, modifyAt_length, List.length_map] using k
    | intro _ _ _
    | intro _ _
    | intro _
    | simp only [Keeps.upd_iff]
    | simp only [Keeps.upd_iff, Power.size, Seal.size, Net.size, Time.size, Analog.size, Dio.size, Acq.size, Can.size, Safe.size, Integ.size, Snap.size, modifyAt_length, List.length_map]
    | with_reducible assumption
    | split

theorem State.programFuses_keeps {s t : State} (l : List Repair) (h : Keeps s t) : Keeps s (State.programFuses t l) := by
  unfold State.programFuses
  try dsimp only
  repeat' first
    | with_reducible apply State.modInteg_keeps
    | with_reducible apply State.setReg_keeps
    | with_reducible apply Keeps.ite
    | with_reducible apply Keeps.forUpTo
    | with_reducible apply Keeps.forEach
    | with_reducible apply Keeps.foldl
    | with_reducible apply Keeps.foldlFst
    | exact fun _ k => k
    | exact fun _ _ => rfl
    | exact fun _ k => by simpa only [Power.size, Seal.size, Net.size, Time.size, Analog.size, Dio.size, Acq.size, Can.size, Safe.size, Integ.size, Snap.size, modifyAt_length, List.length_map] using k
    | intro _ _ _
    | intro _ _
    | intro _
    | simp only [Keeps.upd_iff]
    | simp only [Keeps.upd_iff, Power.size, Seal.size, Net.size, Time.size, Analog.size, Dio.size, Acq.size, Can.size, Safe.size, Integ.size, Snap.size, modifyAt_length, List.length_map]
    | with_reducible assumption
    | split

end Sys2Proof.Machine
end

