-- ==== Sys2Proof/Laws/KeptDio.lean ====
section
/-! SUPPORT. What the operations of Machine/Dio.lean keep. -/

set_option linter.all false

namespace Sys2Proof.Machine

theorem State.modBall_keeps {s t : State} (n : Nat) (f : Ball → Ball) (h : Keeps s t) : Keeps s (State.modBall t n f) := by
  unfold State.modBall
  try dsimp only
  repeat' first
    | with_reducible apply Keeps.ite
    | with_reducible apply Keeps.forUpTo
    | with_reducible apply Keeps.forEach
    | with_reducible apply Keeps.foldl
    | with_reducible apply Keeps.foldlFst
    | intro _ _ _
    | intro _ _
    | intro _
    | simp only [Keeps.upd_iff]
    | simp only [Keeps.upd_iff, Power.size, Seal.size, Net.size, Time.size, Analog.size, Dio.size, Acq.size, Can.size, Safe.size, Integ.size, Snap.size, modifyAt_length, List.length_map]
    | with_reducible assumption
    | split

theorem State.modDio_keeps {s t : State} (f : Dio → Dio) (hf : ∀ x, x.size = (64, 21) → (f x).size = (64, 21)) (h : Keeps s t) :
    Keeps s (t.modDio f) := by
  refine h.step rfl rfl rfl rfl fun k => ?_
  simp only [State.wf, State.modDio, Bool.and_eq_true, beq_iff_eq] at k ⊢
  simp only [k, and_true, true_and]
  exact hf _ (by simp only [k])

theorem State.dioTake_keeps {s t : State} (n : Nat) (x : F32) (h : Keeps s t) : Keeps s (State.dioTake t n x) := by
  unfold State.dioTake
  try dsimp only
  repeat' first
    | with_reducible apply State.modBall_keeps
    | with_reducible apply State.orReg_keeps
    | with_reducible apply Keeps.ite
    | with_reducible apply Keeps.forUpTo
    | with_reducible apply Keeps.forEach
    | with_reducible apply Keeps.foldl
    | with_reducible apply Keeps.foldlFst
    | intro _ _ _
    | intro _ _
    | intro _
    | simp only [Keeps.upd_iff]
    | simp only [Keeps.upd_iff, Power.size, Seal.size, Net.size, Time.size, Analog.size, Dio.size, Acq.size, Can.size, Safe.size, Integ.size, Snap.size, modifyAt_length, List.length_map]
    | with_reducible assumption
    | split

theorem State.dioEdgeCommit_keeps {s t : State} (slot : Nat) (x : F32) (h : Keeps s t) : Keeps s (State.dioEdgeCommit t slot x) := by
  unfold State.dioEdgeCommit
  try dsimp only
  repeat' first
    | with_reducible apply State.dioTake_keeps
    | with_reducible apply Keeps.ite
    | with_reducible apply Keeps.forUpTo
    | with_reducible apply Keeps.forEach
    | with_reducible apply Keeps.foldl
    | with_reducible apply Keeps.foldlFst
    | intro _ _ _
    | intro _ _
    | intro _
    | simp only [Keeps.upd_iff]
    | simp only [Keeps.upd_iff, Power.size, Seal.size, Net.size, Time.size, Analog.size, Dio.size, Acq.size, Can.size, Safe.size, Integ.size, Snap.size, modifyAt_length, List.length_map]
    | with_reducible assumption
    | split

theorem State.dioHold_keeps {s t : State} (h : Keeps s t) : Keeps s t.dioHold :=
  State.modDio_keeps _ (fun _ k => by simpa only [Dio.size, List.length_map, List.length_zipIdx] using k) h

theorem State.pwmDuty_keeps {s t : State} (n : Nat) (x : F32) (h : Keeps s t) : Keeps s (State.pwmDuty t n x) := by
  unfold State.pwmDuty
  try dsimp only
  repeat' first
    | with_reducible apply State.modBall_keeps
    | with_reducible apply State.orReg_keeps
    | with_reducible apply Keeps.ite
    | with_reducible apply Keeps.forUpTo
    | with_reducible apply Keeps.forEach
    | with_reducible apply Keeps.foldl
    | with_reducible apply Keeps.foldlFst
    | intro _ _ _
    | intro _ _
    | intro _
    | simp only [Keeps.upd_iff]
    | simp only [Keeps.upd_iff, Power.size, Seal.size, Net.size, Time.size, Analog.size, Dio.size, Acq.size, Can.size, Safe.size, Integ.size, Snap.size, modifyAt_length, List.length_map]
    | with_reducible assumption
    | split

theorem State.pwmLevel_keeps {s t : State} (n : Nat) (v : Bool) (h : Keeps s t) : Keeps s (State.pwmLevel t n v) := by
  unfold State.pwmLevel
  try dsimp only
  repeat' first
    | with_reducible apply State.pwmStarts_keeps
    | with_reducible apply State.modBall_keeps
    | with_reducible apply Keeps.ite
    | with_reducible apply Keeps.forUpTo
    | with_reducible apply Keeps.forEach
    | with_reducible apply Keeps.foldl
    | with_reducible apply Keeps.foldlFst
    | intro _ _ _
    | intro _ _
    | intro _
    | simp only [Keeps.upd_iff]
    | simp only [Keeps.upd_iff, Power.size, Seal.size, Net.size, Time.size, Analog.size, Dio.size, Acq.size, Can.size, Safe.size, Integ.size, Snap.size, modifyAt_length, List.length_map]
    | with_reducible assumption
    | split

theorem State.pwmPeriodStart_keeps {s t : State} (n : Nat) (h : Keeps s t) : Keeps s (State.pwmPeriodStart t n) := by
  unfold State.pwmPeriodStart
  try dsimp only
  repeat' first
    | with_reducible apply State.modBall_keeps
    | with_reducible apply State.pwmLevel_keeps
    | with_reducible apply Keeps.ite
    | with_reducible apply Keeps.forUpTo
    | with_reducible apply Keeps.forEach
    | with_reducible apply Keeps.foldl
    | with_reducible apply Keeps.foldlFst
    | intro _ _ _
    | intro _ _
    | intro _
    | simp only [Keeps.upd_iff]
    | simp only [Keeps.upd_iff, Power.size, Seal.size, Net.size, Time.size, Analog.size, Dio.size, Acq.size, Can.size, Safe.size, Integ.size, Snap.size, modifyAt_length, List.length_map]
    | with_reducible assumption
    | split

theorem State.pwmEdge_keeps {s t : State} (n : Nat) (kind : Nat) (h : Keeps s t) : Keeps s (State.pwmEdge t n kind) := by
  unfold State.pwmEdge
  try dsimp only
  repeat' first
    | with_reducible apply State.pwmStarts_keeps
    | with_reducible apply State.pwmLevel_keeps
    | with_reducible apply Keeps.ite
    | with_reducible apply Keeps.forUpTo
    | with_reducible apply Keeps.forEach
    | with_reducible apply Keeps.foldl
    | with_reducible apply Keeps.foldlFst
    | intro _ _ _
    | intro _ _
    | intro _
    | simp only [Keeps.upd_iff]
    | simp only [Keeps.upd_iff, Power.size, Seal.size, Net.size, Time.size, Analog.size, Dio.size, Acq.size, Can.size, Safe.size, Integ.size, Snap.size, modifyAt_length, List.length_map]
    | with_reducible assumption
    | split

theorem State.pulseSample_keeps {s t : State} (n : Nat) (starts : Bool) (h : Keeps s t) : Keeps s (State.pulseSample t n starts) := by
  unfold State.pulseSample
  try dsimp only
  repeat' first
    | with_reducible apply State.modBall_keeps
    | with_reducible apply State.bump_keeps
    | with_reducible apply State.orReg_keeps
    | with_reducible apply Keeps.ite
    | with_reducible apply Keeps.forUpTo
    | with_reducible apply Keeps.forEach
    | with_reducible apply Keeps.foldl
    | with_reducible apply Keeps.foldlFst
    | intro _ _ _
    | intro _ _
    | intro _
    | simp only [Keeps.upd_iff]
    | simp only [Keeps.upd_iff, Power.size, Seal.size, Net.size, Time.size, Analog.size, Dio.size, Acq.size, Can.size, Safe.size, Integ.size, Snap.size, modifyAt_length, List.length_map]
    | with_reducible assumption
    | split

theorem State.pulseRise_keeps {s t : State} (n : Nat) (h : Keeps s t) : Keeps s (State.pulseRise t n) := by
  unfold State.pulseRise
  try dsimp only
  repeat' first
    | with_reducible apply State.modBall_keeps
    | with_reducible apply Keeps.ite
    | with_reducible apply Keeps.forUpTo
    | with_reducible apply Keeps.forEach
    | with_reducible apply Keeps.foldl
    | with_reducible apply Keeps.foldlFst
    | intro _ _ _
    | intro _ _
    | intro _
    | simp only [Keeps.upd_iff]
    | simp only [Keeps.upd_iff, Power.size, Seal.size, Net.size, Time.size, Analog.size, Dio.size, Acq.size, Can.size, Safe.size, Integ.size, Snap.size, modifyAt_length, List.length_map]
    | with_reducible assumption
    | split

theorem State.pulseFall_keeps {s t : State} (n : Nat) (h : Keeps s t) : Keeps s (State.pulseFall t n) := by
  unfold State.pulseFall
  try dsimp only
  repeat' first
    | with_reducible apply State.modBall_keeps
    | with_reducible apply Keeps.ite
    | with_reducible apply Keeps.forUpTo
    | with_reducible apply Keeps.forEach
    | with_reducible apply Keeps.foldl
    | with_reducible apply Keeps.foldlFst
    | intro _ _ _
    | intro _ _
    | intro _
    | simp only [Keeps.upd_iff]
    | simp only [Keeps.upd_iff, Power.size, Seal.size, Net.size, Time.size, Analog.size, Dio.size, Acq.size, Can.size, Safe.size, Integ.size, Snap.size, modifyAt_length, List.length_map]
    | with_reducible assumption
    | split

theorem State.dioWrite_keeps {s t : State} (n : Nat) (lag : Nat) (v : F32) (flags : Nat) (h : Keeps s t) : Keeps s (State.dioWrite t n lag v flags) := by
  unfold State.dioWrite
  try dsimp only
  repeat' first
    | with_reducible apply State.stageAt_keeps
    | with_reducible apply Keeps.ite
    | with_reducible apply Keeps.forUpTo
    | with_reducible apply Keeps.forEach
    | with_reducible apply Keeps.foldl
    | with_reducible apply Keeps.foldlFst
    | intro _ _ _
    | intro _ _
    | intro _
    | simp only [Keeps.upd_iff]
    | simp only [Keeps.upd_iff, Power.size, Seal.size, Net.size, Time.size, Analog.size, Dio.size, Acq.size, Can.size, Safe.size, Integ.size, Snap.size, modifyAt_length, List.length_map]
    | with_reducible assumption
    | split

theorem State.dioAccept_keeps {s t : State} (n : Nat) (lag : Nat) (h : Keeps s t) : Keeps s (State.dioAccept t n lag) := by
  unfold State.dioAccept
  try dsimp only
  repeat' first
    | with_reducible apply State.dioWrite_keeps
    | with_reducible apply State.bump_keeps
    | with_reducible apply State.putFld_keeps
    | with_reducible apply Keeps.ite
    | with_reducible apply Keeps.forUpTo
    | with_reducible apply Keeps.forEach
    | with_reducible apply Keeps.foldl
    | with_reducible apply Keeps.foldlFst
    | intro _ _ _
    | intro _ _
    | intro _
    | simp only [Keeps.upd_iff]
    | simp only [Keeps.upd_iff, Power.size, Seal.size, Net.size, Time.size, Analog.size, Dio.size, Acq.size, Can.size, Safe.size, Integ.size, Snap.size, modifyAt_length, List.length_map]
    | with_reducible assumption
    | split

theorem State.dioChatter_keeps {s t : State} (n : Nat) (h : Keeps s t) : Keeps s (State.dioChatter t n) := by
  unfold State.dioChatter
  try dsimp only
  repeat' first
    | with_reducible apply State.modBall_keeps
    | with_reducible apply State.modDio_keeps
    | with_reducible apply State.orReg_keeps
    | with_reducible apply State.raiseLimited_keeps
    | with_reducible apply Keeps.ite
    | with_reducible apply Keeps.forUpTo
    | with_reducible apply Keeps.forEach
    | with_reducible apply Keeps.foldl
    | with_reducible apply Keeps.foldlFst
    | exact fun _ k => k
    | exact fun _ _ => rfl
    | exact fun _ k => by simpa only [Power.size, Seal.size, Net.size, Time.size, Analog.size, Dio.size, Acq.size, Can.size, Safe.size, Integ.size, Snap.size, modifyAt_length, List.length_map] using k
    | intro _ _ _
    | intro _ _
    | intro _
    | simp only [Keeps.upd_iff]
    | simp only [Keeps.upd_iff, Power.size, Seal.size, Net.size, Time.size, Analog.size, Dio.size, Acq.size, Can.size, Safe.size, Integ.size, Snap.size, modifyAt_length, List.length_map]
    | with_reducible assumption
    | split

theorem State.periodEdge_keeps {s t : State} (n : Nat) (lag : Nat) (tq : Nat) (h : Keeps s t) : Keeps s (State.periodEdge t n lag tq) := by
  unfold State.periodEdge
  try dsimp only
  repeat' first
    | with_reducible apply State.modBall_keeps
    | with_reducible apply State.dioWrite_keeps
    | with_reducible apply State.bump_keeps
    | with_reducible apply Keeps.ite
    | with_reducible apply Keeps.forUpTo
    | with_reducible apply Keeps.forEach
    | with_reducible apply Keeps.foldl
    | with_reducible apply Keeps.foldlFst
    | intro _ _ _
    | intro _ _
    | intro _
    | simp only [Keeps.upd_iff]
    | simp only [Keeps.upd_iff, Power.size, Seal.size, Net.size, Time.size, Analog.size, Dio.size, Acq.size, Can.size, Safe.size, Integ.size, Snap.size, modifyAt_length, List.length_map]
    | with_reducible assumption
    | split

theorem State.periodTimeout_keeps {s t : State} (n : Nat) (lag : Nat) (h : Keeps s t) : Keeps s (State.periodTimeout t n lag) := by
  unfold State.periodTimeout
  try dsimp only
  repeat' first
    | with_reducible apply State.modBall_keeps
    | with_reducible apply State.dioWrite_keeps
    | with_reducible apply Keeps.ite
    | with_reducible apply Keeps.forUpTo
    | with_reducible apply Keeps.forEach
    | with_reducible apply Keeps.foldl
    | with_reducible apply Keeps.foldlFst
    | intro _ _ _
    | intro _ _
    | intro _
    | simp only [Keeps.upd_iff]
    | simp only [Keeps.upd_iff, Power.size, Seal.size, Net.size, Time.size, Analog.size, Dio.size, Acq.size, Can.size, Safe.size, Integ.size, Snap.size, modifyAt_length, List.length_map]
    | with_reducible assumption
    | split

theorem State.captureEdge_keeps {s t : State} (n : Nat) (lag : Nat) (tq : Nat) (h : Keeps s t) : Keeps s (State.captureEdge t n lag tq) := by
  unfold State.captureEdge
  try dsimp only
  repeat' first
    | with_reducible apply State.dioWrite_keeps
    | with_reducible apply State.bump_keeps
    | with_reducible apply Keeps.ite
    | with_reducible apply Keeps.forUpTo
    | with_reducible apply Keeps.forEach
    | with_reducible apply Keeps.foldl
    | with_reducible apply Keeps.foldlFst
    | intro _ _ _
    | intro _ _
    | intro _
    | simp only [Keeps.upd_iff]
    | simp only [Keeps.upd_iff, Power.size, Seal.size, Net.size, Time.size, Analog.size, Dio.size, Acq.size, Can.size, Safe.size, Integ.size, Snap.size, modifyAt_length, List.length_map]
    | with_reducible assumption
    | split

theorem State.setEncCount_keeps {s t : State} (m : Nat) (w : Word) (h : Keeps s t) : Keeps s (State.setEncCount t m w) := by
  unfold State.setEncCount
  try dsimp only
  repeat' first
    | with_reducible apply State.modDio_keeps
    | with_reducible apply Keeps.ite
    | with_reducible apply Keeps.forUpTo
    | with_reducible apply Keeps.forEach
    | with_reducible apply Keeps.foldl
    | with_reducible apply Keeps.foldlFst
    | exact fun _ k => k
    | exact fun _ _ => rfl
    | exact fun _ k => by simpa only [Power.size, Seal.size, Net.size, Time.size, Analog.size, Dio.size, Acq.size, Can.size, Safe.size, Integ.size, Snap.size, modifyAt_length, List.length_map] using k
    | intro _ _ _
    | intro _ _
    | intro _
    | simp only [Keeps.upd_iff]
    | simp only [Keeps.upd_iff, Power.size, Seal.size, Net.size, Time.size, Analog.size, Dio.size, Acq.size, Can.size, Safe.size, Integ.size, Snap.size, modifyAt_length, List.length_map]
    | with_reducible assumption
    | split

theorem State.setLevel_keeps {s t : State} (n : Nat) (v : Bool) (h : Keeps s t) : Keeps s (State.setLevel t n v) := by
  unfold State.setLevel
  try dsimp only
  repeat' first
    | with_reducible apply State.modBall_keeps
    | with_reducible apply Keeps.ite
    | with_reducible apply Keeps.forUpTo
    | with_reducible apply Keeps.forEach
    | with_reducible apply Keeps.foldl
    | with_reducible apply Keeps.foldlFst
    | intro _ _ _
    | intro _ _
    | intro _
    | simp only [Keeps.upd_iff]
    | simp only [Keeps.upd_iff, Power.size, Seal.size, Net.size, Time.size, Analog.size, Dio.size, Acq.size, Can.size, Safe.size, Integ.size, Snap.size, modifyAt_length, List.length_map]
    | with_reducible assumption
    | split

theorem State.encAB_keeps {s t : State} (m : Nat) (a : Bool) (b : Bool) (h : Keeps s t) : Keeps s (State.encAB t m a b) := by
  unfold State.encAB
  try dsimp only
  repeat' first
    | with_reducible apply State.setEncCount_keeps
    | with_reducible apply State.setLevel_keeps
    | with_reducible apply State.bump_keeps
    | with_reducible apply State.useFree_keeps
    | with_reducible apply State.raiseCounted_keeps
    | with_reducible apply Keeps.ite
    | with_reducible apply Keeps.forUpTo
    | with_reducible apply Keeps.forEach
    | with_reducible apply Keeps.foldl
    | with_reducible apply Keeps.foldlFst
    | intro _ _ _
    | intro _ _
    | intro _
    | simp only [Keeps.upd_iff]
    | simp only [Keeps.upd_iff, Power.size, Seal.size, Net.size, Time.size, Analog.size, Dio.size, Acq.size, Can.size, Safe.size, Integ.size, Snap.size, modifyAt_length, List.length_map]
    | with_reducible assumption
    | split

theorem State.encZ_keeps {s t : State} (m : Nat) (z : Bool) (h : Keeps s t) : Keeps s (State.encZ t m z) := by
  unfold State.encZ
  try dsimp only
  repeat' first
    | with_reducible apply State.setEncCount_keeps
    | with_reducible apply State.setLevel_keeps
    | with_reducible apply State.setReg_keeps
    | with_reducible apply State.orReg_keeps
    | with_reducible apply Keeps.ite
    | with_reducible apply Keeps.forUpTo
    | with_reducible apply Keeps.forEach
    | with_reducible apply Keeps.foldl
    | with_reducible apply Keeps.foldlFst
    | intro _ _ _
    | intro _ _
    | intro _
    | simp only [Keeps.upd_iff]
    | simp only [Keeps.upd_iff, Power.size, Seal.size, Net.size, Time.size, Analog.size, Dio.size, Acq.size, Can.size, Safe.size, Integ.size, Snap.size, modifyAt_length, List.length_map]
    | with_reducible assumption
    | split

theorem State.encLatch_keeps {s t : State} (h : Keeps s t) : Keeps s (State.encLatch t) := by
  unfold State.encLatch
  try dsimp only
  repeat' first
    | with_reducible apply State.setReg_keeps
    | with_reducible apply State.stageVia_keeps
    | with_reducible apply Keeps.ite
    | with_reducible apply Keeps.forUpTo
    | with_reducible apply Keeps.forEach
    | with_reducible apply Keeps.foldl
    | with_reducible apply Keeps.foldlFst
    | intro _ _ _
    | intro _ _
    | intro _
    | simp only [Keeps.upd_iff]
    | simp only [Keeps.upd_iff, Power.size, Seal.size, Net.size, Time.size, Analog.size, Dio.size, Acq.size, Can.size, Safe.size, Integ.size, Snap.size, modifyAt_length, List.length_map]
    | with_reducible assumption
    | split

theorem State.dioInput_keeps {s t : State} (n : Nat) (v : Bool) (lag : Nat) (tq : Nat) (h : Keeps s t) : Keeps s (State.dioInput t n v lag tq) := by
  unfold State.dioInput
  try dsimp only
  repeat' first
    | with_reducible apply State.dioAccept_keeps
    | with_reducible apply State.dioChatter_keeps
    | with_reducible apply State.periodEdge_keeps
    | with_reducible apply State.captureEdge_keeps
    | with_reducible apply State.setLevel_keeps
    | with_reducible apply State.encAB_keeps
    | with_reducible apply State.encZ_keeps
    | with_reducible apply Keeps.ite
    | with_reducible apply Keeps.forUpTo
    | with_reducible apply Keeps.forEach
    | with_reducible apply Keeps.foldl
    | with_reducible apply Keeps.foldlFst
    | intro _ _ _
    | intro _ _
    | intro _
    | simp only [Keeps.upd_iff]
    | simp only [Keeps.upd_iff, Power.size, Seal.size, Net.size, Time.size, Analog.size, Dio.size, Acq.size, Can.size, Safe.size, Integ.size, Snap.size, modifyAt_length, List.length_map]
    | with_reducible assumption
    | split

theorem State.dioSeen_keeps {s t : State} (n : Nat) (v : Bool) (short : Bool) (lag : Nat) (h : Keeps s t) : Keeps s (State.dioSeen t n v short lag) := by
  unfold State.dioSeen
  try dsimp only
  repeat' first
    | with_reducible apply State.dioInput_keeps
    | with_reducible apply State.useFree_keeps
    | with_reducible apply Keeps.ite
    | with_reducible apply Keeps.forUpTo
    | with_reducible apply Keeps.forEach
    | with_reducible apply Keeps.foldl
    | with_reducible apply Keeps.foldlFst
    | intro _ _ _
    | intro _ _
    | intro _
    | simp only [Keeps.upd_iff]
    | simp only [Keeps.upd_iff, Power.size, Seal.size, Net.size, Time.size, Analog.size, Dio.size, Acq.size, Can.size, Safe.size, Integ.size, Snap.size, modifyAt_length, List.length_map]
    | with_reducible assumption
    | split

theorem State.dioDebWrite_keeps {s t : State} (h : Keeps s t) : Keeps s (State.dioDebWrite t) := by
  unfold State.dioDebWrite
  try dsimp only
  repeat' first
    | with_reducible apply State.modDio_keeps
    | with_reducible apply State.dioWrite_keeps
    | with_reducible apply Keeps.ite
    | with_reducible apply Keeps.forUpTo
    | with_reducible apply Keeps.forEach
    | with_reducible apply Keeps.foldl
    | with_reducible apply Keeps.foldlFst
    | exact fun _ k => k
    | exact fun _ _ => rfl
    | exact fun _ k => by simpa only [Power.size, Seal.size, Net.size, Time.size, Analog.size, Dio.size, Acq.size, Can.size, Safe.size, Integ.size, Snap.size, modifyAt_length, List.length_map] using k
    | intro _ _ _
    | intro _ _
    | intro _
    | simp only [Keeps.upd_iff]
    | simp only [Keeps.upd_iff, Power.size, Seal.size, Net.size, Time.size, Analog.size, Dio.size, Acq.size, Can.size, Safe.size, Integ.size, Snap.size, modifyAt_length, List.length_map]
    | with_reducible assumption
    | split

theorem State.dioSample_keeps {s t : State} (h : Keeps s t) : Keeps s (State.dioSample t) := by
  unfold State.dioSample
  try dsimp only
  repeat' first
    | with_reducible apply State.modDio_keeps
    | with_reducible apply State.dioTake_keeps
    | with_reducible apply State.pwmDuty_keeps
    | with_reducible apply State.pulseSample_keeps
    | with_reducible apply Keeps.ite
    | with_reducible apply Keeps.forUpTo
    | with_reducible apply Keeps.forEach
    | with_reducible apply Keeps.foldl
    | with_reducible apply Keeps.foldlFst
    | exact fun _ k => k
    | exact fun _ _ => rfl
    | exact fun _ k => by simpa only [Power.size, Seal.size, Net.size, Time.size, Analog.size, Dio.size, Acq.size, Can.size, Safe.size, Integ.size, Snap.size, modifyAt_length, List.length_map] using k
    | intro _ _ _
    | intro _ _
    | intro _
    | simp only [Keeps.upd_iff]
    | simp only [Keeps.upd_iff, Power.size, Seal.size, Net.size, Time.size, Analog.size, Dio.size, Acq.size, Can.size, Safe.size, Integ.size, Snap.size, modifyAt_length, List.length_map]
    | with_reducible assumption
    | split

theorem State.dioInit_keeps {s t : State} (n : Nat) (h : Keeps s t) : Keeps s (State.dioInit t n) := by
  unfold State.dioInit
  try dsimp only
  repeat' first
    | with_reducible apply State.modBall_keeps
    | with_reducible apply State.orReg_keeps
    | with_reducible apply Keeps.ite
    | with_reducible apply Keeps.forUpTo
    | with_reducible apply Keeps.forEach
    | with_reducible apply Keeps.foldl
    | with_reducible apply Keeps.foldlFst
    | intro _ _ _
    | intro _ _
    | intro _
    | simp only [Keeps.upd_iff]
    | simp only [Keeps.upd_iff, Power.size, Seal.size, Net.size, Time.size, Analog.size, Dio.size, Acq.size, Can.size, Safe.size, Integ.size, Snap.size, modifyAt_length, List.length_map]
    | with_reducible assumption
    | split

theorem State.dioEntered_keeps {s t : State} (h : Keeps s t) : Keeps s (State.dioEntered t) := by
  unfold State.dioEntered
  try dsimp only
  repeat' first
    | with_reducible apply State.modDio_keeps
    | with_reducible apply State.pwmDuty_keeps
    | with_reducible apply State.dioInit_keeps
    | with_reducible apply Keeps.ite
    | with_reducible apply Keeps.forUpTo
    | with_reducible apply Keeps.forEach
    | with_reducible apply Keeps.foldl
    | with_reducible apply Keeps.foldlFst
    | exact fun _ k => k
    | exact fun _ _ => rfl
    | exact fun _ k => by simpa only [Power.size, Seal.size, Net.size, Time.size, Analog.size, Dio.size, Acq.size, Can.size, Safe.size, Integ.size, Snap.size, modifyAt_length, List.length_map] using k
    | intro _ _ _
    | intro _ _
    | intro _
    | simp only [Keeps.upd_iff]
    | simp only [Keeps.upd_iff, Power.size, Seal.size, Net.size, Time.size, Analog.size, Dio.size, Acq.size, Can.size, Safe.size, Integ.size, Snap.size, modifyAt_length, List.length_map]
    | with_reducible assumption
    | split

theorem State.ilkTrips_keeps {s t : State} (old : Nat) (h : Keeps s t) : Keeps s (State.ilkTrips t old) := by
  unfold State.ilkTrips
  try dsimp only
  repeat' first
    | with_reducible apply State.dacMoved_keeps
    | with_reducible apply State.modDio_keeps
    | with_reducible apply State.bump_keeps
    | with_reducible apply State.raiseCounted_keeps
    | with_reducible apply Keeps.ite
    | with_reducible apply Keeps.forUpTo
    | with_reducible apply Keeps.forEach
    | with_reducible apply Keeps.foldl
    | with_reducible apply Keeps.foldlFst
    | exact fun _ k => k
    | exact fun _ _ => rfl
    | exact fun _ k => by simpa only [Power.size, Seal.size, Net.size, Time.size, Analog.size, Dio.size, Acq.size, Can.size, Safe.size, Integ.size, Snap.size, modifyAt_length, List.length_map] using k
    | intro _ _ _
    | intro _ _
    | intro _
    | simp only [Keeps.upd_iff]
    | simp only [Keeps.upd_iff, Power.size, Seal.size, Net.size, Time.size, Analog.size, Dio.size, Acq.size, Can.size, Safe.size, Integ.size, Snap.size, modifyAt_length, List.length_map]
    | with_reducible assumption
    | split

theorem State.ilkEdge_keeps {s t : State} (j : Nat) (v : Bool) (h : Keeps s t) : Keeps s (State.ilkEdge t j v) := by
  unfold State.ilkEdge
  try dsimp only
  repeat' first
    | with_reducible apply State.modDio_keeps
    | with_reducible apply State.ilkTrips_keeps
    | with_reducible apply Keeps.ite
    | with_reducible apply Keeps.forUpTo
    | with_reducible apply Keeps.forEach
    | with_reducible apply Keeps.foldl
    | with_reducible apply Keeps.foldlFst
    | exact fun _ k => k
    | exact fun _ _ => rfl
    | exact fun _ k => by simpa only [Power.size, Seal.size, Net.size, Time.size, Analog.size, Dio.size, Acq.size, Can.size, Safe.size, Integ.size, Snap.size, modifyAt_length, List.length_map] using k
    | intro _ _ _
    | intro _ _
    | intro _
    | simp only [Keeps.upd_iff]
    | simp only [Keeps.upd_iff, Power.size, Seal.size, Net.size, Time.size, Analog.size, Dio.size, Acq.size, Can.size, Safe.size, Integ.size, Snap.size, modifyAt_length, List.length_map]
    | with_reducible assumption
    | split

theorem State.ilkClear_keeps {s t : State} (w : Word) (h : Keeps s t) : Keeps s (State.ilkClear t w) := by
  unfold State.ilkClear
  try dsimp only
  repeat' first
    | with_reducible apply State.modDio_keeps
    | with_reducible apply State.ilkTrips_keeps
    | with_reducible apply Keeps.ite
    | with_reducible apply Keeps.forUpTo
    | with_reducible apply Keeps.forEach
    | with_reducible apply Keeps.foldl
    | with_reducible apply Keeps.foldlFst
    | exact fun _ k => k
    | exact fun _ _ => rfl
    | exact fun _ k => by simpa only [Power.size, Seal.size, Net.size, Time.size, Analog.size, Dio.size, Acq.size, Can.size, Safe.size, Integ.size, Snap.size, modifyAt_length, List.length_map] using k
    | intro _ _ _
    | intro _ _
    | intro _
    | simp only [Keeps.upd_iff]
    | simp only [Keeps.upd_iff, Power.size, Seal.size, Net.size, Time.size, Analog.size, Dio.size, Acq.size, Can.size, Safe.size, Integ.size, Snap.size, modifyAt_length, List.length_map]
    | with_reducible assumption
    | split

theorem State.loadDio_keeps {s t : State} (old : Nat) (h : Keeps s t) : Keeps s (State.loadDio t old) := by
  unfold State.loadDio
  try dsimp only
  repeat' first
    | with_reducible apply State.modBall_keeps
    | with_reducible apply State.modDio_keeps
    | with_reducible apply State.ilkTrips_keeps
    | with_reducible apply State.setReg_keeps
    | with_reducible apply Keeps.ite
    | with_reducible apply Keeps.forUpTo
    | with_reducible apply Keeps.forEach
    | with_reducible apply Keeps.foldl
    | with_reducible apply Keeps.foldlFst
    | exact fun _ k => k
    | exact fun _ _ => rfl
    | exact fun _ k => by simpa only [Power.size, Seal.size, Net.size, Time.size, Analog.size, Dio.size, Acq.size, Can.size, Safe.size, Integ.size, Snap.size, modifyAt_length, List.length_map] using k
    | intro _ _ _
    | intro _ _
    | intro _
    | simp only [Keeps.upd_iff]
    | simp only [Keeps.upd_iff, Power.size, Seal.size, Net.size, Time.size, Analog.size, Dio.size, Acq.size, Can.size, Safe.size, Integ.size, Snap.size, modifyAt_length, List.length_map]
    | with_reducible assumption
    | split

end Sys2Proof.Machine
end

