-- ==== Sys2Proof/Laws/KeptLane.lean ====
section
/-! SUPPORT. What the operations of Machine/Lane.lean keep. -/

set_option linter.all false

namespace Sys2Proof.Machine

theorem State.laneShow_keeps {s t : State} (tq : Nat) (h : Keeps s t) : Keeps s (State.laneShow t tq) := by
  unfold State.laneShow
  try dsimp only
  repeat' first
    | with_reducible apply State.setReg_keeps
    | with_reducible apply State.setReg64_keeps
    | with_reducible apply Keeps.ite
    | with_reducible apply Keeps.forUpTo
    | with_reducible apply Keeps.forEach
    | with_reducible apply Keeps.foldl
    | with_reducible apply Keeps.foldlFst
    | intro _ _ _
    | intro _ _
    | intro _
    | simp only [Keeps.upd_iff]
    | simp only [Keeps.upd_iff, Power.size, Seal.size, Net.size, Time.size, Analog.size, Dio.size, Acq.size, Can.size, Safe.size, Integ.size, Snap.size, modifyAt_length, List.length_map]
    | with_reducible assumption
    | split

theorem State.laneState_keeps {s t : State} (tq : Nat) (st : Nat) (h : Keeps s t) : Keeps s (State.laneState t tq st) := by
  unfold State.laneState
  try dsimp only
  repeat' first
    | with_reducible apply State.raise_keeps
    | with_reducible apply State.modLane_keeps
    | with_reducible apply Keeps.ite
    | with_reducible apply Keeps.forUpTo
    | with_reducible apply Keeps.forEach
    | with_reducible apply Keeps.foldl
    | with_reducible apply Keeps.foldlFst
    | intro _ _ _
    | intro _ _
    | intro _
    | simp only [Keeps.upd_iff]
    | simp only [Keeps.upd_iff, Power.size, Seal.size, Net.size, Time.size, Analog.size, Dio.size, Acq.size, Can.size, Safe.size, Integ.size, Snap.size, modifyAt_length, List.length_map]
    | with_reducible assumption
    | split

theorem State.laneDiscard_keeps {s t : State} (tq : Nat) (kept : Option Nat) (h : Keeps s t) : Keeps s (State.laneDiscard t tq kept) := by
  unfold State.laneDiscard
  try dsimp only
  repeat' first
    | with_reducible apply State.bumpBy_keeps
    | with_reducible apply State.modLane_keeps
    | with_reducible apply Keeps.ite
    | with_reducible apply Keeps.forUpTo
    | with_reducible apply Keeps.forEach
    | with_reducible apply Keeps.foldl
    | with_reducible apply Keeps.foldlFst
    | intro _ _ _
    | intro _ _
    | intro _
    | simp only [Keeps.upd_iff]
    | simp only [Keeps.upd_iff, Power.size, Seal.size, Net.size, Time.size, Analog.size, Dio.size, Acq.size, Can.size, Safe.size, Integ.size, Snap.size, modifyAt_length, List.length_map]
    | with_reducible assumption
    | split

theorem State.laneBanks_keeps {s t : State} (tq : Nat) (e : Nat) (h : Keeps s t) : Keeps s (State.laneBanks t tq e) := by
  unfold State.laneBanks
  try dsimp only
  repeat' first
    | with_reducible apply State.modLane_keeps
    | with_reducible apply Keeps.ite
    | with_reducible apply Keeps.forUpTo
    | with_reducible apply Keeps.forEach
    | with_reducible apply Keeps.foldl
    | with_reducible apply Keeps.foldlFst
    | intro _ _ _
    | intro _ _
    | intro _
    | simp only [Keeps.upd_iff]
    | simp only [Keeps.upd_iff, Power.size, Seal.size, Net.size, Time.size, Analog.size, Dio.size, Acq.size, Can.size, Safe.size, Integ.size, Snap.size, modifyAt_length, List.length_map]
    | with_reducible assumption
    | split

theorem State.laneRebuild_keeps {s t : State} (tq : Nat) (arr : List (Nat × Nat)) (h : Keeps s t) : Keeps s (State.laneRebuild t tq arr) := by
  unfold State.laneRebuild
  try dsimp only
  repeat' first
    | with_reducible apply State.modLane_keeps
    | with_reducible apply Keeps.ite
    | with_reducible apply Keeps.forUpTo
    | with_reducible apply Keeps.forEach
    | with_reducible apply Keeps.foldl
    | with_reducible apply Keeps.foldlFst
    | intro _ _ _
    | intro _ _
    | intro _
    | simp only [Keeps.upd_iff]
    | simp only [Keeps.upd_iff, Power.size, Seal.size, Net.size, Time.size, Analog.size, Dio.size, Acq.size, Can.size, Safe.size, Integ.size, Snap.size, modifyAt_length, List.length_map]
    | with_reducible assumption
    | split

theorem State.rampWrite_keeps {s t : State} (tq : Nat) (r : Ramp) (h : Keeps s t) : Keeps s (State.rampWrite t tq r) := by
  unfold State.rampWrite
  try dsimp only
  repeat' first
    | with_reducible apply State.stage_keeps
    | with_reducible apply Keeps.ite
    | with_reducible apply Keeps.forUpTo
    | with_reducible apply Keeps.forEach
    | with_reducible apply Keeps.foldl
    | with_reducible apply Keeps.foldlFst
    | intro _ _ _
    | intro _ _
    | intro _
    | simp only [Keeps.upd_iff]
    | simp only [Keeps.upd_iff, Power.size, Seal.size, Net.size, Time.size, Analog.size, Dio.size, Acq.size, Can.size, Safe.size, Integ.size, Snap.size, modifyAt_length, List.length_map]
    | with_reducible assumption
    | split

theorem State.laneWrites_keeps {s t : State} (tq : Nat) (h : Keeps s t) : Keeps s (State.laneWrites t tq) := by
  unfold State.laneWrites
  try dsimp only
  repeat' first
    | with_reducible apply State.rampWrite_keeps
    | with_reducible apply State.modLane_keeps
    | with_reducible apply Keeps.ite
    | with_reducible apply Keeps.forUpTo
    | with_reducible apply Keeps.forEach
    | with_reducible apply Keeps.foldl
    | with_reducible apply Keeps.foldlFst
    | intro _ _ _
    | intro _ _
    | intro _
    | simp only [Keeps.upd_iff]
    | simp only [Keeps.upd_iff, Power.size, Seal.size, Net.size, Time.size, Analog.size, Dio.size, Acq.size, Can.size, Safe.size, Integ.size, Snap.size, modifyAt_length, List.length_map]
    | with_reducible assumption
    | split

theorem State.startRamp_keeps {s t : State} (tq : Nat) (r : Ramp) (old : List Ramp) (new : List Ramp) (h : Keeps s t) : Keeps s (State.startRamp t tq r old new).1 := by
  unfold State.startRamp
  try dsimp only
  repeat' first
    | with_reducible apply State.bump_keeps
    | with_reducible apply State.raiseCounted_keeps
    | with_reducible apply Keeps.ite
    | with_reducible apply Keeps.forUpTo
    | with_reducible apply Keeps.forEach
    | with_reducible apply Keeps.foldl
    | with_reducible apply Keeps.foldlFst
    | intro _ _ _
    | intro _ _
    | intro _
    | simp only [Keeps.upd_iff]
    | simp only [Keeps.upd_iff, Power.size, Seal.size, Net.size, Time.size, Analog.size, Dio.size, Acq.size, Can.size, Safe.size, Integ.size, Snap.size, modifyAt_length, List.length_map]
    | with_reducible assumption
    | split

theorem State.laneEnter_keeps {s t : State} (tq : Nat) (idx : Nat) (stop : Bool) (mid : Bool) (h : Keeps s t) : Keeps s (State.laneEnter t tq idx stop mid) := by
  unfold State.laneEnter
  try dsimp only
  repeat' first
    | with_reducible apply State.laneBanks_keeps
    | with_reducible apply State.rampWrite_keeps
    | with_reducible apply State.startRamp_keeps
    | with_reducible apply State.modLane_keeps
    | with_reducible apply Keeps.ite
    | with_reducible apply Keeps.forUpTo
    | with_reducible apply Keeps.forEach
    | with_reducible apply Keeps.foldl
    | with_reducible apply Keeps.foldlFst
    | intro _ _ _
    | intro _ _
    | intro _
    | simp only [Keeps.upd_iff]
    | simp only [Keeps.upd_iff, Power.size, Seal.size, Net.size, Time.size, Analog.size, Dio.size, Acq.size, Can.size, Safe.size, Integ.size, Snap.size, modifyAt_length, List.length_map]
    | with_reducible assumption
    | split

theorem State.laneEnd_keeps {s t : State} (tq : Nat) (st : Nat) (endCode : Nat) (fault : Nat) (h : Keeps s t) : Keeps s (State.laneEnd t tq st endCode fault) := by
  unfold State.laneEnd
  try dsimp only
  repeat' first
    | with_reducible apply State.laneState_keeps
    | with_reducible apply State.modLane_keeps
    | with_reducible apply Keeps.ite
    | with_reducible apply Keeps.forUpTo
    | with_reducible apply Keeps.forEach
    | with_reducible apply Keeps.foldl
    | with_reducible apply Keeps.foldlFst
    | intro _ _ _
    | intro _ _
    | intro _
    | simp only [Keeps.upd_iff]
    | simp only [Keeps.upd_iff, Power.size, Seal.size, Net.size, Time.size, Analog.size, Dio.size, Acq.size, Can.size, Safe.size, Integ.size, Snap.size, modifyAt_length, List.length_map]
    | with_reducible assumption
    | split

theorem State.laneToAbort_keeps {s t : State} (tq : Nat) (a : Nat) (mid : Bool) (h : Keeps s t) : Keeps s (State.laneToAbort t tq a mid) := by
  unfold State.laneToAbort
  try dsimp only
  repeat' first
    | with_reducible apply State.laneState_keeps
    | with_reducible apply State.laneEnter_keeps
    | with_reducible apply State.modLane_keeps
    | with_reducible apply Keeps.ite
    | with_reducible apply Keeps.forUpTo
    | with_reducible apply Keeps.forEach
    | with_reducible apply Keeps.foldl
    | with_reducible apply Keeps.foldlFst
    | intro _ _ _
    | intro _ _
    | intro _
    | simp only [Keeps.upd_iff]
    | simp only [Keeps.upd_iff, Power.size, Seal.size, Net.size, Time.size, Analog.size, Dio.size, Acq.size, Can.size, Safe.size, Integ.size, Snap.size, modifyAt_length, List.length_map]
    | with_reducible assumption
    | split

theorem State.laneTake_keeps {s t : State} (tq : Nat) (target : Nat) (mid : Bool) (h : Keeps s t) : Keeps s (State.laneTake t tq target mid) := by
  unfold State.laneTake
  try dsimp only
  repeat' first
    | with_reducible apply State.laneEnter_keeps
    | with_reducible apply State.laneEnd_keeps
    | with_reducible apply State.laneToAbort_keeps
    | with_reducible apply Keeps.ite
    | with_reducible apply Keeps.forUpTo
    | with_reducible apply Keeps.forEach
    | with_reducible apply Keeps.foldl
    | with_reducible apply Keeps.foldlFst
    | intro _ _ _
    | intro _ _
    | intro _
    | simp only [Keeps.upd_iff]
    | simp only [Keeps.upd_iff, Power.size, Seal.size, Net.size, Time.size, Analog.size, Dio.size, Acq.size, Can.size, Safe.size, Integ.size, Snap.size, modifyAt_length, List.length_map]
    | with_reducible assumption
    | split

theorem State.edgeCommit_keeps {s t : State} (tq : Nat) (x : RStep) (h : Keeps s t) : Keeps s (State.edgeCommit t tq x) := by
  unfold State.edgeCommit
  try dsimp only
  repeat' first
    | with_reducible apply State.dioEdgeCommit_keeps
    | with_reducible apply Keeps.ite
    | with_reducible apply Keeps.forUpTo
    | with_reducible apply Keeps.forEach
    | with_reducible apply Keeps.foldl
    | with_reducible apply Keeps.foldlFst
    | intro _ _ _
    | intro _ _
    | intro _
    | simp only [Keeps.upd_iff]
    | simp only [Keeps.upd_iff, Power.size, Seal.size, Net.size, Time.size, Analog.size, Dio.size, Acq.size, Can.size, Safe.size, Integ.size, Snap.size, modifyAt_length, List.length_map]
    | with_reducible assumption
    | split

theorem State.laneCommit_keeps {s t : State} (tq : Nat) (cause : Nat) (target : Nat) (mid : Bool) (h : Keeps s t) : Keeps s (State.laneCommit t tq cause target mid) := by
  unfold State.laneCommit
  try dsimp only
  repeat' first
    | with_reducible apply State.laneDiscard_keeps
    | with_reducible apply State.laneTake_keeps
    | with_reducible apply State.edgeCommit_keeps
    | with_reducible apply State.modLane_keeps
    | with_reducible apply Keeps.ite
    | with_reducible apply Keeps.forUpTo
    | with_reducible apply Keeps.forEach
    | with_reducible apply Keeps.foldl
    | with_reducible apply Keeps.foldlFst
    | intro _ _ _
    | intro _ _
    | intro _
    | simp only [Keeps.upd_iff]
    | simp only [Keeps.upd_iff, Power.size, Seal.size, Net.size, Time.size, Analog.size, Dio.size, Acq.size, Can.size, Safe.size, Integ.size, Snap.size, modifyAt_length, List.length_map]
    | with_reducible assumption
    | split

theorem State.laneLater_keeps {s t : State} (tq : Nat) (cause : Nat) (target : Nat) (h : Keeps s t) : Keeps s (State.laneLater t tq cause target) := by
  unfold State.laneLater
  try dsimp only
  repeat' first
    | with_reducible apply State.laneDiscard_keeps
    | with_reducible apply State.modLane_keeps
    | with_reducible apply Keeps.ite
    | with_reducible apply Keeps.forUpTo
    | with_reducible apply Keeps.forEach
    | with_reducible apply Keeps.foldl
    | with_reducible apply Keeps.foldlFst
    | intro _ _ _
    | intro _ _
    | intro _
    | simp only [Keeps.upd_iff]
    | simp only [Keeps.upd_iff, Power.size, Seal.size, Net.size, Time.size, Analog.size, Dio.size, Acq.size, Can.size, Safe.size, Integ.size, Snap.size, modifyAt_length, List.length_map]
    | with_reducible assumption
    | split

theorem State.laneExitHold_keeps {s t : State} (tq : Nat) (cause : Nat) (target : Nat) (h : Keeps s t) : Keeps s (State.laneExitHold t tq cause target) := by
  unfold State.laneExitHold
  try dsimp only
  repeat' first
    | with_reducible apply State.laneState_keeps
    | with_reducible apply State.laneDiscard_keeps
    | with_reducible apply State.modLane_keeps
    | with_reducible apply Keeps.ite
    | with_reducible apply Keeps.forUpTo
    | with_reducible apply Keeps.forEach
    | with_reducible apply Keeps.foldl
    | with_reducible apply Keeps.foldlFst
    | intro _ _ _
    | intro _ _
    | intro _
    | simp only [Keeps.upd_iff]
    | simp only [Keeps.upd_iff, Power.size, Seal.size, Net.size, Time.size, Analog.size, Dio.size, Acq.size, Can.size, Safe.size, Integ.size, Snap.size, modifyAt_length, List.length_map]
    | with_reducible assumption
    | split

theorem State.laneExit_keeps {s t : State} (tq : Nat) (mask : Nat) (mid : Bool) (h : Keeps s t) : Keeps s (State.laneExit t tq mask mid) := by
  unfold State.laneExit
  try dsimp only
  repeat' first
    | with_reducible apply State.laneCommit_keeps
    | with_reducible apply State.laneLater_keeps
    | with_reducible apply State.laneExitHold_keeps
    | with_reducible apply State.modLane_keeps
    | with_reducible apply Keeps.ite
    | with_reducible apply Keeps.forUpTo
    | with_reducible apply Keeps.forEach
    | with_reducible apply Keeps.foldl
    | with_reducible apply Keeps.foldlFst
    | intro _ _ _
    | intro _ _
    | intro _
    | simp only [Keeps.upd_iff]
    | simp only [Keeps.upd_iff, Power.size, Seal.size, Net.size, Time.size, Analog.size, Dio.size, Acq.size, Can.size, Safe.size, Integ.size, Snap.size, modifyAt_length, List.length_map]
    | with_reducible assumption
    | split

theorem State.laneTimed_keeps {s t : State} (tq : Nat) (h : Keeps s t) : Keeps s (State.laneTimed t tq) := by
  unfold State.laneTimed
  try dsimp only
  repeat' first
    | with_reducible apply State.laneExit_keeps
    | with_reducible apply State.atEdge_keeps
    | with_reducible apply Keeps.ite
    | with_reducible apply Keeps.forUpTo
    | with_reducible apply Keeps.forEach
    | with_reducible apply Keeps.foldl
    | with_reducible apply Keeps.foldlFst
    | intro _ _ _
    | intro _ _
    | intro _
    | simp only [Keeps.upd_iff]
    | simp only [Keeps.upd_iff, Power.size, Seal.size, Net.size, Time.size, Analog.size, Dio.size, Acq.size, Can.size, Safe.size, Integ.size, Snap.size, modifyAt_length, List.length_map]
    | with_reducible assumption
    | split

theorem State.laneWatch_keeps {s t : State} (tq : Nat) (mask : Nat) (h : Keeps s t) : Keeps s (State.laneWatch t tq mask) := by
  unfold State.laneWatch
  try dsimp only
  repeat' first
    | with_reducible apply State.laneExit_keeps
    | with_reducible apply State.laneTimed_keeps
    | with_reducible apply Keeps.ite
    | with_reducible apply Keeps.forUpTo
    | with_reducible apply Keeps.forEach
    | with_reducible apply Keeps.foldl
    | with_reducible apply Keeps.foldlFst
    | intro _ _ _
    | intro _ _
    | intro _
    | simp only [Keeps.upd_iff]
    | simp only [Keeps.upd_iff, Power.size, Seal.size, Net.size, Time.size, Analog.size, Dio.size, Acq.size, Can.size, Safe.size, Integ.size, Snap.size, modifyAt_length, List.length_map]
    | with_reducible assumption
    | split

theorem State.lanesWatch_keeps {s t : State} (h : Keeps s t) : Keeps s (State.lanesWatch t) := by
  unfold State.lanesWatch
  try dsimp only
  repeat' first
    | with_reducible apply State.laneWatch_keeps
    | with_reducible apply Keeps.ite
    | with_reducible apply Keeps.forUpTo
    | with_reducible apply Keeps.forEach
    | with_reducible apply Keeps.foldl
    | with_reducible apply Keeps.foldlFst
    | intro _ _ _
    | intro _ _
    | intro _
    | simp only [Keeps.upd_iff]
    | simp only [Keeps.upd_iff, Power.size, Seal.size, Net.size, Time.size, Analog.size, Dio.size, Acq.size, Can.size, Safe.size, Integ.size, Snap.size, modifyAt_length, List.length_map]
    | with_reducible assumption
    | split

theorem State.lanesCan_keeps {s t : State} (c : Nat) (o : Nat) (ended : Nat) (h : Keeps s t) : Keeps s (State.lanesCan t c o ended) := by
  unfold State.lanesCan
  try dsimp only
  repeat' first
    | with_reducible apply State.laneTimed_keeps
    | with_reducible apply State.laneWatch_keeps
    | with_reducible apply Keeps.ite
    | with_reducible apply Keeps.forUpTo
    | with_reducible apply Keeps.forEach
    | with_reducible apply Keeps.foldl
    | with_reducible apply Keeps.foldlFst
    | intro _ _ _
    | intro _ _
    | intro _
    | simp only [Keeps.upd_iff]
    | simp only [Keeps.upd_iff, Power.size, Seal.size, Net.size, Time.size, Analog.size, Dio.size, Acq.size, Can.size, Safe.size, Integ.size, Snap.size, modifyAt_length, List.length_map]
    | with_reducible assumption
    | split

theorem State.laneCompare_keeps {s t : State} (tq : Nat) (h : Keeps s t) : Keeps s (State.laneCompare t tq).1 := by
  unfold State.laneCompare
  try dsimp only
  repeat' first
    | with_reducible apply State.modLane_keeps
    | with_reducible apply Keeps.ite
    | with_reducible apply Keeps.forUpTo
    | with_reducible apply Keeps.forEach
    | with_reducible apply Keeps.foldl
    | with_reducible apply Keeps.foldlFst
    | intro _ _ _
    | intro _ _
    | intro _
    | simp only [Keeps.upd_iff]
    | simp only [Keeps.upd_iff, Power.size, Seal.size, Net.size, Time.size, Analog.size, Dio.size, Acq.size, Can.size, Safe.size, Integ.size, Snap.size, modifyAt_length, List.length_map]
    | with_reducible assumption
    | split

theorem State.laneAtBoundary_keeps {s t : State} (tq : Nat) (h : Keeps s t) : Keeps s (State.laneAtBoundary t tq) := by
  unfold State.laneAtBoundary
  try dsimp only
  repeat' first
    | with_reducible apply State.laneExit_keeps
    | with_reducible apply State.laneCompare_keeps
    | with_reducible apply Keeps.ite
    | with_reducible apply Keeps.forUpTo
    | with_reducible apply Keeps.forEach
    | with_reducible apply Keeps.foldl
    | with_reducible apply Keeps.foldlFst
    | intro _ _ _
    | intro _ _
    | intro _
    | simp only [Keeps.upd_iff]
    | simp only [Keeps.upd_iff, Power.size, Seal.size, Net.size, Time.size, Analog.size, Dio.size, Acq.size, Can.size, Safe.size, Integ.size, Snap.size, modifyAt_length, List.length_map]
    | with_reducible assumption
    | split

theorem State.laneHold_keeps {s t : State} (tq : Nat) (h : Keeps s t) : Keeps s (State.laneHold t tq) := by
  unfold State.laneHold
  try dsimp only
  repeat' first
    | with_reducible apply State.laneShow_keeps
    | with_reducible apply State.laneState_keeps
    | with_reducible apply State.modLane_keeps
    | with_reducible apply Keeps.ite
    | with_reducible apply Keeps.forUpTo
    | with_reducible apply Keeps.forEach
    | with_reducible apply Keeps.foldl
    | with_reducible apply Keeps.foldlFst
    | intro _ _ _
    | intro _ _
    | intro _
    | simp only [Keeps.upd_iff]
    | simp only [Keeps.upd_iff, Power.size, Seal.size, Net.size, Time.size, Analog.size, Dio.size, Acq.size, Can.size, Safe.size, Integ.size, Snap.size, modifyAt_length, List.length_map]
    | with_reducible assumption
    | split

theorem State.laneResume_keeps {s t : State} (tq : Nat) (h : Keeps s t) : Keeps s (State.laneResume t tq) := by
  unfold State.laneResume
  try dsimp only
  repeat' first
    | with_reducible apply State.laneShow_keeps
    | with_reducible apply State.laneState_keeps
    | with_reducible apply State.laneTake_keeps
    | with_reducible apply State.modLane_keeps
    | with_reducible apply Keeps.ite
    | with_reducible apply Keeps.forUpTo
    | with_reducible apply Keeps.forEach
    | with_reducible apply Keeps.foldl
    | with_reducible apply Keeps.foldlFst
    | intro _ _ _
    | intro _ _
    | intro _
    | simp only [Keeps.upd_iff]
    | simp only [Keeps.upd_iff, Power.size, Seal.size, Net.size, Time.size, Analog.size, Dio.size, Acq.size, Can.size, Safe.size, Integ.size, Snap.size, modifyAt_length, List.length_map]
    | with_reducible assumption
    | split

theorem State.laneAbort_keeps {s t : State} (tq : Nat) (cause : Nat) (h : Keeps s t) : Keeps s (State.laneAbort t tq cause) := by
  unfold State.laneAbort
  try dsimp only
  repeat' first
    | with_reducible apply State.laneShow_keeps
    | with_reducible apply State.laneState_keeps
    | with_reducible apply State.laneDiscard_keeps
    | with_reducible apply State.laneEnd_keeps
    | with_reducible apply State.laneToAbort_keeps
    | with_reducible apply State.modLane_keeps
    | with_reducible apply Keeps.ite
    | with_reducible apply Keeps.forUpTo
    | with_reducible apply Keeps.forEach
    | with_reducible apply Keeps.foldl
    | with_reducible apply Keeps.foldlFst
    | intro _ _ _
    | intro _ _
    | intro _
    | simp only [Keeps.upd_iff]
    | simp only [Keeps.upd_iff, Power.size, Seal.size, Net.size, Time.size, Analog.size, Dio.size, Acq.size, Can.size, Safe.size, Integ.size, Snap.size, modifyAt_length, List.length_map]
    | with_reducible assumption
    | split

theorem State.laneStart_keeps {s t : State} (tq : Nat) (r : Nat) (params : List Word) (h : Keeps s t) : Keeps s (State.laneStart t tq r params) := by
  unfold State.laneStart
  try dsimp only
  repeat' first
    | with_reducible apply State.laneState_keeps
    | with_reducible apply State.laneEnter_keeps
    | with_reducible apply State.modLane_keeps
    | with_reducible apply Keeps.ite
    | with_reducible apply Keeps.forUpTo
    | with_reducible apply Keeps.forEach
    | with_reducible apply Keeps.foldl
    | with_reducible apply Keeps.foldlFst
    | intro _ _ _
    | intro _ _
    | intro _
    | simp only [Keeps.upd_iff]
    | simp only [Keeps.upd_iff, Power.size, Seal.size, Net.size, Time.size, Analog.size, Dio.size, Acq.size, Can.size, Safe.size, Integ.size, Snap.size, modifyAt_length, List.length_map]
    | with_reducible assumption
    | split

theorem State.laneParams_keeps {s t : State} (tq : Nat) (fin : Nat) (ps : List (Nat × Word)) (h : Keeps s t) : Keeps s (State.laneParams t tq fin ps) := by
  unfold State.laneParams
  try dsimp only
  repeat' first
    | with_reducible apply State.modLane_keeps
    | with_reducible apply Keeps.ite
    | with_reducible apply Keeps.forUpTo
    | with_reducible apply Keeps.forEach
    | with_reducible apply Keeps.foldl
    | with_reducible apply Keeps.foldlFst
    | intro _ _ _
    | intro _ _
    | intro _
    | simp only [Keeps.upd_iff]
    | simp only [Keeps.upd_iff, Power.size, Seal.size, Net.size, Time.size, Analog.size, Dio.size, Acq.size, Can.size, Safe.size, Integ.size, Snap.size, modifyAt_length, List.length_map]
    | with_reducible assumption
    | split

theorem State.lanesSafe_keeps {s t : State} (h : Keeps s t) : Keeps s (State.lanesSafe t) := by
  unfold State.lanesSafe
  try dsimp only
  repeat' first
    | with_reducible apply State.laneAbort_keeps
    | with_reducible apply Keeps.ite
    | with_reducible apply Keeps.forUpTo
    | with_reducible apply Keeps.forEach
    | with_reducible apply Keeps.foldl
    | with_reducible apply Keeps.foldlFst
    | intro _ _ _
    | intro _ _
    | intro _
    | simp only [Keeps.upd_iff]
    | simp only [Keeps.upd_iff, Power.size, Seal.size, Net.size, Time.size, Analog.size, Dio.size, Acq.size, Can.size, Safe.size, Integ.size, Snap.size, modifyAt_length, List.length_map]
    | with_reducible assumption
    | split

theorem State.laneNodeLost_keeps {s t : State} (c : Nat) (e : Nat) (h : Keeps s t) : Keeps s (State.laneNodeLost t c e) := by
  unfold State.laneNodeLost
  try dsimp only
  repeat' first
    | with_reducible apply State.raise_keeps
    | with_reducible apply State.modLane_keeps
    | with_reducible apply Keeps.ite
    | with_reducible apply Keeps.forUpTo
    | with_reducible apply Keeps.forEach
    | with_reducible apply Keeps.foldl
    | with_reducible apply Keeps.foldlFst
    | intro _ _ _
    | intro _ _
    | intro _
    | simp only [Keeps.upd_iff]
    | simp only [Keeps.upd_iff, Power.size, Seal.size, Net.size, Time.size, Analog.size, Dio.size, Acq.size, Can.size, Safe.size, Integ.size, Snap.size, modifyAt_length, List.length_map]
    | with_reducible assumption
    | split

theorem State.laneNodeReact_keeps {s t : State} (tq : Nat) (h : Keeps s t) : Keeps s (State.laneNodeReact t tq) := by
  unfold State.laneNodeReact
  try dsimp only
  repeat' first
    | with_reducible apply State.laneHold_keeps
    | with_reducible apply State.laneAbort_keeps
    | with_reducible apply State.modLane_keeps
    | with_reducible apply Keeps.ite
    | with_reducible apply Keeps.forUpTo
    | with_reducible apply Keeps.forEach
    | with_reducible apply Keeps.foldl
    | with_reducible apply Keeps.foldlFst
    | intro _ _ _
    | intro _ _
    | intro _
    | simp only [Keeps.upd_iff]
    | simp only [Keeps.upd_iff, Power.size, Seal.size, Net.size, Time.size, Analog.size, Dio.size, Acq.size, Can.size, Safe.size, Integ.size, Snap.size, modifyAt_length, List.length_map]
    | with_reducible assumption
    | split

theorem State.lanePending_keeps {s t : State} (tq : Nat) (h : Keeps s t) : Keeps s (State.lanePending t tq) := by
  unfold State.lanePending
  try dsimp only
  repeat' first
    | with_reducible apply State.laneTake_keeps
    | with_reducible apply State.modLane_keeps
    | with_reducible apply Keeps.ite
    | with_reducible apply Keeps.forUpTo
    | with_reducible apply Keeps.forEach
    | with_reducible apply Keeps.foldl
    | with_reducible apply Keeps.foldlFst
    | intro _ _ _
    | intro _ _
    | intro _
    | simp only [Keeps.upd_iff]
    | simp only [Keeps.upd_iff, Power.size, Seal.size, Net.size, Time.size, Analog.size, Dio.size, Acq.size, Can.size, Safe.size, Integ.size, Snap.size, modifyAt_length, List.length_map]
    | with_reducible assumption
    | split

theorem State.laneAbortMax_keeps {s t : State} (tq : Nat) (h : Keeps s t) : Keeps s (State.laneAbortMax t tq) := by
  unfold State.laneAbortMax
  try dsimp only
  repeat' first
    | with_reducible apply State.laneDiscard_keeps
    | with_reducible apply State.laneEnd_keeps
    | with_reducible apply State.modLane_keeps
    | with_reducible apply Keeps.ite
    | with_reducible apply Keeps.forUpTo
    | with_reducible apply Keeps.forEach
    | with_reducible apply Keeps.foldl
    | with_reducible apply Keeps.foldlFst
    | intro _ _ _
    | intro _ _
    | intro _
    | simp only [Keeps.upd_iff]
    | simp only [Keeps.upd_iff, Power.size, Seal.size, Net.size, Time.size, Analog.size, Dio.size, Acq.size, Can.size, Safe.size, Integ.size, Snap.size, modifyAt_length, List.length_map]
    | with_reducible assumption
    | split

theorem State.lanesBegin_keeps {s t : State} (h : Keeps s t) : Keeps s (State.lanesBegin t) := by
  unfold State.lanesBegin
  try dsimp only
  repeat' first
    | with_reducible apply State.laneNodeReact_keeps
    | with_reducible apply State.lanePending_keeps
    | with_reducible apply State.laneAbortMax_keeps
    | with_reducible apply Keeps.ite
    | with_reducible apply Keeps.forUpTo
    | with_reducible apply Keeps.forEach
    | with_reducible apply Keeps.foldl
    | with_reducible apply Keeps.foldlFst
    | intro _ _ _
    | intro _ _
    | intro _
    | simp only [Keeps.upd_iff]
    | simp only [Keeps.upd_iff, Power.size, Seal.size, Net.size, Time.size, Analog.size, Dio.size, Acq.size, Can.size, Safe.size, Integ.size, Snap.size, modifyAt_length, List.length_map]
    | with_reducible assumption
    | split

theorem State.lanesRun_keeps {s t : State} (arr : List (Nat × Nat)) (h : Keeps s t) : Keeps s (State.lanesRun t arr) := by
  unfold State.lanesRun
  try dsimp only
  repeat' first
    | with_reducible apply State.laneRebuild_keeps
    | with_reducible apply State.laneWrites_keeps
    | with_reducible apply State.laneAtBoundary_keeps
    | with_reducible apply Keeps.ite
    | with_reducible apply Keeps.forUpTo
    | with_reducible apply Keeps.forEach
    | with_reducible apply Keeps.foldl
    | with_reducible apply Keeps.foldlFst
    | intro _ _ _
    | intro _ _
    | intro _
    | simp only [Keeps.upd_iff]
    | simp only [Keeps.upd_iff, Power.size, Seal.size, Net.size, Time.size, Analog.size, Dio.size, Acq.size, Can.size, Safe.size, Integ.size, Snap.size, modifyAt_length, List.length_map]
    | with_reducible assumption
    | split

theorem State.lanesTimed_keeps {s t : State} (h : Keeps s t) : Keeps s (State.lanesTimed t) := by
  unfold State.lanesTimed
  try dsimp only
  repeat' first
    | with_reducible apply State.laneTimed_keeps
    | with_reducible apply Keeps.ite
    | with_reducible apply Keeps.forUpTo
    | with_reducible apply Keeps.forEach
    | with_reducible apply Keeps.foldl
    | with_reducible apply Keeps.foldlFst
    | intro _ _ _
    | intro _ _
    | intro _
    | simp only [Keeps.upd_iff]
    | simp only [Keeps.upd_iff, Power.size, Seal.size, Net.size, Time.size, Analog.size, Dio.size, Acq.size, Can.size, Safe.size, Integ.size, Snap.size, modifyAt_length, List.length_map]
    | with_reducible assumption
    | split

theorem State.lanesShow_keeps {s t : State} (h : Keeps s t) : Keeps s (State.lanesShow t) := by
  unfold State.lanesShow
  try dsimp only
  repeat' first
    | with_reducible apply State.laneShow_keeps
    | with_reducible apply Keeps.ite
    | with_reducible apply Keeps.forUpTo
    | with_reducible apply Keeps.forEach
    | with_reducible apply Keeps.foldl
    | with_reducible apply Keeps.foldlFst
    | intro _ _ _
    | intro _ _
    | intro _
    | simp only [Keeps.upd_iff]
    | simp only [Keeps.upd_iff, Power.size, Seal.size, Net.size, Time.size, Analog.size, Dio.size, Acq.size, Can.size, Safe.size, Integ.size, Snap.size, modifyAt_length, List.length_map]
    | with_reducible assumption
    | split

theorem State.lanesT0_keeps {s t : State} (h : Keeps s t) : Keeps s (State.lanesT0 t) := by
  unfold State.lanesT0
  try dsimp only
  repeat' first
    | with_reducible apply State.laneDiscard_keeps
    | with_reducible apply Keeps.ite
    | with_reducible apply Keeps.forUpTo
    | with_reducible apply Keeps.forEach
    | with_reducible apply Keeps.foldl
    | with_reducible apply Keeps.foldlFst
    | intro _ _ _
    | intro _ _
    | intro _
    | simp only [Keeps.upd_iff]
    | simp only [Keeps.upd_iff, Power.size, Seal.size, Net.size, Time.size, Analog.size, Dio.size, Acq.size, Can.size, Safe.size, Integ.size, Snap.size, modifyAt_length, List.length_map]
    | with_reducible assumption
    | split

theorem State.lanesRestored_keeps {s t : State} (j : Nat) (h : Keeps s t) : Keeps s (State.lanesRestored t j) := by
  unfold State.lanesRestored
  try dsimp only
  repeat' first
    | with_reducible apply State.laneShow_keeps
    | with_reducible apply State.laneBanks_keeps
    | with_reducible apply State.modLane_keeps
    | with_reducible apply State.rebase_keeps
    | with_reducible apply Keeps.ite
    | with_reducible apply Keeps.forUpTo
    | with_reducible apply Keeps.forEach
    | with_reducible apply Keeps.foldl
    | with_reducible apply Keeps.foldlFst
    | intro _ _ _
    | intro _ _
    | intro _
    | simp only [Keeps.upd_iff]
    | simp only [Keeps.upd_iff, Power.size, Seal.size, Net.size, Time.size, Analog.size, Dio.size, Acq.size, Can.size, Safe.size, Integ.size, Snap.size, modifyAt_length, List.length_map]
    | with_reducible assumption
    | split

theorem State.loadLanes_keeps {s t : State} (h : Keeps s t) : Keeps s (State.loadLanes t) := by
  unfold State.loadLanes
  try dsimp only
  repeat' first
    | with_reducible apply State.laneShow_keeps
    | with_reducible apply State.laneState_keeps
    | with_reducible apply State.setReg_keeps
    | with_reducible apply State.modArch_keeps
    | with_reducible apply Keeps.ite
    | with_reducible apply Keeps.forUpTo
    | with_reducible apply Keeps.forEach
    | with_reducible apply Keeps.foldl
    | with_reducible apply Keeps.foldlFst
    | exact fun _ k => Arch.wf_lanes _ rfl k
    | intro _ _ _
    | intro _ _
    | intro _
    | simp only [Keeps.upd_iff]
    | simp only [Keeps.upd_iff, Power.size, Seal.size, Net.size, Time.size, Analog.size, Dio.size, Acq.size, Can.size, Safe.size, Integ.size, Snap.size, modifyAt_length, List.length_map]
    | with_reducible assumption
    | split

end Sys2Proof.Machine
end

