-- ==== Sys2Proof/Laws/KeptConvert.lean ====
section
/-! SUPPORT. What the operations of Machine/Convert.lean keep. -/

set_option linter.all false

namespace Sys2Proof.Machine

theorem State.adcDone_keeps {s t : State} (c : Nat) (code : Int) (h : Keeps s t) :
    Keeps s (t.adcDone c code) := by
  have k := State.adcResult_keeps c code (State.lanesTimed_keeps h)
  unfold State.adcDone
  revert k
  dsimp only
  generalize t.lanesTimed.adcResult c code = x
  obtain ⟨a, y⟩ := x
  intro k
  cases y
  · exact k
  · exact State.lanesWatch_keeps (State.acqSample_keeps _ _ k)

theorem State.noteLeft_keeps {s t : State} (a : State)  (h : Keeps s t) : Keeps s (State.noteLeft a t) := by
  unfold State.noteLeft
  try dsimp only
  repeat' first
    | with_reducible apply State.laneNodeLost_keeps
    | with_reducible apply Keeps.ite
    | with_reducible apply Keeps.forUpTo
    | with_reducible apply Keeps.forEach
    | with_reducible apply Keeps.foldl
    | with_reducible apply Keeps.foldlFst
    | intro _ _ _
    | intro _ _
    | intro _
    | simp only [Keeps.upd_iff]
    | simp only [Keeps.upd_iff, Power.size, Seal.size, Net.size, Time.size, Analog.size, Dio.size, Acq.size, Can.size, Safe.size, Integ.size, Snap.size, modifyAt_length, List.length_map]
    | with_reducible assumption
    | split

theorem State.canFrame_keeps {s t : State} (c lag : Nat) (f : CanFrame) (h : Keeps s t) :
    Keeps s (t.canFrame c lag f) := by
  have k := State.canReceive_keeps c lag f h
  unfold State.canFrame
  revert k
  generalize t.canReceive c lag f = x
  obtain ⟨a, y⟩ := x
  intro k
  cases y
  · exact State.noteLeft_keeps _ k
  · exact State.lanesCan_keeps _ _ _ (State.noteLeft_keeps _ k)

end Sys2Proof.Machine
end

