-- ==== Sys2Proof/Laws/KeptMotion.lean ====
section
/-! SUPPORT. What the operations of Machine/Motion.lean keep. -/

set_option linter.all false

namespace Sys2Proof.Machine

theorem State.modAxis_keeps {s t : State} (n : Nat) (f : Axis → Axis) (h : Keeps s t) : Keeps s (t.modAxis n f) :=
  State.modArch_keeps (fun a => { a with axes := modifyAt a.axes n f })
    (fun _ k => Arch.wf_axes _ ((modifyAt_length _ _ _).trans (Arch.wf_parts k).2.2.2.2.2.1) k) h

theorem State.axEvent_keeps {s t : State} (n : Nat) (code : Nat) (p1 : Word) (p2 : Word) (p3 : Word) (h : Keeps s t) : Keeps s (State.axEvent t n code p1 p2 p3) := by
  unfold State.axEvent
  try dsimp only
  repeat' first
    | with_reducible apply State.raiseLimited_keeps
    | with_reducible apply Keeps.ite
    | with_reducible apply Keeps.forUpTo
    | with_reducible apply Keeps.forEach
    | with_reducible apply Keeps.foldl
    | with_reducible apply Keeps.foldlFst
    | intro _ _ _
    | intro _ _
    | intro _
    | simp only [Keeps.upd_iff]
    | simp only [Keeps.upd_iff, Power.size, Seal.size, Net.size, Time.size, Analog.size, Dio.size, Acq.size, Can.size, Safe.size, Integ.size, Snap.size, modifyAt_length, List.length_map]
    | with_reducible assumption
    | split

theorem State.axEvt_keeps {s t : State} (n : Nat) (i : Nat) (h : Keeps s t) : Keeps s (State.axEvt t n i) := by
  unfold State.axEvt
  try dsimp only
  repeat' first
    | with_reducible apply State.orReg_keeps
    | with_reducible apply Keeps.ite
    | with_reducible apply Keeps.forUpTo
    | with_reducible apply Keeps.forEach
    | with_reducible apply Keeps.foldl
    | with_reducible apply Keeps.foldlFst
    | intro _ _ _
    | intro _ _
    | intro _
    | simp only [Keeps.upd_iff]
    | simp only [Keeps.upd_iff, Power.size, Seal.size, Net.size, Time.size, Analog.size, Dio.size, Acq.size, Can.size, Safe.size, Integ.size, Snap.size, modifyAt_length, List.length_map]
    | with_reducible assumption
    | split

theorem State.dropQueue_keeps {s t : State} (n : Nat) (groups : Bool) (h : Keeps s t) : Keeps s (State.dropQueue t n groups) := by
  unfold State.dropQueue
  try dsimp only
  repeat' first
    | with_reducible apply State.modAxis_keeps
    | with_reducible apply State.bumpBy_keeps
    | with_reducible apply Keeps.ite
    | with_reducible apply Keeps.forUpTo
    | with_reducible apply Keeps.forEach
    | with_reducible apply Keeps.foldl
    | with_reducible apply Keeps.foldlFst
    | intro _ _ _
    | intro _ _
    | intro _
    | simp only [Keeps.upd_iff]
    | simp only [Keeps.upd_iff, Power.size, Seal.size, Net.size, Time.size, Analog.size, Dio.size, Acq.size, Can.size, Safe.size, Integ.size, Snap.size, modifyAt_length, List.length_map]
    | with_reducible assumption
    | split

theorem State.hardStop_keeps {s t : State} (n : Nat) (soft : Bool) (v : F32) (p : DWord) (base : F32) (h : Keeps s t) : Keeps s (State.hardStop t n soft v p base) := by
  unfold State.hardStop
  try dsimp only
  repeat' first
    | with_reducible apply State.modAxis_keeps
    | with_reducible apply State.axEvent_keeps
    | with_reducible apply State.axEvt_keeps
    | with_reducible apply Keeps.ite
    | with_reducible apply Keeps.forUpTo
    | with_reducible apply Keeps.forEach
    | with_reducible apply Keeps.foldl
    | with_reducible apply Keeps.foldlFst
    | intro _ _ _
    | intro _ _
    | intro _
    | simp only [Keeps.upd_iff]
    | simp only [Keeps.upd_iff, Power.size, Seal.size, Net.size, Time.size, Analog.size, Dio.size, Acq.size, Can.size, Safe.size, Integ.size, Snap.size, modifyAt_length, List.length_map]
    | with_reducible assumption
    | split

theorem State.hardNow_keeps {s t : State} (n : Nat) (h : Keeps s t) : Keeps s (State.hardNow t n) := by
  unfold State.hardNow
  try dsimp only
  repeat' first
    | with_reducible apply State.hardStop_keeps
    | with_reducible apply Keeps.ite
    | with_reducible apply Keeps.forUpTo
    | with_reducible apply Keeps.forEach
    | with_reducible apply Keeps.foldl
    | with_reducible apply Keeps.foldlFst
    | intro _ _ _
    | intro _ _
    | intro _
    | simp only [Keeps.upd_iff]
    | simp only [Keeps.upd_iff, Power.size, Seal.size, Net.size, Time.size, Analog.size, Dio.size, Acq.size, Can.size, Safe.size, Integ.size, Snap.size, modifyAt_length, List.length_map]
    | with_reducible assumption
    | split

theorem State.controlledStop_keeps {s t : State} (n : Nat) (st : Nat) (h : Keeps s t) : Keeps s (State.controlledStop t n st) := by
  unfold State.controlledStop
  try dsimp only
  repeat' first
    | with_reducible apply State.modAxis_keeps
    | with_reducible apply State.hardStop_keeps
    | with_reducible apply Keeps.ite
    | with_reducible apply Keeps.forUpTo
    | with_reducible apply Keeps.forEach
    | with_reducible apply Keeps.foldl
    | with_reducible apply Keeps.foldlFst
    | intro _ _ _
    | intro _ _
    | intro _
    | simp only [Keeps.upd_iff]
    | simp only [Keeps.upd_iff, Power.size, Seal.size, Net.size, Time.size, Analog.size, Dio.size, Acq.size, Can.size, Safe.size, Integ.size, Snap.size, modifyAt_length, List.length_map]
    | with_reducible assumption
    | split

theorem State.activate_keeps {s t : State} (n : Nat) (p : DWord) (v : F32) (a : F32) (base : F32) (h : Keeps s t) : Keeps s (State.activate t n p v a base) := by
  unfold State.activate
  try dsimp only
  repeat' first
    | with_reducible apply State.modAxis_keeps
    | with_reducible apply State.hardStop_keeps
    | with_reducible apply Keeps.ite
    | with_reducible apply Keeps.forUpTo
    | with_reducible apply Keeps.forEach
    | with_reducible apply Keeps.foldl
    | with_reducible apply Keeps.foldlFst
    | intro _ _ _
    | intro _ _
    | intro _
    | simp only [Keeps.upd_iff]
    | simp only [Keeps.upd_iff, Power.size, Seal.size, Net.size, Time.size, Analog.size, Dio.size, Acq.size, Can.size, Safe.size, Integ.size, Snap.size, modifyAt_length, List.length_map]
    | with_reducible assumption
    | split

theorem State.moveDone_keeps {s t : State} (n : Nat) (h : Keeps s t) : Keeps s (State.moveDone t n) := by
  unfold State.moveDone
  try dsimp only
  repeat' first
    | with_reducible apply State.modAxis_keeps
    | with_reducible apply Keeps.ite
    | with_reducible apply Keeps.forUpTo
    | with_reducible apply Keeps.forEach
    | with_reducible apply Keeps.foldl
    | with_reducible apply Keeps.foldlFst
    | intro _ _ _
    | intro _ _
    | intro _
    | simp only [Keeps.upd_iff]
    | simp only [Keeps.upd_iff, Power.size, Seal.size, Net.size, Time.size, Analog.size, Dio.size, Acq.size, Can.size, Safe.size, Integ.size, Snap.size, modifyAt_length, List.length_map]
    | with_reducible assumption
    | split

theorem State.homeFailed_keeps {s t : State} (n : Nat) (cause : Word) (h : Keeps s t) : Keeps s (State.homeFailed t n cause) := by
  unfold State.homeFailed
  try dsimp only
  repeat' first
    | with_reducible apply State.modAxis_keeps
    | with_reducible apply State.axEvent_keeps
    | with_reducible apply State.axEvt_keeps
    | with_reducible apply Keeps.ite
    | with_reducible apply Keeps.forUpTo
    | with_reducible apply Keeps.forEach
    | with_reducible apply Keeps.foldl
    | with_reducible apply Keeps.foldlFst
    | intro _ _ _
    | intro _ _
    | intro _
    | simp only [Keeps.upd_iff]
    | simp only [Keeps.upd_iff, Power.size, Seal.size, Net.size, Time.size, Analog.size, Dio.size, Acq.size, Can.size, Safe.size, Integ.size, Snap.size, modifyAt_length, List.length_map]
    | with_reducible assumption
    | split

theorem State.homeDone_keeps {s t : State} (n : Nat) (r : DWord) (h : Keeps s t) : Keeps s (State.homeDone t n r) := by
  unfold State.homeDone
  try dsimp only
  repeat' first
    | with_reducible apply State.modAxis_keeps
    | with_reducible apply State.axEvent_keeps
    | with_reducible apply Keeps.ite
    | with_reducible apply Keeps.forUpTo
    | with_reducible apply Keeps.forEach
    | with_reducible apply Keeps.foldl
    | with_reducible apply Keeps.foldlFst
    | intro _ _ _
    | intro _ _
    | intro _
    | simp only [Keeps.upd_iff]
    | simp only [Keeps.upd_iff, Power.size, Seal.size, Net.size, Time.size, Analog.size, Dio.size, Acq.size, Can.size, Safe.size, Integ.size, Snap.size, modifyAt_length, List.length_map]
    | with_reducible assumption
    | split

theorem State.homeStep_keeps {s t : State} (n : Nat) (hq : Nat) (h : Keeps s t) : Keeps s (State.homeStep t n hq) := by
  unfold State.homeStep
  try dsimp only
  repeat' first
    | with_reducible apply State.modAxis_keeps
    | with_reducible apply Keeps.ite
    | with_reducible apply Keeps.forUpTo
    | with_reducible apply Keeps.forEach
    | with_reducible apply Keeps.foldl
    | with_reducible apply Keeps.foldlFst
    | intro _ _ _
    | intro _ _
    | intro _
    | simp only [Keeps.upd_iff]
    | simp only [Keeps.upd_iff, Power.size, Seal.size, Net.size, Time.size, Analog.size, Dio.size, Acq.size, Can.size, Safe.size, Integ.size, Snap.size, modifyAt_length, List.length_map]
    | with_reducible assumption
    | split

theorem State.atRest_keeps {s t : State} (n : Nat) (q : DWord) (h : Keeps s t) : Keeps s (State.atRest t n q) := by
  unfold State.atRest
  try dsimp only
  repeat' first
    | with_reducible apply State.modAxis_keeps
    | with_reducible apply State.moveDone_keeps
    | with_reducible apply State.homeFailed_keeps
    | with_reducible apply State.homeDone_keeps
    | with_reducible apply State.homeStep_keeps
    | with_reducible apply Keeps.ite
    | with_reducible apply Keeps.forUpTo
    | with_reducible apply Keeps.forEach
    | with_reducible apply Keeps.foldl
    | with_reducible apply Keeps.foldlFst
    | intro _ _ _
    | intro _ _
    | intro _
    | simp only [Keeps.upd_iff]
    | simp only [Keeps.upd_iff, Power.size, Seal.size, Net.size, Time.size, Analog.size, Dio.size, Acq.size, Can.size, Safe.size, Integ.size, Snap.size, modifyAt_length, List.length_map]
    | with_reducible assumption
    | split

theorem State.evalPlan_keeps {s t : State} (n fuel : Nat) (x : F32) (h : Keeps s t) :
    Keeps s (State.evalPlan n fuel x t) := by
  induction fuel generalizing x t with
  | zero => exact h
  | succ fuel ih =>
    unfold State.evalPlan
    split
    · exact h
    · dsimp only
      repeat' first
        | exact ih _ (State.activate_keeps _ _ _ _ _ (State.moveDone_keeps _ h))
        | exact State.atRest_keeps _ _ h
        | exact State.atRest_keeps _ _ (State.modAxis_keeps _ _ h)
        | exact State.modAxis_keeps _ _ h
        | exact h
        | with_reducible apply Keeps.ite
        | split

theorem State.runPlan_keeps {s t : State} (n : Nat) (h : Keeps s t) : Keeps s (State.runPlan t n) := by
  unfold State.runPlan
  try dsimp only
  repeat' first
    | with_reducible apply State.modAxis_keeps
    | with_reducible apply State.evalPlan_keeps
    | with_reducible apply Keeps.ite
    | with_reducible apply Keeps.forUpTo
    | with_reducible apply Keeps.forEach
    | with_reducible apply Keeps.foldl
    | with_reducible apply Keeps.foldlFst
    | intro _ _ _
    | intro _ _
    | intro _
    | simp only [Keeps.upd_iff]
    | simp only [Keeps.upd_iff, Power.size, Seal.size, Net.size, Time.size, Analog.size, Dio.size, Acq.size, Can.size, Safe.size, Integ.size, Snap.size, modifyAt_length, List.length_map]
    | with_reducible assumption
    | split

theorem State.axLinkEvent_keeps {s t : State} (n : Nat) (code : Nat) (h : Keeps s t) : Keeps s (State.axLinkEvent t n code) := by
  unfold State.axLinkEvent
  try dsimp only
  repeat' first
    | with_reducible apply State.axEvent_keeps
    | with_reducible apply Keeps.ite
    | with_reducible apply Keeps.forUpTo
    | with_reducible apply Keeps.forEach
    | with_reducible apply Keeps.foldl
    | with_reducible apply Keeps.foldlFst
    | intro _ _ _
    | intro _ _
    | intro _
    | simp only [Keeps.upd_iff]
    | simp only [Keeps.upd_iff, Power.size, Seal.size, Net.size, Time.size, Analog.size, Dio.size, Acq.size, Can.size, Safe.size, Integ.size, Snap.size, modifyAt_length, List.length_map]
    | with_reducible assumption
    | split

theorem State.axOffline_keeps {s t : State} (n : Nat) (h : Keeps s t) : Keeps s (State.axOffline t n) := by
  unfold State.axOffline
  try dsimp only
  repeat' first
    | with_reducible apply State.modAxis_keeps
    | with_reducible apply State.axEvt_keeps
    | with_reducible apply State.dropQueue_keeps
    | with_reducible apply State.axLinkEvent_keeps
    | with_reducible apply Keeps.ite
    | with_reducible apply Keeps.forUpTo
    | with_reducible apply Keeps.forEach
    | with_reducible apply Keeps.foldl
    | with_reducible apply Keeps.foldlFst
    | intro _ _ _
    | intro _ _
    | intro _
    | simp only [Keeps.upd_iff]
    | simp only [Keeps.upd_iff, Power.size, Seal.size, Net.size, Time.size, Analog.size, Dio.size, Acq.size, Can.size, Safe.size, Integ.size, Snap.size, modifyAt_length, List.length_map]
    | with_reducible assumption
    | split

theorem State.axFeedback_keeps {s t : State} (n : Nat) (h : Keeps s t) : Keeps s (State.axFeedback t n) := by
  unfold State.axFeedback
  try dsimp only
  repeat' first
    | with_reducible apply State.modAxis_keeps
    | with_reducible apply State.axLinkEvent_keeps
    | with_reducible apply State.axOffline_keeps
    | with_reducible apply Keeps.ite
    | with_reducible apply Keeps.forUpTo
    | with_reducible apply Keeps.forEach
    | with_reducible apply Keeps.foldl
    | with_reducible apply Keeps.foldlFst
    | intro _ _ _
    | intro _ _
    | intro _
    | simp only [Keeps.upd_iff]
    | simp only [Keeps.upd_iff, Power.size, Seal.size, Net.size, Time.size, Analog.size, Dio.size, Acq.size, Can.size, Safe.size, Integ.size, Snap.size, modifyAt_length, List.length_map]
    | with_reducible assumption
    | split

theorem State.axLimit_keeps {s t : State} (n : Nat) (i : Nat) (h : Keeps s t) : Keeps s (State.axLimit t n i) := by
  unfold State.axLimit
  try dsimp only
  repeat' first
    | with_reducible apply State.modAxis_keeps
    | with_reducible apply State.axEvent_keeps
    | with_reducible apply State.axEvt_keeps
    | with_reducible apply State.dropQueue_keeps
    | with_reducible apply State.hardNow_keeps
    | with_reducible apply Keeps.ite
    | with_reducible apply Keeps.forUpTo
    | with_reducible apply Keeps.forEach
    | with_reducible apply Keeps.foldl
    | with_reducible apply Keeps.foldlFst
    | intro _ _ _
    | intro _ _
    | intro _
    | simp only [Keeps.upd_iff]
    | simp only [Keeps.upd_iff, Power.size, Seal.size, Net.size, Time.size, Analog.size, Dio.size, Acq.size, Can.size, Safe.size, Integ.size, Snap.size, modifyAt_length, List.length_map]
    | with_reducible assumption
    | split

theorem State.axChatter_keeps {s t : State} (b : Nat) (h : Keeps s t) : Keeps s (State.axChatter t b) := by
  unfold State.axChatter
  try dsimp only
  repeat' first
    | with_reducible apply State.axEvent_keeps
    | with_reducible apply State.axEvt_keeps
    | with_reducible apply Keeps.ite
    | with_reducible apply Keeps.forUpTo
    | with_reducible apply Keeps.forEach
    | with_reducible apply Keeps.foldl
    | with_reducible apply Keeps.foldlFst
    | intro _ _ _
    | intro _ _
    | intro _
    | simp only [Keeps.upd_iff]
    | simp only [Keeps.upd_iff, Power.size, Seal.size, Net.size, Time.size, Analog.size, Dio.size, Acq.size, Can.size, Safe.size, Integ.size, Snap.size, modifyAt_length, List.length_map]
    | with_reducible assumption
    | split

theorem State.flushChatter_keeps {s t : State} (h : Keeps s t) : Keeps s (State.flushChatter t) := by
  unfold State.flushChatter
  try dsimp only
  repeat' first
    | with_reducible apply State.modDio_keeps
    | with_reducible apply State.axChatter_keeps
    | with_reducible apply Keeps.ite
    | with_reducible apply Keeps.forUpTo
    | with_reducible apply Keeps.forEach
    | with_reducible apply Keeps.foldl
    | with_reducible apply Keeps.foldlFst
    | exact fun _ k => k
    | exact fun _ _ => rfl
    | exact fun _ k => by simpa only [Power.size, Seal.size, Net.size, Time.size, Analog.size, Dio.size, Acq.size, Can.size, Safe.size, Integ.size, Snap.size, modifyAt_length, List.length_map] using k
    | intro _ _ _
    | intro _ _
    | intro _
    | simp only [Keeps.upd_iff]
    | simp only [Keeps.upd_iff, Power.size, Seal.size, Net.size, Time.size, Analog.size, Dio.size, Acq.size, Can.size, Safe.size, Integ.size, Snap.size, modifyAt_length, List.length_map]
    | with_reducible assumption
    | split

theorem State.axGroup_keeps {s t : State} (n : Nat) (c : MoveCmd) (h : Keeps s t) : Keeps s (State.axGroup t n c) := by
  unfold State.axGroup
  try dsimp only
  repeat' first
    | with_reducible apply State.modAxis_keeps
    | with_reducible apply State.dropQueue_keeps
    | with_reducible apply State.controlledStop_keeps
    | with_reducible apply Keeps.ite
    | with_reducible apply Keeps.forUpTo
    | with_reducible apply Keeps.forEach
    | with_reducible apply Keeps.foldl
    | with_reducible apply Keeps.foldlFst
    | intro _ _ _
    | intro _ _
    | intro _
    | simp only [Keeps.upd_iff]
    | simp only [Keeps.upd_iff, Power.size, Seal.size, Net.size, Time.size, Analog.size, Dio.size, Acq.size, Can.size, Safe.size, Integ.size, Snap.size, modifyAt_length, List.length_map]
    | with_reducible assumption
    | split

theorem State.commitMove_keeps {s t : State} (l : List MoveCmd) (h : Keeps s t) : Keeps s (State.commitMove t l) := by
  unfold State.commitMove
  try dsimp only
  repeat' first
    | with_reducible apply State.modAxis_keeps
    | with_reducible apply Keeps.ite
    | with_reducible apply Keeps.forUpTo
    | with_reducible apply Keeps.forEach
    | with_reducible apply Keeps.foldl
    | with_reducible apply Keeps.foldlFst
    | intro _ _ _
    | intro _ _
    | intro _
    | simp only [Keeps.upd_iff]
    | simp only [Keeps.upd_iff, Power.size, Seal.size, Net.size, Time.size, Analog.size, Dio.size, Acq.size, Can.size, Safe.size, Integ.size, Snap.size, modifyAt_length, List.length_map]
    | with_reducible assumption
    | split

theorem State.startHome_keeps {s t : State} (n : Nat) (h : Keeps s t) : Keeps s (State.startHome t n) := by
  unfold State.startHome
  try dsimp only
  repeat' first
    | with_reducible apply State.modAxis_keeps
    | with_reducible apply State.dropQueue_keeps
    | with_reducible apply State.clrReg_keeps
    | with_reducible apply Keeps.ite
    | with_reducible apply Keeps.forUpTo
    | with_reducible apply Keeps.forEach
    | with_reducible apply Keeps.foldl
    | with_reducible apply Keeps.foldlFst
    | intro _ _ _
    | intro _ _
    | intro _
    | simp only [Keeps.upd_iff]
    | simp only [Keeps.upd_iff, Power.size, Seal.size, Net.size, Time.size, Analog.size, Dio.size, Acq.size, Can.size, Safe.size, Integ.size, Snap.size, modifyAt_length, List.length_map]
    | with_reducible assumption
    | split

theorem State.axSlotTarget_keeps {s t : State} (n : Nat) (h : Keeps s t) : Keeps s (State.axSlotTarget t n) := by
  unfold State.axSlotTarget
  try dsimp only
  repeat' first
    | with_reducible apply State.modAxis_keeps
    | with_reducible apply State.axEvt_keeps
    | with_reducible apply State.axGroup_keeps
    | with_reducible apply Keeps.ite
    | with_reducible apply Keeps.forUpTo
    | with_reducible apply Keeps.forEach
    | with_reducible apply Keeps.foldl
    | with_reducible apply Keeps.foldlFst
    | intro _ _ _
    | intro _ _
    | intro _
    | simp only [Keeps.upd_iff]
    | simp only [Keeps.upd_iff, Power.size, Seal.size, Net.size, Time.size, Analog.size, Dio.size, Acq.size, Can.size, Safe.size, Integ.size, Snap.size, modifyAt_length, List.length_map]
    | with_reducible assumption
    | split

theorem State.axHoming_keeps {s t : State} (n : Nat) (h : Keeps s t) : Keeps s (State.axHoming t n) := by
  unfold State.axHoming
  try dsimp only
  repeat' first
    | with_reducible apply State.modAxis_keeps
    | with_reducible apply State.controlledStop_keeps
    | with_reducible apply Keeps.ite
    | with_reducible apply Keeps.forUpTo
    | with_reducible apply Keeps.forEach
    | with_reducible apply Keeps.foldl
    | with_reducible apply Keeps.foldlFst
    | intro _ _ _
    | intro _ _
    | intro _
    | simp only [Keeps.upd_iff]
    | simp only [Keeps.upd_iff, Power.size, Seal.size, Net.size, Time.size, Analog.size, Dio.size, Acq.size, Can.size, Safe.size, Integ.size, Snap.size, modifyAt_length, List.length_map]
    | with_reducible assumption
    | split

theorem State.axHardstop_keeps {s t : State} (n : Nat) (h : Keeps s t) : Keeps s (State.axHardstop t n) := by
  unfold State.axHardstop
  try dsimp only
  repeat' first
    | with_reducible apply State.modAxis_keeps
    | with_reducible apply State.homeDone_keeps
    | with_reducible apply Keeps.ite
    | with_reducible apply Keeps.forUpTo
    | with_reducible apply Keeps.forEach
    | with_reducible apply Keeps.foldl
    | with_reducible apply Keeps.foldlFst
    | intro _ _ _
    | intro _ _
    | intro _
    | simp only [Keeps.upd_iff]
    | simp only [Keeps.upd_iff, Power.size, Seal.size, Net.size, Time.size, Analog.size, Dio.size, Acq.size, Can.size, Safe.size, Integ.size, Snap.size, modifyAt_length, List.length_map]
    | with_reducible assumption
    | split

theorem State.axFollow_keeps {s t : State} (n : Nat) (h : Keeps s t) : Keeps s (State.axFollow t n) := by
  unfold State.axFollow
  try dsimp only
  repeat' first
    | with_reducible apply State.modAxis_keeps
    | with_reducible apply State.axEvent_keeps
    | with_reducible apply State.axEvt_keeps
    | with_reducible apply State.dropQueue_keeps
    | with_reducible apply State.hardNow_keeps
    | with_reducible apply Keeps.ite
    | with_reducible apply Keeps.forUpTo
    | with_reducible apply Keeps.forEach
    | with_reducible apply Keeps.foldl
    | with_reducible apply Keeps.foldlFst
    | intro _ _ _
    | intro _ _
    | intro _
    | simp only [Keeps.upd_iff]
    | simp only [Keeps.upd_iff, Power.size, Seal.size, Net.size, Time.size, Analog.size, Dio.size, Acq.size, Can.size, Safe.size, Integ.size, Snap.size, modifyAt_length, List.length_map]
    | with_reducible assumption
    | split

theorem State.axReplan_keeps {s t : State} (n : Nat) (h : Keeps s t) : Keeps s (State.axReplan t n) := by
  unfold State.axReplan
  try dsimp only
  repeat' first
    | with_reducible apply State.modAxis_keeps
    | with_reducible apply State.activate_keeps
    | with_reducible apply Keeps.ite
    | with_reducible apply Keeps.forUpTo
    | with_reducible apply Keeps.forEach
    | with_reducible apply Keeps.foldl
    | with_reducible apply Keeps.foldlFst
    | intro _ _ _
    | intro _ _
    | intro _
    | simp only [Keeps.upd_iff]
    | simp only [Keeps.upd_iff, Power.size, Seal.size, Net.size, Time.size, Analog.size, Dio.size, Acq.size, Can.size, Safe.size, Integ.size, Snap.size, modifyAt_length, List.length_map]
    | with_reducible assumption
    | split

theorem State.axWrite_keeps {s t : State} (n : Nat) (k : Nat) (kept : Bool) (h : Keeps s t) : Keeps s (State.axWrite t n k kept) := by
  unfold State.axWrite
  try dsimp only
  repeat' first
    | with_reducible apply State.modAxis_keeps
    | with_reducible apply State.stageVia_keeps
    | with_reducible apply Keeps.ite
    | with_reducible apply Keeps.forUpTo
    | with_reducible apply Keeps.forEach
    | with_reducible apply Keeps.foldl
    | with_reducible apply Keeps.foldlFst
    | intro _ _ _
    | intro _ _
    | intro _
    | simp only [Keeps.upd_iff]
    | simp only [Keeps.upd_iff, Power.size, Seal.size, Net.size, Time.size, Analog.size, Dio.size, Acq.size, Can.size, Safe.size, Integ.size, Snap.size, modifyAt_length, List.length_map]
    | with_reducible assumption
    | split

theorem State.axBegin_keeps {s t : State} (n : Nat) (h : Keeps s t) : Keeps s (State.axBegin t n) := by
  unfold State.axBegin
  try dsimp only
  repeat' first
    | with_reducible apply State.activate_keeps
    | with_reducible apply Keeps.ite
    | with_reducible apply Keeps.forUpTo
    | with_reducible apply Keeps.forEach
    | with_reducible apply Keeps.foldl
    | with_reducible apply Keeps.foldlFst
    | intro _ _ _
    | intro _ _
    | intro _
    | simp only [Keeps.upd_iff]
    | simp only [Keeps.upd_iff, Power.size, Seal.size, Net.size, Time.size, Analog.size, Dio.size, Acq.size, Can.size, Safe.size, Integ.size, Snap.size, modifyAt_length, List.length_map]
    | with_reducible assumption
    | split

theorem State.axisExec_keeps {s t : State} (n : Nat) (k : Nat) (h : Keeps s t) : Keeps s (State.axisExec t n k) := by
  unfold State.axisExec
  try dsimp only
  repeat' first
    | with_reducible apply State.modAxis_keeps
    | with_reducible apply State.dropQueue_keeps
    | with_reducible apply State.runPlan_keeps
    | with_reducible apply State.axFeedback_keeps
    | with_reducible apply State.axLimit_keeps
    | with_reducible apply State.axGroup_keeps
    | with_reducible apply State.axSlotTarget_keeps
    | with_reducible apply State.axHoming_keeps
    | with_reducible apply State.axHardstop_keeps
    | with_reducible apply State.axFollow_keeps
    | with_reducible apply State.axReplan_keeps
    | with_reducible apply State.axWrite_keeps
    | with_reducible apply State.axBegin_keeps
    | with_reducible apply Keeps.ite
    | with_reducible apply Keeps.forUpTo
    | with_reducible apply Keeps.forEach
    | with_reducible apply Keeps.foldl
    | with_reducible apply Keeps.foldlFst
    | intro _ _ _
    | intro _ _
    | intro _
    | simp only [Keeps.upd_iff]
    | simp only [Keeps.upd_iff, Power.size, Seal.size, Net.size, Time.size, Analog.size, Dio.size, Acq.size, Can.size, Safe.size, Integ.size, Snap.size, modifyAt_length, List.length_map]
    | with_reducible assumption
    | split

theorem State.runAxes_keeps {s t : State} (k : Nat) (h : Keeps s t) : Keeps s (State.runAxes t k) := by
  unfold State.runAxes
  try dsimp only
  repeat' first
    | with_reducible apply State.axisExec_keeps
    | with_reducible apply Keeps.ite
    | with_reducible apply Keeps.forUpTo
    | with_reducible apply Keeps.forEach
    | with_reducible apply Keeps.foldl
    | with_reducible apply Keeps.foldlFst
    | intro _ _ _
    | intro _ _
    | intro _
    | simp only [Keeps.upd_iff]
    | simp only [Keeps.upd_iff, Power.size, Seal.size, Net.size, Time.size, Analog.size, Dio.size, Acq.size, Can.size, Safe.size, Integ.size, Snap.size, modifyAt_length, List.length_map]
    | with_reducible assumption
    | split

theorem State.axIssue_keeps {s t : State} (h : Keeps s t) : Keeps s t.axIssue :=
  State.modArch_keeps (fun a => { a with axes := a.axes.map (fun x => { x with issued := x.pend }) })
    (fun _ k => Arch.wf_axes _ (by rw [List.length_map]; exact (Arch.wf_parts k).2.2.2.2.2.1) k) h

theorem State.axesSafe_keeps {s t : State} (h : Keeps s t) : Keeps s (State.axesSafe t) := by
  unfold State.axesSafe
  try dsimp only
  repeat' first
    | with_reducible apply State.modAxis_keeps
    | with_reducible apply State.dropQueue_keeps
    | with_reducible apply State.hardNow_keeps
    | with_reducible apply State.useFree_keeps
    | with_reducible apply Keeps.ite
    | with_reducible apply Keeps.forUpTo
    | with_reducible apply Keeps.forEach
    | with_reducible apply Keeps.foldl
    | with_reducible apply Keeps.foldlFst
    | intro _ _ _
    | intro _ _
    | intro _
    | simp only [Keeps.upd_iff]
    | simp only [Keeps.upd_iff, Power.size, Seal.size, Net.size, Time.size, Analog.size, Dio.size, Acq.size, Can.size, Safe.size, Integ.size, Snap.size, modifyAt_length, List.length_map]
    | with_reducible assumption
    | split

theorem State.axesResume_keeps {s t : State} (h : Keeps s t) : Keeps s (State.axesResume t) := by
  unfold State.axesResume
  try dsimp only
  repeat' first
    | with_reducible apply State.modAxis_keeps
    | with_reducible apply State.axEvt_keeps
    | with_reducible apply Keeps.ite
    | with_reducible apply Keeps.forUpTo
    | with_reducible apply Keeps.forEach
    | with_reducible apply Keeps.foldl
    | with_reducible apply Keeps.foldlFst
    | intro _ _ _
    | intro _ _
    | intro _
    | simp only [Keeps.upd_iff]
    | simp only [Keeps.upd_iff, Power.size, Seal.size, Net.size, Time.size, Analog.size, Dio.size, Acq.size, Can.size, Safe.size, Integ.size, Snap.size, modifyAt_length, List.length_map]
    | with_reducible assumption
    | split

theorem State.brakeBegin_keeps {s t : State} (n : Nat) (h : Keeps s t) : Keeps s (State.brakeBegin t n) := by
  unfold State.brakeBegin
  try dsimp only
  repeat' first
    | with_reducible apply State.modAxis_keeps
    | with_reducible apply Keeps.ite
    | with_reducible apply Keeps.forUpTo
    | with_reducible apply Keeps.forEach
    | with_reducible apply Keeps.foldl
    | with_reducible apply Keeps.foldlFst
    | intro _ _ _
    | intro _ _
    | intro _
    | simp only [Keeps.upd_iff]
    | simp only [Keeps.upd_iff, Power.size, Seal.size, Net.size, Time.size, Analog.size, Dio.size, Acq.size, Can.size, Safe.size, Integ.size, Snap.size, modifyAt_length, List.length_map]
    | with_reducible assumption
    | split

theorem State.brakeEnd_keeps {s t : State} (n : Nat) (h : Keeps s t) : Keeps s (State.brakeEnd t n) := by
  unfold State.brakeEnd
  try dsimp only
  repeat' first
    | with_reducible apply State.modAxis_keeps
    | with_reducible apply Keeps.ite
    | with_reducible apply Keeps.forUpTo
    | with_reducible apply Keeps.forEach
    | with_reducible apply Keeps.foldl
    | with_reducible apply Keeps.foldlFst
    | intro _ _ _
    | intro _ _
    | intro _
    | simp only [Keeps.upd_iff]
    | simp only [Keeps.upd_iff, Power.size, Seal.size, Net.size, Time.size, Analog.size, Dio.size, Acq.size, Can.size, Safe.size, Integ.size, Snap.size, modifyAt_length, List.length_map]
    | with_reducible assumption
    | split

theorem State.loadAxes_keeps {s t : State} (h : Keeps s t) : Keeps s (State.loadAxes t) := by
  unfold State.loadAxes
  try dsimp only
  repeat' first
    | with_reducible apply State.setImage_keeps
    | with_reducible apply State.modAxis_keeps
    | with_reducible apply State.setReg_keeps
    | with_reducible apply State.modArch_keeps
    | with_reducible apply Keeps.ite
    | with_reducible apply Keeps.forUpTo
    | with_reducible apply Keeps.forEach
    | with_reducible apply Keeps.foldl
    | with_reducible apply Keeps.foldlFst
    | exact fun _ k => Arch.wf_axes _ rfl k
    | intro _ _ _
    | intro _ _
    | intro _
    | simp only [Keeps.upd_iff]
    | simp only [Keeps.upd_iff, Power.size, Seal.size, Net.size, Time.size, Analog.size, Dio.size, Acq.size, Can.size, Safe.size, Integ.size, Snap.size, modifyAt_length, List.length_map]
    | with_reducible assumption
    | split

end Sys2Proof.Machine
end

