-- ==== Sys2Proof/Laws/KeptStride.lean ====
section
/-! SUPPORT. What the operations of Machine/Stride.lean keep. -/

set_option linter.all false

namespace Sys2Proof.Machine

theorem State.modSport_keeps {s t : State} (n : Nat) (f : StridePort → StridePort) (h : Keeps s t) :
    Keeps s (t.modSport n f) :=
  State.modArch_keeps (fun a => { a with stride := modifyAt a.stride n f })
    (fun _ k => Arch.wf_stride _ ((modifyAt_length _ _ _).trans (Arch.wf_parts k).2.2.2.2.2.2) k) h

theorem State.modEntry_keeps {s t : State} (d : Nat) (e : Nat) (f : StrideEntry → StrideEntry) (h : Keeps s t) : Keeps s (State.modEntry t d e f) := by
  unfold State.modEntry
  try dsimp only
  repeat' first
    | with_reducible apply State.modSport_keeps
    | with_reducible apply Keeps.ite
    | with_reducible apply Keeps.forUpTo
    | with_reducible apply Keeps.forEach
    | with_reducible apply Keeps.foldl
    | with_reducible apply Keeps.foldlFst
    | intro _ _ _
    | intro _ _
    | intro _
    | simp only [Keeps.upd_iff]
    | simp only [Keeps.upd_iff, Power.size, Seal.size, Net.size, Time.size, Analog.size, Dio.size, Acq.size, Can.size, Safe.size, Integ.size, Snap.size, modifyAt_length, List.length_map]
    | with_reducible assumption
    | split

theorem State.periodEnd_keeps {s t : State} (d : Nat) (h : Keeps s t) : Keeps s (State.periodEnd t d) := by
  unfold State.periodEnd
  try dsimp only
  repeat' first
    | with_reducible apply State.modSport_keeps
    | with_reducible apply Keeps.ite
    | with_reducible apply Keeps.forUpTo
    | with_reducible apply Keeps.forEach
    | with_reducible apply Keeps.foldl
    | with_reducible apply Keeps.foldlFst
    | intro _ _ _
    | intro _ _
    | intro _
    | simp only [Keeps.upd_iff]
    | simp only [Keeps.upd_iff, Power.size, Seal.size, Net.size, Time.size, Analog.size, Dio.size, Acq.size, Can.size, Safe.size, Integ.size, Snap.size, modifyAt_length, List.length_map]
    | with_reducible assumption
    | split

theorem State.servoStart_keeps {s t : State} (d : Nat) (h : Keeps s t) : Keeps s (State.servoStart t d) := by
  unfold State.servoStart
  try dsimp only
  repeat' first
    | with_reducible apply State.bump_keeps
    | with_reducible apply State.atEdge_keeps
    | with_reducible apply State.emit_keeps
    | with_reducible apply State.modSport_keeps
    | with_reducible apply State.periodEnd_keeps
    | with_reducible apply Keeps.ite
    | with_reducible apply Keeps.forUpTo
    | with_reducible apply Keeps.forEach
    | with_reducible apply Keeps.foldl
    | with_reducible apply Keeps.foldlFst
    | intro _ _ _
    | intro _ _
    | intro _
    | simp only [Keeps.upd_iff]
    | simp only [Keeps.upd_iff, Power.size, Seal.size, Net.size, Time.size, Analog.size, Dio.size, Acq.size, Can.size, Safe.size, Integ.size, Snap.size, modifyAt_length, List.length_map]
    | with_reducible assumption
    | split

theorem State.probeSend_keeps {s t : State} (d : Nat) (h : Keeps s t) : Keeps s (State.probeSend t d) := by
  unfold State.probeSend
  try dsimp only
  repeat' first
    | with_reducible apply State.emit_keeps
    | with_reducible apply State.modSport_keeps
    | with_reducible apply Keeps.ite
    | with_reducible apply Keeps.forUpTo
    | with_reducible apply Keeps.forEach
    | with_reducible apply Keeps.foldl
    | with_reducible apply Keeps.foldlFst
    | intro _ _ _
    | intro _ _
    | intro _
    | simp only [Keeps.upd_iff]
    | simp only [Keeps.upd_iff, Power.size, Seal.size, Net.size, Time.size, Analog.size, Dio.size, Acq.size, Can.size, Safe.size, Integ.size, Snap.size, modifyAt_length, List.length_map]
    | with_reducible assumption
    | split

theorem State.strideDiscard_keeps {s t : State} (d : Nat) (n : Nat) (h : Keeps s t) : Keeps s (State.strideDiscard t d n) := by
  unfold State.strideDiscard
  try dsimp only
  repeat' first
    | with_reducible apply State.bump_keeps
    | with_reducible apply Keeps.ite
    | with_reducible apply Keeps.forUpTo
    | with_reducible apply Keeps.forEach
    | with_reducible apply Keeps.foldl
    | with_reducible apply Keeps.foldlFst
    | intro _ _ _
    | intro _ _
    | intro _
    | simp only [Keeps.upd_iff]
    | simp only [Keeps.upd_iff, Power.size, Seal.size, Net.size, Time.size, Analog.size, Dio.size, Acq.size, Can.size, Safe.size, Integ.size, Snap.size, modifyAt_length, List.length_map]
    | with_reducible assumption
    | split

theorem State.replyTaken_keeps {s t : State} (d : Nat) (e : Nat) (b : List Byte) (h : Keeps s t) : Keeps s (State.replyTaken t d e b) := by
  unfold State.replyTaken
  try dsimp only
  repeat' first
    | with_reducible apply State.modAxis_keeps
    | with_reducible apply State.setReg_keeps
    | with_reducible apply State.putFld_keeps
    | with_reducible apply State.raise_keeps
    | with_reducible apply State.raiseLimited_keeps
    | with_reducible apply State.stageVia_keeps
    | with_reducible apply State.modEntry_keeps
    | with_reducible apply Keeps.ite
    | with_reducible apply Keeps.forUpTo
    | with_reducible apply Keeps.forEach
    | with_reducible apply Keeps.foldl
    | with_reducible apply Keeps.foldlFst
    | intro _ _ _
    | intro _ _
    | intro _
    | simp only [Keeps.upd_iff]
    | simp only [Keeps.upd_iff, Power.size, Seal.size, Net.size, Time.size, Analog.size, Dio.size, Acq.size, Can.size, Safe.size, Integ.size, Snap.size, modifyAt_length, List.length_map]
    | with_reducible assumption
    | split

theorem State.strideReply_keeps {s t : State} (d : Nat) (e : Nat) (b : List Byte) (from_ : Nat) (end_ : Nat) (h : Keeps s t) : Keeps s (State.strideReply t d e b from_ end_) := by
  unfold State.strideReply
  try dsimp only
  repeat' first
    | with_reducible apply State.strideDiscard_keeps
    | with_reducible apply State.replyTaken_keeps
    | with_reducible apply Keeps.ite
    | with_reducible apply Keeps.forUpTo
    | with_reducible apply Keeps.forEach
    | with_reducible apply Keeps.foldl
    | with_reducible apply Keeps.foldlFst
    | intro _ _ _
    | intro _ _
    | intro _
    | simp only [Keeps.upd_iff]
    | simp only [Keeps.upd_iff, Power.size, Seal.size, Net.size, Time.size, Analog.size, Dio.size, Acq.size, Can.size, Safe.size, Integ.size, Snap.size, modifyAt_length, List.length_map]
    | with_reducible assumption
    | split

theorem State.announceTaken_keeps {s t : State} (d : Nat) (e : Nat) (b : List Byte) (h : Keeps s t) : Keeps s (State.announceTaken t d e b) := by
  unfold State.announceTaken
  try dsimp only
  repeat' first
    | with_reducible apply State.orReg_keeps
    | with_reducible apply State.raise_keeps
    | with_reducible apply State.modSport_keeps
    | with_reducible apply State.modEntry_keeps
    | with_reducible apply Keeps.ite
    | with_reducible apply Keeps.forUpTo
    | with_reducible apply Keeps.forEach
    | with_reducible apply Keeps.foldl
    | with_reducible apply Keeps.foldlFst
    | intro _ _ _
    | intro _ _
    | intro _
    | simp only [Keeps.upd_iff]
    | simp only [Keeps.upd_iff, Power.size, Seal.size, Net.size, Time.size, Analog.size, Dio.size, Acq.size, Can.size, Safe.size, Integ.size, Snap.size, modifyAt_length, List.length_map]
    | with_reducible assumption
    | split

theorem State.strideAnnounce_keeps {s t : State} (d : Nat) (b : List Byte) (len : Nat) (h : Keeps s t) : Keeps s (State.strideAnnounce t d b len) := by
  unfold State.strideAnnounce
  try dsimp only
  repeat' first
    | with_reducible apply State.probeSend_keeps
    | with_reducible apply State.strideDiscard_keeps
    | with_reducible apply State.announceTaken_keeps
    | with_reducible apply Keeps.ite
    | with_reducible apply Keeps.forUpTo
    | with_reducible apply Keeps.forEach
    | with_reducible apply Keeps.foldl
    | with_reducible apply Keeps.foldlFst
    | intro _ _ _
    | intro _ _
    | intro _
    | simp only [Keeps.upd_iff]
    | simp only [Keeps.upd_iff, Power.size, Seal.size, Net.size, Time.size, Analog.size, Dio.size, Acq.size, Can.size, Safe.size, Integ.size, Snap.size, modifyAt_length, List.length_map]
    | with_reducible assumption
    | split

theorem State.replyClose_keeps {s t : State} (d : Nat) (e : Nat) (h : Keeps s t) : Keeps s (State.replyClose t d e) := by
  unfold State.replyClose
  try dsimp only
  repeat' first
    | with_reducible apply State.bump_keeps
    | with_reducible apply State.raise_keeps
    | with_reducible apply State.modEntry_keeps
    | with_reducible apply Keeps.ite
    | with_reducible apply Keeps.forUpTo
    | with_reducible apply Keeps.forEach
    | with_reducible apply Keeps.foldl
    | with_reducible apply Keeps.foldlFst
    | intro _ _ _
    | intro _ _
    | intro _
    | simp only [Keeps.upd_iff]
    | simp only [Keeps.upd_iff, Power.size, Seal.size, Net.size, Time.size, Analog.size, Dio.size, Acq.size, Can.size, Safe.size, Integ.size, Snap.size, modifyAt_length, List.length_map]
    | with_reducible assumption
    | split

theorem State.slotClose_keeps {s t : State} (d : Nat) (e : Nat) (h : Keeps s t) : Keeps s (State.slotClose t d e) := by
  unfold State.slotClose
  try dsimp only
  repeat' first
    | with_reducible apply State.probeSend_keeps
    | with_reducible apply State.replyClose_keeps
    | with_reducible apply Keeps.ite
    | with_reducible apply Keeps.forUpTo
    | with_reducible apply Keeps.forEach
    | with_reducible apply Keeps.foldl
    | with_reducible apply Keeps.foldlFst
    | intro _ _ _
    | intro _ _
    | intro _
    | simp only [Keeps.upd_iff]
    | simp only [Keeps.upd_iff, Power.size, Seal.size, Net.size, Time.size, Analog.size, Dio.size, Acq.size, Can.size, Safe.size, Integ.size, Snap.size, modifyAt_length, List.length_map]
    | with_reducible assumption
    | split

theorem State.strideEntered_keeps {s t : State} (h : Keeps s t) : Keeps s (State.strideEntered t) := by
  unfold State.strideEntered
  try dsimp only
  repeat' first
    | with_reducible apply State.modSport_keeps
    | with_reducible apply Keeps.ite
    | with_reducible apply Keeps.forUpTo
    | with_reducible apply Keeps.forEach
    | with_reducible apply Keeps.foldl
    | with_reducible apply Keeps.foldlFst
    | intro _ _ _
    | intro _ _
    | intro _
    | simp only [Keeps.upd_iff]
    | simp only [Keeps.upd_iff, Power.size, Seal.size, Net.size, Time.size, Analog.size, Dio.size, Acq.size, Can.size, Safe.size, Integ.size, Snap.size, modifyAt_length, List.length_map]
    | with_reducible assumption
    | split

theorem State.strideT0_keeps {s t : State} (h : Keeps s t) : Keeps s (State.strideT0 t) := by
  unfold State.strideT0
  try dsimp only
  repeat' first
    | with_reducible apply State.modSport_keeps
    | with_reducible apply Keeps.ite
    | with_reducible apply Keeps.forUpTo
    | with_reducible apply Keeps.forEach
    | with_reducible apply Keeps.foldl
    | with_reducible apply Keeps.foldlFst
    | intro _ _ _
    | intro _ _
    | intro _
    | simp only [Keeps.upd_iff]
    | simp only [Keeps.upd_iff, Power.size, Seal.size, Net.size, Time.size, Analog.size, Dio.size, Acq.size, Can.size, Safe.size, Integ.size, Snap.size, modifyAt_length, List.length_map]
    | with_reducible assumption
    | split

theorem State.strideResume_keeps {s t : State} (h : Keeps s t) : Keeps s (State.strideResume t) := by
  unfold State.strideResume
  try dsimp only
  repeat' first
    | with_reducible apply State.modSport_keeps
    | with_reducible apply Keeps.ite
    | with_reducible apply Keeps.forUpTo
    | with_reducible apply Keeps.forEach
    | with_reducible apply Keeps.foldl
    | with_reducible apply Keeps.foldlFst
    | intro _ _ _
    | intro _ _
    | intro _
    | simp only [Keeps.upd_iff]
    | simp only [Keeps.upd_iff, Power.size, Seal.size, Net.size, Time.size, Analog.size, Dio.size, Acq.size, Can.size, Safe.size, Integ.size, Snap.size, modifyAt_length, List.length_map]
    | with_reducible assumption
    | split

theorem State.loadStride_keeps {s t : State} (h : Keeps s t) : Keeps s (State.loadStride t) := by
  unfold State.loadStride
  try dsimp only
  repeat' first
    | with_reducible apply State.setImage_keeps
    | with_reducible apply State.setReg_keeps
    | with_reducible apply State.modArch_keeps
    | with_reducible apply Keeps.ite
    | with_reducible apply Keeps.forUpTo
    | with_reducible apply Keeps.forEach
    | with_reducible apply Keeps.foldl
    | with_reducible apply Keeps.foldlFst
    | exact fun _ k => Arch.wf_stride _ rfl k
    | exact fun _ k => Arch.wf_stride _ (List.length_map _ |>.trans (Arch.wf_parts k).2.2.2.2.2.2) k
    | intro _ _ _
    | intro _ _
    | intro _
    | simp only [Keeps.upd_iff]
    | simp only [Keeps.upd_iff, Power.size, Seal.size, Net.size, Time.size, Analog.size, Dio.size, Acq.size, Can.size, Safe.size, Integ.size, Snap.size, modifyAt_length, List.length_map]
    | with_reducible assumption
    | split

end Sys2Proof.Machine
end

