-- ==== Sys2Proof/Laws/KeptAccess.lean ====
section
/-! SUPPORT. What the operations of Machine/Access.lean keep. -/

set_option linter.all false

namespace Sys2Proof.Machine

theorem State.setCopies_keeps {s t : State} (p : Nat) (c : Tab Word) (h : Keeps s t) : Keeps s (State.setCopies t p c) := by
  unfold State.setCopies
  try dsimp only
  repeat' first
    | with_reducible apply State.modPort_keeps
    | with_reducible apply Keeps.ite
    | with_reducible apply Keeps.forUpTo
    | with_reducible apply Keeps.forEach
    | with_reducible apply Keeps.foldl
    | with_reducible apply Keeps.foldlFst
    | intro _ _ _
    | intro _ _
    | intro _
    | simp only [Keeps.upd_iff]
    | simp only [Keeps.upd_iff, Power.size, Seal.size, Net.size, Time.size, Analog.size, Dio.size, Acq.size, Can.size, Safe.size, Integ.size, Snap.size, modifyAt_length, List.length_map]
    | with_reducible assumption
    | split

theorem State.emptyCopies_keeps {s t : State} (h : Keeps s t) : Keeps s (State.emptyCopies t) := by
  unfold State.emptyCopies
  try dsimp only
  repeat' first
    | with_reducible apply State.setCopies_keeps
    | with_reducible apply Keeps.ite
    | with_reducible apply Keeps.forUpTo
    | with_reducible apply Keeps.forEach
    | with_reducible apply Keeps.foldl
    | with_reducible apply Keeps.foldlFst
    | intro _ _ _
    | intro _ _
    | intro _
    | simp only [Keeps.upd_iff]
    | simp only [Keeps.upd_iff, Power.size, Seal.size, Net.size, Time.size, Analog.size, Dio.size, Acq.size, Can.size, Safe.size, Integ.size, Snap.size, modifyAt_length, List.length_map]
    | with_reducible assumption
    | split

theorem State.evrWord_keeps {s t : State} (p : Nat) (a : Nat) (h : Keeps s t) : Keeps s (State.evrWord t p a).1 := by
  unfold State.evrWord
  try dsimp only
  repeat' first
    | with_reducible apply State.winFetch_keeps
    | with_reducible apply State.winAdvance_keeps
    | with_reducible apply Keeps.ite
    | with_reducible apply Keeps.forUpTo
    | with_reducible apply Keeps.forEach
    | with_reducible apply Keeps.foldl
    | with_reducible apply Keeps.foldlFst
    | intro _ _ _
    | intro _ _
    | intro _
    | simp only [Keeps.upd_iff]
    | simp only [Keeps.upd_iff, Power.size, Seal.size, Net.size, Time.size, Analog.size, Dio.size, Acq.size, Can.size, Safe.size, Integ.size, Snap.size, modifyAt_length, List.length_map]
    | with_reducible assumption
    | split

theorem State.takeCopies_keeps {s t : State} (p : Nat) (a : Nat) (h : Keeps s t) : Keeps s (State.takeCopies t p a) := by
  unfold State.takeCopies
  try dsimp only
  repeat' first
    | with_reducible apply State.setCopies_keeps
    | with_reducible apply Keeps.ite
    | with_reducible apply Keeps.forUpTo
    | with_reducible apply Keeps.forEach
    | with_reducible apply Keeps.foldl
    | with_reducible apply Keeps.foldlFst
    | intro _ _ _
    | intro _ _
    | intro _
    | simp only [Keeps.upd_iff]
    | simp only [Keeps.upd_iff, Power.size, Seal.size, Net.size, Time.size, Analog.size, Dio.size, Acq.size, Can.size, Safe.size, Integ.size, Snap.size, modifyAt_length, List.length_map]
    | with_reducible assumption
    | split

theorem State.readPresent_keeps {s t : State} (p : Nat) (a : Nat) (h : Keeps s t) : Keeps s (State.readPresent t p a).1 := by
  unfold State.readPresent
  try dsimp only
  repeat' first
    | with_reducible apply State.evrWord_keeps
    | with_reducible apply State.takeCopies_keeps
    | with_reducible apply Keeps.ite
    | with_reducible apply Keeps.forUpTo
    | with_reducible apply Keeps.forEach
    | with_reducible apply Keeps.foldl
    | with_reducible apply Keeps.foldlFst
    | intro _ _ _
    | intro _ _
    | intro _
    | simp only [Keeps.upd_iff]
    | simp only [Keeps.upd_iff, Power.size, Seal.size, Net.size, Time.size, Analog.size, Dio.size, Acq.size, Can.size, Safe.size, Integ.size, Snap.size, modifyAt_length, List.length_map]
    | with_reducible assumption
    | split

theorem State.readReg_keeps {s t : State} (p : Nat) (a : Nat) (h : Keeps s t) : Keeps s (State.readReg t p a).1 := by
  unfold State.readReg
  try dsimp only
  repeat' first
    | with_reducible apply State.readPresent_keeps
    | with_reducible apply State.badAccess_keeps
    | with_reducible apply Keeps.ite
    | with_reducible apply Keeps.forUpTo
    | with_reducible apply Keeps.forEach
    | with_reducible apply Keeps.foldl
    | with_reducible apply Keeps.foldlFst
    | intro _ _ _
    | intro _ _
    | intro _
    | simp only [Keeps.upd_iff]
    | simp only [Keeps.upd_iff, Power.size, Seal.size, Net.size, Time.size, Analog.size, Dio.size, Acq.size, Can.size, Safe.size, Integ.size, Snap.size, modifyAt_length, List.length_map]
    | with_reducible assumption
    | split

theorem State.readWords_keeps {s t : State} (p n a : Nat) (h : Keeps s t) : Keeps s (State.readWords p n a t).1 := by
  induction n generalizing t a with
  | zero => exact h
  | succ n ih => exact ih _ (State.readReg_keeps p a h)

theorem State.readAll_keeps {s t : State} (p : Nat) (l : List (Nat × Nat)) (h : Keeps s t) : Keeps s (State.readAll p l t).1 := by
  unfold State.readAll
  try dsimp only
  repeat' first
    | with_reducible apply State.readWords_keeps
    | with_reducible apply Keeps.ite
    | with_reducible apply Keeps.forUpTo
    | with_reducible apply Keeps.forEach
    | with_reducible apply Keeps.foldl
    | with_reducible apply Keeps.foldlFst
    | intro _ _ _
    | intro _ _
    | intro _
    | simp only [Keeps.upd_iff]
    | simp only [Keeps.upd_iff, Power.size, Seal.size, Net.size, Time.size, Analog.size, Dio.size, Acq.size, Can.size, Safe.size, Integ.size, Snap.size, modifyAt_length, List.length_map]
    | with_reducible assumption
    | split

theorem State.readReq_keeps {s t : State} (o : Origin) (b : List Byte) (h : Keeps s t) : Keeps s (State.readReq t o b) := by
  unfold State.readReq
  try dsimp only
  repeat' first
    | with_reducible apply State.readAll_keeps
    | with_reducible apply State.reply_keeps
    | with_reducible apply Keeps.ite
    | with_reducible apply Keeps.forUpTo
    | with_reducible apply Keeps.forEach
    | with_reducible apply Keeps.foldl
    | with_reducible apply Keeps.foldlFst
    | intro _ _ _
    | intro _ _
    | intro _
    | simp only [Keeps.upd_iff]
    | simp only [Keeps.upd_iff, Power.size, Seal.size, Net.size, Time.size, Analog.size, Dio.size, Acq.size, Can.size, Safe.size, Integ.size, Snap.size, modifyAt_length, List.length_map]
    | with_reducible assumption
    | split

theorem State.writeMasked_keeps {s t : State} (r : RegRow) (sealed_ : Bool) (a : Nat) (w : Word) (h : Keeps s t) : Keeps s (State.writeMasked t r sealed_ a w) := by
  unfold State.writeMasked
  try dsimp only
  repeat' first
    | with_reducible apply State.modReg_keeps
    | with_reducible apply Keeps.ite
    | with_reducible apply Keeps.forUpTo
    | with_reducible apply Keeps.forEach
    | with_reducible apply Keeps.foldl
    | with_reducible apply Keeps.foldlFst
    | intro _ _ _
    | intro _ _
    | intro _
    | simp only [Keeps.upd_iff]
    | simp only [Keeps.upd_iff, Power.size, Seal.size, Net.size, Time.size, Analog.size, Dio.size, Acq.size, Can.size, Safe.size, Integ.size, Snap.size, modifyAt_length, List.length_map]
    | with_reducible assumption
    | split

theorem State.writePresent_keeps {s t : State} (p : Nat) (sealed_ : Bool) (r : RegRow) (a : Nat) (w : Word) (h : Keeps s t) : Keeps s (State.writePresent t p sealed_ r a w) := by
  unfold State.writePresent
  try dsimp only
  repeat' first
    | with_reducible apply State.writeMasked_keeps
    | with_reducible apply State.writeChk_keeps
    | with_reducible apply State.ilkClear_keeps
    | with_reducible apply State.writeCursor_keeps
    | with_reducible apply State.writeFrz_keeps
    | with_reducible apply State.batonMove_keeps
    | with_reducible apply State.writeTpoCtrl_keeps
    | with_reducible apply Keeps.ite
    | with_reducible apply Keeps.forUpTo
    | with_reducible apply Keeps.forEach
    | with_reducible apply Keeps.foldl
    | with_reducible apply Keeps.foldlFst
    | intro _ _ _
    | intro _ _
    | intro _
    | simp only [Keeps.upd_iff]
    | simp only [Keeps.upd_iff, Power.size, Seal.size, Net.size, Time.size, Analog.size, Dio.size, Acq.size, Can.size, Safe.size, Integ.size, Snap.size, modifyAt_length, List.length_map]
    | with_reducible assumption
    | split

theorem State.writeReg_keeps {s t : State} (p : Nat) (sealed_ : Bool) (a : Nat) (w : Word) (h : Keeps s t) : Keeps s (State.writeReg t p sealed_ a w) := by
  unfold State.writeReg
  try dsimp only
  repeat' first
    | with_reducible apply State.writePresent_keeps
    | with_reducible apply State.badAccess_keeps
    | with_reducible apply Keeps.ite
    | with_reducible apply Keeps.forUpTo
    | with_reducible apply Keeps.forEach
    | with_reducible apply Keeps.foldl
    | with_reducible apply Keeps.foldlFst
    | intro _ _ _
    | intro _ _
    | intro _
    | simp only [Keeps.upd_iff]
    | simp only [Keeps.upd_iff, Power.size, Seal.size, Net.size, Time.size, Analog.size, Dio.size, Acq.size, Can.size, Safe.size, Integ.size, Snap.size, modifyAt_length, List.length_map]
    | with_reducible assumption
    | split

end Sys2Proof.Machine
end

