-- ==== Sys2Proof/Laws/KeptMaint.lean ====
section
/-! SUPPORT. What the operations of Machine/Maint.lean keep. -/

set_option linter.all false

namespace Sys2Proof.Machine

theorem State.modMaint_keeps {s t : State} (f : Maint → Maint)
    (hf : ∀ m, tabWf (fun _ => 0) m.scratch = true → tabWf (fun _ => 0) (f m).scratch = true) (h : Keeps s t) :
    Keeps s (t.modMaint f) := by
  refine h.step rfl rfl rfl rfl fun k => ?_
  simp only [State.wf, State.modMaint, Bool.and_eq_true] at k ⊢
  simp only [k, and_true, true_and]
  exact hf _ (by simp only [k])

theorem State.frame_keeps {s t : State} (act : State → State × Nat) (hf : ∀ a, Keeps s a → Keeps s (act a).1) (h : Keeps s t) : Keeps s (State.frame t act) := by
  unfold State.frame
  try dsimp only
  repeat' first
    | apply hf
    | with_reducible apply State.bump_keeps
    | with_reducible apply State.emit_keeps
    | with_reducible apply State.modMaint_keeps
    | with_reducible apply Keeps.ite
    | with_reducible apply Keeps.forUpTo
    | with_reducible apply Keeps.forEach
    | with_reducible apply Keeps.foldl
    | with_reducible apply Keeps.foldlFst
    | exact fun _ => id
    | exact fun _ k => tabSet_wf k
    | intro _ _ _
    | intro _ _
    | intro _
    | simp only [Keeps.upd_iff]
    | simp only [Keeps.upd_iff, Power.size, Seal.size, Net.size, Time.size, Analog.size, Dio.size, Acq.size, Can.size, Safe.size, Integ.size, Snap.size, modifyAt_length, List.length_map]
    | with_reducible assumption
    | split

theorem State.ptrNext_keeps {s t : State} (h : Keeps s t) : Keeps s (State.ptrNext t) := by
  unfold State.ptrNext
  try dsimp only
  repeat' first
    | with_reducible apply State.modMaint_keeps
    | with_reducible apply Keeps.ite
    | with_reducible apply Keeps.forUpTo
    | with_reducible apply Keeps.forEach
    | with_reducible apply Keeps.foldl
    | with_reducible apply Keeps.foldlFst
    | exact fun _ => id
    | exact fun _ k => tabSet_wf k
    | intro _ _ _
    | intro _ _
    | intro _
    | simp only [Keeps.upd_iff]
    | simp only [Keeps.upd_iff, Power.size, Seal.size, Net.size, Time.size, Analog.size, Dio.size, Acq.size, Can.size, Safe.size, Integ.size, Snap.size, modifyAt_length, List.length_map]
    | with_reducible assumption
    | split

theorem State.nextBad_keeps {s t : State} (h : Keeps s t) : Keeps s (State.nextBad t) := by
  unfold State.nextBad
  try dsimp only
  repeat' first
    | with_reducible apply State.modMaint_keeps
    | with_reducible apply Keeps.ite
    | with_reducible apply Keeps.forUpTo
    | with_reducible apply Keeps.forEach
    | with_reducible apply Keeps.foldl
    | with_reducible apply Keeps.foldlFst
    | exact fun _ => id
    | exact fun _ k => tabSet_wf k
    | intro _ _ _
    | intro _ _
    | intro _
    | simp only [Keeps.upd_iff]
    | simp only [Keeps.upd_iff, Power.size, Seal.size, Net.size, Time.size, Analog.size, Dio.size, Acq.size, Can.size, Safe.size, Integ.size, Snap.size, modifyAt_length, List.length_map]
    | with_reducible assumption
    | split

theorem State.nextWref_keeps {s t : State} (h : Keeps s t) : Keeps s (State.nextWref t) := by
  unfold State.nextWref
  try dsimp only
  repeat' first
    | with_reducible apply State.modMaint_keeps
    | with_reducible apply Keeps.ite
    | with_reducible apply Keeps.forUpTo
    | with_reducible apply Keeps.forEach
    | with_reducible apply Keeps.foldl
    | with_reducible apply Keeps.foldlFst
    | exact fun _ => id
    | exact fun _ k => tabSet_wf k
    | intro _ _ _
    | intro _ _
    | intro _
    | simp only [Keeps.upd_iff]
    | simp only [Keeps.upd_iff, Power.size, Seal.size, Net.size, Time.size, Analog.size, Dio.size, Acq.size, Can.size, Safe.size, Integ.size, Snap.size, modifyAt_length, List.length_map]
    | with_reducible assumption
    | split

theorem State.rdl_keeps {s t : State} (h : Keeps s t) : Keeps s (State.rdl t).1 := by
  unfold State.rdl
  try dsimp only
  repeat' first
    | with_reducible apply State.readReg_keeps
    | with_reducible apply State.modMaint_keeps
    | with_reducible apply State.nextBad_keeps
    | with_reducible apply Keeps.ite
    | with_reducible apply Keeps.forUpTo
    | with_reducible apply Keeps.forEach
    | with_reducible apply Keeps.foldl
    | with_reducible apply Keeps.foldlFst
    | exact fun _ => id
    | exact fun _ k => tabSet_wf k
    | intro _ _ _
    | intro _ _
    | intro _
    | simp only [Keeps.upd_iff]
    | simp only [Keeps.upd_iff, Power.size, Seal.size, Net.size, Time.size, Analog.size, Dio.size, Acq.size, Can.size, Safe.size, Integ.size, Snap.size, modifyAt_length, List.length_map]
    | with_reducible assumption
    | split

theorem State.maintWrite_keeps {s t : State} (a : Nat) (w : Word) (h : Keeps s t) : Keeps s (State.maintWrite t a w) := by
  unfold State.maintWrite
  try dsimp only
  repeat' first
    | with_reducible apply State.writeReg_keeps
    | with_reducible apply State.nextBad_keeps
    | with_reducible apply State.nextWref_keeps
    | with_reducible apply Keeps.ite
    | with_reducible apply Keeps.forUpTo
    | with_reducible apply Keeps.forEach
    | with_reducible apply Keeps.foldl
    | with_reducible apply Keeps.foldlFst
    | intro _ _ _
    | intro _ _
    | intro _
    | simp only [Keeps.upd_iff]
    | simp only [Keeps.upd_iff, Power.size, Seal.size, Net.size, Time.size, Analog.size, Dio.size, Acq.size, Can.size, Safe.size, Integ.size, Snap.size, modifyAt_length, List.length_map]
    | with_reducible assumption
    | split

theorem State.wrh_keeps {s t : State} (d : Nat) (h : Keeps s t) : Keeps s (State.wrh t d) := by
  unfold State.wrh
  try dsimp only
  repeat' first
    | with_reducible apply State.ptrNext_keeps
    | with_reducible apply State.maintWrite_keeps
    | with_reducible apply Keeps.ite
    | with_reducible apply Keeps.forUpTo
    | with_reducible apply Keeps.forEach
    | with_reducible apply Keeps.foldl
    | with_reducible apply Keeps.foldlFst
    | intro _ _ _
    | intro _ _
    | intro _
    | simp only [Keeps.upd_iff]
    | simp only [Keeps.upd_iff, Power.size, Seal.size, Net.size, Time.size, Analog.size, Dio.size, Acq.size, Can.size, Safe.size, Integ.size, Snap.size, modifyAt_length, List.length_map]
    | with_reducible assumption
    | split

theorem State.pbStore_keeps {s t : State} (p : Nat) (d : Nat) (h : Keeps s t) : Keeps s (State.pbStore t p d) := by
  unfold State.pbStore
  try dsimp only
  repeat' first
    | with_reducible apply State.modMaint_keeps
    | with_reducible apply State.nextWref_keeps
    | with_reducible apply State.bump_keeps
    | with_reducible apply State.orReg_keeps
    | with_reducible apply State.raise_keeps
    | with_reducible apply Keeps.ite
    | with_reducible apply Keeps.forUpTo
    | with_reducible apply Keeps.forEach
    | with_reducible apply Keeps.foldl
    | with_reducible apply Keeps.foldlFst
    | exact fun _ => id
    | exact fun _ k => tabSet_wf k
    | intro _ _ _
    | intro _ _
    | intro _
    | simp only [Keeps.upd_iff]
    | simp only [Keeps.upd_iff, Power.size, Seal.size, Net.size, Time.size, Analog.size, Dio.size, Acq.size, Can.size, Safe.size, Integ.size, Snap.size, modifyAt_length, List.length_map]
    | with_reducible assumption
    | split

theorem State.pbdRd_keeps {s t : State} (h : Keeps s t) : Keeps s t.pbdRd.1 :=
  State.modMaint_keeps (fun m => ({ m with rdbuf := t.legacy m.pbPtr } : Maint).pbNext)
    (fun _ k => by rw [Maint.pbNext_scratch]; exact k) h

theorem State.pbdWr_keeps {s t : State} (d : Nat) (h : Keeps s t) : Keeps s (t.pbdWr d) :=
  State.modMaint_keeps _ (fun _ k => (Maint.pbNext_scratch _).symm ▸ k) (State.pbStore_keeps _ _ h)

theorem State.maintT0_keeps {s t : State} (h : Keeps s t) : Keeps s (State.maintT0 t) := by
  unfold State.maintT0
  try dsimp only
  repeat' first
    | with_reducible apply State.modMaint_keeps
    | with_reducible apply Keeps.ite
    | with_reducible apply Keeps.forUpTo
    | with_reducible apply Keeps.forEach
    | with_reducible apply Keeps.foldl
    | with_reducible apply Keeps.foldlFst
    | exact fun _ => id
    | exact fun _ k => tabSet_wf k
    | intro _ _ _
    | intro _ _
    | intro _
    | simp only [Keeps.upd_iff]
    | simp only [Keeps.upd_iff, Power.size, Seal.size, Net.size, Time.size, Analog.size, Dio.size, Acq.size, Can.size, Safe.size, Integ.size, Snap.size, modifyAt_length, List.length_map]
    | with_reducible assumption
    | split

end Sys2Proof.Machine
end

