-- ==== Sys2Proof/Laws/KeptModes.lean ====
section
/-! SUPPORT. What the operations of Machine/Modes.lean keep. -/

set_option linter.all false

namespace Sys2Proof.Machine

theorem State.entered_keeps {s t : State} (h : Keeps s t) : Keeps s (State.entered t) := by
  unfold State.entered
  try dsimp only
  repeat' first
    | with_reducible apply State.dacAll_keeps
    | with_reducible apply State.canEntered_keeps
    | with_reducible apply State.dioEntered_keeps
    | with_reducible apply State.strideEntered_keeps
    | with_reducible apply Keeps.ite
    | with_reducible apply Keeps.forUpTo
    | with_reducible apply Keeps.forEach
    | with_reducible apply Keeps.foldl
    | with_reducible apply Keeps.foldlFst
    | intro _ _ _
    | intro _ _
    | intro _
    | simp only [Keeps.upd_iff]
    | simp only [Keeps.upd_iff, Power.size, Seal.size, Net.size, Time.size, Analog.size, Dio.size, Acq.size, Can.size, Safe.size, Integ.size, Snap.size, modifyAt_length, List.length_map]
    | with_reducible assumption
    | split

theorem State.enterReady_keeps {s t : State} (warm : Bool) (h : Keeps s t) : Keeps s (State.enterReady t warm) := by
  unfold State.enterReady
  try dsimp only
  repeat' first
    | with_reducible apply State.entered_keeps
    | with_reducible apply State.enter_keeps
    | with_reducible apply Keeps.ite
    | with_reducible apply Keeps.forUpTo
    | with_reducible apply Keeps.forEach
    | with_reducible apply Keeps.foldl
    | with_reducible apply Keeps.foldlFst
    | intro _ _ _
    | intro _ _
    | intro _
    | simp only [Keeps.upd_iff]
    | simp only [Keeps.upd_iff, Power.size, Seal.size, Net.size, Time.size, Analog.size, Dio.size, Acq.size, Can.size, Safe.size, Integ.size, Snap.size, modifyAt_length, List.length_map]
    | with_reducible assumption
    | split

theorem State.enterRun_keeps {s t : State} (h : Keeps s t) : Keeps s (State.enterRun t) := by
  unfold State.enterRun
  try dsimp only
  repeat' first
    | with_reducible apply State.entered_keeps
    | with_reducible apply State.enter_keeps
    | with_reducible apply Keeps.ite
    | with_reducible apply Keeps.forUpTo
    | with_reducible apply Keeps.forEach
    | with_reducible apply Keeps.foldl
    | with_reducible apply Keeps.foldlFst
    | intro _ _ _
    | intro _ _
    | intro _
    | simp only [Keeps.upd_iff]
    | simp only [Keeps.upd_iff, Power.size, Seal.size, Net.size, Time.size, Analog.size, Dio.size, Acq.size, Can.size, Safe.size, Integ.size, Snap.size, modifyAt_length, List.length_map]
    | with_reducible assumption
    | split

theorem State.enterSafe_keeps {s t : State} (cause : Nat) (h : Keeps s t) : Keeps s (State.enterSafe t cause) := by
  unfold State.enterSafe
  try dsimp only
  repeat' first
    | with_reducible apply State.lanesSafe_keeps
    | with_reducible apply State.entered_keeps
    | with_reducible apply State.axesSafe_keeps
    | with_reducible apply State.enter_keeps
    | with_reducible apply Keeps.ite
    | with_reducible apply Keeps.forUpTo
    | with_reducible apply Keeps.forEach
    | with_reducible apply Keeps.foldl
    | with_reducible apply Keeps.foldlFst
    | intro _ _ _
    | intro _ _
    | intro _
    | simp only [Keeps.upd_iff]
    | simp only [Keeps.upd_iff, Power.size, Seal.size, Net.size, Time.size, Analog.size, Dio.size, Acq.size, Can.size, Safe.size, Integ.size, Snap.size, modifyAt_length, List.length_map]
    | with_reducible assumption
    | split

theorem State.enterHalt_keeps {s t : State} (cause : Nat) (h : Keeps s t) : Keeps s (State.enterHalt t cause) := by
  unfold State.enterHalt
  try dsimp only
  repeat' first
    | with_reducible apply State.entered_keeps
    | with_reducible apply State.recoverNet_keeps
    | with_reducible apply State.enter_keeps
    | with_reducible apply Keeps.ite
    | with_reducible apply Keeps.forUpTo
    | with_reducible apply Keeps.forEach
    | with_reducible apply Keeps.foldl
    | with_reducible apply Keeps.foldlFst
    | intro _ _ _
    | intro _ _
    | intro _
    | simp only [Keeps.upd_iff]
    | simp only [Keeps.upd_iff, Power.size, Seal.size, Net.size, Time.size, Analog.size, Dio.size, Acq.size, Can.size, Safe.size, Integ.size, Snap.size, modifyAt_length, List.length_map]
    | with_reducible assumption
    | split

theorem State.startCondition_keeps {s t : State} (h : Keeps s t) : Keeps s (State.startCondition t) := by
  unfold State.startCondition
  try dsimp only
  repeat' first
    | with_reducible apply State.enterRun_keeps
    | with_reducible apply State.enterSafe_keeps
    | with_reducible apply State.islEntered_keeps
    | with_reducible apply Keeps.ite
    | with_reducible apply Keeps.forUpTo
    | with_reducible apply Keeps.forEach
    | with_reducible apply Keeps.foldl
    | with_reducible apply Keeps.foldlFst
    | intro _ _ _
    | intro _ _
    | intro _
    | simp only [Keeps.upd_iff]
    | simp only [Keeps.upd_iff, Power.size, Seal.size, Net.size, Time.size, Analog.size, Dio.size, Acq.size, Can.size, Safe.size, Integ.size, Snap.size, modifyAt_length, List.length_map]
    | with_reducible assumption
    | split

theorem State.keepCkpt_keeps {s t : State} (b : Bool) (h : Keeps s t) : Keeps s (t.keepCkpt b) :=
  h.ckpts _ fun k c hc => State.wf_ckpts k c (State.newestCkpt_mem (Option.mem_toList.mp hc))

theorem State.warmDrop_keeps {s t : State} (writing : Bool) (h : Keeps s t) : Keeps s (State.warmDrop t writing) := by
  unfold State.warmDrop
  try dsimp only
  repeat' first
    | with_reducible apply State.emptyCopies_keeps
    | with_reducible apply State.acqDiscard_keeps
    | with_reducible apply State.adcDiscard_keeps
    | with_reducible apply State.dacHold_keeps
    | with_reducible apply State.chkT0_keeps
    | with_reducible apply State.dioHold_keeps
    | with_reducible apply State.lanesT0_keeps
    | with_reducible apply State.maintT0_keeps
    | with_reducible apply State.netT0_keeps
    | with_reducible apply State.islT0_keeps
    | with_reducible apply State.lettersT0_keeps
    | with_reducible apply State.snapT0_keeps
    | with_reducible apply State.strideT0_keeps
    | with_reducible apply Keeps.ite
    | with_reducible apply Keeps.forUpTo
    | with_reducible apply Keeps.forEach
    | with_reducible apply Keeps.foldl
    | with_reducible apply Keeps.foldlFst
    | intro _ _ _
    | intro _ _
    | intro _
    | simp only [Keeps.upd_iff]
    | simp only [Keeps.upd_iff, Power.size, Seal.size, Net.size, Time.size, Analog.size, Dio.size, Acq.size, Can.size, Safe.size, Integ.size, Snap.size, modifyAt_length, List.length_map]
    | with_reducible assumption
    | split

theorem State.warmT0_keeps {s t : State} (complete : Bool) (writing : Bool) (h : Keeps s t) : Keeps s (State.warmT0 t complete writing) := by
  unfold State.warmT0
  try dsimp only
  repeat' first
    | with_reducible apply State.dacMoved_keeps
    | with_reducible apply State.keepCkpt_keeps
    | with_reducible apply State.warmDrop_keeps
    | with_reducible apply State.bumpBy_keeps
    | with_reducible apply State.bump_keeps
    | with_reducible apply State.raise_keeps
    | with_reducible apply Keeps.ite
    | with_reducible apply Keeps.forUpTo
    | with_reducible apply Keeps.forEach
    | with_reducible apply Keeps.foldl
    | with_reducible apply Keeps.foldlFst
    | intro _ _ _
    | intro _ _
    | intro _
    | simp only [Keeps.upd_iff]
    | simp only [Keeps.upd_iff, Power.size, Seal.size, Net.size, Time.size, Analog.size, Dio.size, Acq.size, Can.size, Safe.size, Integ.size, Snap.size, modifyAt_length, List.length_map]
    | with_reducible assumption
    | split

theorem State.haltEvent_keeps {s t : State} (cause : Nat) (h : Keeps s t) : Keeps s (State.haltEvent t cause) := by
  unfold State.haltEvent
  try dsimp only
  repeat' first
    | with_reducible apply State.raise_keeps
    | with_reducible apply Keeps.ite
    | with_reducible apply Keeps.forUpTo
    | with_reducible apply Keeps.forEach
    | with_reducible apply Keeps.foldl
    | with_reducible apply Keeps.foldlFst
    | intro _ _ _
    | intro _ _
    | intro _
    | simp only [Keeps.upd_iff]
    | simp only [Keeps.upd_iff, Power.size, Seal.size, Net.size, Time.size, Analog.size, Dio.size, Acq.size, Can.size, Safe.size, Integ.size, Snap.size, modifyAt_length, List.length_map]
    | with_reducible assumption
    | split

theorem State.warmHalt_keeps {s t : State} (cause : Nat) (h : Keeps s t) : Keeps s (State.warmHalt t cause) := by
  unfold State.warmHalt
  try dsimp only
  repeat' first
    | with_reducible apply State.enterHalt_keeps
    | with_reducible apply State.haltEvent_keeps
    | with_reducible apply State.dropCkpts_keeps
    | with_reducible apply Keeps.ite
    | with_reducible apply Keeps.forUpTo
    | with_reducible apply Keeps.forEach
    | with_reducible apply Keeps.foldl
    | with_reducible apply Keeps.foldlFst
    | intro _ _ _
    | intro _ _
    | intro _
    | simp only [Keeps.upd_iff]
    | simp only [Keeps.upd_iff, Power.size, Seal.size, Net.size, Time.size, Analog.size, Dio.size, Acq.size, Can.size, Safe.size, Integ.size, Snap.size, modifyAt_length, List.length_map]
    | with_reducible assumption
    | split

theorem State.warmCause_keeps {s t : State} (bits : Nat) (complete : Bool) (writing : Bool) (h : Keeps s t) : Keeps s (State.warmCause t bits complete writing) := by
  unfold State.warmCause
  try dsimp only
  repeat' first
    | with_reducible apply State.warmDrop_keeps
    | with_reducible apply State.warmT0_keeps
    | with_reducible apply State.warmHalt_keeps
    | with_reducible apply State.orReg_keeps
    | with_reducible apply Keeps.ite
    | with_reducible apply Keeps.forUpTo
    | with_reducible apply Keeps.forEach
    | with_reducible apply Keeps.foldl
    | with_reducible apply Keeps.foldlFst
    | intro _ _ _
    | intro _ _
    | intro _
    | simp only [Keeps.upd_iff]
    | simp only [Keeps.upd_iff, Power.size, Seal.size, Net.size, Time.size, Analog.size, Dio.size, Acq.size, Can.size, Safe.size, Integ.size, Snap.size, modifyAt_length, List.length_map]
    | with_reducible assumption
    | split

end Sys2Proof.Machine
end

