-- ==== Sys2Proof/Laws/KeptLoad.lean ====
section
/-! SUPPORT. What the operations of Machine/Load.lean keep. -/

set_option linter.all false

namespace Sys2Proof.Machine

theorem State.putHash_keeps {s t : State} (f : Nat → Nat) (hq : List Byte) (h : Keeps s t) : Keeps s (State.putHash t f hq) := by
  unfold State.putHash
  try dsimp only
  repeat' first
    | with_reducible apply State.setReg_keeps
    | with_reducible apply Keeps.ite
    | with_reducible apply Keeps.forUpTo
    | with_reducible apply Keeps.forEach
    | with_reducible apply Keeps.foldl
    | with_reducible apply Keeps.foldlFst
    | intro _ _ _
    | intro _ _
    | intro _
    | simp only [Keeps.upd_iff]
    | simp only [Keeps.upd_iff, Power.size, Seal.size, Net.size, Time.size, Analog.size, Dio.size, Acq.size, Can.size, Safe.size, Integ.size, Snap.size, modifyAt_length, List.length_map]
    | with_reducible assumption
    | split

theorem State.safetyAccept_keeps {s t : State} (im : Image) (h : Keeps s t) : Keeps s (State.safetyAccept t im) := by
  unfold State.safetyAccept
  try dsimp only
  repeat' first
    | with_reducible apply State.putHash_keeps
    | with_reducible apply State.putFld_keeps
    | with_reducible apply State.raise_keeps
    | with_reducible apply Keeps.ite
    | with_reducible apply Keeps.forUpTo
    | with_reducible apply Keeps.forEach
    | with_reducible apply Keeps.foldl
    | with_reducible apply Keeps.foldlFst
    | intro _ _ _
    | intro _ _
    | intro _
    | simp only [Keeps.upd_iff]
    | simp only [Keeps.upd_iff, Power.size, Seal.size, Net.size, Time.size, Analog.size, Dio.size, Acq.size, Can.size, Safe.size, Integ.size, Snap.size, modifyAt_length, List.length_map]
    | with_reducible assumption
    | split

theorem State.reject_keeps {s t : State} (slot : Nat) (code : Nat) (sec : Nat) (par : Nat) (h : Keeps s t) : Keeps s (State.reject t slot code sec par) := by
  unfold State.reject
  try dsimp only
  repeat' first
    | with_reducible apply State.setReg_keeps
    | with_reducible apply State.raise_keeps
    | with_reducible apply Keeps.ite
    | with_reducible apply Keeps.forUpTo
    | with_reducible apply Keeps.forEach
    | with_reducible apply Keeps.foldl
    | with_reducible apply Keeps.foldlFst
    | intro _ _ _
    | intro _ _
    | intro _
    | simp only [Keeps.upd_iff]
    | simp only [Keeps.upd_iff, Power.size, Seal.size, Net.size, Time.size, Analog.size, Dio.size, Acq.size, Can.size, Safe.size, Integ.size, Snap.size, modifyAt_length, List.length_map]
    | with_reducible assumption
    | split

theorem State.loadBegin_keeps {s t : State} (bad : List Nat) (h : Keeps s t) : Keeps s (State.loadBegin t bad) := by
  unfold State.loadBegin
  try dsimp only
  repeat' first
    | with_reducible apply State.reject_keeps
    | with_reducible apply State.resetRegs_keeps
    | with_reducible apply State.setReg_keeps
    | with_reducible apply State.raise_keeps
    | with_reducible apply Keeps.ite
    | with_reducible apply Keeps.forUpTo
    | with_reducible apply Keeps.forEach
    | with_reducible apply Keeps.foldl
    | with_reducible apply Keeps.foldlFst
    | intro _ _ _
    | intro _ _
    | intro _
    | simp only [Keeps.upd_iff]
    | simp only [Keeps.upd_iff, Power.size, Seal.size, Net.size, Time.size, Analog.size, Dio.size, Acq.size, Can.size, Safe.size, Integ.size, Snap.size, modifyAt_length, List.length_map]
    | with_reducible assumption
    | split

theorem State.showLoaded_keeps {s t : State} (slot : Nat) (fallback : Bool) (b : List Byte) (h : Keeps s t) : Keeps s (State.showLoaded t slot fallback b) := by
  unfold State.showLoaded
  try dsimp only
  repeat' first
    | with_reducible apply State.putHash_keeps
    | with_reducible apply State.setReg_keeps
    | with_reducible apply State.raise_keeps
    | with_reducible apply Keeps.ite
    | with_reducible apply Keeps.forUpTo
    | with_reducible apply Keeps.forEach
    | with_reducible apply Keeps.foldl
    | with_reducible apply Keeps.foldlFst
    | intro _ _ _
    | intro _ _
    | intro _
    | simp only [Keeps.upd_iff]
    | simp only [Keeps.upd_iff, Power.size, Seal.size, Net.size, Time.size, Analog.size, Dio.size, Acq.size, Can.size, Safe.size, Integ.size, Snap.size, modifyAt_length, List.length_map]
    | with_reducible assumption
    | split

theorem State.applyImage_keeps {s t : State} (im : Image) (h : Keeps s t) : Keeps s (State.applyImage t im) := by
  unfold State.applyImage
  try dsimp only
  repeat' first
    | with_reducible apply State.touch_keeps
    | with_reducible apply State.loadAcq_keeps
    | with_reducible apply State.loadAnalog_keeps
    | with_reducible apply State.loadCan_keeps
    | with_reducible apply State.loadCells_keeps
    | with_reducible apply State.loadDio_keeps
    | with_reducible apply State.loadLanes_keeps
    | with_reducible apply State.loadAxes_keeps
    | with_reducible apply State.loadNet_keeps
    | with_reducible apply State.setReg_keeps
    | with_reducible apply State.modArch_keeps
    | with_reducible apply State.clearArch_keeps
    | with_reducible apply State.loadSnap_keeps
    | with_reducible apply State.loadStride_keeps
    | with_reducible apply State.loadTime_keeps
    | with_reducible apply Keeps.ite
    | with_reducible apply Keeps.forUpTo
    | with_reducible apply Keeps.forEach
    | with_reducible apply Keeps.foldl
    | with_reducible apply Keeps.foldlFst
    | exact fun _ k => Arch.wf_slots _ (tabSetMany_wf rfl) k
    | intro _ _ _
    | intro _ _
    | intro _
    | simp only [Keeps.upd_iff]
    | simp only [Keeps.upd_iff, Power.size, Seal.size, Net.size, Time.size, Analog.size, Dio.size, Acq.size, Can.size, Safe.size, Integ.size, Snap.size, modifyAt_length, List.length_map]
    | with_reducible assumption
    | split

theorem State.loadAccept_keeps {s t : State} (slot : Nat) (fallback : Bool) (h : Keeps s t) : Keeps s (State.loadAccept t slot fallback) := by
  unfold State.loadAccept
  try dsimp only
  repeat' first
    | with_reducible apply State.safetyAccept_keeps
    | with_reducible apply State.showLoaded_keeps
    | with_reducible apply State.applyImage_keeps
    | with_reducible apply State.enterReady_keeps
    | with_reducible apply State.startCondition_keeps
    | with_reducible apply State.islLoad_keeps
    | with_reducible apply Keeps.ite
    | with_reducible apply Keeps.forUpTo
    | with_reducible apply Keeps.forEach
    | with_reducible apply Keeps.foldl
    | with_reducible apply Keeps.foldlFst
    | intro _ _ _
    | intro _ _
    | intro _
    | simp only [Keeps.upd_iff]
    | simp only [Keeps.upd_iff, Power.size, Seal.size, Net.size, Time.size, Analog.size, Dio.size, Acq.size, Can.size, Safe.size, Integ.size, Snap.size, modifyAt_length, List.length_map]
    | with_reducible assumption
    | split

theorem State.tryLoad_keeps {s t : State} (bad : List Nat) (ecc : Option Nat) (fb : Bool) (l : List Nat)
    (h : Keeps s t) : Keeps s (t.tryLoad bad ecc fb l) := by
  induction l generalizing t fb with
  | nil =>
    unfold State.tryLoad
    exact State.enterHalt_keeps _ (State.touch_keeps _ _ _ (State.unloadCells_keeps
      ((State.dropCkpts_keeps h).step rfl rfl rfl rfl id)))
  | cons k r ih =>
    unfold State.tryLoad
    split
    · exact ih _ (State.reject_keeps _ _ _ _ h)
    · exact State.loadAccept_keeps _ _ h

theorem State.load_keeps {s t : State} (bad : List Nat) (ecc : Option Nat) (h : Keeps s t) : Keeps s (State.load t bad ecc) := by
  unfold State.load
  try dsimp only
  repeat' first
    | with_reducible apply State.emptyCopies_keeps
    | with_reducible apply State.loadBegin_keeps
    | with_reducible apply State.tryLoad_keeps
    | with_reducible apply State.orReg_keeps
    | with_reducible apply Keeps.ite
    | with_reducible apply Keeps.forUpTo
    | with_reducible apply Keeps.forEach
    | with_reducible apply Keeps.foldl
    | with_reducible apply Keeps.foldlFst
    | intro _ _ _
    | intro _ _
    | intro _
    | simp only [Keeps.upd_iff]
    | simp only [Keeps.upd_iff, Power.size, Seal.size, Net.size, Time.size, Analog.size, Dio.size, Acq.size, Can.size, Safe.size, Integ.size, Snap.size, modifyAt_length, List.length_map]
    | with_reducible assumption
    | split

end Sys2Proof.Machine
end

