-- ==== Sys2Proof/Laws/KeptPower.lean ====
section
/-! SUPPORT. What the operations of Machine/Power.lean keep. -/

set_option linter.all false

namespace Sys2Proof.Machine

theorem State.coldKeep_keeps {s t : State} (h : Keeps s t) : Keeps s t.coldKeep := by
  have b : Keeps s t.coldBase := ?_
  · have k : Keeps s (coldRegs.foldl (fun a x => a.setReg x (t.reg x)) t.coldBase) :=
      Keeps.foldl (fun a x ha => State.setReg_keeps _ _ ha) b
    unfold State.coldKeep
    exact State.calCold_keeps (State.setReg_keeps _ _ (State.setReg_keeps _ _
      (Keeps.ite (Keeps.forUpTo (fun _ _ ha => State.setReg_keeps _ _ ha) k) k)))
  unfold State.coldBase
  refine h.step rfl rfl rfl rfl fun k => ?_
  simp only [State.wf, Bool.and_eq_true, beq_iff_eq] at k ⊢
  simp only [Power.size, Seal.size, Dio.size, Prod.mk.injEq] at k
  simp only [k, and_true, true_and, Power.size, Seal.size, Dio.size, List.length_map, Prod.mk.injEq]
  repeat' apply And.intro
  all_goals first | rfl | decide

theorem State.railStep_keeps {s t : State} (x : RailStep) (h : Keeps s t) : Keeps s (State.railStep t x) := by
  unfold State.railStep
  try dsimp only
  repeat' first
    | with_reducible apply State.putFld_keeps
    | with_reducible apply Keeps.ite
    | with_reducible apply Keeps.forUpTo
    | with_reducible apply Keeps.forEach
    | with_reducible apply Keeps.foldl
    | with_reducible apply Keeps.foldlFst
    | intro _ _ _
    | intro _ _
    | intro _
    | simp only [Keeps.upd_iff]
    | simp only [Keeps.upd_iff, Power.size, Seal.size, Net.size, Time.size, Analog.size, Dio.size, Acq.size, Can.size, Safe.size, Integ.size, Snap.size, modifyAt_length, List.length_map]
    | with_reducible assumption
    | split

theorem State.railSteps_keeps {s t : State} (l : List RailStep) (h : Keeps s t) : Keeps s (State.railSteps t l) := by
  unfold State.railSteps
  try dsimp only
  repeat' first
    | with_reducible apply State.railStep_keeps
    | with_reducible apply Keeps.ite
    | with_reducible apply Keeps.forUpTo
    | with_reducible apply Keeps.forEach
    | with_reducible apply Keeps.foldl
    | with_reducible apply Keeps.foldlFst
    | intro _ _ _
    | intro _ _
    | intro _
    | simp only [Keeps.upd_iff]
    | simp only [Keeps.upd_iff, Power.size, Seal.size, Net.size, Time.size, Analog.size, Dio.size, Acq.size, Can.size, Safe.size, Integ.size, Snap.size, modifyAt_length, List.length_map]
    | with_reducible assumption
    | split

theorem State.railsUp_keeps {s t : State} (h : Keeps s t) : Keeps s (State.railsUp t) := by
  unfold State.railsUp
  try dsimp only
  repeat' first
    | with_reducible apply State.railSteps_keeps
    | with_reducible apply Keeps.ite
    | with_reducible apply Keeps.forUpTo
    | with_reducible apply Keeps.forEach
    | with_reducible apply Keeps.foldl
    | with_reducible apply Keeps.foldlFst
    | intro _ _ _
    | intro _ _
    | intro _
    | simp only [Keeps.upd_iff]
    | simp only [Keeps.upd_iff, Power.size, Seal.size, Net.size, Time.size, Analog.size, Dio.size, Acq.size, Can.size, Safe.size, Integ.size, Snap.size, modifyAt_length, List.length_map]
    | with_reducible assumption
    | split

theorem State.railsDown_keeps {s t : State} (h : Keeps s t) : Keeps s (State.railsDown t) := by
  unfold State.railsDown
  try dsimp only
  repeat' first
    | with_reducible apply State.railSteps_keeps
    | with_reducible apply Keeps.ite
    | with_reducible apply Keeps.forUpTo
    | with_reducible apply Keeps.forEach
    | with_reducible apply Keeps.foldl
    | with_reducible apply Keeps.foldlFst
    | intro _ _ _
    | intro _ _
    | intro _
    | simp only [Keeps.upd_iff]
    | simp only [Keeps.upd_iff, Power.size, Seal.size, Net.size, Time.size, Analog.size, Dio.size, Acq.size, Can.size, Safe.size, Integ.size, Snap.size, modifyAt_length, List.length_map]
    | with_reducible assumption
    | split

theorem State.restoreCounters_keeps {s t : State} (ret : Nat) (h : Keeps s t) : Keeps s (State.restoreCounters t ret) := by
  unfold State.restoreCounters
  try dsimp only
  repeat' first
    | with_reducible apply State.setReg_keeps
    | with_reducible apply Keeps.ite
    | with_reducible apply Keeps.forUpTo
    | with_reducible apply Keeps.forEach
    | with_reducible apply Keeps.foldl
    | with_reducible apply Keeps.foldlFst
    | intro _ _ _
    | intro _ _
    | intro _
    | simp only [Keeps.upd_iff]
    | simp only [Keeps.upd_iff, Power.size, Seal.size, Net.size, Time.size, Analog.size, Dio.size, Acq.size, Can.size, Safe.size, Integ.size, Snap.size, modifyAt_length, List.length_map]
    | with_reducible assumption
    | split

theorem State.coldDown_keeps {s t : State} (causes : Nat) (save : Bool) (ph : PowerPhase) (h : Keeps s t) : Keeps s (State.coldDown t causes save ph) := by
  unfold State.coldDown
  try dsimp only
  repeat' first
    | with_reducible apply State.counterSave_keeps
    | with_reducible apply State.setReg_keeps
    | with_reducible apply State.bumpBy_keeps
    | with_reducible apply State.enter_keeps
    | with_reducible apply State.coldKeep_keeps
    | with_reducible apply State.railsDown_keeps
    | with_reducible apply Keeps.ite
    | with_reducible apply Keeps.forUpTo
    | with_reducible apply Keeps.forEach
    | with_reducible apply Keeps.foldl
    | with_reducible apply Keeps.foldlFst
    | intro _ _ _
    | intro _ _
    | intro _
    | simp only [Keeps.upd_iff]
    | simp only [Keeps.upd_iff, Power.size, Seal.size, Net.size, Time.size, Analog.size, Dio.size, Acq.size, Can.size, Safe.size, Integ.size, Snap.size, modifyAt_length, List.length_map]
    | with_reducible assumption
    | split

theorem State.coldCause_keeps {s t : State} (causes : Nat) (save : Bool) (ph : PowerPhase) (h : Keeps s t) : Keeps s (State.coldCause t causes save ph) := by
  unfold State.coldCause
  try dsimp only
  repeat' first
    | with_reducible apply State.coldDown_keeps
    | with_reducible apply Keeps.ite
    | with_reducible apply Keeps.forUpTo
    | with_reducible apply Keeps.forEach
    | with_reducible apply Keeps.foldl
    | with_reducible apply Keeps.foldlFst
    | intro _ _ _
    | intro _ _
    | intro _
    | simp only [Keeps.upd_iff]
    | simp only [Keeps.upd_iff, Power.size, Seal.size, Net.size, Time.size, Analog.size, Dio.size, Acq.size, Can.size, Safe.size, Integ.size, Snap.size, modifyAt_length, List.length_map]
    | with_reducible assumption
    | split

theorem State.enterBoot_keeps {s t : State} (h : Keeps s t) : Keeps s (State.enterBoot t) := by
  unfold State.enterBoot
  try dsimp only
  repeat' first
    | with_reducible apply State.setReg_keeps
    | with_reducible apply State.orReg_keeps
    | with_reducible apply State.raise_keeps
    | with_reducible apply State.restoreCounters_keeps
    | with_reducible apply Keeps.ite
    | with_reducible apply Keeps.forUpTo
    | with_reducible apply Keeps.forEach
    | with_reducible apply Keeps.foldl
    | with_reducible apply Keeps.foldlFst
    | intro _ _ _
    | intro _ _
    | intro _
    | simp only [Keeps.upd_iff]
    | simp only [Keeps.upd_iff, Power.size, Seal.size, Net.size, Time.size, Analog.size, Dio.size, Acq.size, Can.size, Safe.size, Integ.size, Snap.size, modifyAt_length, List.length_map]
    | with_reducible assumption
    | split

theorem State.leaveKeep_keeps {s t : State} (causes : Nat) (ret : Nat) (h : Keeps s t) : Keeps s (State.leaveKeep t causes ret) := by
  unfold State.leaveKeep
  try dsimp only
  repeat' first
    | with_reducible apply Keeps.ite
    | with_reducible apply Keeps.forUpTo
    | with_reducible apply Keeps.forEach
    | with_reducible apply Keeps.foldl
    | with_reducible apply Keeps.foldlFst
    | intro _ _ _
    | intro _ _
    | intro _
    | simp only [Keeps.upd_iff]
    | simp only [Keeps.upd_iff, Power.size, Seal.size, Net.size, Time.size, Analog.size, Dio.size, Acq.size, Can.size, Safe.size, Integ.size, Snap.size, modifyAt_length, List.length_map]
    | with_reducible assumption
    | split

theorem State.vinValid_keeps {s t : State} (ret : Nat) (h : Keeps s t) : Keeps s (State.vinValid t ret) := by
  unfold State.vinValid
  try dsimp only
  repeat' first
    | with_reducible apply Keeps.ite
    | with_reducible apply Keeps.forUpTo
    | with_reducible apply Keeps.forEach
    | with_reducible apply Keeps.foldl
    | with_reducible apply Keeps.foldlFst
    | intro _ _ _
    | intro _ _
    | intro _
    | simp only [Keeps.upd_iff]
    | simp only [Keeps.upd_iff, Power.size, Seal.size, Net.size, Time.size, Analog.size, Dio.size, Acq.size, Can.size, Safe.size, Integ.size, Snap.size, modifyAt_length, List.length_map]
    | with_reducible assumption
    | split

theorem State.restoreFrom_keeps {s t : State} (c : Ckpt) (hc : s.wf = true → c.wf = true) (h : Keeps s t) :
    Keeps s (t.restoreFrom c) := by
  refine ⟨h.pending, h.part, h.out, h.free, fun k => ?_⟩
  have e := h.wf k
  have g := (Ckpt.wf_parts (hc k)).1
  simp only [State.wf, State.restoreFrom, Bool.and_eq_true] at e ⊢
  simp only [e, g, and_true]
  exact tabSetMany_wf (tabFilter_wf (by simp only [e]))

theorem State.restoreNewest_keeps {s t : State} (h : Keeps s t) : Keeps s t.restoreNewest := by
  unfold State.restoreNewest
  split
  · next c r e => exact State.restoreFrom_keeps c (fun k => State.wf_ckpts (h.wf k) c (e ▸ List.mem_cons_self)) h
  · exact h

theorem State.noResume_keeps {s t : State} (reason : Nat) (ecc : Option Nat) (h : Keeps s t) : Keeps s (State.noResume t reason ecc) := by
  unfold State.noResume
  try dsimp only
  repeat' first
    | with_reducible apply State.touch_keeps
    | with_reducible apply State.reject_keeps
    | with_reducible apply State.entered_keeps
    | with_reducible apply State.netOff_keeps
    | with_reducible apply State.clrReg_keeps
    | with_reducible apply State.enter_keeps
    | with_reducible apply State.raise_keeps
    | with_reducible apply State.dropCkpts_keeps
    | with_reducible apply Keeps.ite
    | with_reducible apply Keeps.forUpTo
    | with_reducible apply Keeps.forEach
    | with_reducible apply Keeps.foldl
    | with_reducible apply Keeps.foldlFst
    | intro _ _ _
    | intro _ _
    | intro _
    | simp only [Keeps.upd_iff]
    | simp only [Keeps.upd_iff, Power.size, Seal.size, Net.size, Time.size, Analog.size, Dio.size, Acq.size, Can.size, Safe.size, Integ.size, Snap.size, modifyAt_length, List.length_map]
    | with_reducible assumption
    | split

theorem State.restoreDone_keeps {s t : State} (bad : List Nat) (ckptBad : Bool) (ecc : Option Nat) (laps : List Nat) (h : Keeps s t) : Keeps s (State.restoreDone t bad ckptBad ecc laps) := by
  unfold State.restoreDone
  try dsimp only
  repeat' first
    | with_reducible apply State.lapResume_keeps
    | with_reducible apply State.loadBegin_keeps
    | with_reducible apply State.showLoaded_keeps
    | with_reducible apply State.orReg_keeps
    | with_reducible apply State.restoreNewest_keeps
    | with_reducible apply State.noResume_keeps
    | with_reducible apply Keeps.ite
    | with_reducible apply Keeps.forUpTo
    | with_reducible apply Keeps.forEach
    | with_reducible apply Keeps.foldl
    | with_reducible apply Keeps.foldlFst
    | intro _ _ _
    | intro _ _
    | intro _
    | simp only [Keeps.upd_iff]
    | simp only [Keeps.upd_iff, Power.size, Seal.size, Net.size, Time.size, Analog.size, Dio.size, Acq.size, Can.size, Safe.size, Integ.size, Snap.size, modifyAt_length, List.length_map]
    | with_reducible assumption
    | split

theorem State.staleSlots_keeps {s t : State} (h : Keeps s t) : Keeps s t.staleSlots :=
  State.modArch_keeps _ (fun _ k => Arch.wf_slots _
    (tabMap_wf (fun _ => rfl) (fun _ => Slot.resumed_ne) (Arch.wf_parts k).1) k) h

theorem State.warmResume_keeps {s t : State} (h : Keeps s t) : Keeps s (State.warmResume t) := by
  unfold State.warmResume
  try dsimp only
  repeat' first
    | with_reducible apply State.traceResume_keeps
    | with_reducible apply State.canResume_keeps
    | with_reducible apply State.feReset_keeps
    | with_reducible apply State.modDio_keeps
    | with_reducible apply State.lanesRestored_keeps
    | with_reducible apply State.axesResume_keeps
    | with_reducible apply State.netResume_keeps
    | with_reducible apply State.setReg_keeps
    | with_reducible apply State.putFld_keeps
    | with_reducible apply State.raise_keeps
    | with_reducible apply State.staleSlots_keeps
    | with_reducible apply State.strideResume_keeps
    | with_reducible apply Keeps.ite
    | with_reducible apply Keeps.forUpTo
    | with_reducible apply Keeps.forEach
    | with_reducible apply Keeps.foldl
    | with_reducible apply Keeps.foldlFst
    | exact fun _ k => k
    | exact fun _ _ => rfl
    | exact fun _ k => by simpa only [Power.size, Seal.size, Net.size, Time.size, Analog.size, Dio.size, Acq.size, Can.size, Safe.size, Integ.size, Snap.size, modifyAt_length, List.length_map] using k
    | intro _ _ _
    | intro _ _
    | intro _
    | simp only [Keeps.upd_iff]
    | simp only [Keeps.upd_iff, Power.size, Seal.size, Net.size, Time.size, Analog.size, Dio.size, Acq.size, Can.size, Safe.size, Integ.size, Snap.size, modifyAt_length, List.length_map]
    | with_reducible assumption
    | split

theorem State.warmRelease_keeps {s t : State} (h : Keeps s t) : Keeps s (State.warmRelease t) := by
  unfold State.warmRelease
  try dsimp only
  repeat' first
    | with_reducible apply State.setReg_keeps
    | with_reducible apply Keeps.ite
    | with_reducible apply Keeps.forUpTo
    | with_reducible apply Keeps.forEach
    | with_reducible apply Keeps.foldl
    | with_reducible apply Keeps.foldlFst
    | intro _ _ _
    | intro _ _
    | intro _
    | simp only [Keeps.upd_iff]
    | simp only [Keeps.upd_iff, Power.size, Seal.size, Net.size, Time.size, Analog.size, Dio.size, Acq.size, Can.size, Safe.size, Integ.size, Snap.size, modifyAt_length, List.length_map]
    | with_reducible assumption
    | split

end Sys2Proof.Machine
end

