-- ==== Sys2Proof/Laws/KeptCommit.lean ====
section
/-! SUPPORT. What the operations of Machine/Commit.lean keep. -/

set_option linter.all false

namespace Sys2Proof.Machine

theorem State.nextEdge_keeps {s t : State} (h : Keeps s t) : Keeps s (State.nextEdge t) := by
  unfold State.nextEdge
  try dsimp only
  repeat' first
    | with_reducible apply State.lanesTimed_keeps
    | with_reducible apply State.atEdge_keeps
    | with_reducible apply Keeps.ite
    | with_reducible apply Keeps.forUpTo
    | with_reducible apply Keeps.forEach
    | with_reducible apply Keeps.foldl
    | with_reducible apply Keeps.foldlFst
    | intro _ _ _
    | intro _ _
    | intro _
    | simp only [Keeps.upd_iff]
    | simp only [Keeps.upd_iff, Power.size, Seal.size, Net.size, Time.size, Analog.size, Dio.size, Acq.size, Can.size, Safe.size, Integ.size, Snap.size, modifyAt_length, List.length_map]
    | with_reducible assumption
    | split

theorem State.nextTick_keeps {s t : State} (h : Keeps s t) : Keeps s (State.nextTick t) := by
  unfold State.nextTick
  try dsimp only
  repeat' first
    | with_reducible apply State.modDio_keeps
    | with_reducible apply Keeps.ite
    | with_reducible apply Keeps.forUpTo
    | with_reducible apply Keeps.forEach
    | with_reducible apply Keeps.foldl
    | with_reducible apply Keeps.foldlFst
    | exact fun _ k => k
    | exact fun _ _ => rfl
    | exact fun _ k => by simpa only [Power.size, Seal.size, Net.size, Time.size, Analog.size, Dio.size, Acq.size, Can.size, Safe.size, Integ.size, Snap.size, modifyAt_length, List.length_map] using k
    | intro _ _ _
    | intro _ _
    | intro _
    | simp only [Keeps.upd_iff]
    | simp only [Keeps.upd_iff, Power.size, Seal.size, Net.size, Time.size, Analog.size, Dio.size, Acq.size, Can.size, Safe.size, Integ.size, Snap.size, modifyAt_length, List.length_map]
    | with_reducible assumption
    | split

theorem State.commits_keeps {s t : State} (h : Keeps s t) : Keeps s (State.commits t) := by
  unfold State.commits
  try dsimp only
  repeat' first
    | with_reducible apply State.publishTile_keeps
    | with_reducible apply State.lanesShow_keeps
    | with_reducible apply State.commitStaged_keeps
    | with_reducible apply Keeps.ite
    | with_reducible apply Keeps.forUpTo
    | with_reducible apply Keeps.forEach
    | with_reducible apply Keeps.foldl
    | with_reducible apply Keeps.foldlFst
    | intro _ _ _
    | intro _ _
    | intro _
    | simp only [Keeps.upd_iff]
    | simp only [Keeps.upd_iff, Power.size, Seal.size, Net.size, Time.size, Analog.size, Dio.size, Acq.size, Can.size, Safe.size, Integ.size, Snap.size, modifyAt_length, List.length_map]
    | with_reducible assumption
    | split

theorem State.openBoundary_keeps {s t : State} (h : Keeps s t) : Keeps s (State.openBoundary t) := by
  unfold State.openBoundary
  try dsimp only
  repeat' first
    | with_reducible apply State.nextEdge_keeps
    | with_reducible apply State.nextTick_keeps
    | with_reducible apply State.commits_keeps
    | with_reducible apply State.warmResume_keeps
    | with_reducible apply State.modSeal_keeps
    | with_reducible apply Keeps.ite
    | with_reducible apply Keeps.forUpTo
    | with_reducible apply Keeps.forEach
    | with_reducible apply Keeps.foldl
    | with_reducible apply Keeps.foldlFst
    | exact fun _ k => k
    | exact fun _ _ => rfl
    | exact fun _ k => by simpa only [Power.size, Seal.size, Net.size, Time.size, Analog.size, Dio.size, Acq.size, Can.size, Safe.size, Integ.size, Snap.size, modifyAt_length, List.length_map] using k
    | intro _ _ _
    | intro _ _
    | intro _
    | simp only [Keeps.upd_iff]
    | simp only [Keeps.upd_iff, Power.size, Seal.size, Net.size, Time.size, Analog.size, Dio.size, Acq.size, Can.size, Safe.size, Integ.size, Snap.size, modifyAt_length, List.length_map]
    | with_reducible assumption
    | split

theorem State.commitRefuse_keeps {s t : State} (l : Letter) (f : CommitFail) (h : Keeps s t) : Keeps s (State.commitRefuse t l f) := by
  unfold State.commitRefuse
  try dsimp only
  repeat' first
    | with_reducible apply State.bump_keeps
    | with_reducible apply State.raise_keeps
    | with_reducible apply State.refuse_keeps
    | with_reducible apply Keeps.ite
    | with_reducible apply Keeps.forUpTo
    | with_reducible apply Keeps.forEach
    | with_reducible apply Keeps.foldl
    | with_reducible apply Keeps.foldlFst
    | intro _ _ _
    | intro _ _
    | intro _
    | simp only [Keeps.upd_iff]
    | simp only [Keeps.upd_iff, Power.size, Seal.size, Net.size, Time.size, Analog.size, Dio.size, Acq.size, Can.size, Safe.size, Integ.size, Snap.size, modifyAt_length, List.length_map]
    | with_reducible assumption
    | split

theorem State.doStart_keeps {s t : State} (h : Keeps s t) : Keeps s (State.doStart t) := by
  unfold State.doStart
  try dsimp only
  repeat' first
    | with_reducible apply State.startCondition_keeps
    | with_reducible apply Keeps.ite
    | with_reducible apply Keeps.forUpTo
    | with_reducible apply Keeps.forEach
    | with_reducible apply Keeps.foldl
    | with_reducible apply Keeps.foldlFst
    | intro _ _ _
    | intro _ _
    | intro _
    | simp only [Keeps.upd_iff]
    | simp only [Keeps.upd_iff, Power.size, Seal.size, Net.size, Time.size, Analog.size, Dio.size, Acq.size, Can.size, Safe.size, Integ.size, Snap.size, modifyAt_length, List.length_map]
    | with_reducible assumption
    | split

theorem State.doRun_keeps {s t : State} (l : Letter) (h : Keeps s t) : Keeps s (State.doRun t l) := by
  unfold State.doRun
  try dsimp only
  repeat' first
    | with_reducible apply State.laneStart_keeps
    | with_reducible apply Keeps.ite
    | with_reducible apply Keeps.forUpTo
    | with_reducible apply Keeps.forEach
    | with_reducible apply Keeps.foldl
    | with_reducible apply Keeps.foldlFst
    | intro _ _ _
    | intro _ _
    | intro _
    | simp only [Keeps.upd_iff]
    | simp only [Keeps.upd_iff, Power.size, Seal.size, Net.size, Time.size, Analog.size, Dio.size, Acq.size, Can.size, Safe.size, Integ.size, Snap.size, modifyAt_length, List.length_map]
    | with_reducible assumption
    | split

theorem State.doHold_keeps {s t : State} (l : Letter) (h : Keeps s t) : Keeps s (State.doHold t l) := by
  unfold State.doHold
  try dsimp only
  repeat' first
    | with_reducible apply State.laneHold_keeps
    | with_reducible apply Keeps.ite
    | with_reducible apply Keeps.forUpTo
    | with_reducible apply Keeps.forEach
    | with_reducible apply Keeps.foldl
    | with_reducible apply Keeps.foldlFst
    | intro _ _ _
    | intro _ _
    | intro _
    | simp only [Keeps.upd_iff]
    | simp only [Keeps.upd_iff, Power.size, Seal.size, Net.size, Time.size, Analog.size, Dio.size, Acq.size, Can.size, Safe.size, Integ.size, Snap.size, modifyAt_length, List.length_map]
    | with_reducible assumption
    | split

theorem State.doResume_keeps {s t : State} (l : Letter) (h : Keeps s t) : Keeps s (State.doResume t l) := by
  unfold State.doResume
  try dsimp only
  repeat' first
    | with_reducible apply State.laneResume_keeps
    | with_reducible apply Keeps.ite
    | with_reducible apply Keeps.forUpTo
    | with_reducible apply Keeps.forEach
    | with_reducible apply Keeps.foldl
    | with_reducible apply Keeps.foldlFst
    | intro _ _ _
    | intro _ _
    | intro _
    | simp only [Keeps.upd_iff]
    | simp only [Keeps.upd_iff, Power.size, Seal.size, Net.size, Time.size, Analog.size, Dio.size, Acq.size, Can.size, Safe.size, Integ.size, Snap.size, modifyAt_length, List.length_map]
    | with_reducible assumption
    | split

theorem State.doAbort_keeps {s t : State} (l : Letter) (h : Keeps s t) : Keeps s (State.doAbort t l) := by
  unfold State.doAbort
  try dsimp only
  repeat' first
    | with_reducible apply State.laneAbort_keeps
    | with_reducible apply Keeps.ite
    | with_reducible apply Keeps.forUpTo
    | with_reducible apply Keeps.forEach
    | with_reducible apply Keeps.foldl
    | with_reducible apply Keeps.foldlFst
    | intro _ _ _
    | intro _ _
    | intro _
    | simp only [Keeps.upd_iff]
    | simp only [Keeps.upd_iff, Power.size, Seal.size, Net.size, Time.size, Analog.size, Dio.size, Acq.size, Can.size, Safe.size, Integ.size, Snap.size, modifyAt_length, List.length_map]
    | with_reducible assumption
    | split

theorem State.doParamset_keeps {s t : State} (l : Letter) (fin : Nat) (h : Keeps s t) : Keeps s (State.doParamset t l fin) := by
  unfold State.doParamset
  try dsimp only
  repeat' first
    | with_reducible apply State.laneShow_keeps
    | with_reducible apply State.laneParams_keeps
    | with_reducible apply Keeps.ite
    | with_reducible apply Keeps.forUpTo
    | with_reducible apply Keeps.forEach
    | with_reducible apply Keeps.foldl
    | with_reducible apply Keeps.foldlFst
    | intro _ _ _
    | intro _ _
    | intro _
    | simp only [Keeps.upd_iff]
    | simp only [Keeps.upd_iff, Power.size, Seal.size, Net.size, Time.size, Analog.size, Dio.size, Acq.size, Can.size, Safe.size, Integ.size, Snap.size, modifyAt_length, List.length_map]
    | with_reducible assumption
    | split

theorem State.doSnappolicy_keeps {s t : State} (l : Letter) (h : Keeps s t) : Keeps s (State.doSnappolicy t l) := by
  unfold State.doSnappolicy
  try dsimp only
  repeat' first
    | with_reducible apply State.setReg_keeps
    | with_reducible apply Keeps.ite
    | with_reducible apply Keeps.forUpTo
    | with_reducible apply Keeps.forEach
    | with_reducible apply Keeps.foldl
    | with_reducible apply Keeps.foldlFst
    | intro _ _ _
    | intro _ _
    | intro _
    | simp only [Keeps.upd_iff]
    | simp only [Keeps.upd_iff, Power.size, Seal.size, Net.size, Time.size, Analog.size, Dio.size, Acq.size, Can.size, Safe.size, Integ.size, Snap.size, modifyAt_length, List.length_map]
    | with_reducible assumption
    | split

theorem State.doCellmode_keeps {s t : State} (l : Letter) (h : Keeps s t) : Keeps s (State.doCellmode t l) := by
  unfold State.doCellmode
  try dsimp only
  repeat' first
    | with_reducible apply State.commitMode_keeps
    | with_reducible apply Keeps.ite
    | with_reducible apply Keeps.forUpTo
    | with_reducible apply Keeps.forEach
    | with_reducible apply Keeps.foldl
    | with_reducible apply Keeps.foldlFst
    | intro _ _ _
    | intro _ _
    | intro _
    | simp only [Keeps.upd_iff]
    | simp only [Keeps.upd_iff, Power.size, Seal.size, Net.size, Time.size, Analog.size, Dio.size, Acq.size, Can.size, Safe.size, Integ.size, Snap.size, modifyAt_length, List.length_map]
    | with_reducible assumption
    | split

theorem State.doMove_keeps {s t : State} (l : Letter) (h : Keeps s t) : Keeps s (State.doMove t l) := by
  unfold State.doMove
  try dsimp only
  repeat' first
    | with_reducible apply State.commitMove_keeps
    | with_reducible apply Keeps.ite
    | with_reducible apply Keeps.forUpTo
    | with_reducible apply Keeps.forEach
    | with_reducible apply Keeps.foldl
    | with_reducible apply Keeps.foldlFst
    | intro _ _ _
    | intro _ _
    | intro _
    | simp only [Keeps.upd_iff]
    | simp only [Keeps.upd_iff, Power.size, Seal.size, Net.size, Time.size, Analog.size, Dio.size, Acq.size, Can.size, Safe.size, Integ.size, Snap.size, modifyAt_length, List.length_map]
    | with_reducible assumption
    | split

theorem State.doHome_keeps {s t : State} (l : Letter) (h : Keeps s t) : Keeps s (State.doHome t l) := by
  unfold State.doHome
  try dsimp only
  repeat' first
    | with_reducible apply State.startHome_keeps
    | with_reducible apply Keeps.ite
    | with_reducible apply Keeps.forUpTo
    | with_reducible apply Keeps.forEach
    | with_reducible apply Keeps.foldl
    | with_reducible apply Keeps.foldlFst
    | intro _ _ _
    | intro _ _
    | intro _
    | simp only [Keeps.upd_iff]
    | simp only [Keeps.upd_iff, Power.size, Seal.size, Net.size, Time.size, Analog.size, Dio.size, Acq.size, Can.size, Safe.size, Integ.size, Snap.size, modifyAt_length, List.length_map]
    | with_reducible assumption
    | split

theorem State.doCalibrate_keeps {s t : State} (l : Letter) (h : Keeps s t) : Keeps s (State.doCalibrate t l) := by
  unfold State.doCalibrate
  try dsimp only
  repeat' first
    | with_reducible apply State.calibrate_keeps
    | with_reducible apply Keeps.ite
    | with_reducible apply Keeps.forUpTo
    | with_reducible apply Keeps.forEach
    | with_reducible apply Keeps.foldl
    | with_reducible apply Keeps.foldlFst
    | intro _ _ _
    | intro _ _
    | intro _
    | simp only [Keeps.upd_iff]
    | simp only [Keeps.upd_iff, Power.size, Seal.size, Net.size, Time.size, Analog.size, Dio.size, Acq.size, Can.size, Safe.size, Integ.size, Snap.size, modifyAt_length, List.length_map]
    | with_reducible assumption
    | split

theorem State.doClearlog_keeps {s t : State} (l : Letter) (h : Keeps s t) : Keeps s (t.doClearlog l) := by
  unfold State.doClearlog
  split
  · exact h
  · next n _ =>
    refine State.raise_keeps _ _ _ _ _ _ (h.bank (fun e => e.clear n) (fun k => ?_) id)
    unfold Evr.clear
    dsimp only
    generalize (t.evr.inOrder.take n) = l
    generalize t.evr.main = m at k
    induction l generalizing m with
    | nil => exact k
    | cons x l ih => exact ih _ (tabErase_rise k)

theorem State.flashProgram_keeps {s t : State} (a : Nat) (b : List Byte) (h : Keeps s t) :
    Keeps s (t.flashProgram a b) := by
  refine h.step rfl rfl rfl rfl fun k => ?_
  simp only [State.wf, State.flashProgram, Bool.and_eq_true] at k ⊢
  simp only [k, and_true, true_and]
  exact tabSetMany_wf (by simp only [k])

theorem State.flashErase_keeps {s t : State} (slot : Nat) (h : Keeps s t) : Keeps s (t.flashErase slot) := by
  refine h.step rfl rfl rfl rfl fun k => ?_
  simp only [State.wf, State.flashErase, Bool.and_eq_true] at k ⊢
  simp only [k, and_true, true_and]
  exact tabFilter_wf (by simp only [k])

theorem State.doStore_keeps {s t : State} (l : Letter) (h : Keeps s t) : Keeps s (State.doStore t l) := by
  unfold State.doStore
  try dsimp only
  repeat' first
    | with_reducible apply State.flashProgram_keeps
    | with_reducible apply State.flashErase_keeps
    | with_reducible apply State.modSeal_keeps
    | with_reducible apply Keeps.ite
    | with_reducible apply Keeps.forUpTo
    | with_reducible apply Keeps.forEach
    | with_reducible apply Keeps.foldl
    | with_reducible apply Keeps.foldlFst
    | exact fun _ k => k
    | exact fun _ _ => rfl
    | exact fun _ k => by simpa only [Power.size, Seal.size, Net.size, Time.size, Analog.size, Dio.size, Acq.size, Can.size, Safe.size, Integ.size, Snap.size, modifyAt_length, List.length_map] using k
    | intro _ _ _
    | intro _ _
    | intro _
    | simp only [Keeps.upd_iff]
    | simp only [Keeps.upd_iff, Power.size, Seal.size, Net.size, Time.size, Analog.size, Dio.size, Acq.size, Can.size, Safe.size, Integ.size, Snap.size, modifyAt_length, List.length_map]
    | with_reducible assumption
    | split

theorem State.doReload_keeps {s t : State} (writing : Bool) (h : Keeps s t) : Keeps s (State.doReload t writing) := by
  unfold State.doReload
  try dsimp only
  repeat' first
    | with_reducible apply State.entered_keeps
    | with_reducible apply State.warmCause_keeps
    | with_reducible apply State.netOff_keeps
    | with_reducible apply State.enter_keeps
    | with_reducible apply State.modSeal_keeps
    | with_reducible apply Keeps.ite
    | with_reducible apply Keeps.forUpTo
    | with_reducible apply Keeps.forEach
    | with_reducible apply Keeps.foldl
    | with_reducible apply Keeps.foldlFst
    | exact fun _ k => k
    | exact fun _ _ => rfl
    | exact fun _ k => by simpa only [Power.size, Seal.size, Net.size, Time.size, Analog.size, Dio.size, Acq.size, Can.size, Safe.size, Integ.size, Snap.size, modifyAt_length, List.length_map] using k
    | intro _ _ _
    | intro _ _
    | intro _
    | simp only [Keeps.upd_iff]
    | simp only [Keeps.upd_iff, Power.size, Seal.size, Net.size, Time.size, Analog.size, Dio.size, Acq.size, Can.size, Safe.size, Integ.size, Snap.size, modifyAt_length, List.length_map]
    | with_reducible assumption
    | split

theorem State.doClearsafe_keeps {s t : State} (h : Keeps s t) : Keeps s (State.doClearsafe t) := by
  unfold State.doClearsafe
  try dsimp only
  repeat' first
    | with_reducible apply State.enterRun_keeps
    | with_reducible apply Keeps.ite
    | with_reducible apply Keeps.forUpTo
    | with_reducible apply Keeps.forEach
    | with_reducible apply Keeps.foldl
    | with_reducible apply Keeps.foldlFst
    | intro _ _ _
    | intro _ _
    | intro _
    | simp only [Keeps.upd_iff]
    | simp only [Keeps.upd_iff, Power.size, Seal.size, Net.size, Time.size, Analog.size, Dio.size, Acq.size, Can.size, Safe.size, Integ.size, Snap.size, modifyAt_length, List.length_map]
    | with_reducible assumption
    | split

theorem State.doSleep_keeps {s t : State} (h : Keeps s t) : Keeps s (State.doSleep t) := by
  unfold State.doSleep
  try dsimp only
  repeat' first
    | with_reducible apply State.coldDown_keeps
    | with_reducible apply Keeps.ite
    | with_reducible apply Keeps.forUpTo
    | with_reducible apply Keeps.forEach
    | with_reducible apply Keeps.foldl
    | with_reducible apply Keeps.foldlFst
    | intro _ _ _
    | intro _ _
    | intro _
    | simp only [Keeps.upd_iff]
    | simp only [Keeps.upd_iff, Power.size, Seal.size, Net.size, Time.size, Analog.size, Dio.size, Acq.size, Can.size, Safe.size, Integ.size, Snap.size, modifyAt_length, List.length_map]
    | with_reducible assumption
    | split

theorem State.doTimeRestep_keeps {s t : State} (l : Letter) (h : Keeps s t) : Keeps s (State.doTimeRestep t l) := by
  unfold State.doTimeRestep
  try dsimp only
  repeat' first
    | with_reducible apply State.setReg_keeps
    | with_reducible apply State.timeFlag_keeps
    | with_reducible apply State.timeSet_keeps
    | with_reducible apply Keeps.ite
    | with_reducible apply Keeps.forUpTo
    | with_reducible apply Keeps.forEach
    | with_reducible apply Keeps.foldl
    | with_reducible apply Keeps.foldlFst
    | intro _ _ _
    | intro _ _
    | intro _
    | simp only [Keeps.upd_iff]
    | simp only [Keeps.upd_iff, Power.size, Seal.size, Net.size, Time.size, Analog.size, Dio.size, Acq.size, Can.size, Safe.size, Integ.size, Snap.size, modifyAt_length, List.length_map]
    | with_reducible assumption
    | split

theorem State.doRegwrite_keeps {s t : State} (l : Letter) (h : Keeps s t) : Keeps s (State.doRegwrite t l) := by
  unfold State.doRegwrite
  try dsimp only
  repeat' first
    | with_reducible apply State.writeReg_keeps
    | with_reducible apply Keeps.ite
    | with_reducible apply Keeps.forUpTo
    | with_reducible apply Keeps.forEach
    | with_reducible apply Keeps.foldl
    | with_reducible apply Keeps.foldlFst
    | intro _ _ _
    | intro _ _
    | intro _
    | simp only [Keeps.upd_iff]
    | simp only [Keeps.upd_iff, Power.size, Seal.size, Net.size, Time.size, Analog.size, Dio.size, Acq.size, Can.size, Safe.size, Integ.size, Snap.size, modifyAt_length, List.length_map]
    | with_reducible assumption
    | split

theorem State.doSafeauth_keeps {s t : State} (l : Letter) (h : Keeps s t) : Keeps s (State.doSafeauth t l) := by
  unfold State.doSafeauth
  try dsimp only
  repeat' first
    | with_reducible apply State.putHash_keeps
    | with_reducible apply State.putFld_keeps
    | with_reducible apply State.deferIf_keeps
    | with_reducible apply State.raise_keeps
    | with_reducible apply State.modSafe_keeps
    | with_reducible apply Keeps.ite
    | with_reducible apply Keeps.forUpTo
    | with_reducible apply Keeps.forEach
    | with_reducible apply Keeps.foldl
    | with_reducible apply Keeps.foldlFst
    | exact fun _ k => k
    | exact fun _ _ => rfl
    | exact fun _ k => by simpa only [Power.size, Seal.size, Net.size, Time.size, Analog.size, Dio.size, Acq.size, Can.size, Safe.size, Integ.size, Snap.size, modifyAt_length, List.length_map] using k
    | intro _ _ _
    | intro _ _
    | intro _
    | simp only [Keeps.upd_iff]
    | simp only [Keeps.upd_iff, Power.size, Seal.size, Net.size, Time.size, Analog.size, Dio.size, Acq.size, Can.size, Safe.size, Integ.size, Snap.size, modifyAt_length, List.length_map]
    | with_reducible assumption
    | split

theorem State.doLifecycle_keeps {s t : State} (l : Letter) (h : Keeps s t) : Keeps s (t.doLifecycle l) := by
  unfold State.doLifecycle
  dsimp only
  refine Keeps.ite ?_ (State.putFld_keeps _ _ _ _ h)
  refine (Keeps.foldl (fun a x ha => State.setReg_keeps _ _ ha) (State.putFld_keeps R.SEAL_LIFE 2 0
    (tagNat (bodyGroup l) 1) h)).step rfl rfl rfl rfl fun k => ?_
  simp only [State.wf, Bool.and_eq_true, beq_iff_eq] at k ⊢
  simp only [Power.size, Seal.size, Net.size, Time.size, Analog.size, Dio.size, Acq.size, Can.size, Safe.size, Integ.size, Snap.size, Prod.mk.injEq] at k ⊢
  simp only [List.length_append, List.length_drop, k, and_true, true_and]
  rfl

theorem State.doKeyset_keeps {s t : State} (l : Letter) (good : Bool) (h : Keeps s t) : Keeps s (State.doKeyset t l good) := by
  unfold State.doKeyset
  try dsimp only
  repeat' first
    | with_reducible apply State.raise_keeps
    | with_reducible apply State.modSeal_keeps
    | with_reducible apply Keeps.ite
    | with_reducible apply Keeps.forUpTo
    | with_reducible apply Keeps.forEach
    | with_reducible apply Keeps.foldl
    | with_reducible apply Keeps.foldlFst
    | exact fun _ k => k
    | exact fun _ _ => rfl
    | exact fun _ k => by simpa only [Power.size, Seal.size, Net.size, Time.size, Analog.size, Dio.size, Acq.size, Can.size, Safe.size, Integ.size, Snap.size, modifyAt_length, List.length_map] using k
    | intro _ _ _
    | intro _ _
    | intro _
    | simp only [Keeps.upd_iff]
    | simp only [Keeps.upd_iff, Power.size, Seal.size, Net.size, Time.size, Analog.size, Dio.size, Acq.size, Can.size, Safe.size, Integ.size, Snap.size, modifyAt_length, List.length_map]
    | with_reducible assumption
    | split

theorem State.doKeyrevoke_keeps {s t : State} (l : Letter) (h : Keeps s t) : Keeps s (State.doKeyrevoke t l) := by
  unfold State.doKeyrevoke
  try dsimp only
  repeat' first
    | with_reducible apply State.modSeal_keeps
    | with_reducible apply Keeps.ite
    | with_reducible apply Keeps.forUpTo
    | with_reducible apply Keeps.forEach
    | with_reducible apply Keeps.foldl
    | with_reducible apply Keeps.foldlFst
    | exact fun _ k => k
    | exact fun _ _ => rfl
    | exact fun _ k => by simpa only [Power.size, Seal.size, Net.size, Time.size, Analog.size, Dio.size, Acq.size, Can.size, Safe.size, Integ.size, Snap.size, modifyAt_length, List.length_map] using k
    | intro _ _ _
    | intro _ _
    | intro _
    | simp only [Keeps.upd_iff]
    | simp only [Keeps.upd_iff, Power.size, Seal.size, Net.size, Time.size, Analog.size, Dio.size, Acq.size, Can.size, Safe.size, Integ.size, Snap.size, modifyAt_length, List.length_map]
    | with_reducible assumption
    | split

theorem State.doBist_keeps {s t : State} (l : Letter) (h : Keeps s t) : Keeps s (State.doBist t l) := by
  unfold State.doBist
  try dsimp only
  repeat' first
    | with_reducible apply State.clearDram_keeps
    | with_reducible apply State.modInteg_keeps
    | with_reducible apply State.emptyRecs_keeps
    | with_reducible apply State.entered_keeps
    | with_reducible apply State.netOff_keeps
    | with_reducible apply State.setReg_keeps
    | with_reducible apply State.enter_keeps
    | with_reducible apply State.dropCkpts_keeps
    | with_reducible apply State.setIstate_keeps
    | with_reducible apply State.islShow_keeps
    | with_reducible apply State.islOff_keeps
    | with_reducible apply State.islStopTests_keeps
    | with_reducible apply Keeps.ite
    | with_reducible apply Keeps.forUpTo
    | with_reducible apply Keeps.forEach
    | with_reducible apply Keeps.foldl
    | with_reducible apply Keeps.foldlFst
    | exact fun _ k => k
    | exact fun _ _ => rfl
    | exact fun _ k => by simpa only [Power.size, Seal.size, Net.size, Time.size, Analog.size, Dio.size, Acq.size, Can.size, Safe.size, Integ.size, Snap.size, modifyAt_length, List.length_map] using k
    | intro _ _ _
    | intro _ _
    | intro _
    | simp only [Keeps.upd_iff]
    | simp only [Keeps.upd_iff, Power.size, Seal.size, Net.size, Time.size, Analog.size, Dio.size, Acq.size, Can.size, Safe.size, Integ.size, Snap.size, modifyAt_length, List.length_map]
    | with_reducible assumption
    | split

theorem State.doFuse_keeps {s t : State} (l : Letter) (h : Keeps s t) : Keeps s (State.doFuse t l) := by
  unfold State.doFuse
  try dsimp only
  repeat' first
    | with_reducible apply State.programFuses_keeps
    | with_reducible apply Keeps.ite
    | with_reducible apply Keeps.forUpTo
    | with_reducible apply Keeps.forEach
    | with_reducible apply Keeps.foldl
    | with_reducible apply Keeps.foldlFst
    | intro _ _ _
    | intro _ _
    | intro _
    | simp only [Keeps.upd_iff]
    | simp only [Keeps.upd_iff, Power.size, Seal.size, Net.size, Time.size, Analog.size, Dio.size, Acq.size, Can.size, Safe.size, Integ.size, Snap.size, modifyAt_length, List.length_map]
    | with_reducible assumption
    | split

theorem State.doPwrstage_keeps {s t : State} (l : Letter) (h : Keeps s t) : Keeps s (State.doPwrstage t l) := by
  unfold State.doPwrstage
  try dsimp only
  repeat' first
    | with_reducible apply Keeps.ite
    | with_reducible apply Keeps.forUpTo
    | with_reducible apply Keeps.forEach
    | with_reducible apply Keeps.foldl
    | with_reducible apply Keeps.foldlFst
    | intro _ _ _
    | intro _ _
    | intro _
    | simp only [Keeps.upd_iff]
    | simp only [Keeps.upd_iff, Power.size, Seal.size, Net.size, Time.size, Analog.size, Dio.size, Acq.size, Can.size, Safe.size, Integ.size, Snap.size, modifyAt_length, List.length_map]
    | with_reducible assumption
    | split

theorem State.letterEffect_keeps {s t : State} (v : CommitEnv) (l : Letter) (h : Keeps s t) : Keeps s (State.letterEffect t v l) := by
  unfold State.letterEffect
  try dsimp only
  repeat' first
    | with_reducible apply State.doStart_keeps
    | with_reducible apply State.doRun_keeps
    | with_reducible apply State.doHold_keeps
    | with_reducible apply State.doResume_keeps
    | with_reducible apply State.doAbort_keeps
    | with_reducible apply State.doParamset_keeps
    | with_reducible apply State.doSnappolicy_keeps
    | with_reducible apply State.doCellmode_keeps
    | with_reducible apply State.doMove_keeps
    | with_reducible apply State.doHome_keeps
    | with_reducible apply State.doCalibrate_keeps
    | with_reducible apply State.doClearlog_keeps
    | with_reducible apply State.doStore_keeps
    | with_reducible apply State.doReload_keeps
    | with_reducible apply State.doClearsafe_keeps
    | with_reducible apply State.doSleep_keeps
    | with_reducible apply State.doTimeRestep_keeps
    | with_reducible apply State.doRegwrite_keeps
    | with_reducible apply State.doSafeauth_keeps
    | with_reducible apply State.doLifecycle_keeps
    | with_reducible apply State.doKeyset_keeps
    | with_reducible apply State.doKeyrevoke_keeps
    | with_reducible apply State.doBist_keeps
    | with_reducible apply State.doFuse_keeps
    | with_reducible apply State.doPwrstage_keeps
    | with_reducible apply Keeps.ite
    | with_reducible apply Keeps.forUpTo
    | with_reducible apply Keeps.forEach
    | with_reducible apply Keeps.foldl
    | with_reducible apply Keeps.foldlFst
    | intro _ _ _
    | intro _ _
    | intro _
    | simp only [Keeps.upd_iff]
    | simp only [Keeps.upd_iff, Power.size, Seal.size, Net.size, Time.size, Analog.size, Dio.size, Acq.size, Can.size, Safe.size, Integ.size, Snap.size, modifyAt_length, List.length_map]
    | with_reducible assumption
    | split

theorem State.letterCommit_keeps {s t : State} (v : CommitEnv) (l : Letter) (h : Keeps s t) : Keeps s (State.letterCommit t v l) := by
  unfold State.letterCommit
  try dsimp only
  repeat' first
    | with_reducible apply State.letterEffect_keeps
    | with_reducible apply State.bump_keeps
    | with_reducible apply State.raise_keeps
    | with_reducible apply State.letterReply_keeps
    | with_reducible apply State.noteLast_keeps
    | with_reducible apply Keeps.ite
    | with_reducible apply Keeps.forUpTo
    | with_reducible apply Keeps.forEach
    | with_reducible apply Keeps.foldl
    | with_reducible apply Keeps.foldlFst
    | intro _ _ _
    | intro _ _
    | intro _
    | simp only [Keeps.upd_iff]
    | simp only [Keeps.upd_iff, Power.size, Seal.size, Net.size, Time.size, Analog.size, Dio.size, Acq.size, Can.size, Safe.size, Integ.size, Snap.size, modifyAt_length, List.length_map]
    | with_reducible assumption
    | split

theorem State.letterAtCommit_keeps {s t : State} (v : CommitEnv) (l : Letter) (h : Keeps s t) : Keeps s (State.letterAtCommit t v l) := by
  unfold State.letterAtCommit
  try dsimp only
  repeat' first
    | with_reducible apply State.commitRefuse_keeps
    | with_reducible apply State.letterCommit_keeps
    | with_reducible apply Keeps.ite
    | with_reducible apply Keeps.forUpTo
    | with_reducible apply Keeps.forEach
    | with_reducible apply Keeps.foldl
    | with_reducible apply Keeps.foldlFst
    | intro _ _ _
    | intro _ _
    | intro _
    | simp only [Keeps.upd_iff]
    | simp only [Keeps.upd_iff, Power.size, Seal.size, Net.size, Time.size, Analog.size, Dio.size, Acq.size, Can.size, Safe.size, Integ.size, Snap.size, modifyAt_length, List.length_map]
    | with_reducible assumption
    | split

theorem State.commitAll_keeps {s t : State} (writing : Bool) (otpBad : List Nat) (l : List (Letter × Nat))
    (h : Keeps s t) : Keeps s (State.commitAll writing otpBad l t) := by
  induction l generalizing t with
  | nil => exact h
  | cons x r ih =>
    obtain ⟨l, fin⟩ := x
    have k := State.letterAtCommit_keeps ⟨fin, writing, otpBad⟩ l h
    exact Keeps.ite k (ih k)

theorem State.commitLetters_keeps {s t : State} (writing : Bool) (otpBad : List Nat) (h : Keeps s t) : Keeps s (State.commitLetters t writing otpBad) := by
  unfold State.commitLetters
  try dsimp only
  repeat' first
    | with_reducible apply State.commitAll_keeps
    | with_reducible apply State.modSeal_keeps
    | with_reducible apply Keeps.ite
    | with_reducible apply Keeps.forUpTo
    | with_reducible apply Keeps.forEach
    | with_reducible apply Keeps.foldl
    | with_reducible apply Keeps.foldlFst
    | exact fun _ k => k
    | exact fun _ _ => rfl
    | exact fun _ k => by simpa only [Power.size, Seal.size, Net.size, Time.size, Analog.size, Dio.size, Acq.size, Can.size, Safe.size, Integ.size, Snap.size, modifyAt_length, List.length_map] using k
    | intro _ _ _
    | intro _ _
    | intro _
    | simp only [Keeps.upd_iff]
    | simp only [Keeps.upd_iff, Power.size, Seal.size, Net.size, Time.size, Analog.size, Dio.size, Acq.size, Can.size, Safe.size, Integ.size, Snap.size, modifyAt_length, List.length_map]
    | with_reducible assumption
    | split

end Sys2Proof.Machine
end

