-- ==== Sys2Proof/Laws/KeptTick.lean ====
section
/-! SUPPORT. What the operations of Machine/Tick.lean keep. -/

set_option linter.all false

namespace Sys2Proof.Machine

theorem State.safeBoundary_keeps {s t : State} (h : Keeps s t) : Keeps s (State.safeBoundary t) := by
  unfold State.safeBoundary
  try dsimp only
  repeat' first
    | with_reducible apply State.enterSafe_keeps
    | with_reducible apply State.bothLostReact_keeps
    | with_reducible apply Keeps.ite
    | with_reducible apply Keeps.forUpTo
    | with_reducible apply Keeps.forEach
    | with_reducible apply Keeps.foldl
    | with_reducible apply Keeps.foldlFst
    | intro _ _ _
    | intro _ _
    | intro _
    | simp only [Keeps.upd_iff]
    | simp only [Keeps.upd_iff, Power.size, Seal.size, Net.size, Time.size, Analog.size, Dio.size, Acq.size, Can.size, Safe.size, Integ.size, Snap.size, modifyAt_length, List.length_map]
    | with_reducible assumption
    | split

theorem State.writeCkpt_keeps {s t : State} (h : Keeps s t) : Keeps s t.writeCkpt :=
  h.ckpts _ fun k c hc => by
    have hc := List.mem_of_mem_take hc
    rcases List.mem_cons.mp hc with rfl | hc
    · exact State.checkpoint_wf _ k
    · exact State.wf_ckpts k c hc

theorem State.sinks_keeps {s t : State} (h : Keeps s t) : Keeps s (State.sinks t) := by
  unfold State.sinks
  try dsimp only
  repeat' first
    | with_reducible apply State.dacAll_keeps
    | with_reducible apply State.canRequests_keeps
    | with_reducible apply State.canTimeouts_keeps
    | with_reducible apply State.canLeft_keeps
    | with_reducible apply State.dioSample_keeps
    | with_reducible apply State.axIssue_keeps
    | with_reducible apply State.islRequests_keeps
    | with_reducible apply Keeps.ite
    | with_reducible apply Keeps.forUpTo
    | with_reducible apply Keeps.forEach
    | with_reducible apply Keeps.foldl
    | with_reducible apply Keeps.foldlFst
    | intro _ _ _
    | intro _ _
    | intro _
    | simp only [Keeps.upd_iff]
    | simp only [Keeps.upd_iff, Power.size, Seal.size, Net.size, Time.size, Analog.size, Dio.size, Acq.size, Can.size, Safe.size, Integ.size, Snap.size, modifyAt_length, List.length_map]
    | with_reducible assumption
    | split

theorem State.latches_keeps {s t : State} (h : Keeps s t) : Keeps s (State.latches t) := by
  unfold State.latches
  try dsimp only
  repeat' first
    | with_reducible apply State.encLatch_keeps
    | with_reducible apply State.latchBoundary_keeps
    | with_reducible apply Keeps.ite
    | with_reducible apply Keeps.forUpTo
    | with_reducible apply Keeps.forEach
    | with_reducible apply Keeps.foldl
    | with_reducible apply Keeps.foldlFst
    | intro _ _ _
    | intro _ _
    | intro _
    | simp only [Keeps.upd_iff]
    | simp only [Keeps.upd_iff, Power.size, Seal.size, Net.size, Time.size, Analog.size, Dio.size, Acq.size, Can.size, Safe.size, Integ.size, Snap.size, modifyAt_length, List.length_map]
    | with_reducible assumption
    | split

theorem State.runTiles_keeps {s t : State} (arr : List (Nat × Nat)) (h : Keeps s t) : Keeps s (State.runTiles t arr) := by
  unfold State.runTiles
  try dsimp only
  repeat' first
    | with_reducible apply State.runCells_keeps
    | with_reducible apply State.lanesRun_keeps
    | with_reducible apply State.runAxes_keeps
    | with_reducible apply State.holdsRun_keeps
    | with_reducible apply Keeps.ite
    | with_reducible apply Keeps.forUpTo
    | with_reducible apply Keeps.forEach
    | with_reducible apply Keeps.foldl
    | with_reducible apply Keeps.foldlFst
    | intro _ _ _
    | intro _ _
    | intro _
    | simp only [Keeps.upd_iff]
    | simp only [Keeps.upd_iff, Power.size, Seal.size, Net.size, Time.size, Analog.size, Dio.size, Acq.size, Can.size, Safe.size, Integ.size, Snap.size, modifyAt_length, List.length_map]
    | with_reducible assumption
    | split

theorem State.acqIdle_keeps {s t : State} (h : Keeps s t) : Keeps s (State.acqIdle t) := by
  unfold State.acqIdle
  try dsimp only
  repeat' first
    | with_reducible apply State.acqClose_keeps
    | with_reducible apply Keeps.ite
    | with_reducible apply Keeps.forUpTo
    | with_reducible apply Keeps.forEach
    | with_reducible apply Keeps.foldl
    | with_reducible apply Keeps.foldlFst
    | intro _ _ _
    | intro _ _
    | intro _
    | simp only [Keeps.upd_iff]
    | simp only [Keeps.upd_iff, Power.size, Seal.size, Net.size, Time.size, Analog.size, Dio.size, Acq.size, Can.size, Safe.size, Integ.size, Snap.size, modifyAt_length, List.length_map]
    | with_reducible assumption
    | split

theorem State.boundaryWork_keeps {s t : State} (hq : Half) (writing : Bool) (otpBad : List Nat) (h : Keeps s t) : Keeps s (State.boundaryWork t hq writing otpBad) := by
  unfold State.boundaryWork
  try dsimp only
  repeat' first
    | with_reducible apply State.acqClose_keeps
    | with_reducible apply State.acqSamples_keeps
    | with_reducible apply State.commitLetters_keeps
    | with_reducible apply State.dioDebWrite_keeps
    | with_reducible apply State.lanesBegin_keeps
    | with_reducible apply State.countMulti_keeps
    | with_reducible apply State.warmRelease_keeps
    | with_reducible apply State.snapBoundary_keeps
    | with_reducible apply State.safeBoundary_keeps
    | with_reducible apply State.writeCkpt_keeps
    | with_reducible apply State.sinks_keeps
    | with_reducible apply State.latches_keeps
    | with_reducible apply State.runTiles_keeps
    | with_reducible apply State.acqIdle_keeps
    | with_reducible apply Keeps.ite
    | with_reducible apply Keeps.forUpTo
    | with_reducible apply Keeps.forEach
    | with_reducible apply Keeps.foldl
    | with_reducible apply Keeps.foldlFst
    | intro _ _ _
    | intro _ _
    | intro _
    | simp only [Keeps.upd_iff]
    | simp only [Keeps.upd_iff, Power.size, Seal.size, Net.size, Time.size, Analog.size, Dio.size, Acq.size, Can.size, Safe.size, Integ.size, Snap.size, modifyAt_length, List.length_map]
    | with_reducible assumption
    | split

theorem State.boundary_keeps {s t : State} (writing : Bool) (otpBad : List Nat) (h : Keeps s t) : Keeps s (State.boundary t writing otpBad) := by
  unfold State.boundary
  try dsimp only
  repeat' first
    | with_reducible apply State.openBoundary_keeps
    | with_reducible apply State.modSeal_keeps
    | with_reducible apply State.boundaryWork_keeps
    | with_reducible apply Keeps.ite
    | with_reducible apply Keeps.forUpTo
    | with_reducible apply Keeps.forEach
    | with_reducible apply Keeps.foldl
    | with_reducible apply Keeps.foldlFst
    | exact fun _ k => k
    | exact fun _ _ => rfl
    | exact fun _ k => by simpa only [Power.size, Seal.size, Net.size, Time.size, Analog.size, Dio.size, Acq.size, Can.size, Safe.size, Integ.size, Snap.size, modifyAt_length, List.length_map] using k
    | intro _ _ _
    | intro _ _
    | intro _
    | simp only [Keeps.upd_iff]
    | simp only [Keeps.upd_iff, Power.size, Seal.size, Net.size, Time.size, Analog.size, Dio.size, Acq.size, Can.size, Safe.size, Integ.size, Snap.size, modifyAt_length, List.length_map]
    | with_reducible assumption
    | split

end Sys2Proof.Machine
end

