-- ==== Sys2Proof/Laws/KeptCommands.lean ====
section
/-! SUPPORT. What the meaning of every command keeps. -/

set_option linter.all false

namespace Sys2Proof.Machine

theorem State.letterCmd_keeps {s : State} (typ : Nat) (env : CommitEnv) (l : Letter) :
    OutKeeps s (s.letterCmd typ env l) :=
  OutKeeps.next (Keeps.ite (State.letterAtCommit_keeps _ _ (State.openBoundary_keeps (Keeps.refl s)))
    (State.openBoundary_keeps (Keeps.refl s)))

theorem State.storeCmd_keeps {s : State} (op : Nat) (l : Letter) : OutKeeps s (s.storeCmd op l) :=
  State.letterCmd_keeps _ _ _

theorem State.readCmd_keeps {s : State} (ok : Bool) (p a e : Nat) : OutKeeps s (s.readCmd ok p a e) :=
  OutKeeps.answer (State.readReg_keeps _ _ (State.atEdge_keeps _ (Keeps.refl s)))

theorem onPort_keeps {s t : State} (o : Origin) (h : Keeps s t) : OutKeeps s (onPort o t) := OutKeeps.answer h

theorem execEnRise_keeps (vin : Bool) (ret : Nat) (s : State) : OutKeeps s (execEnRise vin ret s) := by
  have h := Keeps.refl s
  unfold execEnRise
  try dsimp only
  repeat' first
    | with_reducible apply OutKeeps.next
    | with_reducible apply OutKeeps.answer
    | with_reducible apply State.leaveKeep_keeps
    | with_reducible apply State.vinValid_keeps
    | with_reducible apply Keeps.ite
    | with_reducible apply Keeps.forUpTo
    | with_reducible apply Keeps.forEach
    | with_reducible apply Keeps.foldl
    | intro _ _ _
    | intro _ _
    | intro _
    | simp only [Keeps.upd_iff]
    | simp only [Keeps.upd_iff, Power.size, Seal.size, Net.size, Time.size, Analog.size, Dio.size, Acq.size, Can.size, Safe.size, Integ.size, Snap.size, modifyAt_length, List.length_map]
    | with_reducible assumption
    | split

theorem execEnFall_keeps (saved : Bool) (s : State) : OutKeeps s (execEnFall saved s) := by
  have h := Keeps.refl s
  unfold execEnFall
  try dsimp only
  repeat' first
    | with_reducible apply OutKeeps.next
    | with_reducible apply OutKeeps.answer
    | with_reducible apply State.coldCause_keeps
    | with_reducible apply Keeps.ite
    | with_reducible apply Keeps.forUpTo
    | with_reducible apply Keeps.forEach
    | with_reducible apply Keeps.foldl
    | intro _ _ _
    | intro _ _
    | intro _
    | simp only [Keeps.upd_iff]
    | simp only [Keeps.upd_iff, Power.size, Seal.size, Net.size, Time.size, Analog.size, Dio.size, Acq.size, Can.size, Safe.size, Integ.size, Snap.size, modifyAt_length, List.length_map]
    | with_reducible assumption
    | split

theorem execPowerFail_keeps (saved : Bool) (s : State) : OutKeeps s (execPowerFail saved s) := by
  have h := Keeps.refl s
  unfold execPowerFail
  try dsimp only
  repeat' first
    | with_reducible apply OutKeeps.next
    | with_reducible apply OutKeeps.answer
    | with_reducible apply State.coldCause_keeps
    | with_reducible apply Keeps.ite
    | with_reducible apply Keeps.forUpTo
    | with_reducible apply Keeps.forEach
    | with_reducible apply Keeps.foldl
    | intro _ _ _
    | intro _ _
    | intro _
    | simp only [Keeps.upd_iff]
    | simp only [Keeps.upd_iff, Power.size, Seal.size, Net.size, Time.size, Analog.size, Dio.size, Acq.size, Can.size, Safe.size, Integ.size, Snap.size, modifyAt_length, List.length_map]
    | with_reducible assumption
    | split

theorem execOvinShutdown_keeps (s : State) : OutKeeps s (execOvinShutdown s) := by
  have h := Keeps.refl s
  unfold execOvinShutdown
  try dsimp only
  repeat' first
    | with_reducible apply OutKeeps.next
    | with_reducible apply OutKeeps.answer
    | with_reducible apply State.coldCause_keeps
    | with_reducible apply Keeps.ite
    | with_reducible apply Keeps.forUpTo
    | with_reducible apply Keeps.forEach
    | with_reducible apply Keeps.foldl
    | intro _ _ _
    | intro _ _
    | intro _
    | simp only [Keeps.upd_iff]
    | simp only [Keeps.upd_iff, Power.size, Seal.size, Net.size, Time.size, Analog.size, Dio.size, Acq.size, Can.size, Safe.size, Integ.size, Snap.size, modifyAt_length, List.length_map]
    | with_reducible assumption
    | split

theorem execOvinRecovery_keeps (ret : Nat) (s : State) : OutKeeps s (execOvinRecovery ret s) := by
  have h := Keeps.refl s
  unfold execOvinRecovery
  try dsimp only
  repeat' first
    | with_reducible apply OutKeeps.next
    | with_reducible apply OutKeeps.answer
    | with_reducible apply State.leaveKeep_keeps
    | with_reducible apply State.vinValid_keeps
    | with_reducible apply Keeps.ite
    | with_reducible apply Keeps.forUpTo
    | with_reducible apply Keeps.forEach
    | with_reducible apply Keeps.foldl
    | intro _ _ _
    | intro _ _
    | intro _
    | simp only [Keeps.upd_iff]
    | simp only [Keeps.upd_iff, Power.size, Seal.size, Net.size, Time.size, Analog.size, Dio.size, Acq.size, Can.size, Safe.size, Integ.size, Snap.size, modifyAt_length, List.length_map]
    | with_reducible assumption
    | split

theorem execResetNLow_keeps (ns : Nat) (s : State) : OutKeeps s (execResetNLow ns s) := by
  have h := Keeps.refl s
  unfold execResetNLow
  try dsimp only
  repeat' first
    | with_reducible apply OutKeeps.next
    | with_reducible apply OutKeeps.answer
    | with_reducible apply State.useFree_keeps
    | with_reducible apply State.coldCause_keeps
    | with_reducible apply Keeps.ite
    | with_reducible apply Keeps.forUpTo
    | with_reducible apply Keeps.forEach
    | with_reducible apply Keeps.foldl
    | intro _ _ _
    | intro _ _
    | intro _
    | simp only [Keeps.upd_iff]
    | simp only [Keeps.upd_iff, Power.size, Seal.size, Net.size, Time.size, Analog.size, Dio.size, Acq.size, Can.size, Safe.size, Integ.size, Snap.size, modifyAt_length, List.length_map]
    | with_reducible assumption
    | split

theorem execResetNRelease_keeps (s : State) : OutKeeps s (execResetNRelease s) := by
  have h := Keeps.refl s
  unfold execResetNRelease
  try dsimp only
  repeat' first
    | with_reducible apply OutKeeps.next
    | with_reducible apply OutKeeps.answer
    | with_reducible apply State.enterBoot_keeps
    | with_reducible apply Keeps.ite
    | with_reducible apply Keeps.forUpTo
    | with_reducible apply Keeps.forEach
    | with_reducible apply Keeps.foldl
    | intro _ _ _
    | intro _ _
    | intro _
    | simp only [Keeps.upd_iff]
    | simp only [Keeps.upd_iff, Power.size, Seal.size, Net.size, Time.size, Analog.size, Dio.size, Acq.size, Can.size, Safe.size, Integ.size, Snap.size, modifyAt_length, List.length_map]
    | with_reducible assumption
    | split

theorem execPowerGood_keeps (s : State) : OutKeeps s (execPowerGood s) := by
  have h := Keeps.refl s
  unfold execPowerGood
  try dsimp only
  repeat' first
    | with_reducible apply OutKeeps.next
    | with_reducible apply OutKeeps.answer
    | with_reducible apply State.setReg_keeps
    | with_reducible apply State.railsUp_keeps
    | with_reducible apply State.enterBoot_keeps
    | with_reducible apply Keeps.ite
    | with_reducible apply Keeps.forUpTo
    | with_reducible apply Keeps.forEach
    | with_reducible apply Keeps.foldl
    | intro _ _ _
    | intro _ _
    | intro _
    | simp only [Keeps.upd_iff]
    | simp only [Keeps.upd_iff, Power.size, Seal.size, Net.size, Time.size, Analog.size, Dio.size, Acq.size, Can.size, Safe.size, Integ.size, Snap.size, modifyAt_length, List.length_map]
    | with_reducible assumption
    | split

theorem execRailOutOfWindow_keeps (s : State) : OutKeeps s (execRailOutOfWindow s) := by
  have h := Keeps.refl s
  unfold execRailOutOfWindow
  try dsimp only
  repeat' first
    | with_reducible apply OutKeeps.next
    | with_reducible apply OutKeeps.answer
    | with_reducible apply State.coldCause_keeps
    | with_reducible apply Keeps.ite
    | with_reducible apply Keeps.forUpTo
    | with_reducible apply Keeps.forEach
    | with_reducible apply Keeps.foldl
    | intro _ _ _
    | intro _ _
    | intro _
    | simp only [Keeps.upd_iff]
    | simp only [Keeps.upd_iff, Power.size, Seal.size, Net.size, Time.size, Analog.size, Dio.size, Acq.size, Can.size, Safe.size, Integ.size, Snap.size, modifyAt_length, List.length_map]
    | with_reducible assumption
    | split

theorem execRailRetry_keeps (s : State) : OutKeeps s (execRailRetry s) := by
  have h := Keeps.refl s
  unfold execRailRetry
  try dsimp only
  repeat' first
    | with_reducible apply OutKeeps.next
    | with_reducible apply OutKeeps.answer
    | with_reducible apply Keeps.ite
    | with_reducible apply Keeps.forUpTo
    | with_reducible apply Keeps.forEach
    | with_reducible apply Keeps.foldl
    | intro _ _ _
    | intro _ _
    | intro _
    | simp only [Keeps.upd_iff]
    | simp only [Keeps.upd_iff, Power.size, Seal.size, Net.size, Time.size, Analog.size, Dio.size, Acq.size, Can.size, Safe.size, Integ.size, Snap.size, modifyAt_length, List.length_map]
    | with_reducible assumption
    | split

theorem execCurrentLimitCycle_keeps (n : Nat) (again : Bool) (s : State) : OutKeeps s (execCurrentLimitCycle n again s) := by
  have h := Keeps.refl s
  unfold execCurrentLimitCycle
  try dsimp only
  repeat' first
    | with_reducible apply OutKeeps.next
    | with_reducible apply OutKeeps.answer
    | with_reducible apply answer_keeps
    | with_reducible apply State.coldCause_keeps
    | with_reducible apply Keeps.ite
    | with_reducible apply Keeps.forUpTo
    | with_reducible apply Keeps.forEach
    | with_reducible apply Keeps.foldl
    | intro _ _ _
    | intro _ _
    | intro _
    | simp only [Keeps.upd_iff]
    | simp only [Keeps.upd_iff, Power.size, Seal.size, Net.size, Time.size, Analog.size, Dio.size, Acq.size, Can.size, Safe.size, Integ.size, Snap.size, modifyAt_length, List.length_map]
    | with_reducible assumption
    | split

theorem execPhaseNoRipple_keeps (s : State) : OutKeeps s (execPhaseNoRipple s) := by
  have h := Keeps.refl s
  unfold execPhaseNoRipple
  try dsimp only
  repeat' first
    | with_reducible apply OutKeeps.next
    | with_reducible apply OutKeeps.answer
    | with_reducible apply State.coldCause_keeps
    | with_reducible apply Keeps.ite
    | with_reducible apply Keeps.forUpTo
    | with_reducible apply Keeps.forEach
    | with_reducible apply Keeps.foldl
    | intro _ _ _
    | intro _ _
    | intro _
    | simp only [Keeps.upd_iff]
    | simp only [Keeps.upd_iff, Power.size, Seal.size, Net.size, Time.size, Analog.size, Dio.size, Acq.size, Can.size, Safe.size, Integ.size, Snap.size, modifyAt_length, List.length_map]
    | with_reducible assumption
    | split

theorem execTjHigh_keeps (s : State) : OutKeeps s (execTjHigh s) := by
  have h := Keeps.refl s
  unfold execTjHigh
  try dsimp only
  repeat' first
    | with_reducible apply OutKeeps.next
    | with_reducible apply OutKeeps.answer
    | with_reducible apply State.raiseLimited_keeps
    | with_reducible apply Keeps.ite
    | with_reducible apply Keeps.forUpTo
    | with_reducible apply Keeps.forEach
    | with_reducible apply Keeps.foldl
    | intro _ _ _
    | intro _ _
    | intro _
    | simp only [Keeps.upd_iff]
    | simp only [Keeps.upd_iff, Power.size, Seal.size, Net.size, Time.size, Analog.size, Dio.size, Acq.size, Can.size, Safe.size, Integ.size, Snap.size, modifyAt_length, List.length_map]
    | with_reducible assumption
    | split

theorem execThermalReset_keeps (s : State) : OutKeeps s (execThermalReset s) := by
  have h := Keeps.refl s
  unfold execThermalReset
  try dsimp only
  repeat' first
    | with_reducible apply OutKeeps.next
    | with_reducible apply OutKeeps.answer
    | with_reducible apply State.coldCause_keeps
    | with_reducible apply Keeps.ite
    | with_reducible apply Keeps.forUpTo
    | with_reducible apply Keeps.forEach
    | with_reducible apply Keeps.foldl
    | intro _ _ _
    | intro _ _
    | intro _
    | simp only [Keeps.upd_iff]
    | simp only [Keeps.upd_iff, Power.size, Seal.size, Net.size, Time.size, Analog.size, Dio.size, Acq.size, Can.size, Safe.size, Integ.size, Snap.size, modifyAt_length, List.length_map]
    | with_reducible assumption
    | split

theorem execThermalRecover_keeps (s : State) : OutKeeps s (execThermalRecover s) := by
  have h := Keeps.refl s
  unfold execThermalRecover
  try dsimp only
  repeat' first
    | with_reducible apply OutKeeps.next
    | with_reducible apply OutKeeps.answer
    | with_reducible apply Keeps.ite
    | with_reducible apply Keeps.forUpTo
    | with_reducible apply Keeps.forEach
    | with_reducible apply Keeps.foldl
    | intro _ _ _
    | intro _ _
    | intro _
    | simp only [Keeps.upd_iff]
    | simp only [Keeps.upd_iff, Power.size, Seal.size, Net.size, Time.size, Analog.size, Dio.size, Acq.size, Can.size, Safe.size, Integ.size, Snap.size, modifyAt_length, List.length_map]
    | with_reducible assumption
    | split

theorem execClockLoss_keeps (reference : Bool) (s : State) : OutKeeps s (execClockLoss reference s) := by
  have h := Keeps.refl s
  unfold execClockLoss
  try dsimp only
  repeat' first
    | with_reducible apply OutKeeps.next
    | with_reducible apply OutKeeps.answer
    | with_reducible apply State.clrReg_keeps
    | with_reducible apply State.coldCause_keeps
    | with_reducible apply Keeps.ite
    | with_reducible apply Keeps.forUpTo
    | with_reducible apply Keeps.forEach
    | with_reducible apply Keeps.foldl
    | intro _ _ _
    | intro _ _
    | intro _
    | simp only [Keeps.upd_iff]
    | simp only [Keeps.upd_iff, Power.size, Seal.size, Net.size, Time.size, Analog.size, Dio.size, Acq.size, Can.size, Safe.size, Integ.size, Snap.size, modifyAt_length, List.length_map]
    | with_reducible assumption
    | split

theorem execWakeRise_keeps (ret : Nat) (s : State) : OutKeeps s (execWakeRise ret s) := by
  have h := Keeps.refl s
  unfold execWakeRise
  try dsimp only
  repeat' first
    | with_reducible apply OutKeeps.next
    | with_reducible apply OutKeeps.answer
    | with_reducible apply State.leaveKeep_keeps
    | with_reducible apply Keeps.ite
    | with_reducible apply Keeps.forUpTo
    | with_reducible apply Keeps.forEach
    | with_reducible apply Keeps.foldl
    | intro _ _ _
    | intro _ _
    | intro _
    | simp only [Keeps.upd_iff]
    | simp only [Keeps.upd_iff, Power.size, Seal.size, Net.size, Time.size, Analog.size, Dio.size, Acq.size, Can.size, Safe.size, Integ.size, Snap.size, modifyAt_length, List.length_map]
    | with_reducible assumption
    | split

theorem execAonCrystalStop_keeps (s : State) : OutKeeps s (execAonCrystalStop s) := by
  have h := Keeps.refl s
  unfold execAonCrystalStop
  try dsimp only
  repeat' first
    | with_reducible apply OutKeeps.next
    | with_reducible apply OutKeeps.answer
    | with_reducible apply State.clrReg_keeps
    | with_reducible apply State.raise_keeps
    | with_reducible apply Keeps.ite
    | with_reducible apply Keeps.forUpTo
    | with_reducible apply Keeps.forEach
    | with_reducible apply Keeps.foldl
    | intro _ _ _
    | intro _ _
    | intro _
    | simp only [Keeps.upd_iff]
    | simp only [Keeps.upd_iff, Power.size, Seal.size, Net.size, Time.size, Analog.size, Dio.size, Acq.size, Can.size, Safe.size, Integ.size, Snap.size, modifyAt_length, List.length_map]
    | with_reducible assumption
    | split

theorem execAonSecond_keeps (retries e : Nat) (s : State) : OutKeeps s (execAonSecond retries e s) := by
  have h := Keeps.refl s
  unfold execAonSecond
  try dsimp only
  repeat' first
    | with_reducible apply OutKeeps.next
    | with_reducible apply OutKeeps.answer
    | with_reducible apply State.bumpBy_keeps
    | with_reducible apply State.bump_keeps
    | with_reducible apply State.atEdge_keeps
    | with_reducible apply Keeps.ite
    | with_reducible apply Keeps.forUpTo
    | with_reducible apply Keeps.forEach
    | with_reducible apply Keeps.foldl
    | intro _ _ _
    | intro _ _
    | intro _
    | simp only [Keeps.upd_iff]
    | simp only [Keeps.upd_iff, Power.size, Seal.size, Net.size, Time.size, Analog.size, Dio.size, Acq.size, Can.size, Safe.size, Integ.size, Snap.size, modifyAt_length, List.length_map]
    | with_reducible assumption
    | split

theorem execCounterSave_keeps (wait : Nat) (s : State) : OutKeeps s (execCounterSave wait s) := by
  have h := Keeps.refl s
  unfold execCounterSave
  try dsimp only
  repeat' first
    | with_reducible apply OutKeeps.next
    | with_reducible apply OutKeeps.answer
    | with_reducible apply State.counterSave_keeps
    | with_reducible apply State.waited_keeps
    | with_reducible apply State.deferIf_keeps
    | with_reducible apply Keeps.ite
    | with_reducible apply Keeps.forUpTo
    | with_reducible apply Keeps.forEach
    | with_reducible apply Keeps.foldl
    | intro _ _ _
    | intro _ _
    | intro _
    | simp only [Keeps.upd_iff]
    | simp only [Keeps.upd_iff, Power.size, Seal.size, Net.size, Time.size, Analog.size, Dio.size, Acq.size, Can.size, Safe.size, Integ.size, Snap.size, modifyAt_length, List.length_map]
    | with_reducible assumption
    | split

theorem execBootPost_keeps (envm path : Bool) (l : List TestRec) (s : State) : OutKeeps s (execBootPost envm path l s) := by
  have h := Keeps.refl s
  unfold execBootPost
  try dsimp only
  repeat' first
    | with_reducible apply OutKeeps.next
    | with_reducible apply OutKeeps.answer
    | with_reducible apply State.emptyRecs_keeps
    | with_reducible apply State.takeResults_keeps
    | with_reducible apply State.postEvents_keeps
    | with_reducible apply State.enter_keeps
    | with_reducible apply State.islBooted_keeps
    | with_reducible apply Keeps.ite
    | with_reducible apply Keeps.forUpTo
    | with_reducible apply Keeps.forEach
    | with_reducible apply Keeps.foldl
    | intro _ _ _
    | intro _ _
    | intro _
    | simp only [Keeps.upd_iff]
    | simp only [Keeps.upd_iff, Power.size, Seal.size, Net.size, Time.size, Analog.size, Dio.size, Acq.size, Can.size, Safe.size, Integ.size, Snap.size, modifyAt_length, List.length_map]
    | with_reducible assumption
    | split

theorem execTestPost_keeps (l : List TestRec) (s : State) : OutKeeps s (execTestPost l s) := by
  have h := Keeps.refl s
  unfold execTestPost
  try dsimp only
  repeat' first
    | with_reducible apply OutKeeps.next
    | with_reducible apply OutKeeps.answer
    | with_reducible apply State.takeResults_keeps
    | with_reducible apply State.postEvents_keeps
    | with_reducible apply State.enter_keeps
    | with_reducible apply Keeps.ite
    | with_reducible apply Keeps.forUpTo
    | with_reducible apply Keeps.forEach
    | with_reducible apply Keeps.foldl
    | intro _ _ _
    | intro _ _
    | intro _
    | simp only [Keeps.upd_iff]
    | simp only [Keeps.upd_iff, Power.size, Seal.size, Net.size, Time.size, Analog.size, Dio.size, Acq.size, Can.size, Safe.size, Integ.size, Snap.size, modifyAt_length, List.length_map]
    | with_reducible assumption
    | split

theorem execImageLoad_keeps (bad : List Nat) (ecc : Option Nat) (e : Nat) (s : State) : OutKeeps s (execImageLoad bad ecc e s) := by
  have h := Keeps.refl s
  unfold execImageLoad
  try dsimp only
  repeat' first
    | with_reducible apply OutKeeps.next
    | with_reducible apply OutKeeps.answer
    | with_reducible apply State.load_keeps
    | with_reducible apply State.atEdge_keeps
    | with_reducible apply Keeps.ite
    | with_reducible apply Keeps.forUpTo
    | with_reducible apply Keeps.forEach
    | with_reducible apply Keeps.foldl
    | intro _ _ _
    | intro _ _
    | intro _
    | simp only [Keeps.upd_iff]
    | simp only [Keeps.upd_iff, Power.size, Seal.size, Net.size, Time.size, Analog.size, Dio.size, Acq.size, Can.size, Safe.size, Integ.size, Snap.size, modifyAt_length, List.length_map]
    | with_reducible assumption
    | split

theorem execTickBoundary_keeps (writing : Bool) (otpBad : List Nat) (s : State) : OutKeeps s (execTickBoundary writing otpBad s) := by
  have h := Keeps.refl s
  unfold execTickBoundary
  try dsimp only
  repeat' first
    | with_reducible apply OutKeeps.next
    | with_reducible apply OutKeeps.answer
    | with_reducible apply State.boundary_keeps
    | with_reducible apply Keeps.ite
    | with_reducible apply Keeps.forUpTo
    | with_reducible apply Keeps.forEach
    | with_reducible apply Keeps.foldl
    | intro _ _ _
    | intro _ _
    | intro _
    | simp only [Keeps.upd_iff]
    | simp only [Keeps.upd_iff, Power.size, Seal.size, Net.size, Time.size, Analog.size, Dio.size, Acq.size, Can.size, Safe.size, Integ.size, Snap.size, modifyAt_length, List.length_map]
    | with_reducible assumption
    | split

theorem execWatchdogExpiry_keeps (more : Nat) (complete writing : Bool) (e : Nat) (s : State) : OutKeeps s (execWatchdogExpiry more complete writing e s) := by
  have h := Keeps.refl s
  unfold execWatchdogExpiry
  try dsimp only
  repeat' first
    | with_reducible apply OutKeeps.next
    | with_reducible apply OutKeeps.answer
    | with_reducible apply State.warmCause_keeps
    | with_reducible apply State.atEdge_keeps
    | with_reducible apply Keeps.ite
    | with_reducible apply Keeps.forUpTo
    | with_reducible apply Keeps.forEach
    | with_reducible apply Keeps.foldl
    | intro _ _ _
    | intro _ _
    | intro _
    | simp only [Keeps.upd_iff]
    | simp only [Keeps.upd_iff, Power.size, Seal.size, Net.size, Time.size, Analog.size, Dio.size, Acq.size, Can.size, Safe.size, Integ.size, Snap.size, modifyAt_length, List.length_map]
    | with_reducible assumption
    | split

theorem execFatalFault_keeps (more : Nat) (complete writing : Bool) (e : Nat) (s : State) : OutKeeps s (execFatalFault more complete writing e s) := by
  have h := Keeps.refl s
  unfold execFatalFault
  try dsimp only
  repeat' first
    | with_reducible apply OutKeeps.next
    | with_reducible apply OutKeeps.answer
    | with_reducible apply State.warmCause_keeps
    | with_reducible apply State.atEdge_keeps
    | with_reducible apply Keeps.ite
    | with_reducible apply Keeps.forUpTo
    | with_reducible apply Keeps.forEach
    | with_reducible apply Keeps.foldl
    | intro _ _ _
    | intro _ _
    | intro _
    | simp only [Keeps.upd_iff]
    | simp only [Keeps.upd_iff, Power.size, Seal.size, Net.size, Time.size, Analog.size, Dio.size, Acq.size, Can.size, Safe.size, Integ.size, Snap.size, modifyAt_length, List.length_map]
    | with_reducible assumption
    | split

theorem execRestoreComplete_keeps (bad : List Nat) (ckptBad : Bool) (ecc : Option Nat) (laps : List Nat) (e : Nat) (s : State) : OutKeeps s (execRestoreComplete bad ckptBad ecc laps e s) := by
  have h := Keeps.refl s
  unfold execRestoreComplete
  try dsimp only
  repeat' first
    | with_reducible apply OutKeeps.next
    | with_reducible apply OutKeeps.answer
    | with_reducible apply State.atEdge_keeps
    | with_reducible apply State.restoreDone_keeps
    | with_reducible apply Keeps.ite
    | with_reducible apply Keeps.forUpTo
    | with_reducible apply Keeps.forEach
    | with_reducible apply Keeps.foldl
    | intro _ _ _
    | intro _ _
    | intro _
    | simp only [Keeps.upd_iff]
    | simp only [Keeps.upd_iff, Power.size, Seal.size, Net.size, Time.size, Analog.size, Dio.size, Acq.size, Can.size, Safe.size, Integ.size, Snap.size, modifyAt_length, List.length_map]
    | with_reducible assumption
    | split

theorem execHoldTimeout_keeps (e : Nat) (s : State) : OutKeeps s (execHoldTimeout e s) := by
  have h := Keeps.refl s
  unfold execHoldTimeout
  try dsimp only
  repeat' first
    | with_reducible apply OutKeeps.next
    | with_reducible apply OutKeeps.answer
    | with_reducible apply State.warmHalt_keeps
    | with_reducible apply State.atEdge_keeps
    | with_reducible apply Keeps.ite
    | with_reducible apply Keeps.forUpTo
    | with_reducible apply Keeps.forEach
    | with_reducible apply Keeps.foldl
    | intro _ _ _
    | intro _ _
    | intro _
    | simp only [Keeps.upd_iff]
    | simp only [Keeps.upd_iff, Power.size, Seal.size, Net.size, Time.size, Analog.size, Dio.size, Acq.size, Can.size, Safe.size, Integ.size, Snap.size, modifyAt_length, List.length_map]
    | with_reducible assumption
    | split

theorem execLetterReceive_keeps (o : Origin) (b : List Byte) (wait e : Nat) (s : State) : OutKeeps s (execLetterReceive o b wait e s) := by
  have h := Keeps.refl s
  unfold execLetterReceive
  try dsimp only
  repeat' first
    | with_reducible apply OutKeeps.next
    | with_reducible apply OutKeeps.answer
    | with_reducible apply State.letterReceive_keeps
    | with_reducible apply onPort_keeps
    | with_reducible apply State.atEdge_keeps
    | with_reducible apply State.waited_keeps
    | with_reducible apply Keeps.ite
    | with_reducible apply Keeps.forUpTo
    | with_reducible apply Keeps.forEach
    | with_reducible apply Keeps.foldl
    | intro _ _ _
    | intro _ _
    | intro _
    | simp only [Keeps.upd_iff]
    | simp only [Keeps.upd_iff, Power.size, Seal.size, Net.size, Time.size, Analog.size, Dio.size, Acq.size, Can.size, Safe.size, Integ.size, Snap.size, modifyAt_length, List.length_map]
    | with_reducible assumption
    | split

theorem execLetterVerify_keeps (e : Nat) (s : State) : OutKeeps s (execLetterVerify e s) := by
  have h := Keeps.refl s
  unfold execLetterVerify
  try dsimp only
  repeat' first
    | with_reducible apply OutKeeps.next
    | with_reducible apply OutKeeps.answer
    | with_reducible apply State.atEdge_keeps
    | with_reducible apply State.letterVerify_keeps
    | with_reducible apply Keeps.ite
    | with_reducible apply Keeps.forUpTo
    | with_reducible apply Keeps.forEach
    | with_reducible apply Keeps.foldl
    | intro _ _ _
    | intro _ _
    | intro _
    | simp only [Keeps.upd_iff]
    | simp only [Keeps.upd_iff, Power.size, Seal.size, Net.size, Time.size, Analog.size, Dio.size, Acq.size, Can.size, Safe.size, Integ.size, Snap.size, modifyAt_length, List.length_map]
    | with_reducible assumption
    | split

theorem execCounterWriteDone_keeps (wait e : Nat) (s : State) : OutKeeps s (execCounterWriteDone wait e s) := by
  have h := Keeps.refl s
  unfold execCounterWriteDone
  try dsimp only
  repeat' first
    | with_reducible apply OutKeeps.next
    | with_reducible apply OutKeeps.answer
    | with_reducible apply State.envmDone_keeps
    | with_reducible apply State.atEdge_keeps
    | with_reducible apply State.waited_keeps
    | with_reducible apply State.counterWritten_keeps
    | with_reducible apply Keeps.ite
    | with_reducible apply Keeps.forUpTo
    | with_reducible apply Keeps.forEach
    | with_reducible apply Keeps.foldl
    | intro _ _ _
    | intro _ _
    | intro _
    | simp only [Keeps.upd_iff]
    | simp only [Keeps.upd_iff, Power.size, Seal.size, Net.size, Time.size, Analog.size, Dio.size, Acq.size, Can.size, Safe.size, Integ.size, Snap.size, modifyAt_length, List.length_map]
    | with_reducible assumption
    | split

theorem execRefusalRunClose_keeps (code port : Nat) (s : State) : OutKeeps s (execRefusalRunClose code port s) := by
  have h := Keeps.refl s
  unfold execRefusalRunClose
  try dsimp only
  repeat' first
    | with_reducible apply OutKeeps.next
    | with_reducible apply OutKeeps.answer
    | with_reducible apply answer_keeps
    | with_reducible apply State.runClose_keeps
    | with_reducible apply Keeps.ite
    | with_reducible apply Keeps.forUpTo
    | with_reducible apply Keeps.forEach
    | with_reducible apply Keeps.foldl
    | intro _ _ _
    | intro _ _
    | intro _
    | simp only [Keeps.upd_iff]
    | simp only [Keeps.upd_iff, Power.size, Seal.size, Net.size, Time.size, Analog.size, Dio.size, Acq.size, Can.size, Safe.size, Integ.size, Snap.size, modifyAt_length, List.length_map]
    | with_reducible assumption
    | split

theorem execStart_keeps (l : Letter) (s : State) : OutKeeps s (execStart l s) := by
  have h := Keeps.refl s
  unfold execStart
  try dsimp only
  repeat' first
    | with_reducible apply OutKeeps.next
    | with_reducible apply OutKeeps.answer
    | with_reducible apply State.letterCmd_keeps
    | with_reducible apply Keeps.ite
    | with_reducible apply Keeps.forUpTo
    | with_reducible apply Keeps.forEach
    | with_reducible apply Keeps.foldl
    | intro _ _ _
    | intro _ _
    | intro _
    | simp only [Keeps.upd_iff]
    | simp only [Keeps.upd_iff, Power.size, Seal.size, Net.size, Time.size, Analog.size, Dio.size, Acq.size, Can.size, Safe.size, Integ.size, Snap.size, modifyAt_length, List.length_map]
    | with_reducible assumption
    | split

theorem execRun_keeps (l : Letter) (s : State) : OutKeeps s (execRun l s) := by
  have h := Keeps.refl s
  unfold execRun
  try dsimp only
  repeat' first
    | with_reducible apply OutKeeps.next
    | with_reducible apply OutKeeps.answer
    | with_reducible apply State.letterCmd_keeps
    | with_reducible apply Keeps.ite
    | with_reducible apply Keeps.forUpTo
    | with_reducible apply Keeps.forEach
    | with_reducible apply Keeps.foldl
    | intro _ _ _
    | intro _ _
    | intro _
    | simp only [Keeps.upd_iff]
    | simp only [Keeps.upd_iff, Power.size, Seal.size, Net.size, Time.size, Analog.size, Dio.size, Acq.size, Can.size, Safe.size, Integ.size, Snap.size, modifyAt_length, List.length_map]
    | with_reducible assumption
    | split

theorem execHold_keeps (l : Letter) (s : State) : OutKeeps s (execHold l s) := by
  have h := Keeps.refl s
  unfold execHold
  try dsimp only
  repeat' first
    | with_reducible apply OutKeeps.next
    | with_reducible apply OutKeeps.answer
    | with_reducible apply State.letterCmd_keeps
    | with_reducible apply Keeps.ite
    | with_reducible apply Keeps.forUpTo
    | with_reducible apply Keeps.forEach
    | with_reducible apply Keeps.foldl
    | intro _ _ _
    | intro _ _
    | intro _
    | simp only [Keeps.upd_iff]
    | simp only [Keeps.upd_iff, Power.size, Seal.size, Net.size, Time.size, Analog.size, Dio.size, Acq.size, Can.size, Safe.size, Integ.size, Snap.size, modifyAt_length, List.length_map]
    | with_reducible assumption
    | split

theorem execResume_keeps (l : Letter) (s : State) : OutKeeps s (execResume l s) := by
  have h := Keeps.refl s
  unfold execResume
  try dsimp only
  repeat' first
    | with_reducible apply OutKeeps.next
    | with_reducible apply OutKeeps.answer
    | with_reducible apply State.letterCmd_keeps
    | with_reducible apply Keeps.ite
    | with_reducible apply Keeps.forUpTo
    | with_reducible apply Keeps.forEach
    | with_reducible apply Keeps.foldl
    | intro _ _ _
    | intro _ _
    | intro _
    | simp only [Keeps.upd_iff]
    | simp only [Keeps.upd_iff, Power.size, Seal.size, Net.size, Time.size, Analog.size, Dio.size, Acq.size, Can.size, Safe.size, Integ.size, Snap.size, modifyAt_length, List.length_map]
    | with_reducible assumption
    | split

theorem execAbort_keeps (l : Letter) (s : State) : OutKeeps s (execAbort l s) := by
  have h := Keeps.refl s
  unfold execAbort
  try dsimp only
  repeat' first
    | with_reducible apply OutKeeps.next
    | with_reducible apply OutKeeps.answer
    | with_reducible apply State.letterCmd_keeps
    | with_reducible apply Keeps.ite
    | with_reducible apply Keeps.forUpTo
    | with_reducible apply Keeps.forEach
    | with_reducible apply Keeps.foldl
    | intro _ _ _
    | intro _ _
    | intro _
    | simp only [Keeps.upd_iff]
    | simp only [Keeps.upd_iff, Power.size, Seal.size, Net.size, Time.size, Analog.size, Dio.size, Acq.size, Can.size, Safe.size, Integ.size, Snap.size, modifyAt_length, List.length_map]
    | with_reducible assumption
    | split

theorem execParamset_keeps (l : Letter) (fin : Nat) (s : State) : OutKeeps s (execParamset l fin s) := by
  have h := Keeps.refl s
  unfold execParamset
  try dsimp only
  repeat' first
    | with_reducible apply OutKeeps.next
    | with_reducible apply OutKeeps.answer
    | with_reducible apply State.letterCmd_keeps
    | with_reducible apply Keeps.ite
    | with_reducible apply Keeps.forUpTo
    | with_reducible apply Keeps.forEach
    | with_reducible apply Keeps.foldl
    | intro _ _ _
    | intro _ _
    | intro _
    | simp only [Keeps.upd_iff]
    | simp only [Keeps.upd_iff, Power.size, Seal.size, Net.size, Time.size, Analog.size, Dio.size, Acq.size, Can.size, Safe.size, Integ.size, Snap.size, modifyAt_length, List.length_map]
    | with_reducible assumption
    | split

theorem execSnappolicy_keeps (l : Letter) (s : State) : OutKeeps s (execSnappolicy l s) := by
  have h := Keeps.refl s
  unfold execSnappolicy
  try dsimp only
  repeat' first
    | with_reducible apply OutKeeps.next
    | with_reducible apply OutKeeps.answer
    | with_reducible apply State.letterCmd_keeps
    | with_reducible apply Keeps.ite
    | with_reducible apply Keeps.forUpTo
    | with_reducible apply Keeps.forEach
    | with_reducible apply Keeps.foldl
    | intro _ _ _
    | intro _ _
    | intro _
    | simp only [Keeps.upd_iff]
    | simp only [Keeps.upd_iff, Power.size, Seal.size, Net.size, Time.size, Analog.size, Dio.size, Acq.size, Can.size, Safe.size, Integ.size, Snap.size, modifyAt_length, List.length_map]
    | with_reducible assumption
    | split

theorem execCellmode_keeps (l : Letter) (s : State) : OutKeeps s (execCellmode l s) := by
  have h := Keeps.refl s
  unfold execCellmode
  try dsimp only
  repeat' first
    | with_reducible apply OutKeeps.next
    | with_reducible apply OutKeeps.answer
    | with_reducible apply State.letterCmd_keeps
    | with_reducible apply Keeps.ite
    | with_reducible apply Keeps.forUpTo
    | with_reducible apply Keeps.forEach
    | with_reducible apply Keeps.foldl
    | intro _ _ _
    | intro _ _
    | intro _
    | simp only [Keeps.upd_iff]
    | simp only [Keeps.upd_iff, Power.size, Seal.size, Net.size, Time.size, Analog.size, Dio.size, Acq.size, Can.size, Safe.size, Integ.size, Snap.size, modifyAt_length, List.length_map]
    | with_reducible assumption
    | split

theorem execMove_keeps (l : Letter) (s : State) : OutKeeps s (execMove l s) := by
  have h := Keeps.refl s
  unfold execMove
  try dsimp only
  repeat' first
    | with_reducible apply OutKeeps.next
    | with_reducible apply OutKeeps.answer
    | with_reducible apply State.letterCmd_keeps
    | with_reducible apply Keeps.ite
    | with_reducible apply Keeps.forUpTo
    | with_reducible apply Keeps.forEach
    | with_reducible apply Keeps.foldl
    | intro _ _ _
    | intro _ _
    | intro _
    | simp only [Keeps.upd_iff]
    | simp only [Keeps.upd_iff, Power.size, Seal.size, Net.size, Time.size, Analog.size, Dio.size, Acq.size, Can.size, Safe.size, Integ.size, Snap.size, modifyAt_length, List.length_map]
    | with_reducible assumption
    | split

theorem execHome_keeps (l : Letter) (s : State) : OutKeeps s (execHome l s) := by
  have h := Keeps.refl s
  unfold execHome
  try dsimp only
  repeat' first
    | with_reducible apply OutKeeps.next
    | with_reducible apply OutKeeps.answer
    | with_reducible apply State.letterCmd_keeps
    | with_reducible apply Keeps.ite
    | with_reducible apply Keeps.forUpTo
    | with_reducible apply Keeps.forEach
    | with_reducible apply Keeps.foldl
    | intro _ _ _
    | intro _ _
    | intro _
    | simp only [Keeps.upd_iff]
    | simp only [Keeps.upd_iff, Power.size, Seal.size, Net.size, Time.size, Analog.size, Dio.size, Acq.size, Can.size, Safe.size, Integ.size, Snap.size, modifyAt_length, List.length_map]
    | with_reducible assumption
    | split

theorem execCalibrate_keeps (l : Letter) (s : State) : OutKeeps s (execCalibrate l s) := by
  have h := Keeps.refl s
  unfold execCalibrate
  try dsimp only
  repeat' first
    | with_reducible apply OutKeeps.next
    | with_reducible apply OutKeeps.answer
    | with_reducible apply State.letterCmd_keeps
    | with_reducible apply Keeps.ite
    | with_reducible apply Keeps.forUpTo
    | with_reducible apply Keeps.forEach
    | with_reducible apply Keeps.foldl
    | intro _ _ _
    | intro _ _
    | intro _
    | simp only [Keeps.upd_iff]
    | simp only [Keeps.upd_iff, Power.size, Seal.size, Net.size, Time.size, Analog.size, Dio.size, Acq.size, Can.size, Safe.size, Integ.size, Snap.size, modifyAt_length, List.length_map]
    | with_reducible assumption
    | split

theorem execCalibrationWriteDone_keeps (ok : Bool) (wait : Nat) (s : State) : OutKeeps s (execCalibrationWriteDone ok wait s) := by
  have h := Keeps.refl s
  unfold execCalibrationWriteDone
  try dsimp only
  repeat' first
    | with_reducible apply OutKeeps.next
    | with_reducible apply OutKeeps.answer
    | with_reducible apply State.calWriteDone_keeps
    | with_reducible apply State.envmDone_keeps
    | with_reducible apply State.waited_keeps
    | with_reducible apply Keeps.ite
    | with_reducible apply Keeps.forUpTo
    | with_reducible apply Keeps.forEach
    | with_reducible apply Keeps.foldl
    | intro _ _ _
    | intro _ _
    | intro _
    | simp only [Keeps.upd_iff]
    | simp only [Keeps.upd_iff, Power.size, Seal.size, Net.size, Time.size, Analog.size, Dio.size, Acq.size, Can.size, Safe.size, Integ.size, Snap.size, modifyAt_length, List.length_map]
    | with_reducible assumption
    | split

theorem execClearlog_keeps (l : Letter) (s : State) : OutKeeps s (execClearlog l s) := by
  have h := Keeps.refl s
  unfold execClearlog
  try dsimp only
  repeat' first
    | with_reducible apply OutKeeps.next
    | with_reducible apply OutKeeps.answer
    | with_reducible apply State.letterCmd_keeps
    | with_reducible apply Keeps.ite
    | with_reducible apply Keeps.forUpTo
    | with_reducible apply Keeps.forEach
    | with_reducible apply Keeps.foldl
    | intro _ _ _
    | intro _ _
    | intro _
    | simp only [Keeps.upd_iff]
    | simp only [Keeps.upd_iff, Power.size, Seal.size, Net.size, Time.size, Analog.size, Dio.size, Acq.size, Can.size, Safe.size, Integ.size, Snap.size, modifyAt_length, List.length_map]
    | with_reducible assumption
    | split

theorem execStoreBegin_keeps (l : Letter) (s : State) : OutKeeps s (execStoreBegin l s) := by
  have h := Keeps.refl s
  unfold execStoreBegin
  try dsimp only
  repeat' first
    | with_reducible apply OutKeeps.next
    | with_reducible apply OutKeeps.answer
    | with_reducible apply State.storeCmd_keeps
    | with_reducible apply Keeps.ite
    | with_reducible apply Keeps.forUpTo
    | with_reducible apply Keeps.forEach
    | with_reducible apply Keeps.foldl
    | intro _ _ _
    | intro _ _
    | intro _
    | simp only [Keeps.upd_iff]
    | simp only [Keeps.upd_iff, Power.size, Seal.size, Net.size, Time.size, Analog.size, Dio.size, Acq.size, Can.size, Safe.size, Integ.size, Snap.size, modifyAt_length, List.length_map]
    | with_reducible assumption
    | split

theorem execStoreData_keeps (l : Letter) (s : State) : OutKeeps s (execStoreData l s) := by
  have h := Keeps.refl s
  unfold execStoreData
  try dsimp only
  repeat' first
    | with_reducible apply OutKeeps.next
    | with_reducible apply OutKeeps.answer
    | with_reducible apply State.storeCmd_keeps
    | with_reducible apply Keeps.ite
    | with_reducible apply Keeps.forUpTo
    | with_reducible apply Keeps.forEach
    | with_reducible apply Keeps.foldl
    | intro _ _ _
    | intro _ _
    | intro _
    | simp only [Keeps.upd_iff]
    | simp only [Keeps.upd_iff, Power.size, Seal.size, Net.size, Time.size, Analog.size, Dio.size, Acq.size, Can.size, Safe.size, Integ.size, Snap.size, modifyAt_length, List.length_map]
    | with_reducible assumption
    | split

theorem execStoreFinish_keeps (l : Letter) (s : State) : OutKeeps s (execStoreFinish l s) := by
  have h := Keeps.refl s
  unfold execStoreFinish
  try dsimp only
  repeat' first
    | with_reducible apply OutKeeps.next
    | with_reducible apply OutKeeps.answer
    | with_reducible apply State.storeCmd_keeps
    | with_reducible apply Keeps.ite
    | with_reducible apply Keeps.forUpTo
    | with_reducible apply Keeps.forEach
    | with_reducible apply Keeps.foldl
    | intro _ _ _
    | intro _ _
    | intro _
    | simp only [Keeps.upd_iff]
    | simp only [Keeps.upd_iff, Power.size, Seal.size, Net.size, Time.size, Analog.size, Dio.size, Acq.size, Can.size, Safe.size, Integ.size, Snap.size, modifyAt_length, List.length_map]
    | with_reducible assumption
    | split

theorem execReload_keeps (l : Letter) (writing : Bool) (s : State) : OutKeeps s (execReload l writing s) := by
  have h := Keeps.refl s
  unfold execReload
  try dsimp only
  repeat' first
    | with_reducible apply OutKeeps.next
    | with_reducible apply OutKeeps.answer
    | with_reducible apply State.letterCmd_keeps
    | with_reducible apply Keeps.ite
    | with_reducible apply Keeps.forUpTo
    | with_reducible apply Keeps.forEach
    | with_reducible apply Keeps.foldl
    | intro _ _ _
    | intro _ _
    | intro _
    | simp only [Keeps.upd_iff]
    | simp only [Keeps.upd_iff, Power.size, Seal.size, Net.size, Time.size, Analog.size, Dio.size, Acq.size, Can.size, Safe.size, Integ.size, Snap.size, modifyAt_length, List.length_map]
    | with_reducible assumption
    | split

theorem execClearsafe_keeps (l : Letter) (s : State) : OutKeeps s (execClearsafe l s) := by
  have h := Keeps.refl s
  unfold execClearsafe
  try dsimp only
  repeat' first
    | with_reducible apply OutKeeps.next
    | with_reducible apply OutKeeps.answer
    | with_reducible apply State.letterCmd_keeps
    | with_reducible apply Keeps.ite
    | with_reducible apply Keeps.forUpTo
    | with_reducible apply Keeps.forEach
    | with_reducible apply Keeps.foldl
    | intro _ _ _
    | intro _ _
    | intro _
    | simp only [Keeps.upd_iff]
    | simp only [Keeps.upd_iff, Power.size, Seal.size, Net.size, Time.size, Analog.size, Dio.size, Acq.size, Can.size, Safe.size, Integ.size, Snap.size, modifyAt_length, List.length_map]
    | with_reducible assumption
    | split

theorem execSleep_keeps (l : Letter) (s : State) : OutKeeps s (execSleep l s) := by
  have h := Keeps.refl s
  unfold execSleep
  try dsimp only
  repeat' first
    | with_reducible apply OutKeeps.next
    | with_reducible apply OutKeeps.answer
    | with_reducible apply State.letterCmd_keeps
    | with_reducible apply Keeps.ite
    | with_reducible apply Keeps.forUpTo
    | with_reducible apply Keeps.forEach
    | with_reducible apply Keeps.foldl
    | intro _ _ _
    | intro _ _
    | intro _
    | simp only [Keeps.upd_iff]
    | simp only [Keeps.upd_iff, Power.size, Seal.size, Net.size, Time.size, Analog.size, Dio.size, Acq.size, Can.size, Safe.size, Integ.size, Snap.size, modifyAt_length, List.length_map]
    | with_reducible assumption
    | split

theorem execTimeRestep_keeps (l : Letter) (s : State) : OutKeeps s (execTimeRestep l s) := by
  have h := Keeps.refl s
  unfold execTimeRestep
  try dsimp only
  repeat' first
    | with_reducible apply OutKeeps.next
    | with_reducible apply OutKeeps.answer
    | with_reducible apply State.letterCmd_keeps
    | with_reducible apply Keeps.ite
    | with_reducible apply Keeps.forUpTo
    | with_reducible apply Keeps.forEach
    | with_reducible apply Keeps.foldl
    | intro _ _ _
    | intro _ _
    | intro _
    | simp only [Keeps.upd_iff]
    | simp only [Keeps.upd_iff, Power.size, Seal.size, Net.size, Time.size, Analog.size, Dio.size, Acq.size, Can.size, Safe.size, Integ.size, Snap.size, modifyAt_length, List.length_map]
    | with_reducible assumption
    | split

theorem execRegwrite_keeps (l : Letter) (s : State) : OutKeeps s (execRegwrite l s) := by
  have h := Keeps.refl s
  unfold execRegwrite
  try dsimp only
  repeat' first
    | with_reducible apply OutKeeps.next
    | with_reducible apply OutKeeps.answer
    | with_reducible apply State.letterCmd_keeps
    | with_reducible apply Keeps.ite
    | with_reducible apply Keeps.forUpTo
    | with_reducible apply Keeps.forEach
    | with_reducible apply Keeps.foldl
    | intro _ _ _
    | intro _ _
    | intro _
    | simp only [Keeps.upd_iff]
    | simp only [Keeps.upd_iff, Power.size, Seal.size, Net.size, Time.size, Analog.size, Dio.size, Acq.size, Can.size, Safe.size, Integ.size, Snap.size, modifyAt_length, List.length_map]
    | with_reducible assumption
    | split

theorem execSafeauth_keeps (l : Letter) (s : State) : OutKeeps s (execSafeauth l s) := by
  have h := Keeps.refl s
  unfold execSafeauth
  try dsimp only
  repeat' first
    | with_reducible apply OutKeeps.next
    | with_reducible apply OutKeeps.answer
    | with_reducible apply State.letterCmd_keeps
    | with_reducible apply Keeps.ite
    | with_reducible apply Keeps.forUpTo
    | with_reducible apply Keeps.forEach
    | with_reducible apply Keeps.foldl
    | intro _ _ _
    | intro _ _
    | intro _
    | simp only [Keeps.upd_iff]
    | simp only [Keeps.upd_iff, Power.size, Seal.size, Net.size, Time.size, Analog.size, Dio.size, Acq.size, Can.size, Safe.size, Integ.size, Snap.size, modifyAt_length, List.length_map]
    | with_reducible assumption
    | split

theorem execLifecycle_keeps (l : Letter) (s : State) : OutKeeps s (execLifecycle l s) := by
  have h := Keeps.refl s
  unfold execLifecycle
  try dsimp only
  repeat' first
    | with_reducible apply OutKeeps.next
    | with_reducible apply OutKeeps.answer
    | with_reducible apply State.letterCmd_keeps
    | with_reducible apply Keeps.ite
    | with_reducible apply Keeps.forUpTo
    | with_reducible apply Keeps.forEach
    | with_reducible apply Keeps.foldl
    | intro _ _ _
    | intro _ _
    | intro _
    | simp only [Keeps.upd_iff]
    | simp only [Keeps.upd_iff, Power.size, Seal.size, Net.size, Time.size, Analog.size, Dio.size, Acq.size, Can.size, Safe.size, Integ.size, Snap.size, modifyAt_length, List.length_map]
    | with_reducible assumption
    | split

theorem execKeyset_keeps (l : Letter) (good : Bool) (s : State) : OutKeeps s (execKeyset l good s) := by
  have h := Keeps.refl s
  unfold execKeyset
  try dsimp only
  repeat' first
    | with_reducible apply OutKeeps.next
    | with_reducible apply OutKeeps.answer
    | with_reducible apply State.letterCmd_keeps
    | with_reducible apply Keeps.ite
    | with_reducible apply Keeps.forUpTo
    | with_reducible apply Keeps.forEach
    | with_reducible apply Keeps.foldl
    | intro _ _ _
    | intro _ _
    | intro _
    | simp only [Keeps.upd_iff]
    | simp only [Keeps.upd_iff, Power.size, Seal.size, Net.size, Time.size, Analog.size, Dio.size, Acq.size, Can.size, Safe.size, Integ.size, Snap.size, modifyAt_length, List.length_map]
    | with_reducible assumption
    | split

theorem execKeyrevoke_keeps (l : Letter) (s : State) : OutKeeps s (execKeyrevoke l s) := by
  have h := Keeps.refl s
  unfold execKeyrevoke
  try dsimp only
  repeat' first
    | with_reducible apply OutKeeps.next
    | with_reducible apply OutKeeps.answer
    | with_reducible apply State.letterCmd_keeps
    | with_reducible apply Keeps.ite
    | with_reducible apply Keeps.forUpTo
    | with_reducible apply Keeps.forEach
    | with_reducible apply Keeps.foldl
    | intro _ _ _
    | intro _ _
    | intro _
    | simp only [Keeps.upd_iff]
    | simp only [Keeps.upd_iff, Power.size, Seal.size, Net.size, Time.size, Analog.size, Dio.size, Acq.size, Can.size, Safe.size, Integ.size, Snap.size, modifyAt_length, List.length_map]
    | with_reducible assumption
    | split

theorem execBist_keeps (l : Letter) (s : State) : OutKeeps s (execBist l s) := by
  have h := Keeps.refl s
  unfold execBist
  try dsimp only
  repeat' first
    | with_reducible apply OutKeeps.next
    | with_reducible apply OutKeeps.answer
    | with_reducible apply State.letterCmd_keeps
    | with_reducible apply Keeps.ite
    | with_reducible apply Keeps.forUpTo
    | with_reducible apply Keeps.forEach
    | with_reducible apply Keeps.foldl
    | intro _ _ _
    | intro _ _
    | intro _
    | simp only [Keeps.upd_iff]
    | simp only [Keeps.upd_iff, Power.size, Seal.size, Net.size, Time.size, Analog.size, Dio.size, Acq.size, Can.size, Safe.size, Integ.size, Snap.size, modifyAt_length, List.length_map]
    | with_reducible assumption
    | split

theorem execBistComplete_keeps (envm path : Bool) (l : List TestRec) (ms : Nat) (s : State) : OutKeeps s (execBistComplete envm path l ms s) := by
  have h := Keeps.refl s
  unfold execBistComplete
  try dsimp only
  repeat' first
    | with_reducible apply OutKeeps.next
    | with_reducible apply OutKeeps.answer
    | with_reducible apply State.modInteg_keeps
    | with_reducible apply State.takeResults_keeps
    | with_reducible apply State.enter_keeps
    | with_reducible apply State.raise_keeps
    | with_reducible apply State.islBooted_keeps
    | with_reducible apply Keeps.ite
    | with_reducible apply Keeps.forUpTo
    | with_reducible apply Keeps.forEach
    | with_reducible apply Keeps.foldl
    | exact fun _ k => k
    | exact fun _ _ => rfl
    | exact fun _ k => by simpa only [Power.size, Seal.size, Net.size, Time.size, Analog.size, Dio.size, Acq.size, Can.size, Safe.size, Integ.size, Snap.size, modifyAt_length, List.length_map] using k
    | intro _ _ _
    | intro _ _
    | intro _
    | simp only [Keeps.upd_iff]
    | simp only [Keeps.upd_iff, Power.size, Seal.size, Net.size, Time.size, Analog.size, Dio.size, Acq.size, Can.size, Safe.size, Integ.size, Snap.size, modifyAt_length, List.length_map]
    | with_reducible assumption
    | split

theorem execFuse_keeps (l : Letter) (s : State) : OutKeeps s (execFuse l s) := by
  have h := Keeps.refl s
  unfold execFuse
  try dsimp only
  repeat' first
    | with_reducible apply OutKeeps.next
    | with_reducible apply OutKeeps.answer
    | with_reducible apply State.letterCmd_keeps
    | with_reducible apply Keeps.ite
    | with_reducible apply Keeps.forUpTo
    | with_reducible apply Keeps.forEach
    | with_reducible apply Keeps.foldl
    | intro _ _ _
    | intro _ _
    | intro _
    | simp only [Keeps.upd_iff]
    | simp only [Keeps.upd_iff, Power.size, Seal.size, Net.size, Time.size, Analog.size, Dio.size, Acq.size, Can.size, Safe.size, Integ.size, Snap.size, modifyAt_length, List.length_map]
    | with_reducible assumption
    | split

theorem execPwrstage_keeps (l : Letter) (s : State) : OutKeeps s (execPwrstage l s) := by
  have h := Keeps.refl s
  unfold execPwrstage
  try dsimp only
  repeat' first
    | with_reducible apply OutKeeps.next
    | with_reducible apply OutKeeps.answer
    | with_reducible apply State.letterCmd_keeps
    | with_reducible apply Keeps.ite
    | with_reducible apply Keeps.forUpTo
    | with_reducible apply Keeps.forEach
    | with_reducible apply Keeps.foldl
    | intro _ _ _
    | intro _ _
    | intro _
    | simp only [Keeps.upd_iff]
    | simp only [Keeps.upd_iff, Power.size, Seal.size, Net.size, Time.size, Analog.size, Dio.size, Acq.size, Can.size, Safe.size, Integ.size, Snap.size, modifyAt_length, List.length_map]
    | with_reducible assumption
    | split

theorem execRead_keeps (o : Origin) (b : List Byte) (e : Nat) (s : State) : OutKeeps s (execRead o b e s) := by
  have h := Keeps.refl s
  unfold execRead
  try dsimp only
  repeat' first
    | with_reducible apply OutKeeps.next
    | with_reducible apply OutKeeps.answer
    | with_reducible apply State.readReq_keeps
    | with_reducible apply onPort_keeps
    | with_reducible apply State.atEdge_keeps
    | with_reducible apply State.onFrame_keeps
    | with_reducible apply Keeps.ite
    | with_reducible apply Keeps.forUpTo
    | with_reducible apply Keeps.forEach
    | with_reducible apply Keeps.foldl
    | intro _ _ _
    | intro _ _
    | intro _
    | simp only [Keeps.upd_iff]
    | simp only [Keeps.upd_iff, Power.size, Seal.size, Net.size, Time.size, Analog.size, Dio.size, Acq.size, Can.size, Safe.size, Integ.size, Snap.size, modifyAt_length, List.length_map]
    | with_reducible assumption
    | split

theorem execYcpDiscard_keeps (g : Datagram) (e : Nat) (s : State) : OutKeeps s (execYcpDiscard g e s) := by
  have h := Keeps.refl s
  unfold execYcpDiscard
  try dsimp only
  repeat' first
    | with_reducible apply OutKeeps.next
    | with_reducible apply OutKeeps.answer
    | with_reducible apply State.datagramDiscard_keeps
    | with_reducible apply onPort_keeps
    | with_reducible apply State.atEdge_keeps
    | with_reducible apply Keeps.ite
    | with_reducible apply Keeps.forUpTo
    | with_reducible apply Keeps.forEach
    | with_reducible apply Keeps.foldl
    | intro _ _ _
    | intro _ _
    | intro _
    | simp only [Keeps.upd_iff]
    | simp only [Keeps.upd_iff, Power.size, Seal.size, Net.size, Time.size, Analog.size, Dio.size, Acq.size, Can.size, Safe.size, Integ.size, Snap.size, modifyAt_length, List.length_map]
    | with_reducible assumption
    | split

theorem execDuplicateDiscard_keeps (o : Origin) (letter : Bool) (e : Nat) (s : State) : OutKeeps s (execDuplicateDiscard o letter e s) := by
  have h := Keeps.refl s
  unfold execDuplicateDiscard
  try dsimp only
  repeat' first
    | with_reducible apply OutKeeps.next
    | with_reducible apply OutKeeps.answer
    | with_reducible apply State.dupDiscard_keeps
    | with_reducible apply onPort_keeps
    | with_reducible apply State.atEdge_keeps
    | with_reducible apply Keeps.ite
    | with_reducible apply Keeps.forUpTo
    | with_reducible apply Keeps.forEach
    | with_reducible apply Keeps.foldl
    | intro _ _ _
    | intro _ _
    | intro _
    | simp only [Keeps.upd_iff]
    | simp only [Keeps.upd_iff, Power.size, Seal.size, Net.size, Time.size, Analog.size, Dio.size, Acq.size, Can.size, Safe.size, Integ.size, Snap.size, modifyAt_length, List.length_map]
    | with_reducible assumption
    | split

theorem execTraceRead_keeps (b : Bulk) (e : Nat) (s : State) : OutKeeps s (execTraceRead b e s) := by
  have h := Keeps.refl s
  unfold execTraceRead
  try dsimp only
  repeat' first
    | with_reducible apply OutKeeps.next
    | with_reducible apply OutKeeps.answer
    | with_reducible apply State.traceRead_keeps
    | with_reducible apply answer_keeps
    | with_reducible apply State.atEdge_keeps
    | with_reducible apply State.onFrame_keeps
    | with_reducible apply Keeps.ite
    | with_reducible apply Keeps.forUpTo
    | with_reducible apply Keeps.forEach
    | with_reducible apply Keeps.foldl
    | intro _ _ _
    | intro _ _
    | intro _
    | simp only [Keeps.upd_iff]
    | simp only [Keeps.upd_iff, Power.size, Seal.size, Net.size, Time.size, Analog.size, Dio.size, Acq.size, Can.size, Safe.size, Integ.size, Snap.size, modifyAt_length, List.length_map]
    | with_reducible assumption
    | split

theorem execTraceConsume_keeps (b : Bulk) (e : Nat) (s : State) : OutKeeps s (execTraceConsume b e s) := by
  have h := Keeps.refl s
  unfold execTraceConsume
  try dsimp only
  repeat' first
    | with_reducible apply OutKeeps.next
    | with_reducible apply OutKeeps.answer
    | with_reducible apply State.traceConsumeReq_keeps
    | with_reducible apply answer_keeps
    | with_reducible apply State.atEdge_keeps
    | with_reducible apply State.onFrame_keeps
    | with_reducible apply Keeps.ite
    | with_reducible apply Keeps.forUpTo
    | with_reducible apply Keeps.forEach
    | with_reducible apply Keeps.foldl
    | intro _ _ _
    | intro _ _
    | intro _
    | simp only [Keeps.upd_iff]
    | simp only [Keeps.upd_iff, Power.size, Seal.size, Net.size, Time.size, Analog.size, Dio.size, Acq.size, Can.size, Safe.size, Integ.size, Snap.size, modifyAt_length, List.length_map]
    | with_reducible assumption
    | split

theorem execLapRead_keeps (b : Bulk) (e : Nat) (s : State) : OutKeeps s (execLapRead b e s) := by
  have h := Keeps.refl s
  unfold execLapRead
  try dsimp only
  repeat' first
    | with_reducible apply OutKeeps.next
    | with_reducible apply OutKeeps.answer
    | with_reducible apply State.lapRead_keeps
    | with_reducible apply answer_keeps
    | with_reducible apply State.atEdge_keeps
    | with_reducible apply State.onFrame_keeps
    | with_reducible apply Keeps.ite
    | with_reducible apply Keeps.forUpTo
    | with_reducible apply Keeps.forEach
    | with_reducible apply Keeps.foldl
    | intro _ _ _
    | intro _ _
    | intro _
    | simp only [Keeps.upd_iff]
    | simp only [Keeps.upd_iff, Power.size, Seal.size, Net.size, Time.size, Analog.size, Dio.size, Acq.size, Can.size, Safe.size, Integ.size, Snap.size, modifyAt_length, List.length_map]
    | with_reducible assumption
    | split

theorem execLapConsume_keeps (b : Bulk) (e : Nat) (s : State) : OutKeeps s (execLapConsume b e s) := by
  have h := Keeps.refl s
  unfold execLapConsume
  try dsimp only
  repeat' first
    | with_reducible apply OutKeeps.next
    | with_reducible apply OutKeeps.answer
    | with_reducible apply State.lapConsumeReq_keeps
    | with_reducible apply answer_keeps
    | with_reducible apply State.atEdge_keeps
    | with_reducible apply State.onFrame_keeps
    | with_reducible apply Keeps.ite
    | with_reducible apply Keeps.forUpTo
    | with_reducible apply Keeps.forEach
    | with_reducible apply Keeps.foldl
    | intro _ _ _
    | intro _ _
    | intro _
    | simp only [Keeps.upd_iff]
    | simp only [Keeps.upd_iff, Power.size, Seal.size, Net.size, Time.size, Analog.size, Dio.size, Acq.size, Can.size, Safe.size, Integ.size, Snap.size, modifyAt_length, List.length_map]
    | with_reducible assumption
    | split

theorem execSnapRead_keeps (b : Bulk) (e : Nat) (s : State) : OutKeeps s (execSnapRead b e s) := by
  have h := Keeps.refl s
  unfold execSnapRead
  try dsimp only
  repeat' first
    | with_reducible apply OutKeeps.next
    | with_reducible apply OutKeeps.answer
    | with_reducible apply onPort_keeps
    | with_reducible apply State.atEdge_keeps
    | with_reducible apply State.onFrame_keeps
    | with_reducible apply State.snapRead_keeps
    | with_reducible apply Keeps.ite
    | with_reducible apply Keeps.forUpTo
    | with_reducible apply Keeps.forEach
    | with_reducible apply Keeps.foldl
    | intro _ _ _
    | intro _ _
    | intro _
    | simp only [Keeps.upd_iff]
    | simp only [Keeps.upd_iff, Power.size, Seal.size, Net.size, Time.size, Analog.size, Dio.size, Acq.size, Can.size, Safe.size, Integ.size, Snap.size, modifyAt_length, List.length_map]
    | with_reducible assumption
    | split

theorem execReadoutDatagram_keeps (wait e : Nat) (s : State) : OutKeeps s (execReadoutDatagram wait e s) := by
  have h := Keeps.refl s
  unfold execReadoutDatagram
  try dsimp only
  repeat' first
    | with_reducible apply OutKeeps.next
    | with_reducible apply OutKeeps.answer
    | with_reducible apply State.atEdge_keeps
    | with_reducible apply State.readoutServe_keeps
    | with_reducible apply Keeps.ite
    | with_reducible apply Keeps.forUpTo
    | with_reducible apply Keeps.forEach
    | with_reducible apply Keeps.foldl
    | intro _ _ _
    | intro _ _
    | intro _
    | simp only [Keeps.upd_iff]
    | simp only [Keeps.upd_iff, Power.size, Seal.size, Net.size, Time.size, Analog.size, Dio.size, Acq.size, Can.size, Safe.size, Integ.size, Snap.size, modifyAt_length, List.length_map]
    | with_reducible assumption
    | split

theorem execSnapReq_keeps (o : Origin) (b : List Byte) (wait e : Nat) (s : State) : OutKeeps s (execSnapReq o b wait e s) := by
  have h := Keeps.refl s
  unfold execSnapReq
  try dsimp only
  repeat' first
    | with_reducible apply OutKeeps.next
    | with_reducible apply OutKeeps.answer
    | with_reducible apply onPort_keeps
    | with_reducible apply State.atEdge_keeps
    | with_reducible apply State.onFrame_keeps
    | with_reducible apply State.snapReq_keeps
    | with_reducible apply Keeps.ite
    | with_reducible apply Keeps.forUpTo
    | with_reducible apply Keeps.forEach
    | with_reducible apply Keeps.foldl
    | intro _ _ _
    | intro _ _
    | intro _
    | simp only [Keeps.upd_iff]
    | simp only [Keeps.upd_iff, Power.size, Seal.size, Net.size, Time.size, Analog.size, Dio.size, Acq.size, Can.size, Safe.size, Integ.size, Snap.size, modifyAt_length, List.length_map]
    | with_reducible assumption
    | split

theorem execPhotoFinishReady_keeps (e : Nat) (s : State) : OutKeeps s (execPhotoFinishReady e s) := by
  have h := Keeps.refl s
  unfold execPhotoFinishReady
  try dsimp only
  repeat' first
    | with_reducible apply OutKeeps.next
    | with_reducible apply OutKeeps.answer
    | with_reducible apply State.atEdge_keeps
    | with_reducible apply State.snapReady_keeps
    | with_reducible apply Keeps.ite
    | with_reducible apply Keeps.forUpTo
    | with_reducible apply Keeps.forEach
    | with_reducible apply Keeps.foldl
    | intro _ _ _
    | intro _ _
    | intro _
    | simp only [Keeps.upd_iff]
    | simp only [Keeps.upd_iff, Power.size, Seal.size, Net.size, Time.size, Analog.size, Dio.size, Acq.size, Can.size, Safe.size, Integ.size, Snap.size, modifyAt_length, List.length_map]
    | with_reducible assumption
    | split

theorem execEvrSeek_keeps (b : Option Bulk) (cursor : Word) (s : State) : OutKeeps s (execEvrSeek b cursor s) := by
  have h := Keeps.refl s
  unfold execEvrSeek
  try dsimp only
  repeat' first
    | with_reducible apply OutKeeps.next
    | with_reducible apply OutKeeps.answer
    | with_reducible apply State.writeCursor_keeps
    | with_reducible apply State.evrSeek_keeps
    | with_reducible apply State.onMaint_keeps
    | with_reducible apply State.onFrame_keeps
    | with_reducible apply Keeps.ite
    | with_reducible apply Keeps.forUpTo
    | with_reducible apply Keeps.forEach
    | with_reducible apply Keeps.foldl
    | intro _ _ _
    | intro _ _
    | intro _
    | simp only [Keeps.upd_iff]
    | simp only [Keeps.upd_iff, Power.size, Seal.size, Net.size, Time.size, Analog.size, Dio.size, Acq.size, Can.size, Safe.size, Integ.size, Snap.size, modifyAt_length, List.length_map]
    | with_reducible assumption
    | split

theorem execEvrFreeze_keeps (b : Option Bulk) (s : State) : OutKeeps s (execEvrFreeze b s) := by
  have h := Keeps.refl s
  unfold execEvrFreeze
  try dsimp only
  repeat' first
    | with_reducible apply OutKeeps.next
    | with_reducible apply OutKeeps.answer
    | with_reducible apply State.freeze_keeps
    | with_reducible apply State.writeFrz_keeps
    | with_reducible apply State.evrFreezeNet_keeps
    | with_reducible apply State.onMaint_keeps
    | with_reducible apply State.onFrame_keeps
    | with_reducible apply Keeps.ite
    | with_reducible apply Keeps.forUpTo
    | with_reducible apply Keeps.forEach
    | with_reducible apply Keeps.foldl
    | intro _ _ _
    | intro _ _
    | intro _
    | simp only [Keeps.upd_iff]
    | simp only [Keeps.upd_iff, Power.size, Seal.size, Net.size, Time.size, Analog.size, Dio.size, Acq.size, Can.size, Safe.size, Integ.size, Snap.size, modifyAt_length, List.length_map]
    | with_reducible assumption
    | split

theorem execEvrUnfreeze_keeps (b : Option Bulk) (s : State) : OutKeeps s (execEvrUnfreeze b s) := by
  have h := Keeps.refl s
  unfold execEvrUnfreeze
  try dsimp only
  repeat' first
    | with_reducible apply OutKeeps.next
    | with_reducible apply OutKeeps.answer
    | with_reducible apply State.unfreeze_keeps
    | with_reducible apply State.writeFrz_keeps
    | with_reducible apply State.evrFreezeNet_keeps
    | with_reducible apply State.onMaint_keeps
    | with_reducible apply State.onFrame_keeps
    | with_reducible apply Keeps.ite
    | with_reducible apply Keeps.forUpTo
    | with_reducible apply Keeps.forEach
    | with_reducible apply Keeps.foldl
    | intro _ _ _
    | intro _ _
    | intro _
    | simp only [Keeps.upd_iff]
    | simp only [Keeps.upd_iff, Power.size, Seal.size, Net.size, Time.size, Analog.size, Dio.size, Acq.size, Can.size, Safe.size, Integ.size, Snap.size, modifyAt_length, List.length_map]
    | with_reducible assumption
    | split

theorem execFreezeTimeout_keeps (s : State) : OutKeeps s (execFreezeTimeout s) := by
  have h := Keeps.refl s
  unfold execFreezeTimeout
  try dsimp only
  repeat' first
    | with_reducible apply OutKeeps.next
    | with_reducible apply OutKeeps.answer
    | with_reducible apply State.unfreeze_keeps
    | with_reducible apply State.bump_keeps
    | with_reducible apply Keeps.ite
    | with_reducible apply Keeps.forUpTo
    | with_reducible apply Keeps.forEach
    | with_reducible apply Keeps.foldl
    | intro _ _ _
    | intro _ _
    | intro _
    | simp only [Keeps.upd_iff]
    | simp only [Keeps.upd_iff, Power.size, Seal.size, Net.size, Time.size, Analog.size, Dio.size, Acq.size, Can.size, Safe.size, Integ.size, Snap.size, modifyAt_length, List.length_map]
    | with_reducible assumption
    | split

theorem execHostHeartbeat_keeps (o : Origin) (b : List Byte) (e : Nat) (s : State) : OutKeeps s (execHostHeartbeat o b e s) := by
  have h := Keeps.refl s
  unfold execHostHeartbeat
  try dsimp only
  repeat' first
    | with_reducible apply OutKeeps.next
    | with_reducible apply OutKeeps.answer
    | with_reducible apply State.hostHeartbeat_keeps
    | with_reducible apply onPort_keeps
    | with_reducible apply State.atEdge_keeps
    | with_reducible apply Keeps.ite
    | with_reducible apply Keeps.forUpTo
    | with_reducible apply Keeps.forEach
    | with_reducible apply Keeps.foldl
    | intro _ _ _
    | intro _ _
    | intro _
    | simp only [Keeps.upd_iff]
    | simp only [Keeps.upd_iff, Power.size, Seal.size, Net.size, Time.size, Analog.size, Dio.size, Acq.size, Can.size, Safe.size, Integ.size, Snap.size, modifyAt_length, List.length_map]
    | with_reducible assumption
    | split

theorem execDeviceHeartbeat_keeps (p wait e : Nat) (s : State) : OutKeeps s (execDeviceHeartbeat p wait e s) := by
  have h := Keeps.refl s
  unfold execDeviceHeartbeat
  try dsimp only
  repeat' first
    | with_reducible apply OutKeeps.next
    | with_reducible apply OutKeeps.answer
    | with_reducible apply State.sendHeartbeat_keeps
    | with_reducible apply answer_keeps
    | with_reducible apply State.atEdge_keeps
    | with_reducible apply State.waited_keeps
    | with_reducible apply Keeps.ite
    | with_reducible apply Keeps.forUpTo
    | with_reducible apply Keeps.forEach
    | with_reducible apply Keeps.foldl
    | intro _ _ _
    | intro _ _
    | intro _
    | simp only [Keeps.upd_iff]
    | simp only [Keeps.upd_iff, Power.size, Seal.size, Net.size, Time.size, Analog.size, Dio.size, Acq.size, Can.size, Safe.size, Integ.size, Snap.size, modifyAt_length, List.length_map]
    | with_reducible assumption
    | split

theorem execPathLost_keeps (p e : Nat) (s : State) : OutKeeps s (execPathLost p e s) := by
  have h := Keeps.refl s
  unfold execPathLost
  try dsimp only
  repeat' first
    | with_reducible apply OutKeeps.next
    | with_reducible apply OutKeeps.answer
    | with_reducible apply State.pathLost_keeps
    | with_reducible apply answer_keeps
    | with_reducible apply State.atEdge_keeps
    | with_reducible apply Keeps.ite
    | with_reducible apply Keeps.forUpTo
    | with_reducible apply Keeps.forEach
    | with_reducible apply Keeps.foldl
    | intro _ _ _
    | intro _ _
    | intro _
    | simp only [Keeps.upd_iff]
    | simp only [Keeps.upd_iff, Power.size, Seal.size, Net.size, Time.size, Analog.size, Dio.size, Acq.size, Can.size, Safe.size, Integ.size, Snap.size, modifyAt_length, List.length_map]
    | with_reducible assumption
    | split

theorem execBothLostReaction_keeps (s : State) : OutKeeps s (execBothLostReaction s) := by
  have h := Keeps.refl s
  unfold execBothLostReaction
  try dsimp only
  repeat' first
    | with_reducible apply OutKeeps.next
    | with_reducible apply OutKeeps.answer
    | with_reducible apply State.bothLostReact_keeps
    | with_reducible apply Keeps.ite
    | with_reducible apply Keeps.forUpTo
    | with_reducible apply Keeps.forEach
    | with_reducible apply Keeps.foldl
    | intro _ _ _
    | intro _ _
    | intro _
    | simp only [Keeps.upd_iff]
    | simp only [Keeps.upd_iff, Power.size, Seal.size, Net.size, Time.size, Analog.size, Dio.size, Acq.size, Can.size, Safe.size, Integ.size, Snap.size, modifyAt_length, List.length_map]
    | with_reducible assumption
    | split

theorem execBatonMove_keeps (e : Nat) (s : State) : OutKeeps s (execBatonMove e s) := by
  have h := Keeps.refl s
  unfold execBatonMove
  try dsimp only
  repeat' first
    | with_reducible apply OutKeeps.next
    | with_reducible apply OutKeeps.answer
    | with_reducible apply State.batonMove_keeps
    | with_reducible apply State.atEdge_keeps
    | with_reducible apply Keeps.ite
    | with_reducible apply Keeps.forUpTo
    | with_reducible apply Keeps.forEach
    | with_reducible apply Keeps.foldl
    | intro _ _ _
    | intro _ _
    | intro _
    | simp only [Keeps.upd_iff]
    | simp only [Keeps.upd_iff, Power.size, Seal.size, Net.size, Time.size, Analog.size, Dio.size, Acq.size, Can.size, Safe.size, Integ.size, Snap.size, modifyAt_length, List.length_map]
    | with_reducible assumption
    | split

theorem execStandbyVerify_keeps (o : Origin) (b : List Byte) (e : Nat) (s : State) : OutKeeps s (execStandbyVerify o b e s) := by
  have h := Keeps.refl s
  unfold execStandbyVerify
  try dsimp only
  repeat' first
    | with_reducible apply OutKeeps.next
    | with_reducible apply OutKeeps.answer
    | with_reducible apply State.letterReceive_keeps
    | with_reducible apply onPort_keeps
    | with_reducible apply State.atEdge_keeps
    | with_reducible apply Keeps.ite
    | with_reducible apply Keeps.forUpTo
    | with_reducible apply Keeps.forEach
    | with_reducible apply Keeps.foldl
    | intro _ _ _
    | intro _ _
    | intro _
    | simp only [Keeps.upd_iff]
    | simp only [Keeps.upd_iff, Power.size, Seal.size, Net.size, Time.size, Analog.size, Dio.size, Acq.size, Can.size, Safe.size, Integ.size, Snap.size, modifyAt_length, List.length_map]
    | with_reducible assumption
    | split

theorem execBatonSkewTimeout_keeps (e : Nat) (s : State) : OutKeeps s (execBatonSkewTimeout e s) := by
  have h := Keeps.refl s
  unfold execBatonSkewTimeout
  try dsimp only
  repeat' first
    | with_reducible apply OutKeeps.next
    | with_reducible apply OutKeeps.answer
    | with_reducible apply State.atEdge_keeps
    | with_reducible apply State.settle_keeps
    | with_reducible apply Keeps.ite
    | with_reducible apply Keeps.forUpTo
    | with_reducible apply Keeps.forEach
    | with_reducible apply Keeps.foldl
    | intro _ _ _
    | intro _ _
    | intro _
    | simp only [Keeps.upd_iff]
    | simp only [Keeps.upd_iff, Power.size, Seal.size, Net.size, Time.size, Analog.size, Dio.size, Acq.size, Can.size, Safe.size, Integ.size, Snap.size, modifyAt_length, List.length_map]
    | with_reducible assumption
    | split

theorem execHeldCopyTimeout_keeps (e : Nat) (s : State) : OutKeeps s (execHeldCopyTimeout e s) := by
  have h := Keeps.refl s
  unfold execHeldCopyTimeout
  try dsimp only
  repeat' first
    | with_reducible apply OutKeeps.next
    | with_reducible apply OutKeeps.answer
    | with_reducible apply State.heldTimeout_keeps
    | with_reducible apply State.atEdge_keeps
    | with_reducible apply Keeps.ite
    | with_reducible apply Keeps.forUpTo
    | with_reducible apply Keeps.forEach
    | with_reducible apply Keeps.foldl
    | intro _ _ _
    | intro _ _
    | intro _
    | simp only [Keeps.upd_iff]
    | simp only [Keeps.upd_iff, Power.size, Seal.size, Net.size, Time.size, Analog.size, Dio.size, Acq.size, Can.size, Safe.size, Integ.size, Snap.size, modifyAt_length, List.length_map]
    | with_reducible assumption
    | split

theorem execPrpSupervision_keeps (s : State) : OutKeeps s (execPrpSupervision s) := by
  have h := Keeps.refl s
  unfold execPrpSupervision
  try dsimp only
  repeat' first
    | with_reducible apply OutKeeps.next
    | with_reducible apply OutKeeps.answer
    | with_reducible apply State.prpSupervise_keeps
    | with_reducible apply Keeps.ite
    | with_reducible apply Keeps.forUpTo
    | with_reducible apply Keeps.forEach
    | with_reducible apply Keeps.foldl
    | intro _ _ _
    | intro _ _
    | intro _
    | simp only [Keeps.upd_iff]
    | simp only [Keeps.upd_iff, Power.size, Seal.size, Net.size, Time.size, Analog.size, Dio.size, Acq.size, Can.size, Safe.size, Integ.size, Snap.size, modifyAt_length, List.length_map]
    | with_reducible assumption
    | split

theorem execPortStart_keeps (p : Nat) (sync anDone : Bool) (e : Nat) (s : State) : OutKeeps s (execPortStart p sync anDone e s) := by
  have h := Keeps.refl s
  unfold execPortStart
  try dsimp only
  repeat' first
    | with_reducible apply OutKeeps.next
    | with_reducible apply OutKeeps.answer
    | with_reducible apply State.portStart_keeps
    | with_reducible apply answer_keeps
    | with_reducible apply State.atEdge_keeps
    | with_reducible apply Keeps.ite
    | with_reducible apply Keeps.forUpTo
    | with_reducible apply Keeps.forEach
    | with_reducible apply Keeps.foldl
    | intro _ _ _
    | intro _ _
    | intro _
    | simp only [Keeps.upd_iff]
    | simp only [Keeps.upd_iff, Power.size, Seal.size, Net.size, Time.size, Analog.size, Dio.size, Acq.size, Can.size, Safe.size, Integ.size, Snap.size, modifyAt_length, List.length_map]
    | with_reducible assumption
    | split

theorem execMdioPoll_keeps (p : Nat) (link : Bool) (s : State) : OutKeeps s (execMdioPoll p link s) := by
  have h := Keeps.refl s
  unfold execMdioPoll
  try dsimp only
  repeat' first
    | with_reducible apply OutKeeps.next
    | with_reducible apply OutKeeps.answer
    | with_reducible apply State.mdioPoll_keeps
    | with_reducible apply answer_keeps
    | with_reducible apply Keeps.ite
    | with_reducible apply Keeps.forUpTo
    | with_reducible apply Keeps.forEach
    | with_reducible apply Keeps.foldl
    | intro _ _ _
    | intro _ _
    | intro _
    | simp only [Keeps.upd_iff]
    | simp only [Keeps.upd_iff, Power.size, Seal.size, Net.size, Time.size, Analog.size, Dio.size, Acq.size, Can.size, Safe.size, Integ.size, Snap.size, modifyAt_length, List.length_map]
    | with_reducible assumption
    | split

theorem execArpRefresh_keeps (p : Nat) (s : State) : OutKeeps s (execArpRefresh p s) := by
  have h := Keeps.refl s
  unfold execArpRefresh
  try dsimp only
  repeat' first
    | with_reducible apply OutKeeps.next
    | with_reducible apply OutKeeps.answer
    | with_reducible apply State.arpResolve_keeps
    | with_reducible apply answer_keeps
    | with_reducible apply Keeps.ite
    | with_reducible apply Keeps.forUpTo
    | with_reducible apply Keeps.forEach
    | with_reducible apply Keeps.foldl
    | intro _ _ _
    | intro _ _
    | intro _
    | simp only [Keeps.upd_iff]
    | simp only [Keeps.upd_iff, Power.size, Seal.size, Net.size, Time.size, Analog.size, Dio.size, Acq.size, Can.size, Safe.size, Integ.size, Snap.size, modifyAt_length, List.length_map]
    | with_reducible assumption
    | split

theorem execArpRequest_keeps (o : Origin) (target e : Nat) (s : State) : OutKeeps s (execArpRequest o target e s) := by
  have h := Keeps.refl s
  unfold execArpRequest
  try dsimp only
  repeat' first
    | with_reducible apply OutKeeps.next
    | with_reducible apply OutKeeps.answer
    | with_reducible apply State.arpRequest_keeps
    | with_reducible apply onPort_keeps
    | with_reducible apply State.atEdge_keeps
    | with_reducible apply Keeps.ite
    | with_reducible apply Keeps.forUpTo
    | with_reducible apply Keeps.forEach
    | with_reducible apply Keeps.foldl
    | intro _ _ _
    | intro _ _
    | intro _
    | simp only [Keeps.upd_iff]
    | simp only [Keeps.upd_iff, Power.size, Seal.size, Net.size, Time.size, Analog.size, Dio.size, Acq.size, Can.size, Safe.size, Integ.size, Snap.size, modifyAt_length, List.length_map]
    | with_reducible assumption
    | split

theorem execIcmpEcho_keeps (o : Origin) (len : Nat) (data : List Byte) (e : Nat) (s : State) : OutKeeps s (execIcmpEcho o len data e s) := by
  have h := Keeps.refl s
  unfold execIcmpEcho
  try dsimp only
  repeat' first
    | with_reducible apply OutKeeps.next
    | with_reducible apply OutKeeps.answer
    | with_reducible apply State.icmpEcho_keeps
    | with_reducible apply onPort_keeps
    | with_reducible apply State.atEdge_keeps
    | with_reducible apply Keeps.ite
    | with_reducible apply Keeps.forUpTo
    | with_reducible apply Keeps.forEach
    | with_reducible apply Keeps.foldl
    | intro _ _ _
    | intro _ _
    | intro _
    | simp only [Keeps.upd_iff]
    | simp only [Keeps.upd_iff, Power.size, Seal.size, Net.size, Time.size, Analog.size, Dio.size, Acq.size, Can.size, Safe.size, Integ.size, Snap.size, modifyAt_length, List.length_map]
    | with_reducible assumption
    | split

theorem execRxLockLoss_keeps (p : Nat) (long : Bool) (e : Nat) (s : State) : OutKeeps s (execRxLockLoss p long e s) := by
  have h := Keeps.refl s
  unfold execRxLockLoss
  try dsimp only
  repeat' first
    | with_reducible apply OutKeeps.next
    | with_reducible apply OutKeeps.answer
    | with_reducible apply State.lockLoss_keeps
    | with_reducible apply answer_keeps
    | with_reducible apply State.atEdge_keeps
    | with_reducible apply Keeps.ite
    | with_reducible apply Keeps.forUpTo
    | with_reducible apply Keeps.forEach
    | with_reducible apply Keeps.foldl
    | intro _ _ _
    | intro _ _
    | intro _
    | simp only [Keeps.upd_iff]
    | simp only [Keeps.upd_iff, Power.size, Seal.size, Net.size, Time.size, Analog.size, Dio.size, Acq.size, Can.size, Safe.size, Integ.size, Snap.size, modifyAt_length, List.length_map]
    | with_reducible assumption
    | split

theorem execSafetyFrameSend_keeps (c waitA waitB e : Nat) (s : State) : OutKeeps s (execSafetyFrameSend c waitA waitB e s) := by
  have h := Keeps.refl s
  unfold execSafetyFrameSend
  try dsimp only
  repeat' first
    | with_reducible apply OutKeeps.next
    | with_reducible apply OutKeeps.answer
    | with_reducible apply answer_keeps
    | with_reducible apply State.atEdge_keeps
    | with_reducible apply State.waited_keeps
    | with_reducible apply State.safetySend_keeps
    | with_reducible apply Keeps.ite
    | with_reducible apply Keeps.forUpTo
    | with_reducible apply Keeps.forEach
    | with_reducible apply Keeps.foldl
    | intro _ _ _
    | intro _ _
    | intro _
    | simp only [Keeps.upd_iff]
    | simp only [Keeps.upd_iff, Power.size, Seal.size, Net.size, Time.size, Analog.size, Dio.size, Acq.size, Can.size, Safe.size, Integ.size, Snap.size, modifyAt_length, List.length_map]
    | with_reducible assumption
    | split

theorem execSafetyFrameReceive_keeps (p : Nat) (b : List Byte) (e : Nat) (s : State) : OutKeeps s (execSafetyFrameReceive p b e s) := by
  have h := Keeps.refl s
  unfold execSafetyFrameReceive
  try dsimp only
  repeat' first
    | with_reducible apply OutKeeps.next
    | with_reducible apply OutKeeps.answer
    | with_reducible apply answer_keeps
    | with_reducible apply State.atEdge_keeps
    | with_reducible apply State.safetyReceive_keeps
    | with_reducible apply Keeps.ite
    | with_reducible apply Keeps.forUpTo
    | with_reducible apply Keeps.forEach
    | with_reducible apply Keeps.foldl
    | intro _ _ _
    | intro _ _
    | intro _
    | simp only [Keeps.upd_iff]
    | simp only [Keeps.upd_iff, Power.size, Seal.size, Net.size, Time.size, Analog.size, Dio.size, Acq.size, Can.size, Safe.size, Integ.size, Snap.size, modifyAt_length, List.length_map]
    | with_reducible assumption
    | split

theorem execSafetyWatchdog_keeps (c e : Nat) (s : State) : OutKeeps s (execSafetyWatchdog c e s) := by
  have h := Keeps.refl s
  unfold execSafetyWatchdog
  try dsimp only
  repeat' first
    | with_reducible apply OutKeeps.next
    | with_reducible apply OutKeeps.answer
    | with_reducible apply answer_keeps
    | with_reducible apply State.atEdge_keeps
    | with_reducible apply State.safetyWatchdog_keeps
    | with_reducible apply Keeps.ite
    | with_reducible apply Keeps.forUpTo
    | with_reducible apply Keeps.forEach
    | with_reducible apply Keeps.foldl
    | intro _ _ _
    | intro _ _
    | intro _
    | simp only [Keeps.upd_iff]
    | simp only [Keeps.upd_iff, Power.size, Seal.size, Net.size, Time.size, Analog.size, Dio.size, Acq.size, Can.size, Safe.size, Integ.size, Snap.size, modifyAt_length, List.length_map]
    | with_reducible assumption
    | split

theorem execPtpSync_keeps (peer domain seq : Nat) (twoStep : Bool) (t1 corr : Int) (raw : Nat) (e : Nat) (s : State) : OutKeeps s (execPtpSync peer domain seq twoStep t1 corr raw e s) := by
  have h := Keeps.refl s
  unfold execPtpSync
  try dsimp only
  repeat' first
    | with_reducible apply OutKeeps.next
    | with_reducible apply OutKeeps.answer
    | with_reducible apply State.atEdge_keeps
    | with_reducible apply State.modTime_keeps
    | with_reducible apply State.ptpArrive_keeps
    | with_reducible apply State.ptpDiscard_keeps
    | with_reducible apply State.syncComplete_keeps
    | with_reducible apply Keeps.ite
    | with_reducible apply Keeps.forUpTo
    | with_reducible apply Keeps.forEach
    | with_reducible apply Keeps.foldl
    | exact fun _ k => k
    | exact fun _ _ => rfl
    | exact fun _ k => by simpa only [Power.size, Seal.size, Net.size, Time.size, Analog.size, Dio.size, Acq.size, Can.size, Safe.size, Integ.size, Snap.size, modifyAt_length, List.length_map] using k
    | intro _ _ _
    | intro _ _
    | intro _
    | simp only [Keeps.upd_iff]
    | simp only [Keeps.upd_iff, Power.size, Seal.size, Net.size, Time.size, Analog.size, Dio.size, Acq.size, Can.size, Safe.size, Integ.size, Snap.size, modifyAt_length, List.length_map]
    | with_reducible assumption
    | split

theorem execPtpFollowUp_keeps (peer domain seq : Nat) (t1 corr : Int) (e : Nat) (s : State) : OutKeeps s (execPtpFollowUp peer domain seq t1 corr e s) := by
  have h := Keeps.refl s
  unfold execPtpFollowUp
  try dsimp only
  repeat' first
    | with_reducible apply OutKeeps.next
    | with_reducible apply OutKeeps.answer
    | with_reducible apply State.atEdge_keeps
    | with_reducible apply State.ptpArrive_keeps
    | with_reducible apply State.ptpDiscard_keeps
    | with_reducible apply State.syncComplete_keeps
    | with_reducible apply Keeps.ite
    | with_reducible apply Keeps.forUpTo
    | with_reducible apply Keeps.forEach
    | with_reducible apply Keeps.foldl
    | intro _ _ _
    | intro _ _
    | intro _
    | simp only [Keeps.upd_iff]
    | simp only [Keeps.upd_iff, Power.size, Seal.size, Net.size, Time.size, Analog.size, Dio.size, Acq.size, Can.size, Safe.size, Integ.size, Snap.size, modifyAt_length, List.length_map]
    | with_reducible assumption
    | split

theorem execPtpAnnounce_keeps (peer domain : Nat) (gm0 gm1 : Word) (utc : Int) (e : Nat) (s : State) : OutKeeps s (execPtpAnnounce peer domain gm0 gm1 utc e s) := by
  have h := Keeps.refl s
  unfold execPtpAnnounce
  try dsimp only
  repeat' first
    | with_reducible apply OutKeeps.next
    | with_reducible apply OutKeeps.answer
    | with_reducible apply State.setReg_keeps
    | with_reducible apply State.atEdge_keeps
    | with_reducible apply State.raise_keeps
    | with_reducible apply State.modTime_keeps
    | with_reducible apply State.ptpArrive_keeps
    | with_reducible apply State.ptpDiscard_keeps
    | with_reducible apply Keeps.ite
    | with_reducible apply Keeps.forUpTo
    | with_reducible apply Keeps.forEach
    | with_reducible apply Keeps.foldl
    | exact fun _ k => k
    | exact fun _ _ => rfl
    | exact fun _ k => by simpa only [Power.size, Seal.size, Net.size, Time.size, Analog.size, Dio.size, Acq.size, Can.size, Safe.size, Integ.size, Snap.size, modifyAt_length, List.length_map] using k
    | intro _ _ _
    | intro _ _
    | intro _
    | simp only [Keeps.upd_iff]
    | simp only [Keeps.upd_iff, Power.size, Seal.size, Net.size, Time.size, Analog.size, Dio.size, Acq.size, Can.size, Safe.size, Integ.size, Snap.size, modifyAt_length, List.length_map]
    | with_reducible assumption
    | split

theorem execPtpDelayResp_keeps (peer domain seq : Nat) (t4 corr : Int) (s : State) : OutKeeps s (execPtpDelayResp peer domain seq t4 corr s) := by
  have h := Keeps.refl s
  unfold execPtpDelayResp
  try dsimp only
  repeat' first
    | with_reducible apply OutKeeps.next
    | with_reducible apply OutKeeps.answer
    | with_reducible apply State.modTime_keeps
    | with_reducible apply State.ptpArrive_keeps
    | with_reducible apply State.ptpDiscard_keeps
    | with_reducible apply State.delayDone_keeps
    | with_reducible apply Keeps.ite
    | with_reducible apply Keeps.forUpTo
    | with_reducible apply Keeps.forEach
    | with_reducible apply Keeps.foldl
    | exact fun _ k => k
    | exact fun _ _ => rfl
    | exact fun _ k => by simpa only [Power.size, Seal.size, Net.size, Time.size, Analog.size, Dio.size, Acq.size, Can.size, Safe.size, Integ.size, Snap.size, modifyAt_length, List.length_map] using k
    | intro _ _ _
    | intro _ _
    | intro _
    | simp only [Keeps.upd_iff]
    | simp only [Keeps.upd_iff, Power.size, Seal.size, Net.size, Time.size, Analog.size, Dio.size, Acq.size, Can.size, Safe.size, Integ.size, Snap.size, modifyAt_length, List.length_map]
    | with_reducible assumption
    | split

theorem execPtpDelayReq_keeps (peer domain seq : Nat) (corr : Int) (raw : Nat) (s : State) : OutKeeps s (execPtpDelayReq peer domain seq corr raw s) := by
  have h := Keeps.refl s
  unfold execPtpDelayReq
  try dsimp only
  repeat' first
    | with_reducible apply OutKeeps.next
    | with_reducible apply OutKeeps.answer
    | with_reducible apply State.sendPtp_keeps
    | with_reducible apply State.ptpArrive_keeps
    | with_reducible apply State.ptpDiscard_keeps
    | with_reducible apply Keeps.ite
    | with_reducible apply Keeps.forUpTo
    | with_reducible apply Keeps.forEach
    | with_reducible apply Keeps.foldl
    | intro _ _ _
    | intro _ _
    | intro _
    | simp only [Keeps.upd_iff]
    | simp only [Keeps.upd_iff, Power.size, Seal.size, Net.size, Time.size, Analog.size, Dio.size, Acq.size, Can.size, Safe.size, Integ.size, Snap.size, modifyAt_length, List.length_map]
    | with_reducible assumption
    | split

theorem execPtpPdelay_keeps (peer domain kind seq : Nat) (ts corr : Int) (raw tx : Nat) (s : State) : OutKeeps s (execPtpPdelay peer domain kind seq ts corr raw tx s) := by
  have h := Keeps.refl s
  unfold execPtpPdelay
  try dsimp only
  repeat' first
    | with_reducible apply OutKeeps.next
    | with_reducible apply OutKeeps.answer
    | with_reducible apply State.modTime_keeps
    | with_reducible apply State.sendPtp_keeps
    | with_reducible apply State.ptpArrive_keeps
    | with_reducible apply State.ptpDiscard_keeps
    | with_reducible apply State.delayDone_keeps
    | with_reducible apply Keeps.ite
    | with_reducible apply Keeps.forUpTo
    | with_reducible apply Keeps.forEach
    | with_reducible apply Keeps.foldl
    | exact fun _ k => k
    | exact fun _ _ => rfl
    | exact fun _ k => by simpa only [Power.size, Seal.size, Net.size, Time.size, Analog.size, Dio.size, Acq.size, Can.size, Safe.size, Integ.size, Snap.size, modifyAt_length, List.length_map] using k
    | intro _ _ _
    | intro _ _
    | intro _
    | simp only [Keeps.upd_iff]
    | simp only [Keeps.upd_iff, Power.size, Seal.size, Net.size, Time.size, Analog.size, Dio.size, Acq.size, Can.size, Safe.size, Integ.size, Snap.size, modifyAt_length, List.length_map]
    | with_reducible assumption
    | split

theorem execPtpMasterSend_keeps (kind : Nat) (raws : List Nat) (s : State) : OutKeeps s (execPtpMasterSend kind raws s) := by
  have h := Keeps.refl s
  unfold execPtpMasterSend
  try dsimp only
  repeat' first
    | with_reducible apply OutKeeps.next
    | with_reducible apply OutKeeps.answer
    | with_reducible apply State.modTime_keeps
    | with_reducible apply State.sendPtp_keeps
    | with_reducible apply Keeps.ite
    | with_reducible apply Keeps.forUpTo
    | with_reducible apply Keeps.forEach
    | with_reducible apply Keeps.foldl
    | exact fun _ k => k
    | exact fun _ _ => rfl
    | exact fun _ k => by simpa only [Power.size, Seal.size, Net.size, Time.size, Analog.size, Dio.size, Acq.size, Can.size, Safe.size, Integ.size, Snap.size, modifyAt_length, List.length_map] using k
    | intro _ _ _
    | intro _ _
    | intro _
    | simp only [Keeps.upd_iff]
    | simp only [Keeps.upd_iff, Power.size, Seal.size, Net.size, Time.size, Analog.size, Dio.size, Acq.size, Can.size, Safe.size, Integ.size, Snap.size, modifyAt_length, List.length_map]
    | with_reducible assumption
    | split

theorem execPtpDiscard_keeps (s : State) : OutKeeps s (execPtpDiscard s) := by
  have h := Keeps.refl s
  unfold execPtpDiscard
  try dsimp only
  repeat' first
    | with_reducible apply OutKeeps.next
    | with_reducible apply OutKeeps.answer
    | with_reducible apply State.ptpArrive_keeps
    | with_reducible apply State.ptpDiscard_keeps
    | with_reducible apply Keeps.ite
    | with_reducible apply Keeps.forUpTo
    | with_reducible apply Keeps.forEach
    | with_reducible apply Keeps.foldl
    | intro _ _ _
    | intro _ _
    | intro _
    | simp only [Keeps.upd_iff]
    | simp only [Keeps.upd_iff, Power.size, Seal.size, Net.size, Time.size, Analog.size, Dio.size, Acq.size, Can.size, Safe.size, Integ.size, Snap.size, modifyAt_length, List.length_map]
    | with_reducible assumption
    | split

theorem execAnnounceReceiptTimeout_keeps (syncs : Bool) (s : State) : OutKeeps s (execAnnounceReceiptTimeout syncs s) := by
  have h := Keeps.refl s
  unfold execAnnounceReceiptTimeout
  try dsimp only
  repeat' first
    | with_reducible apply OutKeeps.next
    | with_reducible apply OutKeeps.answer
    | with_reducible apply State.modTime_keeps
    | with_reducible apply State.holdover_keeps
    | with_reducible apply Keeps.ite
    | with_reducible apply Keeps.forUpTo
    | with_reducible apply Keeps.forEach
    | with_reducible apply Keeps.foldl
    | exact fun _ k => k
    | exact fun _ _ => rfl
    | exact fun _ k => by simpa only [Power.size, Seal.size, Net.size, Time.size, Analog.size, Dio.size, Acq.size, Can.size, Safe.size, Integ.size, Snap.size, modifyAt_length, List.length_map] using k
    | intro _ _ _
    | intro _ _
    | intro _
    | simp only [Keeps.upd_iff]
    | simp only [Keeps.upd_iff, Power.size, Seal.size, Net.size, Time.size, Analog.size, Dio.size, Acq.size, Can.size, Safe.size, Integ.size, Snap.size, modifyAt_length, List.length_map]
    | with_reducible assumption
    | split

theorem execTimeMark_keeps (e : Nat) (s : State) : OutKeeps s (execTimeMark e s) := by
  have h := Keeps.refl s
  unfold execTimeMark
  try dsimp only
  repeat' first
    | with_reducible apply OutKeeps.next
    | with_reducible apply OutKeeps.answer
    | with_reducible apply State.atEdge_keeps
    | with_reducible apply State.timeMark_keeps
    | with_reducible apply Keeps.ite
    | with_reducible apply Keeps.forUpTo
    | with_reducible apply Keeps.forEach
    | with_reducible apply Keeps.foldl
    | intro _ _ _
    | intro _ _
    | intro _
    | simp only [Keeps.upd_iff]
    | simp only [Keeps.upd_iff, Power.size, Seal.size, Net.size, Time.size, Analog.size, Dio.size, Acq.size, Can.size, Safe.size, Integ.size, Snap.size, modifyAt_length, List.length_map]
    | with_reducible assumption
    | split

theorem execTpoArm_keeps (n : Nat) (w : Word) (s : State) : OutKeeps s (execTpoArm n w s) := by
  have h := Keeps.refl s
  unfold execTpoArm
  try dsimp only
  repeat' first
    | with_reducible apply OutKeeps.next
    | with_reducible apply OutKeeps.answer
    | with_reducible apply answer_keeps
    | with_reducible apply State.writeTpoCtrl_keeps
    | with_reducible apply Keeps.ite
    | with_reducible apply Keeps.forUpTo
    | with_reducible apply Keeps.forEach
    | with_reducible apply Keeps.foldl
    | intro _ _ _
    | intro _ _
    | intro _
    | simp only [Keeps.upd_iff]
    | simp only [Keeps.upd_iff, Power.size, Seal.size, Net.size, Time.size, Analog.size, Dio.size, Acq.size, Can.size, Safe.size, Integ.size, Snap.size, modifyAt_length, List.length_map]
    | with_reducible assumption
    | split

theorem execTpoPulse_keeps (n e : Nat) (s : State) : OutKeeps s (execTpoPulse n e s) := by
  have h := Keeps.refl s
  unfold execTpoPulse
  try dsimp only
  repeat' first
    | with_reducible apply OutKeeps.next
    | with_reducible apply OutKeeps.answer
    | with_reducible apply answer_keeps
    | with_reducible apply State.atEdge_keeps
    | with_reducible apply State.tpoPulse_keeps
    | with_reducible apply Keeps.ite
    | with_reducible apply Keeps.forUpTo
    | with_reducible apply Keeps.forEach
    | with_reducible apply Keeps.foldl
    | intro _ _ _
    | intro _ _
    | intro _
    | simp only [Keeps.upd_iff]
    | simp only [Keeps.upd_iff, Power.size, Seal.size, Net.size, Time.size, Analog.size, Dio.size, Acq.size, Can.size, Safe.size, Integ.size, Snap.size, modifyAt_length, List.length_map]
    | with_reducible assumption
    | split

theorem execTpoPulseEnd_keeps (n e : Nat) (s : State) : OutKeeps s (execTpoPulseEnd n e s) := by
  have h := Keeps.refl s
  unfold execTpoPulseEnd
  try dsimp only
  repeat' first
    | with_reducible apply OutKeeps.next
    | with_reducible apply OutKeeps.answer
    | with_reducible apply answer_keeps
    | with_reducible apply State.atEdge_keeps
    | with_reducible apply State.tpoEnd_keeps
    | with_reducible apply Keeps.ite
    | with_reducible apply Keeps.forUpTo
    | with_reducible apply Keeps.forEach
    | with_reducible apply Keeps.foldl
    | intro _ _ _
    | intro _ _
    | intro _
    | simp only [Keeps.upd_iff]
    | simp only [Keeps.upd_iff, Power.size, Seal.size, Net.size, Time.size, Analog.size, Dio.size, Acq.size, Can.size, Safe.size, Integ.size, Snap.size, modifyAt_length, List.length_map]
    | with_reducible assumption
    | split

theorem execTciEdge_keeps (n : Nat) (rising short : Bool) (e : Nat) (s : State) : OutKeeps s (execTciEdge n rising short e s) := by
  have h := Keeps.refl s
  unfold execTciEdge
  try dsimp only
  repeat' first
    | with_reducible apply OutKeeps.next
    | with_reducible apply OutKeeps.answer
    | with_reducible apply answer_keeps
    | with_reducible apply State.atEdge_keeps
    | with_reducible apply State.useFree_keeps
    | with_reducible apply State.tciEdge_keeps
    | with_reducible apply Keeps.ite
    | with_reducible apply Keeps.forUpTo
    | with_reducible apply Keeps.forEach
    | with_reducible apply Keeps.foldl
    | intro _ _ _
    | intro _ _
    | intro _
    | simp only [Keeps.upd_iff]
    | simp only [Keeps.upd_iff, Power.size, Seal.size, Net.size, Time.size, Analog.size, Dio.size, Acq.size, Can.size, Safe.size, Integ.size, Snap.size, modifyAt_length, List.length_map]
    | with_reducible assumption
    | split

theorem execStartTimerFire_keeps (n : Nat) (s : State) : OutKeeps s (execStartTimerFire n s) := by
  have h := Keeps.refl s
  unfold execStartTimerFire
  try dsimp only
  repeat' first
    | with_reducible apply OutKeeps.next
    | with_reducible apply OutKeeps.answer
    | with_reducible apply State.timerFire_keeps
    | with_reducible apply answer_keeps
    | with_reducible apply Keeps.ite
    | with_reducible apply Keeps.forUpTo
    | with_reducible apply Keeps.forEach
    | with_reducible apply Keeps.foldl
    | intro _ _ _
    | intro _ _
    | intro _
    | simp only [Keeps.upd_iff]
    | simp only [Keeps.upd_iff, Power.size, Seal.size, Net.size, Time.size, Analog.size, Dio.size, Acq.size, Can.size, Safe.size, Integ.size, Snap.size, modifyAt_length, List.length_map]
    | with_reducible assumption
    | split

theorem execAdcStart_keeps (c lag e : Nat) (s : State) : OutKeeps s (execAdcStart c lag e s) := by
  have h := Keeps.refl s
  unfold execAdcStart
  try dsimp only
  repeat' first
    | with_reducible apply OutKeeps.next
    | with_reducible apply OutKeeps.answer
    | with_reducible apply State.adcStart_keeps
    | with_reducible apply State.adcDefer_keeps
    | with_reducible apply answer_keeps
    | with_reducible apply State.atEdge_keeps
    | with_reducible apply Keeps.ite
    | with_reducible apply Keeps.forUpTo
    | with_reducible apply Keeps.forEach
    | with_reducible apply Keeps.foldl
    | intro _ _ _
    | intro _ _
    | intro _
    | simp only [Keeps.upd_iff]
    | simp only [Keeps.upd_iff, Power.size, Seal.size, Net.size, Time.size, Analog.size, Dio.size, Acq.size, Can.size, Safe.size, Integ.size, Snap.size, modifyAt_length, List.length_map]
    | with_reducible assumption
    | split

theorem execAdcConversionDone_keeps (c : Nat) (code : Int) (e : Nat) (s : State) : OutKeeps s (execAdcConversionDone c code e s) := by
  have h := Keeps.refl s
  unfold execAdcConversionDone
  try dsimp only
  repeat' first
    | with_reducible apply OutKeeps.next
    | with_reducible apply OutKeeps.answer
    | with_reducible apply State.adcDone_keeps
    | with_reducible apply answer_keeps
    | with_reducible apply State.atEdge_keeps
    | with_reducible apply Keeps.ite
    | with_reducible apply Keeps.forUpTo
    | with_reducible apply Keeps.forEach
    | with_reducible apply Keeps.foldl
    | intro _ _ _
    | intro _ _
    | intro _
    | simp only [Keeps.upd_iff]
    | simp only [Keeps.upd_iff, Power.size, Seal.size, Net.size, Time.size, Analog.size, Dio.size, Acq.size, Can.size, Safe.size, Integ.size, Snap.size, modifyAt_length, List.length_map]
    | with_reducible assumption
    | split

theorem execAdcSelfTest_keeps (c : Nat) (ref zero : Int) (s : State) : OutKeeps s (execAdcSelfTest c ref zero s) := by
  have h := Keeps.refl s
  unfold execAdcSelfTest
  try dsimp only
  repeat' first
    | with_reducible apply OutKeeps.next
    | with_reducible apply OutKeeps.answer
    | with_reducible apply State.adcSelfTest_keeps
    | with_reducible apply answer_keeps
    | with_reducible apply Keeps.ite
    | with_reducible apply Keeps.forUpTo
    | with_reducible apply Keeps.forEach
    | with_reducible apply Keeps.foldl
    | intro _ _ _
    | intro _ _
    | intro _
    | simp only [Keeps.upd_iff]
    | simp only [Keeps.upd_iff, Power.size, Seal.size, Net.size, Time.size, Analog.size, Dio.size, Acq.size, Can.size, Safe.size, Integ.size, Snap.size, modifyAt_length, List.length_map]
    | with_reducible assumption
    | split

theorem execDioInputTransition_keeps (n : Nat) (v short : Bool) (lag e : Nat) (s : State) : OutKeeps s (execDioInputTransition n v short lag e s) := by
  have h := Keeps.refl s
  unfold execDioInputTransition
  try dsimp only
  repeat' first
    | with_reducible apply OutKeeps.next
    | with_reducible apply OutKeeps.answer
    | with_reducible apply State.dioSeen_keeps
    | with_reducible apply State.flushChatter_keeps
    | with_reducible apply answer_keeps
    | with_reducible apply State.atEdge_keeps
    | with_reducible apply Keeps.ite
    | with_reducible apply Keeps.forUpTo
    | with_reducible apply Keeps.forEach
    | with_reducible apply Keeps.foldl
    | intro _ _ _
    | intro _ _
    | intro _
    | simp only [Keeps.upd_iff]
    | simp only [Keeps.upd_iff, Power.size, Seal.size, Net.size, Time.size, Analog.size, Dio.size, Acq.size, Can.size, Safe.size, Integ.size, Snap.size, modifyAt_length, List.length_map]
    | with_reducible assumption
    | split

theorem execDebounceAccept_keeps (n lag e : Nat) (s : State) : OutKeeps s (execDebounceAccept n lag e s) := by
  have h := Keeps.refl s
  unfold execDebounceAccept
  try dsimp only
  repeat' first
    | with_reducible apply OutKeeps.next
    | with_reducible apply OutKeeps.answer
    | with_reducible apply State.dioAccept_keeps
    | with_reducible apply answer_keeps
    | with_reducible apply State.atEdge_keeps
    | with_reducible apply Keeps.ite
    | with_reducible apply Keeps.forUpTo
    | with_reducible apply Keeps.forEach
    | with_reducible apply Keeps.foldl
    | intro _ _ _
    | intro _ _
    | intro _
    | simp only [Keeps.upd_iff]
    | simp only [Keeps.upd_iff, Power.size, Seal.size, Net.size, Time.size, Analog.size, Dio.size, Acq.size, Can.size, Safe.size, Integ.size, Snap.size, modifyAt_length, List.length_map]
    | with_reducible assumption
    | split

theorem execPeriodEdge_keeps (n : Nat) (v short : Bool) (lag e : Nat) (s : State) : OutKeeps s (execPeriodEdge n v short lag e s) := by
  have h := Keeps.refl s
  unfold execPeriodEdge
  try dsimp only
  repeat' first
    | with_reducible apply OutKeeps.next
    | with_reducible apply OutKeeps.answer
    | with_reducible apply State.dioSeen_keeps
    | with_reducible apply answer_keeps
    | with_reducible apply State.atEdge_keeps
    | with_reducible apply Keeps.ite
    | with_reducible apply Keeps.forUpTo
    | with_reducible apply Keeps.forEach
    | with_reducible apply Keeps.foldl
    | intro _ _ _
    | intro _ _
    | intro _
    | simp only [Keeps.upd_iff]
    | simp only [Keeps.upd_iff, Power.size, Seal.size, Net.size, Time.size, Analog.size, Dio.size, Acq.size, Can.size, Safe.size, Integ.size, Snap.size, modifyAt_length, List.length_map]
    | with_reducible assumption
    | split

theorem execPeriodTimeout_keeps (n lag e : Nat) (s : State) : OutKeeps s (execPeriodTimeout n lag e s) := by
  have h := Keeps.refl s
  unfold execPeriodTimeout
  try dsimp only
  repeat' first
    | with_reducible apply OutKeeps.next
    | with_reducible apply OutKeeps.answer
    | with_reducible apply State.periodTimeout_keeps
    | with_reducible apply answer_keeps
    | with_reducible apply State.atEdge_keeps
    | with_reducible apply Keeps.ite
    | with_reducible apply Keeps.forUpTo
    | with_reducible apply Keeps.forEach
    | with_reducible apply Keeps.foldl
    | intro _ _ _
    | intro _ _
    | intro _
    | simp only [Keeps.upd_iff]
    | simp only [Keeps.upd_iff, Power.size, Seal.size, Net.size, Time.size, Analog.size, Dio.size, Acq.size, Can.size, Safe.size, Integ.size, Snap.size, modifyAt_length, List.length_map]
    | with_reducible assumption
    | split

theorem execCaptureEdge_keeps (n : Nat) (v short : Bool) (lag e : Nat) (s : State) : OutKeeps s (execCaptureEdge n v short lag e s) := by
  have h := Keeps.refl s
  unfold execCaptureEdge
  try dsimp only
  repeat' first
    | with_reducible apply OutKeeps.next
    | with_reducible apply OutKeeps.answer
    | with_reducible apply State.dioSeen_keeps
    | with_reducible apply answer_keeps
    | with_reducible apply State.atEdge_keeps
    | with_reducible apply Keeps.ite
    | with_reducible apply Keeps.forUpTo
    | with_reducible apply Keeps.forEach
    | with_reducible apply Keeps.foldl
    | intro _ _ _
    | intro _ _
    | intro _
    | simp only [Keeps.upd_iff]
    | simp only [Keeps.upd_iff, Power.size, Seal.size, Net.size, Time.size, Analog.size, Dio.size, Acq.size, Can.size, Safe.size, Integ.size, Snap.size, modifyAt_length, List.length_map]
    | with_reducible assumption
    | split

theorem execEncoderTransition_keeps (m : Nat) (a b : Bool) (e : Nat) (s : State) : OutKeeps s (execEncoderTransition m a b e s) := by
  have h := Keeps.refl s
  unfold execEncoderTransition
  try dsimp only
  repeat' first
    | with_reducible apply OutKeeps.next
    | with_reducible apply OutKeeps.answer
    | with_reducible apply State.encAB_keeps
    | with_reducible apply answer_keeps
    | with_reducible apply State.atEdge_keeps
    | with_reducible apply Keeps.ite
    | with_reducible apply Keeps.forUpTo
    | with_reducible apply Keeps.forEach
    | with_reducible apply Keeps.foldl
    | intro _ _ _
    | intro _ _
    | intro _
    | simp only [Keeps.upd_iff]
    | simp only [Keeps.upd_iff, Power.size, Seal.size, Net.size, Time.size, Analog.size, Dio.size, Acq.size, Can.size, Safe.size, Integ.size, Snap.size, modifyAt_length, List.length_map]
    | with_reducible assumption
    | split

theorem execEncoderIndex_keeps (m : Nat) (z : Bool) (e : Nat) (s : State) : OutKeeps s (execEncoderIndex m z e s) := by
  have h := Keeps.refl s
  unfold execEncoderIndex
  try dsimp only
  repeat' first
    | with_reducible apply OutKeeps.next
    | with_reducible apply OutKeeps.answer
    | with_reducible apply State.encZ_keeps
    | with_reducible apply answer_keeps
    | with_reducible apply State.atEdge_keeps
    | with_reducible apply Keeps.ite
    | with_reducible apply Keeps.forUpTo
    | with_reducible apply Keeps.forEach
    | with_reducible apply Keeps.foldl
    | intro _ _ _
    | intro _ _
    | intro _
    | simp only [Keeps.upd_iff]
    | simp only [Keeps.upd_iff, Power.size, Seal.size, Net.size, Time.size, Analog.size, Dio.size, Acq.size, Can.size, Safe.size, Integ.size, Snap.size, modifyAt_length, List.length_map]
    | with_reducible assumption
    | split

theorem execPwmPeriodStart_keeps (n e : Nat) (s : State) : OutKeeps s (execPwmPeriodStart n e s) := by
  have h := Keeps.refl s
  unfold execPwmPeriodStart
  try dsimp only
  repeat' first
    | with_reducible apply OutKeeps.next
    | with_reducible apply OutKeeps.answer
    | with_reducible apply State.pwmPeriodStart_keeps
    | with_reducible apply answer_keeps
    | with_reducible apply State.atEdge_keeps
    | with_reducible apply Keeps.ite
    | with_reducible apply Keeps.forUpTo
    | with_reducible apply Keeps.forEach
    | with_reducible apply Keeps.foldl
    | intro _ _ _
    | intro _ _
    | intro _
    | simp only [Keeps.upd_iff]
    | simp only [Keeps.upd_iff, Power.size, Seal.size, Net.size, Time.size, Analog.size, Dio.size, Acq.size, Can.size, Safe.size, Integ.size, Snap.size, modifyAt_length, List.length_map]
    | with_reducible assumption
    | split

theorem execPwmEdge_keeps (n kind e : Nat) (s : State) : OutKeeps s (execPwmEdge n kind e s) := by
  have h := Keeps.refl s
  unfold execPwmEdge
  try dsimp only
  repeat' first
    | with_reducible apply OutKeeps.next
    | with_reducible apply OutKeeps.answer
    | with_reducible apply State.pwmEdge_keeps
    | with_reducible apply answer_keeps
    | with_reducible apply State.atEdge_keeps
    | with_reducible apply Keeps.ite
    | with_reducible apply Keeps.forUpTo
    | with_reducible apply Keeps.forEach
    | with_reducible apply Keeps.foldl
    | intro _ _ _
    | intro _ _
    | intro _
    | simp only [Keeps.upd_iff]
    | simp only [Keeps.upd_iff, Power.size, Seal.size, Net.size, Time.size, Analog.size, Dio.size, Acq.size, Can.size, Safe.size, Integ.size, Snap.size, modifyAt_length, List.length_map]
    | with_reducible assumption
    | split

theorem execPulseRise_keeps (n e : Nat) (s : State) : OutKeeps s (execPulseRise n e s) := by
  have h := Keeps.refl s
  unfold execPulseRise
  try dsimp only
  repeat' first
    | with_reducible apply OutKeeps.next
    | with_reducible apply OutKeeps.answer
    | with_reducible apply State.pulseRise_keeps
    | with_reducible apply answer_keeps
    | with_reducible apply State.atEdge_keeps
    | with_reducible apply Keeps.ite
    | with_reducible apply Keeps.forUpTo
    | with_reducible apply Keeps.forEach
    | with_reducible apply Keeps.foldl
    | intro _ _ _
    | intro _ _
    | intro _
    | simp only [Keeps.upd_iff]
    | simp only [Keeps.upd_iff, Power.size, Seal.size, Net.size, Time.size, Analog.size, Dio.size, Acq.size, Can.size, Safe.size, Integ.size, Snap.size, modifyAt_length, List.length_map]
    | with_reducible assumption
    | split

theorem execPulseFall_keeps (n e : Nat) (s : State) : OutKeeps s (execPulseFall n e s) := by
  have h := Keeps.refl s
  unfold execPulseFall
  try dsimp only
  repeat' first
    | with_reducible apply OutKeeps.next
    | with_reducible apply OutKeeps.answer
    | with_reducible apply State.pulseFall_keeps
    | with_reducible apply answer_keeps
    | with_reducible apply State.atEdge_keeps
    | with_reducible apply Keeps.ite
    | with_reducible apply Keeps.forUpTo
    | with_reducible apply Keeps.forEach
    | with_reducible apply Keeps.foldl
    | intro _ _ _
    | intro _ _
    | intro _
    | simp only [Keeps.upd_iff]
    | simp only [Keeps.upd_iff, Power.size, Seal.size, Net.size, Time.size, Analog.size, Dio.size, Acq.size, Can.size, Safe.size, Integ.size, Snap.size, modifyAt_length, List.length_map]
    | with_reducible assumption
    | split

theorem execIlkEdge_keeps (j : Nat) (v short : Bool) (e : Nat) (s : State) : OutKeeps s (execIlkEdge j v short e s) := by
  have h := Keeps.refl s
  unfold execIlkEdge
  try dsimp only
  repeat' first
    | with_reducible apply OutKeeps.next
    | with_reducible apply OutKeeps.answer
    | with_reducible apply State.ilkEdge_keeps
    | with_reducible apply answer_keeps
    | with_reducible apply State.atEdge_keeps
    | with_reducible apply State.useFree_keeps
    | with_reducible apply Keeps.ite
    | with_reducible apply Keeps.forUpTo
    | with_reducible apply Keeps.forEach
    | with_reducible apply Keeps.foldl
    | intro _ _ _
    | intro _ _
    | intro _
    | simp only [Keeps.upd_iff]
    | simp only [Keeps.upd_iff, Power.size, Seal.size, Net.size, Time.size, Analog.size, Dio.size, Acq.size, Can.size, Safe.size, Integ.size, Snap.size, modifyAt_length, List.length_map]
    | with_reducible assumption
    | split

theorem execIlkClr_keeps (w : Word) (s : State) : OutKeeps s (execIlkClr w s) := by
  have h := Keeps.refl s
  unfold execIlkClr
  try dsimp only
  repeat' first
    | with_reducible apply OutKeeps.next
    | with_reducible apply OutKeeps.answer
    | with_reducible apply State.ilkClear_keeps
    | with_reducible apply Keeps.ite
    | with_reducible apply Keeps.forUpTo
    | with_reducible apply Keeps.forEach
    | with_reducible apply Keeps.foldl
    | intro _ _ _
    | intro _ _
    | intro _
    | simp only [Keeps.upd_iff]
    | simp only [Keeps.upd_iff, Power.size, Seal.size, Net.size, Time.size, Analog.size, Dio.size, Acq.size, Can.size, Safe.size, Integ.size, Snap.size, modifyAt_length, List.length_map]
    | with_reducible assumption
    | split

theorem execServoPeriodStart_keeps (d : Nat) (s : State) : OutKeeps s (execServoPeriodStart d s) := by
  have h := Keeps.refl s
  unfold execServoPeriodStart
  try dsimp only
  repeat' first
    | with_reducible apply OutKeeps.next
    | with_reducible apply OutKeeps.answer
    | with_reducible apply answer_keeps
    | with_reducible apply State.servoStart_keeps
    | with_reducible apply Keeps.ite
    | with_reducible apply Keeps.forUpTo
    | with_reducible apply Keeps.forEach
    | with_reducible apply Keeps.foldl
    | intro _ _ _
    | intro _ _
    | intro _
    | simp only [Keeps.upd_iff]
    | simp only [Keeps.upd_iff, Power.size, Seal.size, Net.size, Time.size, Analog.size, Dio.size, Acq.size, Can.size, Safe.size, Integ.size, Snap.size, modifyAt_length, List.length_map]
    | with_reducible assumption
    | split

theorem execStrideReply_keeps (d sl : Nat) (b : List Byte) (len lag wait e : Nat) (s : State) : OutKeeps s (execStrideReply d sl b len lag wait e s) := by
  have h := Keeps.refl s
  unfold execStrideReply
  try dsimp only
  repeat' first
    | with_reducible apply OutKeeps.next
    | with_reducible apply OutKeeps.answer
    | with_reducible apply answer_keeps
    | with_reducible apply State.atEdge_keeps
    | with_reducible apply State.waited_keeps
    | with_reducible apply State.strideReply_keeps
    | with_reducible apply Keeps.ite
    | with_reducible apply Keeps.forUpTo
    | with_reducible apply Keeps.forEach
    | with_reducible apply Keeps.foldl
    | intro _ _ _
    | intro _ _
    | intro _
    | simp only [Keeps.upd_iff]
    | simp only [Keeps.upd_iff, Power.size, Seal.size, Net.size, Time.size, Analog.size, Dio.size, Acq.size, Can.size, Safe.size, Integ.size, Snap.size, modifyAt_length, List.length_map]
    | with_reducible assumption
    | split

theorem execStrideAnnounce_keeps (d : Nat) (b : List Byte) (len e : Nat) (s : State) : OutKeeps s (execStrideAnnounce d b len e s) := by
  have h := Keeps.refl s
  unfold execStrideAnnounce
  try dsimp only
  repeat' first
    | with_reducible apply OutKeeps.next
    | with_reducible apply OutKeeps.answer
    | with_reducible apply answer_keeps
    | with_reducible apply State.atEdge_keeps
    | with_reducible apply State.strideAnnounce_keeps
    | with_reducible apply Keeps.ite
    | with_reducible apply Keeps.forUpTo
    | with_reducible apply Keeps.forEach
    | with_reducible apply Keeps.foldl
    | intro _ _ _
    | intro _ _
    | intro _
    | simp only [Keeps.upd_iff]
    | simp only [Keeps.upd_iff, Power.size, Seal.size, Net.size, Time.size, Analog.size, Dio.size, Acq.size, Can.size, Safe.size, Integ.size, Snap.size, modifyAt_length, List.length_map]
    | with_reducible assumption
    | split

theorem execStrideFrameDiscard_keeps (d len e : Nat) (s : State) : OutKeeps s (execStrideFrameDiscard d len e s) := by
  have h := Keeps.refl s
  unfold execStrideFrameDiscard
  try dsimp only
  repeat' first
    | with_reducible apply OutKeeps.next
    | with_reducible apply OutKeeps.answer
    | with_reducible apply answer_keeps
    | with_reducible apply State.atEdge_keeps
    | with_reducible apply State.strideDiscard_keeps
    | with_reducible apply Keeps.ite
    | with_reducible apply Keeps.forUpTo
    | with_reducible apply Keeps.forEach
    | with_reducible apply Keeps.foldl
    | intro _ _ _
    | intro _ _
    | intro _
    | simp only [Keeps.upd_iff]
    | simp only [Keeps.upd_iff, Power.size, Seal.size, Net.size, Time.size, Analog.size, Dio.size, Acq.size, Can.size, Safe.size, Integ.size, Snap.size, modifyAt_length, List.length_map]
    | with_reducible assumption
    | split

theorem execReplySlotClose_keeps (d sl e : Nat) (s : State) : OutKeeps s (execReplySlotClose d sl e s) := by
  have h := Keeps.refl s
  unfold execReplySlotClose
  try dsimp only
  repeat' first
    | with_reducible apply OutKeeps.next
    | with_reducible apply OutKeeps.answer
    | with_reducible apply answer_keeps
    | with_reducible apply State.atEdge_keeps
    | with_reducible apply State.slotClose_keeps
    | with_reducible apply Keeps.ite
    | with_reducible apply Keeps.forUpTo
    | with_reducible apply Keeps.forEach
    | with_reducible apply Keeps.foldl
    | intro _ _ _
    | intro _ _
    | intro _
    | simp only [Keeps.upd_iff]
    | simp only [Keeps.upd_iff, Power.size, Seal.size, Net.size, Time.size, Analog.size, Dio.size, Acq.size, Can.size, Safe.size, Integ.size, Snap.size, modifyAt_length, List.length_map]
    | with_reducible assumption
    | split

theorem execCanFrameReceive_keeps (c : Nat) (f : CanFrame) (lag wait e : Nat) (s : State) : OutKeeps s (execCanFrameReceive c f lag wait e s) := by
  have h := Keeps.refl s
  unfold execCanFrameReceive
  try dsimp only
  repeat' first
    | with_reducible apply OutKeeps.next
    | with_reducible apply OutKeeps.answer
    | with_reducible apply State.canFrame_keeps
    | with_reducible apply answer_keeps
    | with_reducible apply State.atEdge_keeps
    | with_reducible apply State.waited_keeps
    | with_reducible apply Keeps.ite
    | with_reducible apply Keeps.forUpTo
    | with_reducible apply Keeps.forEach
    | with_reducible apply Keeps.foldl
    | intro _ _ _
    | intro _ _
    | intro _
    | simp only [Keeps.upd_iff]
    | simp only [Keeps.upd_iff, Power.size, Seal.size, Net.size, Time.size, Analog.size, Dio.size, Acq.size, Can.size, Safe.size, Integ.size, Snap.size, modifyAt_length, List.length_map]
    | with_reducible assumption
    | split

theorem execCanRxTimeout_keeps (c o : Nat) (s : State) : OutKeeps s (execCanRxTimeout c o s) := by
  have h := Keeps.refl s
  unfold execCanRxTimeout
  try dsimp only
  repeat' first
    | with_reducible apply OutKeeps.next
    | with_reducible apply OutKeeps.answer
    | with_reducible apply State.canTimeout_keeps
    | with_reducible apply answer_keeps
    | with_reducible apply Keeps.ite
    | with_reducible apply Keeps.forUpTo
    | with_reducible apply Keeps.forEach
    | with_reducible apply Keeps.foldl
    | intro _ _ _
    | intro _ _
    | intro _
    | simp only [Keeps.upd_iff]
    | simp only [Keeps.upd_iff, Power.size, Seal.size, Net.size, Time.size, Analog.size, Dio.size, Acq.size, Can.size, Safe.size, Integ.size, Snap.size, modifyAt_length, List.length_map]
    | with_reducible assumption
    | split

theorem execCanFrameSent_keeps (c tdcv len e : Nat) (s : State) : OutKeeps s (execCanFrameSent c tdcv len e s) := by
  have h := Keeps.refl s
  unfold execCanFrameSent
  try dsimp only
  repeat' first
    | with_reducible apply OutKeeps.next
    | with_reducible apply OutKeeps.answer
    | with_reducible apply State.canSent_keeps
    | with_reducible apply answer_keeps
    | with_reducible apply State.atEdge_keeps
    | with_reducible apply Keeps.ite
    | with_reducible apply Keeps.forUpTo
    | with_reducible apply Keeps.forEach
    | with_reducible apply Keeps.foldl
    | intro _ _ _
    | intro _ _
    | intro _
    | simp only [Keeps.upd_iff]
    | simp only [Keeps.upd_iff, Power.size, Seal.size, Net.size, Time.size, Analog.size, Dio.size, Acq.size, Can.size, Safe.size, Integ.size, Snap.size, modifyAt_length, List.length_map]
    | with_reducible assumption
    | split

theorem execCanAckError_keeps (c : Nat) (dominant : Bool) (tdcv len e : Nat) (s : State) : OutKeeps s (execCanAckError c dominant tdcv len e s) := by
  have h := Keeps.refl s
  unfold execCanAckError
  try dsimp only
  repeat' first
    | with_reducible apply OutKeeps.next
    | with_reducible apply OutKeeps.answer
    | with_reducible apply State.canAckError_keeps
    | with_reducible apply answer_keeps
    | with_reducible apply State.atEdge_keeps
    | with_reducible apply Keeps.ite
    | with_reducible apply Keeps.forUpTo
    | with_reducible apply Keeps.forEach
    | with_reducible apply Keeps.foldl
    | intro _ _ _
    | intro _ _
    | intro _
    | simp only [Keeps.upd_iff]
    | simp only [Keeps.upd_iff, Power.size, Seal.size, Net.size, Time.size, Analog.size, Dio.size, Acq.size, Can.size, Safe.size, Integ.size, Snap.size, modifyAt_length, List.length_map]
    | with_reducible assumption
    | split

theorem execCanBusError_keeps (c lec : Nat) (tx : Bool) (extra : Nat) (tdcv : Option Nat) (len e : Nat) (s : State) : OutKeeps s (execCanBusError c lec tx extra tdcv len e s) := by
  have h := Keeps.refl s
  unfold execCanBusError
  try dsimp only
  repeat' first
    | with_reducible apply OutKeeps.next
    | with_reducible apply OutKeeps.answer
    | with_reducible apply State.canBusError_keeps
    | with_reducible apply answer_keeps
    | with_reducible apply State.atEdge_keeps
    | with_reducible apply Keeps.ite
    | with_reducible apply Keeps.forUpTo
    | with_reducible apply Keeps.forEach
    | with_reducible apply Keeps.foldl
    | intro _ _ _
    | intro _ _
    | intro _
    | simp only [Keeps.upd_iff]
    | simp only [Keeps.upd_iff, Power.size, Seal.size, Net.size, Time.size, Analog.size, Dio.size, Acq.size, Can.size, Safe.size, Integ.size, Snap.size, modifyAt_length, List.length_map]
    | with_reducible assumption
    | split

theorem execCanArbitrationLost_keeps (c len e : Nat) (s : State) : OutKeeps s (execCanArbitrationLost c len e s) := by
  have h := Keeps.refl s
  unfold execCanArbitrationLost
  try dsimp only
  repeat' first
    | with_reducible apply OutKeeps.next
    | with_reducible apply OutKeeps.answer
    | with_reducible apply State.canArbLost_keeps
    | with_reducible apply answer_keeps
    | with_reducible apply State.atEdge_keeps
    | with_reducible apply Keeps.ite
    | with_reducible apply Keeps.forUpTo
    | with_reducible apply Keeps.forEach
    | with_reducible apply Keeps.foldl
    | intro _ _ _
    | intro _ _
    | intro _
    | simp only [Keeps.upd_iff]
    | simp only [Keeps.upd_iff, Power.size, Seal.size, Net.size, Time.size, Analog.size, Dio.size, Acq.size, Can.size, Safe.size, Integ.size, Snap.size, modifyAt_length, List.length_map]
    | with_reducible assumption
    | split

theorem execBusOffRecovery_keeps (c e : Nat) (s : State) : OutKeeps s (execBusOffRecovery c e s) := by
  have h := Keeps.refl s
  unfold execBusOffRecovery
  try dsimp only
  repeat' first
    | with_reducible apply OutKeeps.next
    | with_reducible apply OutKeeps.answer
    | with_reducible apply State.canRecover_keeps
    | with_reducible apply answer_keeps
    | with_reducible apply State.atEdge_keeps
    | with_reducible apply Keeps.ite
    | with_reducible apply Keeps.forUpTo
    | with_reducible apply Keeps.forEach
    | with_reducible apply Keeps.foldl
    | intro _ _ _
    | intro _ _
    | intro _
    | simp only [Keeps.upd_iff]
    | simp only [Keeps.upd_iff, Power.size, Seal.size, Net.size, Time.size, Analog.size, Dio.size, Acq.size, Can.size, Safe.size, Integ.size, Snap.size, modifyAt_length, List.length_map]
    | with_reducible assumption
    | split

theorem execSeptedAnnounce_keeps (c n : Nat) (b : List Byte) (e : Nat) (s : State) : OutKeeps s (execSeptedAnnounce c n b e s) := by
  have h := Keeps.refl s
  unfold execSeptedAnnounce
  try dsimp only
  repeat' first
    | with_reducible apply OutKeeps.next
    | with_reducible apply OutKeeps.answer
    | with_reducible apply State.canFrame_keeps
    | with_reducible apply answer_keeps
    | with_reducible apply State.atEdge_keeps
    | with_reducible apply Keeps.ite
    | with_reducible apply Keeps.forUpTo
    | with_reducible apply Keeps.forEach
    | with_reducible apply Keeps.foldl
    | intro _ _ _
    | intro _ _
    | intro _
    | simp only [Keeps.upd_iff]
    | simp only [Keeps.upd_iff, Power.size, Seal.size, Net.size, Time.size, Analog.size, Dio.size, Acq.size, Can.size, Safe.size, Integ.size, Snap.size, modifyAt_length, List.length_map]
    | with_reducible assumption
    | split

theorem execSeptedHeartbeat_keeps (c n : Nat) (b : List Byte) (e : Nat) (s : State) : OutKeeps s (execSeptedHeartbeat c n b e s) := by
  have h := Keeps.refl s
  unfold execSeptedHeartbeat
  try dsimp only
  repeat' first
    | with_reducible apply OutKeeps.next
    | with_reducible apply OutKeeps.answer
    | with_reducible apply State.canFrame_keeps
    | with_reducible apply answer_keeps
    | with_reducible apply State.atEdge_keeps
    | with_reducible apply Keeps.ite
    | with_reducible apply Keeps.forUpTo
    | with_reducible apply Keeps.forEach
    | with_reducible apply Keeps.foldl
    | intro _ _ _
    | intro _ _
    | intro _
    | simp only [Keeps.upd_iff]
    | simp only [Keeps.upd_iff, Power.size, Seal.size, Net.size, Time.size, Analog.size, Dio.size, Acq.size, Can.size, Safe.size, Integ.size, Snap.size, modifyAt_length, List.length_map]
    | with_reducible assumption
    | split

theorem execSeptedLeave_keeps (c n : Nat) (b : List Byte) (e : Nat) (s : State) : OutKeeps s (execSeptedLeave c n b e s) := by
  have h := Keeps.refl s
  unfold execSeptedLeave
  try dsimp only
  repeat' first
    | with_reducible apply OutKeeps.next
    | with_reducible apply OutKeeps.answer
    | with_reducible apply State.canFrame_keeps
    | with_reducible apply answer_keeps
    | with_reducible apply State.atEdge_keeps
    | with_reducible apply Keeps.ite
    | with_reducible apply Keeps.forUpTo
    | with_reducible apply Keeps.forEach
    | with_reducible apply Keeps.foldl
    | intro _ _ _
    | intro _ _
    | intro _
    | simp only [Keeps.upd_iff]
    | simp only [Keeps.upd_iff, Power.size, Seal.size, Net.size, Time.size, Analog.size, Dio.size, Acq.size, Can.size, Safe.size, Integ.size, Snap.size, modifyAt_length, List.length_map]
    | with_reducible assumption
    | split

theorem execNodeAbsenceTimeout_keeps (c en e : Nat) (s : State) : OutKeeps s (execNodeAbsenceTimeout c en e s) := by
  have h := Keeps.refl s
  unfold execNodeAbsenceTimeout
  try dsimp only
  repeat' first
    | with_reducible apply OutKeeps.next
    | with_reducible apply OutKeeps.answer
    | with_reducible apply State.cenAbsent_keeps
    | with_reducible apply State.noteLeft_keeps
    | with_reducible apply answer_keeps
    | with_reducible apply State.atEdge_keeps
    | with_reducible apply Keeps.ite
    | with_reducible apply Keeps.forUpTo
    | with_reducible apply Keeps.forEach
    | with_reducible apply Keeps.foldl
    | intro _ _ _
    | intro _ _
    | intro _
    | simp only [Keeps.upd_iff]
    | simp only [Keeps.upd_iff, Power.size, Seal.size, Net.size, Time.size, Analog.size, Dio.size, Acq.size, Can.size, Safe.size, Integ.size, Snap.size, modifyAt_length, List.length_map]
    | with_reducible assumption
    | split

theorem execNodeLeaveStale_keeps (s : State) : OutKeeps s (execNodeLeaveStale s) := by
  have h := Keeps.refl s
  unfold execNodeLeaveStale
  try dsimp only
  repeat' first
    | with_reducible apply OutKeeps.next
    | with_reducible apply OutKeeps.answer
    | with_reducible apply State.canLeft_keeps
    | with_reducible apply State.laneNodeReact_keeps
    | with_reducible apply Keeps.ite
    | with_reducible apply Keeps.forUpTo
    | with_reducible apply Keeps.forEach
    | with_reducible apply Keeps.foldl
    | intro _ _ _
    | intro _ _
    | intro _
    | simp only [Keeps.upd_iff]
    | simp only [Keeps.upd_iff, Power.size, Seal.size, Net.size, Time.size, Analog.size, Dio.size, Acq.size, Can.size, Safe.size, Integ.size, Snap.size, modifyAt_length, List.length_map]
    | with_reducible assumption
    | split

theorem execStepExit_keeps (t e : Nat) (s : State) : OutKeeps s (execStepExit t e s) := by
  have h := Keeps.refl s
  unfold execStepExit
  try dsimp only
  repeat' first
    | with_reducible apply OutKeeps.next
    | with_reducible apply OutKeeps.answer
    | with_reducible apply State.laneWatch_keeps
    | with_reducible apply answer_keeps
    | with_reducible apply State.atEdge_keeps
    | with_reducible apply Keeps.ite
    | with_reducible apply Keeps.forUpTo
    | with_reducible apply Keeps.forEach
    | with_reducible apply Keeps.foldl
    | intro _ _ _
    | intro _ _
    | intro _
    | simp only [Keeps.upd_iff]
    | simp only [Keeps.upd_iff, Power.size, Seal.size, Net.size, Time.size, Analog.size, Dio.size, Acq.size, Can.size, Safe.size, Integ.size, Snap.size, modifyAt_length, List.length_map]
    | with_reducible assumption
    | split

theorem execTriggerConditionMet_keeps (t i e : Nat) (s : State) : OutKeeps s (execTriggerConditionMet t i e s) := by
  have h := Keeps.refl s
  unfold execTriggerConditionMet
  try dsimp only
  repeat' first
    | with_reducible apply OutKeeps.next
    | with_reducible apply OutKeeps.answer
    | with_reducible apply State.laneExit_keeps
    | with_reducible apply State.laneTimed_keeps
    | with_reducible apply answer_keeps
    | with_reducible apply State.atEdge_keeps
    | with_reducible apply Keeps.ite
    | with_reducible apply Keeps.forUpTo
    | with_reducible apply Keeps.forEach
    | with_reducible apply Keeps.foldl
    | intro _ _ _
    | intro _ _
    | intro _
    | simp only [Keeps.upd_iff]
    | simp only [Keeps.upd_iff, Power.size, Seal.size, Net.size, Time.size, Analog.size, Dio.size, Acq.size, Can.size, Safe.size, Integ.size, Snap.size, modifyAt_length, List.length_map]
    | with_reducible assumption
    | split

theorem execTimerCondition_keeps (t i e : Nat) (s : State) : OutKeeps s (execTimerCondition t i e s) := by
  have h := Keeps.refl s
  unfold execTimerCondition
  try dsimp only
  repeat' first
    | with_reducible apply OutKeeps.next
    | with_reducible apply OutKeeps.answer
    | with_reducible apply State.laneExit_keeps
    | with_reducible apply State.laneTimed_keeps
    | with_reducible apply answer_keeps
    | with_reducible apply State.atEdge_keeps
    | with_reducible apply Keeps.ite
    | with_reducible apply Keeps.forUpTo
    | with_reducible apply Keeps.forEach
    | with_reducible apply Keeps.foldl
    | intro _ _ _
    | intro _ _
    | intro _
    | simp only [Keeps.upd_iff]
    | simp only [Keeps.upd_iff, Power.size, Seal.size, Net.size, Time.size, Analog.size, Dio.size, Acq.size, Can.size, Safe.size, Integ.size, Snap.size, modifyAt_length, List.length_map]
    | with_reducible assumption
    | split

theorem execStepTimeout_keeps (t e : Nat) (s : State) : OutKeeps s (execStepTimeout t e s) := by
  have h := Keeps.refl s
  unfold execStepTimeout
  try dsimp only
  repeat' first
    | with_reducible apply OutKeeps.next
    | with_reducible apply OutKeeps.answer
    | with_reducible apply State.laneExit_keeps
    | with_reducible apply State.laneTimed_keeps
    | with_reducible apply answer_keeps
    | with_reducible apply State.atEdge_keeps
    | with_reducible apply Keeps.ite
    | with_reducible apply Keeps.forUpTo
    | with_reducible apply Keeps.forEach
    | with_reducible apply Keeps.foldl
    | intro _ _ _
    | intro _ _
    | intro _
    | simp only [Keeps.upd_iff]
    | simp only [Keeps.upd_iff, Power.size, Seal.size, Net.size, Time.size, Analog.size, Dio.size, Acq.size, Can.size, Safe.size, Integ.size, Snap.size, modifyAt_length, List.length_map]
    | with_reducible assumption
    | split

theorem execStepEnter_keeps (t : Nat) (s : State) : OutKeeps s (execStepEnter t s) := by
  have h := Keeps.refl s
  unfold execStepEnter
  try dsimp only
  repeat' first
    | with_reducible apply OutKeeps.next
    | with_reducible apply OutKeeps.answer
    | with_reducible apply State.lanePending_keeps
    | with_reducible apply answer_keeps
    | with_reducible apply Keeps.ite
    | with_reducible apply Keeps.forUpTo
    | with_reducible apply Keeps.forEach
    | with_reducible apply Keeps.foldl
    | intro _ _ _
    | intro _ _
    | intro _
    | simp only [Keeps.upd_iff]
    | simp only [Keeps.upd_iff, Power.size, Seal.size, Net.size, Time.size, Analog.size, Dio.size, Acq.size, Can.size, Safe.size, Integ.size, Snap.size, modifyAt_length, List.length_map]
    | with_reducible assumption
    | split

theorem execBankBuildComplete_keeps (t b : Nat) (edge next : Bool) (e : Nat) (s : State) : OutKeeps s (execBankBuildComplete t b edge next e s) := by
  have h := Keeps.refl s
  unfold execBankBuildComplete
  try dsimp only
  repeat' first
    | with_reducible apply OutKeeps.next
    | with_reducible apply OutKeeps.answer
    | with_reducible apply answer_keeps
    | with_reducible apply State.atEdge_keeps
    | with_reducible apply State.modLane_keeps
    | with_reducible apply Keeps.ite
    | with_reducible apply Keeps.forUpTo
    | with_reducible apply Keeps.forEach
    | with_reducible apply Keeps.foldl
    | intro _ _ _
    | intro _ _
    | intro _
    | simp only [Keeps.upd_iff]
    | simp only [Keeps.upd_iff, Power.size, Seal.size, Net.size, Time.size, Analog.size, Dio.size, Acq.size, Can.size, Safe.size, Integ.size, Snap.size, modifyAt_length, List.length_map]
    | with_reducible assumption
    | split

theorem execAbortmaxExceeded_keeps (t : Nat) (s : State) : OutKeeps s (execAbortmaxExceeded t s) := by
  have h := Keeps.refl s
  unfold execAbortmaxExceeded
  try dsimp only
  repeat' first
    | with_reducible apply OutKeeps.next
    | with_reducible apply OutKeeps.answer
    | with_reducible apply State.laneAbortMax_keeps
    | with_reducible apply answer_keeps
    | with_reducible apply Keeps.ite
    | with_reducible apply Keeps.forUpTo
    | with_reducible apply Keeps.forEach
    | with_reducible apply Keeps.foldl
    | intro _ _ _
    | intro _ _
    | intro _
    | simp only [Keeps.upd_iff]
    | simp only [Keeps.upd_iff, Power.size, Seal.size, Net.size, Time.size, Analog.size, Dio.size, Acq.size, Can.size, Safe.size, Integ.size, Snap.size, modifyAt_length, List.length_map]
    | with_reducible assumption
    | split

theorem execNodeLostReaction_keeps (t : Nat) (s : State) : OutKeeps s (execNodeLostReaction t s) := by
  have h := Keeps.refl s
  unfold execNodeLostReaction
  try dsimp only
  repeat' first
    | with_reducible apply OutKeeps.next
    | with_reducible apply OutKeeps.answer
    | with_reducible apply State.laneNodeReact_keeps
    | with_reducible apply answer_keeps
    | with_reducible apply Keeps.ite
    | with_reducible apply Keeps.forUpTo
    | with_reducible apply Keeps.forEach
    | with_reducible apply Keeps.foldl
    | intro _ _ _
    | intro _ _
    | intro _
    | simp only [Keeps.upd_iff]
    | simp only [Keeps.upd_iff, Power.size, Seal.size, Net.size, Time.size, Analog.size, Dio.size, Acq.size, Can.size, Safe.size, Integ.size, Snap.size, modifyAt_length, List.length_map]
    | with_reducible assumption
    | split

theorem execTraceIntervalClose_keeps (t : Nat) (s : State) : OutKeeps s (execTraceIntervalClose t s) := by
  have h := Keeps.refl s
  unfold execTraceIntervalClose
  try dsimp only
  repeat' first
    | with_reducible apply OutKeeps.next
    | with_reducible apply OutKeeps.answer
    | with_reducible apply State.traceEnqueue_keeps
    | with_reducible apply answer_keeps
    | with_reducible apply Keeps.ite
    | with_reducible apply Keeps.forUpTo
    | with_reducible apply Keeps.forEach
    | with_reducible apply Keeps.foldl
    | intro _ _ _
    | intro _ _
    | intro _
    | simp only [Keeps.upd_iff]
    | simp only [Keeps.upd_iff, Power.size, Seal.size, Net.size, Time.size, Analog.size, Dio.size, Acq.size, Can.size, Safe.size, Integ.size, Snap.size, modifyAt_length, List.length_map]
    | with_reducible assumption
    | split

theorem execTraceFrameWrite_keeps (t : Nat) (s : State) : OutKeeps s (execTraceFrameWrite t s) := by
  have h := Keeps.refl s
  unfold execTraceFrameWrite
  try dsimp only
  repeat' first
    | with_reducible apply OutKeeps.next
    | with_reducible apply OutKeeps.answer
    | with_reducible apply State.traceWrite_keeps
    | with_reducible apply answer_keeps
    | with_reducible apply Keeps.ite
    | with_reducible apply Keeps.forUpTo
    | with_reducible apply Keeps.forEach
    | with_reducible apply Keeps.foldl
    | intro _ _ _
    | intro _ _
    | intro _
    | simp only [Keeps.upd_iff]
    | simp only [Keeps.upd_iff, Power.size, Seal.size, Net.size, Time.size, Analog.size, Dio.size, Acq.size, Can.size, Safe.size, Integ.size, Snap.size, modifyAt_length, List.length_map]
    | with_reducible assumption
    | split

theorem execTriggerOccurrence_keeps (e m at_ : Nat) (s : State) : OutKeeps s (execTriggerOccurrence e m at_ s) := by
  have h := Keeps.refl s
  unfold execTriggerOccurrence
  try dsimp only
  repeat' first
    | with_reducible apply OutKeeps.next
    | with_reducible apply OutKeeps.answer
    | with_reducible apply State.triggerOccurrence_keeps
    | with_reducible apply State.lanesWatch_keeps
    | with_reducible apply State.lanesTimed_keeps
    | with_reducible apply answer_keeps
    | with_reducible apply State.atEdge_keeps
    | with_reducible apply Keeps.ite
    | with_reducible apply Keeps.forUpTo
    | with_reducible apply Keeps.forEach
    | with_reducible apply Keeps.foldl
    | intro _ _ _
    | intro _ _
    | intro _
    | simp only [Keeps.upd_iff]
    | simp only [Keeps.upd_iff, Power.size, Seal.size, Net.size, Time.size, Analog.size, Dio.size, Acq.size, Can.size, Safe.size, Integ.size, Snap.size, modifyAt_length, List.length_map]
    | with_reducible assumption
    | split

theorem execForcedTrigger_keeps (e at_ : Nat) (s : State) : OutKeeps s (execForcedTrigger e at_ s) := by
  have h := Keeps.refl s
  unfold execForcedTrigger
  try dsimp only
  repeat' first
    | with_reducible apply OutKeeps.next
    | with_reducible apply OutKeeps.answer
    | with_reducible apply State.forceTrigger_keeps
    | with_reducible apply answer_keeps
    | with_reducible apply State.atEdge_keeps
    | with_reducible apply Keeps.ite
    | with_reducible apply Keeps.forUpTo
    | with_reducible apply Keeps.forEach
    | with_reducible apply Keeps.foldl
    | intro _ _ _
    | intro _ _
    | intro _
    | simp only [Keeps.upd_iff]
    | simp only [Keeps.upd_iff, Power.size, Seal.size, Net.size, Time.size, Analog.size, Dio.size, Acq.size, Can.size, Safe.size, Integ.size, Snap.size, modifyAt_length, List.length_map]
    | with_reducible assumption
    | split

theorem execLapComplete_keeps (e : Nat) (s : State) : OutKeeps s (execLapComplete e s) := by
  have h := Keeps.refl s
  unfold execLapComplete
  try dsimp only
  repeat' first
    | with_reducible apply OutKeeps.next
    | with_reducible apply OutKeeps.answer
    | with_reducible apply State.lapCheck_keeps
    | with_reducible apply answer_keeps
    | with_reducible apply Keeps.ite
    | with_reducible apply Keeps.forUpTo
    | with_reducible apply Keeps.forEach
    | with_reducible apply Keeps.foldl
    | intro _ _ _
    | intro _ _
    | intro _
    | simp only [Keeps.upd_iff]
    | simp only [Keeps.upd_iff, Power.size, Seal.size, Net.size, Time.size, Analog.size, Dio.size, Acq.size, Can.size, Safe.size, Integ.size, Snap.size, modifyAt_length, List.length_map]
    | with_reducible assumption
    | split

theorem execLapRearm_keeps (e at_ : Nat) (s : State) : OutKeeps s (execLapRearm e at_ s) := by
  have h := Keeps.refl s
  unfold execLapRearm
  try dsimp only
  repeat' first
    | with_reducible apply OutKeeps.next
    | with_reducible apply OutKeeps.answer
    | with_reducible apply State.rearm_keeps
    | with_reducible apply answer_keeps
    | with_reducible apply State.atEdge_keeps
    | with_reducible apply Keeps.ite
    | with_reducible apply Keeps.forUpTo
    | with_reducible apply Keeps.forEach
    | with_reducible apply Keeps.foldl
    | intro _ _ _
    | intro _ _
    | intro _
    | simp only [Keeps.upd_iff]
    | simp only [Keeps.upd_iff, Power.size, Seal.size, Net.size, Time.size, Analog.size, Dio.size, Acq.size, Can.size, Safe.size, Integ.size, Snap.size, modifyAt_length, List.length_map]
    | with_reducible assumption
    | split

theorem execLapHeaderWritten_keeps (e : Nat) (s : State) : OutKeeps s (execLapHeaderWritten e s) := by
  have h := Keeps.refl s
  unfold execLapHeaderWritten
  try dsimp only
  repeat' first
    | with_reducible apply OutKeeps.next
    | with_reducible apply OutKeeps.answer
    | with_reducible apply State.headerWritten_keeps
    | with_reducible apply answer_keeps
    | with_reducible apply Keeps.ite
    | with_reducible apply Keeps.forUpTo
    | with_reducible apply Keeps.forEach
    | with_reducible apply Keeps.foldl
    | intro _ _ _
    | intro _ _
    | intro _
    | simp only [Keeps.upd_iff]
    | simp only [Keeps.upd_iff, Power.size, Seal.size, Net.size, Time.size, Analog.size, Dio.size, Acq.size, Can.size, Safe.size, Integ.size, Snap.size, modifyAt_length, List.length_map]
    | with_reducible assumption
    | split

theorem execEventCreate_keeps (code source : Nat) (p0 p1 p2 p3 : Word) (wait : Nat) (s : State) : OutKeeps s (execEventCreate code source p0 p1 p2 p3 wait s) := by
  have h := Keeps.refl s
  unfold execEventCreate
  try dsimp only
  repeat' first
    | with_reducible apply OutKeeps.next
    | with_reducible apply OutKeeps.answer
    | with_reducible apply State.waited_keeps
    | with_reducible apply State.raise_keeps
    | with_reducible apply Keeps.ite
    | with_reducible apply Keeps.forUpTo
    | with_reducible apply Keeps.forEach
    | with_reducible apply Keeps.foldl
    | intro _ _ _
    | intro _ _
    | intro _
    | simp only [Keeps.upd_iff]
    | simp only [Keeps.upd_iff, Power.size, Seal.size, Net.size, Time.size, Analog.size, Dio.size, Acq.size, Can.size, Safe.size, Integ.size, Snap.size, modifyAt_length, List.length_map]
    | with_reducible assumption
    | split

theorem execEventWindowClose_keeps (code scope : Nat) (s : State) : OutKeeps s (execEventWindowClose code scope s) := by
  have h := Keeps.refl s
  unfold execEventWindowClose
  try dsimp only
  repeat' first
    | with_reducible apply OutKeeps.next
    | with_reducible apply OutKeeps.answer
    | with_reducible apply State.closeWindow_keeps
    | with_reducible apply Keeps.ite
    | with_reducible apply Keeps.forUpTo
    | with_reducible apply Keeps.forEach
    | with_reducible apply Keeps.foldl
    | intro _ _ _
    | intro _ _
    | intro _
    | simp only [Keeps.upd_iff]
    | simp only [Keeps.upd_iff, Power.size, Seal.size, Net.size, Time.size, Analog.size, Dio.size, Acq.size, Can.size, Safe.size, Integ.size, Snap.size, modifyAt_length, List.length_map]
    | with_reducible assumption
    | split

theorem execLogWriteDone_keeps (ok : Bool) (wait : Nat) (s : State) : OutKeeps s (execLogWriteDone ok wait s) := by
  have h := Keeps.refl s
  unfold execLogWriteDone
  try dsimp only
  repeat' first
    | with_reducible apply OutKeeps.next
    | with_reducible apply OutKeeps.answer
    | with_reducible apply State.logWriteDone_keeps
    | with_reducible apply State.envmDone_keeps
    | with_reducible apply State.waited_keeps
    | with_reducible apply Keeps.ite
    | with_reducible apply Keeps.forUpTo
    | with_reducible apply Keeps.forEach
    | with_reducible apply Keeps.foldl
    | intro _ _ _
    | intro _ _
    | intro _
    | simp only [Keeps.upd_iff]
    | simp only [Keeps.upd_iff, Power.size, Seal.size, Net.size, Time.size, Analog.size, Dio.size, Acq.size, Can.size, Safe.size, Integ.size, Snap.size, modifyAt_length, List.length_map]
    | with_reducible assumption
    | split

theorem execFaultNPulse_keeps (low : Bool) (s : State) : OutKeeps s (execFaultNPulse low s) := by
  have h := Keeps.refl s
  unfold execFaultNPulse
  try dsimp only
  repeat' first
    | with_reducible apply OutKeeps.next
    | with_reducible apply OutKeeps.answer
    | with_reducible apply Keeps.ite
    | with_reducible apply Keeps.forUpTo
    | with_reducible apply Keeps.forEach
    | with_reducible apply Keeps.foldl
    | intro _ _ _
    | intro _ _
    | intro _
    | simp only [Keeps.upd_iff]
    | simp only [Keeps.upd_iff, Power.size, Seal.size, Net.size, Time.size, Analog.size, Dio.size, Acq.size, Can.size, Safe.size, Integ.size, Snap.size, modifyAt_length, List.length_map]
    | with_reducible assumption
    | split

theorem execChkStart_keeps (c space poly e : Nat) (s : State) : OutKeeps s (execChkStart c space poly e s) := by
  have h := Keeps.refl s
  unfold execChkStart
  try dsimp only
  repeat' first
    | with_reducible apply OutKeeps.next
    | with_reducible apply OutKeeps.answer
    | with_reducible apply State.writeChk_keeps
    | with_reducible apply answer_keeps
    | with_reducible apply State.atEdge_keeps
    | with_reducible apply Keeps.ite
    | with_reducible apply Keeps.forUpTo
    | with_reducible apply Keeps.forEach
    | with_reducible apply Keeps.foldl
    | intro _ _ _
    | intro _ _
    | intro _
    | simp only [Keeps.upd_iff]
    | simp only [Keeps.upd_iff, Power.size, Seal.size, Net.size, Time.size, Analog.size, Dio.size, Acq.size, Can.size, Safe.size, Integ.size, Snap.size, modifyAt_length, List.length_map]
    | with_reducible assumption
    | split

theorem execChkAbort_keeps (c done e : Nat) (s : State) : OutKeeps s (execChkAbort c done e s) := by
  have h := Keeps.refl s
  unfold execChkAbort
  try dsimp only
  repeat' first
    | with_reducible apply OutKeeps.next
    | with_reducible apply OutKeeps.answer
    | with_reducible apply State.chkAbort_keeps
    | with_reducible apply answer_keeps
    | with_reducible apply State.atEdge_keeps
    | with_reducible apply Keeps.ite
    | with_reducible apply Keeps.forUpTo
    | with_reducible apply Keeps.forEach
    | with_reducible apply Keeps.foldl
    | intro _ _ _
    | intro _ _
    | intro _
    | simp only [Keeps.upd_iff]
    | simp only [Keeps.upd_iff, Power.size, Seal.size, Net.size, Time.size, Analog.size, Dio.size, Acq.size, Can.size, Safe.size, Integ.size, Snap.size, modifyAt_length, List.length_map]
    | with_reducible assumption
    | split

theorem execChkScanDone_keeps (c : Nat) (ecc : Option Nat) (e : Nat) (s : State) : OutKeeps s (execChkScanDone c ecc e s) := by
  have h := Keeps.refl s
  unfold execChkScanDone
  try dsimp only
  repeat' first
    | with_reducible apply OutKeeps.next
    | with_reducible apply OutKeeps.answer
    | with_reducible apply State.chkScanDone_keeps
    | with_reducible apply answer_keeps
    | with_reducible apply State.atEdge_keeps
    | with_reducible apply Keeps.ite
    | with_reducible apply Keeps.forUpTo
    | with_reducible apply Keeps.forEach
    | with_reducible apply Keeps.foldl
    | intro _ _ _
    | intro _ _
    | intro _
    | simp only [Keeps.upd_iff]
    | simp only [Keeps.upd_iff, Power.size, Seal.size, Net.size, Time.size, Analog.size, Dio.size, Acq.size, Can.size, Safe.size, Integ.size, Snap.size, modifyAt_length, List.length_map]
    | with_reducible assumption
    | split

theorem execLaneTestPeriod_keeps (t : Nat) (s : State) : OutKeeps s (execLaneTestPeriod t s) := by
  have h := Keeps.refl s
  unfold execLaneTestPeriod
  try dsimp only
  repeat' first
    | with_reducible apply OutKeeps.next
    | with_reducible apply OutKeeps.answer
    | with_reducible apply State.lanePeriod_keeps
    | with_reducible apply answer_keeps
    | with_reducible apply Keeps.ite
    | with_reducible apply Keeps.forUpTo
    | with_reducible apply Keeps.forEach
    | with_reducible apply Keeps.foldl
    | intro _ _ _
    | intro _ _
    | intro _
    | simp only [Keeps.upd_iff]
    | simp only [Keeps.upd_iff, Power.size, Seal.size, Net.size, Time.size, Analog.size, Dio.size, Acq.size, Can.size, Safe.size, Integ.size, Snap.size, modifyAt_length, List.length_map]
    | with_reducible assumption
    | split

theorem execLaneTestSegmentDone_keeps (t : Nat) (pass : Bool) (sig : Word) (s : State) : OutKeeps s (execLaneTestSegmentDone t pass sig s) := by
  have h := Keeps.refl s
  unfold execLaneTestSegmentDone
  try dsimp only
  repeat' first
    | with_reducible apply OutKeeps.next
    | with_reducible apply OutKeeps.answer
    | with_reducible apply State.segmentDone_keeps
    | with_reducible apply answer_keeps
    | with_reducible apply Keeps.ite
    | with_reducible apply Keeps.forUpTo
    | with_reducible apply Keeps.forEach
    | with_reducible apply Keeps.foldl
    | intro _ _ _
    | intro _ _
    | intro _
    | simp only [Keeps.upd_iff]
    | simp only [Keeps.upd_iff, Power.size, Seal.size, Net.size, Time.size, Analog.size, Dio.size, Acq.size, Can.size, Safe.size, Integ.size, Snap.size, modifyAt_length, List.length_map]
    | with_reducible assumption
    | split

theorem execLaneTestYield_keeps (t : Nat) (s : State) : OutKeeps s (execLaneTestYield t s) := by
  have h := Keeps.refl s
  unfold execLaneTestYield
  try dsimp only
  repeat' first
    | with_reducible apply OutKeeps.next
    | with_reducible apply OutKeeps.answer
    | with_reducible apply State.laneYield_keeps
    | with_reducible apply answer_keeps
    | with_reducible apply Keeps.ite
    | with_reducible apply Keeps.forUpTo
    | with_reducible apply Keeps.forEach
    | with_reducible apply Keeps.foldl
    | intro _ _ _
    | intro _ _
    | intro _
    | simp only [Keeps.upd_iff]
    | simp only [Keeps.upd_iff, Power.size, Seal.size, Net.size, Time.size, Analog.size, Dio.size, Acq.size, Can.size, Safe.size, Integ.size, Snap.size, modifyAt_length, List.length_map]
    | with_reducible assumption
    | split

theorem execIslandCycle_keeps (x lv fault : Nat) (found : TestRec) (e : Nat) (s : State) : OutKeeps s (execIslandCycle x lv fault found e s) := by
  have h := Keeps.refl s
  unfold execIslandCycle
  try dsimp only
  repeat' first
    | with_reducible apply OutKeeps.next
    | with_reducible apply OutKeeps.answer
    | with_reducible apply answer_keeps
    | with_reducible apply State.atEdge_keeps
    | with_reducible apply State.islCycle_keeps
    | with_reducible apply Keeps.ite
    | with_reducible apply Keeps.forUpTo
    | with_reducible apply Keeps.forEach
    | with_reducible apply Keeps.foldl
    | intro _ _ _
    | intro _ _
    | intro _
    | simp only [Keeps.upd_iff]
    | simp only [Keeps.upd_iff, Power.size, Seal.size, Net.size, Time.size, Analog.size, Dio.size, Acq.size, Can.size, Safe.size, Integ.size, Snap.size, modifyAt_length, List.length_map]
    | with_reducible assumption
    | split

theorem execSfaultRise_keeps (s : State) : OutKeeps s (execSfaultRise s) := by
  have h := Keeps.refl s
  unfold execSfaultRise
  try dsimp only
  repeat' first
    | with_reducible apply OutKeeps.next
    | with_reducible apply OutKeeps.answer
    | with_reducible apply Keeps.ite
    | with_reducible apply Keeps.forUpTo
    | with_reducible apply Keeps.forEach
    | with_reducible apply Keeps.foldl
    | intro _ _ _
    | intro _ _
    | intro _
    | simp only [Keeps.upd_iff]
    | simp only [Keeps.upd_iff, Power.size, Seal.size, Net.size, Time.size, Analog.size, Dio.size, Acq.size, Can.size, Safe.size, Integ.size, Snap.size, modifyAt_length, List.length_map]
    | with_reducible assumption
    | split

theorem execDiscrepancyLockout_keeps (i e : Nat) (s : State) : OutKeeps s (execDiscrepancyLockout i e s) := by
  have h := Keeps.refl s
  unfold execDiscrepancyLockout
  try dsimp only
  repeat' first
    | with_reducible apply OutKeeps.next
    | with_reducible apply OutKeeps.answer
    | with_reducible apply answer_keeps
    | with_reducible apply State.atEdge_keeps
    | with_reducible apply State.lockout_keeps
    | with_reducible apply Keeps.ite
    | with_reducible apply Keeps.forUpTo
    | with_reducible apply Keeps.forEach
    | with_reducible apply Keeps.foldl
    | intro _ _ _
    | intro _ _
    | intro _
    | simp only [Keeps.upd_iff]
    | simp only [Keeps.upd_iff, Power.size, Seal.size, Net.size, Time.size, Analog.size, Dio.size, Acq.size, Can.size, Safe.size, Integ.size, Snap.size, modifyAt_length, List.length_map]
    | with_reducible assumption
    | split

theorem execDemandDelayExpiry_keeps (q e : Nat) (s : State) : OutKeeps s (execDemandDelayExpiry q e s) := by
  have h := Keeps.refl s
  unfold execDemandDelayExpiry
  try dsimp only
  repeat' first
    | with_reducible apply OutKeeps.next
    | with_reducible apply OutKeeps.answer
    | with_reducible apply answer_keeps
    | with_reducible apply State.atEdge_keeps
    | with_reducible apply State.delayExpiry_keeps
    | with_reducible apply Keeps.ite
    | with_reducible apply Keeps.forUpTo
    | with_reducible apply Keeps.forEach
    | with_reducible apply Keeps.foldl
    | intro _ _ _
    | intro _ _
    | intro _
    | simp only [Keeps.upd_iff]
    | simp only [Keeps.upd_iff, Power.size, Seal.size, Net.size, Time.size, Analog.size, Dio.size, Acq.size, Can.size, Safe.size, Integ.size, Snap.size, modifyAt_length, List.length_map]
    | with_reducible assumption
    | split

theorem execReadbackMismatch_keeps (c : Nat) (bfb : Bool) (e : Nat) (s : State) : OutKeeps s (execReadbackMismatch c bfb e s) := by
  have h := Keeps.refl s
  unfold execReadbackMismatch
  try dsimp only
  repeat' first
    | with_reducible apply OutKeeps.next
    | with_reducible apply OutKeeps.answer
    | with_reducible apply answer_keeps
    | with_reducible apply State.atEdge_keeps
    | with_reducible apply State.readback_keeps
    | with_reducible apply Keeps.ite
    | with_reducible apply Keeps.forUpTo
    | with_reducible apply Keeps.forEach
    | with_reducible apply Keeps.foldl
    | intro _ _ _
    | intro _ _
    | intro _
    | simp only [Keeps.upd_iff]
    | simp only [Keeps.upd_iff, Power.size, Seal.size, Net.size, Time.size, Analog.size, Dio.size, Acq.size, Can.size, Safe.size, Integ.size, Snap.size, modifyAt_length, List.length_map]
    | with_reducible assumption
    | split

theorem execSafeNReadbackFault_keeps (e : Nat) (s : State) : OutKeeps s (execSafeNReadbackFault e s) := by
  have h := Keeps.refl s
  unfold execSafeNReadbackFault
  try dsimp only
  repeat' first
    | with_reducible apply OutKeeps.next
    | with_reducible apply OutKeeps.answer
    | with_reducible apply State.atEdge_keeps
    | with_reducible apply State.islFault_keeps
    | with_reducible apply Keeps.ite
    | with_reducible apply Keeps.forUpTo
    | with_reducible apply Keeps.forEach
    | with_reducible apply Keeps.foldl
    | intro _ _ _
    | intro _ _
    | intro _
    | simp only [Keeps.upd_iff]
    | simp only [Keeps.upd_iff, Power.size, Seal.size, Net.size, Time.size, Analog.size, Dio.size, Acq.size, Can.size, Safe.size, Integ.size, Snap.size, modifyAt_length, List.length_map]
    | with_reducible assumption
    | split

theorem execTestPulseStart_keeps (c e : Nat) (s : State) : OutKeeps s (execTestPulseStart c e s) := by
  have h := Keeps.refl s
  unfold execTestPulseStart
  try dsimp only
  repeat' first
    | with_reducible apply OutKeeps.next
    | with_reducible apply OutKeeps.answer
    | with_reducible apply answer_keeps
    | with_reducible apply State.atEdge_keeps
    | with_reducible apply State.pulseStart_keeps
    | with_reducible apply Keeps.ite
    | with_reducible apply Keeps.forUpTo
    | with_reducible apply Keeps.forEach
    | with_reducible apply Keeps.foldl
    | intro _ _ _
    | intro _ _
    | intro _
    | simp only [Keeps.upd_iff]
    | simp only [Keeps.upd_iff, Power.size, Seal.size, Net.size, Time.size, Analog.size, Dio.size, Acq.size, Can.size, Safe.size, Integ.size, Snap.size, modifyAt_length, List.length_map]
    | with_reducible assumption
    | split

theorem execTestPulseEnd_keeps (c : Nat) (bfb : Bool) (e : Nat) (s : State) : OutKeeps s (execTestPulseEnd c bfb e s) := by
  have h := Keeps.refl s
  unfold execTestPulseEnd
  try dsimp only
  repeat' first
    | with_reducible apply OutKeeps.next
    | with_reducible apply OutKeeps.answer
    | with_reducible apply answer_keeps
    | with_reducible apply State.atEdge_keeps
    | with_reducible apply State.pulseEnd_keeps
    | with_reducible apply Keeps.ite
    | with_reducible apply Keeps.forUpTo
    | with_reducible apply Keeps.forEach
    | with_reducible apply Keeps.foldl
    | intro _ _ _
    | intro _ _
    | intro _
    | simp only [Keeps.upd_iff]
    | simp only [Keeps.upd_iff, Power.size, Seal.size, Net.size, Time.size, Analog.size, Dio.size, Acq.size, Can.size, Safe.size, Integ.size, Snap.size, modifyAt_length, List.length_map]
    | with_reducible assumption
    | split

theorem execHoldingTestDue_keeps (c : Nat) (s : State) : OutKeeps s (execHoldingTestDue c s) := by
  have h := Keeps.refl s
  unfold execHoldingTestDue
  try dsimp only
  repeat' first
    | with_reducible apply OutKeeps.next
    | with_reducible apply OutKeeps.answer
    | with_reducible apply answer_keeps
    | with_reducible apply State.holdDue_keeps
    | with_reducible apply Keeps.ite
    | with_reducible apply Keeps.forUpTo
    | with_reducible apply Keeps.forEach
    | with_reducible apply Keeps.foldl
    | intro _ _ _
    | intro _ _
    | intro _
    | simp only [Keeps.upd_iff]
    | simp only [Keeps.upd_iff, Power.size, Seal.size, Net.size, Time.size, Analog.size, Dio.size, Acq.size, Can.size, Safe.size, Integ.size, Snap.size, modifyAt_length, List.length_map]
    | with_reducible assumption
    | split

theorem execHoldingTestOverdue_keeps (c : Nat) (s : State) : OutKeeps s (execHoldingTestOverdue c s) := by
  have h := Keeps.refl s
  unfold execHoldingTestOverdue
  try dsimp only
  repeat' first
    | with_reducible apply OutKeeps.next
    | with_reducible apply OutKeeps.answer
    | with_reducible apply answer_keeps
    | with_reducible apply State.holdOverdue_keeps
    | with_reducible apply Keeps.ite
    | with_reducible apply Keeps.forUpTo
    | with_reducible apply Keeps.forEach
    | with_reducible apply Keeps.foldl
    | intro _ _ _
    | intro _ _
    | intro _
    | simp only [Keeps.upd_iff]
    | simp only [Keeps.upd_iff, Power.size, Seal.size, Net.size, Time.size, Analog.size, Dio.size, Acq.size, Can.size, Safe.size, Integ.size, Snap.size, modifyAt_length, List.length_map]
    | with_reducible assumption
    | split

theorem execHoldingTestStart_keeps (c : Nat) (s : State) : OutKeeps s (execHoldingTestStart c s) := by
  have h := Keeps.refl s
  unfold execHoldingTestStart
  try dsimp only
  repeat' first
    | with_reducible apply OutKeeps.next
    | with_reducible apply OutKeeps.answer
    | with_reducible apply answer_keeps
    | with_reducible apply State.holdStart_keeps
    | with_reducible apply Keeps.ite
    | with_reducible apply Keeps.forUpTo
    | with_reducible apply Keeps.forEach
    | with_reducible apply Keeps.foldl
    | intro _ _ _
    | intro _ _
    | intro _
    | simp only [Keeps.upd_iff]
    | simp only [Keeps.upd_iff, Power.size, Seal.size, Net.size, Time.size, Analog.size, Dio.size, Acq.size, Can.size, Safe.size, Integ.size, Snap.size, modifyAt_length, List.length_map]
    | with_reducible assumption
    | split

theorem execHoldingTestStepEnd_keeps (c : Nat) (s : State) : OutKeeps s (execHoldingTestStepEnd c s) := by
  have h := Keeps.refl s
  unfold execHoldingTestStepEnd
  try dsimp only
  repeat' first
    | with_reducible apply OutKeeps.next
    | with_reducible apply OutKeeps.answer
    | with_reducible apply answer_keeps
    | with_reducible apply State.holdStepEnd_keeps
    | with_reducible apply Keeps.ite
    | with_reducible apply Keeps.forUpTo
    | with_reducible apply Keeps.forEach
    | with_reducible apply Keeps.foldl
    | intro _ _ _
    | intro _ _
    | intro _
    | simp only [Keeps.upd_iff]
    | simp only [Keeps.upd_iff, Power.size, Seal.size, Net.size, Time.size, Analog.size, Dio.size, Acq.size, Can.size, Safe.size, Integ.size, Snap.size, modifyAt_length, List.length_map]
    | with_reducible assumption
    | split

theorem execMaintFrameError_keeps (e : Nat) (s : State) : OutKeeps s (execMaintFrameError e s) := by
  have h := Keeps.refl s
  unfold execMaintFrameError
  try dsimp only
  repeat' first
    | with_reducible apply OutKeeps.next
    | with_reducible apply OutKeeps.answer
    | with_reducible apply State.modMaint_keeps
    | with_reducible apply State.frame_keeps
    | with_reducible apply State.bump_keeps
    | with_reducible apply State.atEdge_keeps
    | with_reducible apply Keeps.ite
    | with_reducible apply Keeps.forUpTo
    | with_reducible apply Keeps.forEach
    | with_reducible apply Keeps.foldl
    | exact fun _ => id
    | intro _ _ _
    | intro _ _
    | intro _
    | simp only [Keeps.upd_iff]
    | simp only [Keeps.upd_iff, Power.size, Seal.size, Net.size, Time.size, Analog.size, Dio.size, Acq.size, Can.size, Safe.size, Integ.size, Snap.size, modifyAt_length, List.length_map]
    | with_reducible assumption
    | split

theorem execNop_keeps (e : Nat) (s : State) : OutKeeps s (execNop e s) := by
  have h := Keeps.refl s
  unfold execNop
  try dsimp only
  repeat' first
    | with_reducible apply OutKeeps.next
    | with_reducible apply OutKeeps.answer
    | with_reducible apply State.frame_keeps
    | with_reducible apply State.atEdge_keeps
    | with_reducible apply Keeps.ite
    | with_reducible apply Keeps.forUpTo
    | with_reducible apply Keeps.forEach
    | with_reducible apply Keeps.foldl
    | intro _ _ _
    | intro _ _
    | intro _
    | simp only [Keeps.upd_iff]
    | simp only [Keeps.upd_iff, Power.size, Seal.size, Net.size, Time.size, Analog.size, Dio.size, Acq.size, Can.size, Safe.size, Integ.size, Snap.size, modifyAt_length, List.length_map]
    | with_reducible assumption
    | split

theorem execAdr_keeps (cmd data e : Nat) (s : State) : OutKeeps s (execAdr cmd data e s) := by
  have h := Keeps.refl s
  unfold execAdr
  try dsimp only
  repeat' first
    | with_reducible apply OutKeeps.next
    | with_reducible apply OutKeeps.answer
    | with_reducible apply State.modMaint_keeps
    | with_reducible apply State.frame_keeps
    | with_reducible apply State.atEdge_keeps
    | with_reducible apply Keeps.ite
    | with_reducible apply Keeps.forUpTo
    | with_reducible apply Keeps.forEach
    | with_reducible apply Keeps.foldl
    | exact fun _ => id
    | intro _ _ _
    | intro _ _
    | intro _
    | simp only [Keeps.upd_iff]
    | simp only [Keeps.upd_iff, Power.size, Seal.size, Net.size, Time.size, Analog.size, Dio.size, Acq.size, Can.size, Safe.size, Integ.size, Snap.size, modifyAt_length, List.length_map]
    | with_reducible assumption
    | split

theorem execRdl_keeps (e : Nat) (s : State) : OutKeeps s (execRdl e s) := by
  have h := Keeps.refl s
  unfold execRdl
  try dsimp only
  repeat' first
    | with_reducible apply OutKeeps.next
    | with_reducible apply OutKeeps.answer
    | with_reducible apply State.frame_keeps
    | with_reducible apply State.rdl_keeps
    | with_reducible apply State.atEdge_keeps
    | with_reducible apply Keeps.ite
    | with_reducible apply Keeps.forUpTo
    | with_reducible apply Keeps.forEach
    | with_reducible apply Keeps.foldl
    | intro _ _ _
    | intro _ _
    | intro _
    | simp only [Keeps.upd_iff]
    | simp only [Keeps.upd_iff, Power.size, Seal.size, Net.size, Time.size, Analog.size, Dio.size, Acq.size, Can.size, Safe.size, Integ.size, Snap.size, modifyAt_length, List.length_map]
    | with_reducible assumption
    | split

theorem execRdh_keeps (e : Nat) (s : State) : OutKeeps s (execRdh e s) := by
  have h := Keeps.refl s
  unfold execRdh
  try dsimp only
  repeat' first
    | with_reducible apply OutKeeps.next
    | with_reducible apply OutKeeps.answer
    | with_reducible apply State.frame_keeps
    | with_reducible apply State.ptrNext_keeps
    | with_reducible apply State.atEdge_keeps
    | with_reducible apply Keeps.ite
    | with_reducible apply Keeps.forUpTo
    | with_reducible apply Keeps.forEach
    | with_reducible apply Keeps.foldl
    | intro _ _ _
    | intro _ _
    | intro _
    | simp only [Keeps.upd_iff]
    | simp only [Keeps.upd_iff, Power.size, Seal.size, Net.size, Time.size, Analog.size, Dio.size, Acq.size, Can.size, Safe.size, Integ.size, Snap.size, modifyAt_length, List.length_map]
    | with_reducible assumption
    | split

theorem execWrl_keeps (data e : Nat) (s : State) : OutKeeps s (execWrl data e s) := by
  have h := Keeps.refl s
  unfold execWrl
  try dsimp only
  repeat' first
    | with_reducible apply OutKeeps.next
    | with_reducible apply OutKeeps.answer
    | with_reducible apply State.modMaint_keeps
    | with_reducible apply State.frame_keeps
    | with_reducible apply State.atEdge_keeps
    | with_reducible apply Keeps.ite
    | with_reducible apply Keeps.forUpTo
    | with_reducible apply Keeps.forEach
    | with_reducible apply Keeps.foldl
    | exact fun _ => id
    | intro _ _ _
    | intro _ _
    | intro _
    | simp only [Keeps.upd_iff]
    | simp only [Keeps.upd_iff, Power.size, Seal.size, Net.size, Time.size, Analog.size, Dio.size, Acq.size, Can.size, Safe.size, Integ.size, Snap.size, modifyAt_length, List.length_map]
    | with_reducible assumption
    | split

theorem execWrh_keeps (data e : Nat) (s : State) : OutKeeps s (execWrh data e s) := by
  have h := Keeps.refl s
  unfold execWrh
  try dsimp only
  repeat' first
    | with_reducible apply OutKeeps.next
    | with_reducible apply OutKeeps.answer
    | with_reducible apply State.frame_keeps
    | with_reducible apply State.wrh_keeps
    | with_reducible apply State.atEdge_keeps
    | with_reducible apply Keeps.ite
    | with_reducible apply Keeps.forUpTo
    | with_reducible apply Keeps.forEach
    | with_reducible apply Keeps.foldl
    | intro _ _ _
    | intro _ _
    | intro _
    | simp only [Keeps.upd_iff]
    | simp only [Keeps.upd_iff, Power.size, Seal.size, Net.size, Time.size, Analog.size, Dio.size, Acq.size, Can.size, Safe.size, Integ.size, Snap.size, modifyAt_length, List.length_map]
    | with_reducible assumption
    | split

theorem execIrqack_keeps (data e : Nat) (s : State) : OutKeeps s (execIrqack data e s) := by
  have h := Keeps.refl s
  unfold execIrqack
  try dsimp only
  repeat' first
    | with_reducible apply OutKeeps.next
    | with_reducible apply OutKeeps.answer
    | with_reducible apply State.frame_keeps
    | with_reducible apply State.clrReg_keeps
    | with_reducible apply State.atEdge_keeps
    | with_reducible apply Keeps.ite
    | with_reducible apply Keeps.forUpTo
    | with_reducible apply Keeps.forEach
    | with_reducible apply Keeps.foldl
    | intro _ _ _
    | intro _ _
    | intro _
    | simp only [Keeps.upd_iff]
    | simp only [Keeps.upd_iff, Power.size, Seal.size, Net.size, Time.size, Analog.size, Dio.size, Acq.size, Can.size, Safe.size, Integ.size, Snap.size, modifyAt_length, List.length_map]
    | with_reducible assumption
    | split

theorem execPbaWr_keeps (data e : Nat) (s : State) : OutKeeps s (execPbaWr data e s) := by
  have h := Keeps.refl s
  unfold execPbaWr
  try dsimp only
  repeat' first
    | with_reducible apply OutKeeps.next
    | with_reducible apply OutKeeps.answer
    | with_reducible apply State.modMaint_keeps
    | with_reducible apply State.frame_keeps
    | with_reducible apply State.atEdge_keeps
    | with_reducible apply Keeps.ite
    | with_reducible apply Keeps.forUpTo
    | with_reducible apply Keeps.forEach
    | with_reducible apply Keeps.foldl
    | exact fun _ => id
    | intro _ _ _
    | intro _ _
    | intro _
    | simp only [Keeps.upd_iff]
    | simp only [Keeps.upd_iff, Power.size, Seal.size, Net.size, Time.size, Analog.size, Dio.size, Acq.size, Can.size, Safe.size, Integ.size, Snap.size, modifyAt_length, List.length_map]
    | with_reducible assumption
    | split

theorem execPbdRd_keeps (e : Nat) (s : State) : OutKeeps s (execPbdRd e s) := by
  have h := Keeps.refl s
  unfold execPbdRd
  try dsimp only
  repeat' first
    | with_reducible apply OutKeeps.next
    | with_reducible apply OutKeeps.answer
    | with_reducible apply State.frame_keeps
    | with_reducible apply State.pbdRd_keeps
    | with_reducible apply State.atEdge_keeps
    | with_reducible apply Keeps.ite
    | with_reducible apply Keeps.forUpTo
    | with_reducible apply Keeps.forEach
    | with_reducible apply Keeps.foldl
    | intro _ _ _
    | intro _ _
    | intro _
    | simp only [Keeps.upd_iff]
    | simp only [Keeps.upd_iff, Power.size, Seal.size, Net.size, Time.size, Analog.size, Dio.size, Acq.size, Can.size, Safe.size, Integ.size, Snap.size, modifyAt_length, List.length_map]
    | with_reducible assumption
    | split

theorem execPbdWr_keeps (data e : Nat) (s : State) : OutKeeps s (execPbdWr data e s) := by
  have h := Keeps.refl s
  unfold execPbdWr
  try dsimp only
  repeat' first
    | with_reducible apply OutKeeps.next
    | with_reducible apply OutKeeps.answer
    | with_reducible apply State.frame_keeps
    | with_reducible apply State.pbdWr_keeps
    | with_reducible apply State.atEdge_keeps
    | with_reducible apply Keeps.ite
    | with_reducible apply Keeps.forUpTo
    | with_reducible apply Keeps.forEach
    | with_reducible apply Keeps.foldl
    | intro _ _ _
    | intro _ _
    | intro _
    | simp only [Keeps.upd_iff]
    | simp only [Keeps.upd_iff, Power.size, Seal.size, Net.size, Time.size, Analog.size, Dio.size, Acq.size, Can.size, Safe.size, Integ.size, Snap.size, modifyAt_length, List.length_map]
    | with_reducible assumption
    | split

theorem execTickLoRead_keeps (p e : Nat) (s : State) : OutKeeps s (execTickLoRead p e s) := by
  have h := Keeps.refl s
  unfold execTickLoRead
  try dsimp only
  repeat' first
    | with_reducible apply OutKeeps.next
    | with_reducible apply OutKeeps.answer
    | with_reducible apply State.readCmd_keeps
    | with_reducible apply Keeps.ite
    | with_reducible apply Keeps.forUpTo
    | with_reducible apply Keeps.forEach
    | with_reducible apply Keeps.foldl
    | intro _ _ _
    | intro _ _
    | intro _
    | simp only [Keeps.upd_iff]
    | simp only [Keeps.upd_iff, Power.size, Seal.size, Net.size, Time.size, Analog.size, Dio.size, Acq.size, Can.size, Safe.size, Integ.size, Snap.size, modifyAt_length, List.length_map]
    | with_reducible assumption
    | split

theorem execSigValRead_keeps (p n e : Nat) (s : State) : OutKeeps s (execSigValRead p n e s) := by
  have h := Keeps.refl s
  unfold execSigValRead
  try dsimp only
  repeat' first
    | with_reducible apply OutKeeps.next
    | with_reducible apply OutKeeps.answer
    | with_reducible apply State.readCmd_keeps
    | with_reducible apply Keeps.ite
    | with_reducible apply Keeps.forUpTo
    | with_reducible apply Keeps.forEach
    | with_reducible apply Keeps.foldl
    | intro _ _ _
    | intro _ _
    | intro _
    | simp only [Keeps.upd_iff]
    | simp only [Keeps.upd_iff, Power.size, Seal.size, Net.size, Time.size, Analog.size, Dio.size, Acq.size, Can.size, Safe.size, Integ.size, Snap.size, modifyAt_length, List.length_map]
    | with_reducible assumption
    | split

theorem execTimeNsRead_keeps (p e : Nat) (s : State) : OutKeeps s (execTimeNsRead p e s) := by
  have h := Keeps.refl s
  unfold execTimeNsRead
  try dsimp only
  repeat' first
    | with_reducible apply OutKeeps.next
    | with_reducible apply OutKeeps.answer
    | with_reducible apply State.readCmd_keeps
    | with_reducible apply Keeps.ite
    | with_reducible apply Keeps.forUpTo
    | with_reducible apply Keeps.forEach
    | with_reducible apply Keeps.foldl
    | intro _ _ _
    | intro _ _
    | intro _
    | simp only [Keeps.upd_iff]
    | simp only [Keeps.upd_iff, Power.size, Seal.size, Net.size, Time.size, Analog.size, Dio.size, Acq.size, Can.size, Safe.size, Integ.size, Snap.size, modifyAt_length, List.length_map]
    | with_reducible assumption
    | split

theorem execBtickLoRead_keeps (p e : Nat) (s : State) : OutKeeps s (execBtickLoRead p e s) := by
  have h := Keeps.refl s
  unfold execBtickLoRead
  try dsimp only
  repeat' first
    | with_reducible apply OutKeeps.next
    | with_reducible apply OutKeeps.answer
    | with_reducible apply State.readCmd_keeps
    | with_reducible apply Keeps.ite
    | with_reducible apply Keeps.forUpTo
    | with_reducible apply Keeps.forEach
    | with_reducible apply Keeps.foldl
    | intro _ _ _
    | intro _ _
    | intro _
    | simp only [Keeps.upd_iff]
    | simp only [Keeps.upd_iff, Power.size, Seal.size, Net.size, Time.size, Analog.size, Dio.size, Acq.size, Can.size, Safe.size, Integ.size, Snap.size, modifyAt_length, List.length_map]
    | with_reducible assumption
    | split

theorem execTciNsRead_keeps (p n e : Nat) (s : State) : OutKeeps s (execTciNsRead p n e s) := by
  have h := Keeps.refl s
  unfold execTciNsRead
  try dsimp only
  repeat' first
    | with_reducible apply OutKeeps.next
    | with_reducible apply OutKeeps.answer
    | with_reducible apply State.readCmd_keeps
    | with_reducible apply Keeps.ite
    | with_reducible apply Keeps.forUpTo
    | with_reducible apply Keeps.forEach
    | with_reducible apply Keeps.foldl
    | intro _ _ _
    | intro _ _
    | intro _
    | simp only [Keeps.upd_iff]
    | simp only [Keeps.upd_iff, Power.size, Seal.size, Net.size, Time.size, Analog.size, Dio.size, Acq.size, Can.size, Safe.size, Integ.size, Snap.size, modifyAt_length, List.length_map]
    | with_reducible assumption
    | split

theorem execLoRegisterRead_keeps (p a e : Nat) (s : State) : OutKeeps s (execLoRegisterRead p a e s) := by
  have h := Keeps.refl s
  unfold execLoRegisterRead
  try dsimp only
  repeat' first
    | with_reducible apply OutKeeps.next
    | with_reducible apply OutKeeps.answer
    | with_reducible apply State.readCmd_keeps
    | with_reducible apply Keeps.ite
    | with_reducible apply Keeps.forUpTo
    | with_reducible apply Keeps.forEach
    | with_reducible apply Keeps.foldl
    | intro _ _ _
    | intro _ _
    | intro _
    | simp only [Keeps.upd_iff]
    | simp only [Keeps.upd_iff, Power.size, Seal.size, Net.size, Time.size, Analog.size, Dio.size, Acq.size, Can.size, Safe.size, Integ.size, Snap.size, modifyAt_length, List.length_map]
    | with_reducible assumption
    | split

theorem execEvrWinFetch_keeps (p : Nat) (s : State) : OutKeeps s (execEvrWinFetch p s) := by
  have h := Keeps.refl s
  unfold execEvrWinFetch
  try dsimp only
  repeat' first
    | with_reducible apply OutKeeps.next
    | with_reducible apply OutKeeps.answer
    | with_reducible apply State.winFetch_keeps
    | with_reducible apply answer_keeps
    | with_reducible apply Keeps.ite
    | with_reducible apply Keeps.forUpTo
    | with_reducible apply Keeps.forEach
    | with_reducible apply Keeps.foldl
    | intro _ _ _
    | intro _ _
    | intro _
    | simp only [Keeps.upd_iff]
    | simp only [Keeps.upd_iff, Power.size, Seal.size, Net.size, Time.size, Analog.size, Dio.size, Acq.size, Can.size, Safe.size, Integ.size, Snap.size, modifyAt_length, List.length_map]
    | with_reducible assumption
    | split

theorem execEvrWinAdvance_keeps (p : Nat) (s : State) : OutKeeps s (execEvrWinAdvance p s) := by
  have h := Keeps.refl s
  unfold execEvrWinAdvance
  try dsimp only
  repeat' first
    | with_reducible apply OutKeeps.next
    | with_reducible apply OutKeeps.answer
    | with_reducible apply State.winAdvance_keeps
    | with_reducible apply answer_keeps
    | with_reducible apply Keeps.ite
    | with_reducible apply Keeps.forUpTo
    | with_reducible apply Keeps.forEach
    | with_reducible apply Keeps.foldl
    | intro _ _ _
    | intro _ _
    | intro _
    | simp only [Keeps.upd_iff]
    | simp only [Keeps.upd_iff, Power.size, Seal.size, Net.size, Time.size, Analog.size, Dio.size, Acq.size, Can.size, Safe.size, Integ.size, Snap.size, modifyAt_length, List.length_map]
    | with_reducible assumption
    | split

theorem execRegisterWrite_keeps (p : Nat) (sealed_ : Bool) (a : Nat) (w : Word) (e : Nat) (s : State) : OutKeeps s (execRegisterWrite p sealed_ a w e s) := by
  have h := Keeps.refl s
  unfold execRegisterWrite
  try dsimp only
  repeat' first
    | with_reducible apply OutKeeps.next
    | with_reducible apply OutKeeps.answer
    | with_reducible apply State.writeReg_keeps
    | with_reducible apply State.maintWrite_keeps
    | with_reducible apply answer_keeps
    | with_reducible apply State.atEdge_keeps
    | with_reducible apply Keeps.ite
    | with_reducible apply Keeps.forUpTo
    | with_reducible apply Keeps.forEach
    | with_reducible apply Keeps.foldl
    | intro _ _ _
    | intro _ _
    | intro _
    | simp only [Keeps.upd_iff]
    | simp only [Keeps.upd_iff, Power.size, Seal.size, Net.size, Time.size, Analog.size, Dio.size, Acq.size, Can.size, Safe.size, Integ.size, Snap.size, modifyAt_length, List.length_map]
    | with_reducible assumption
    | split

theorem execBadAccess_keeps (a : Nat) (aligned : Bool) (e : Nat) (s : State) : OutKeeps s (execBadAccess a aligned e s) := by
  have h := Keeps.refl s
  unfold execBadAccess
  try dsimp only
  repeat' first
    | with_reducible apply OutKeeps.next
    | with_reducible apply OutKeeps.answer
    | with_reducible apply State.atEdge_keeps
    | with_reducible apply State.badAccess_keeps
    | with_reducible apply Keeps.ite
    | with_reducible apply Keeps.forUpTo
    | with_reducible apply Keeps.forEach
    | with_reducible apply Keeps.foldl
    | intro _ _ _
    | intro _ _
    | intro _
    | simp only [Keeps.upd_iff]
    | simp only [Keeps.upd_iff, Power.size, Seal.size, Net.size, Time.size, Analog.size, Dio.size, Acq.size, Can.size, Safe.size, Integ.size, Snap.size, modifyAt_length, List.length_map]
    | with_reducible assumption
    | split

theorem execAonCrystalStart_keeps (s : State) : OutKeeps s (execAonCrystalStart s) := by
  have h := Keeps.refl s
  unfold execAonCrystalStart
  try dsimp only
  repeat' first
    | with_reducible apply OutKeeps.next
    | with_reducible apply OutKeeps.answer
    | with_reducible apply State.orReg_keeps
    | with_reducible apply Keeps.ite
    | with_reducible apply Keeps.forUpTo
    | with_reducible apply Keeps.forEach
    | with_reducible apply Keeps.foldl
    | intro _ _ _
    | intro _ _
    | intro _
    | simp only [Keeps.upd_iff]
    | simp only [Keeps.upd_iff, Power.size, Seal.size, Net.size, Time.size, Analog.size, Dio.size, Acq.size, Can.size, Safe.size, Integ.size, Snap.size, modifyAt_length, List.length_map]
    | with_reducible assumption
    | split

theorem execRxLockReturn_keeps (p : Nat) (sync anDone : Bool) (e : Nat) (s : State) : OutKeeps s (execRxLockReturn p sync anDone e s) := by
  have h := Keeps.refl s
  unfold execRxLockReturn
  try dsimp only
  repeat' first
    | with_reducible apply OutKeeps.next
    | with_reducible apply OutKeeps.answer
    | with_reducible apply State.lockReturn_keeps
    | with_reducible apply answer_keeps
    | with_reducible apply State.atEdge_keeps
    | with_reducible apply Keeps.ite
    | with_reducible apply Keeps.forUpTo
    | with_reducible apply Keeps.forEach
    | with_reducible apply Keeps.foldl
    | intro _ _ _
    | intro _ _
    | intro _
    | simp only [Keeps.upd_iff]
    | simp only [Keeps.upd_iff, Power.size, Seal.size, Net.size, Time.size, Analog.size, Dio.size, Acq.size, Can.size, Safe.size, Integ.size, Snap.size, modifyAt_length, List.length_map]
    | with_reducible assumption
    | split

theorem execCodeGroupError_keeps (p : Nat) (merged : Bool) (e : Nat) (s : State) : OutKeeps s (execCodeGroupError p merged e s) := by
  have h := Keeps.refl s
  unfold execCodeGroupError
  try dsimp only
  repeat' first
    | with_reducible apply OutKeeps.next
    | with_reducible apply OutKeeps.answer
    | with_reducible apply State.codeGroupError_keeps
    | with_reducible apply answer_keeps
    | with_reducible apply State.atEdge_keeps
    | with_reducible apply Keeps.ite
    | with_reducible apply Keeps.forUpTo
    | with_reducible apply Keeps.forEach
    | with_reducible apply Keeps.foldl
    | intro _ _ _
    | intro _ _
    | intro _
    | simp only [Keeps.upd_iff]
    | simp only [Keeps.upd_iff, Power.size, Seal.size, Net.size, Time.size, Analog.size, Dio.size, Acq.size, Can.size, Safe.size, Integ.size, Snap.size, modifyAt_length, List.length_map]
    | with_reducible assumption
    | split

theorem execArpReply_keeps (o : Origin) (e : Nat) (s : State) : OutKeeps s (execArpReply o e s) := by
  have h := Keeps.refl s
  unfold execArpReply
  try dsimp only
  repeat' first
    | with_reducible apply OutKeeps.next
    | with_reducible apply OutKeeps.answer
    | with_reducible apply State.arpReply_keeps
    | with_reducible apply onPort_keeps
    | with_reducible apply State.atEdge_keeps
    | with_reducible apply Keeps.ite
    | with_reducible apply Keeps.forUpTo
    | with_reducible apply Keeps.forEach
    | with_reducible apply Keeps.foldl
    | intro _ _ _
    | intro _ _
    | intro _
    | simp only [Keeps.upd_iff]
    | simp only [Keeps.upd_iff, Power.size, Seal.size, Net.size, Time.size, Analog.size, Dio.size, Acq.size, Can.size, Safe.size, Integ.size, Snap.size, modifyAt_length, List.length_map]
    | with_reducible assumption
    | split

theorem execReceivedFrameDiscard_keeps (p : Nat) (supervision : Bool) (e : Nat) (s : State) : OutKeeps s (execReceivedFrameDiscard p supervision e s) := by
  have h := Keeps.refl s
  unfold execReceivedFrameDiscard
  try dsimp only
  repeat' first
    | with_reducible apply OutKeeps.next
    | with_reducible apply OutKeeps.answer
    | with_reducible apply State.frameDiscard_keeps
    | with_reducible apply answer_keeps
    | with_reducible apply State.atEdge_keeps
    | with_reducible apply Keeps.ite
    | with_reducible apply Keeps.forUpTo
    | with_reducible apply Keeps.forEach
    | with_reducible apply Keeps.foldl
    | intro _ _ _
    | intro _ _
    | intro _
    | simp only [Keeps.upd_iff]
    | simp only [Keeps.upd_iff, Power.size, Seal.size, Net.size, Time.size, Analog.size, Dio.size, Acq.size, Can.size, Safe.size, Integ.size, Snap.size, modifyAt_length, List.length_map]
    | with_reducible assumption
    | split

theorem execCanBusIntegrated_keeps (c : Nat) (s : State) : OutKeeps s (execCanBusIntegrated c s) := by
  have h := Keeps.refl s
  unfold execCanBusIntegrated
  try dsimp only
  repeat' first
    | with_reducible apply OutKeeps.next
    | with_reducible apply OutKeeps.answer
    | with_reducible apply State.canIntegrated_keeps
    | with_reducible apply answer_keeps
    | with_reducible apply Keeps.ite
    | with_reducible apply Keeps.forUpTo
    | with_reducible apply Keeps.forEach
    | with_reducible apply Keeps.foldl
    | intro _ _ _
    | intro _ _
    | intro _
    | simp only [Keeps.upd_iff]
    | simp only [Keeps.upd_iff, Power.size, Seal.size, Net.size, Time.size, Analog.size, Dio.size, Acq.size, Can.size, Safe.size, Integ.size, Snap.size, modifyAt_length, List.length_map]
    | with_reducible assumption
    | split

theorem execDelayReqSend_keeps (raw : Nat) (s : State) : OutKeeps s (execDelayReqSend raw s) := by
  have h := Keeps.refl s
  unfold execDelayReqSend
  try dsimp only
  repeat' first
    | with_reducible apply OutKeeps.next
    | with_reducible apply OutKeeps.answer
    | with_reducible apply State.bump_keeps
    | with_reducible apply State.modTime_keeps
    | with_reducible apply State.sendPtp_keeps
    | with_reducible apply Keeps.ite
    | with_reducible apply Keeps.forUpTo
    | with_reducible apply Keeps.forEach
    | with_reducible apply Keeps.foldl
    | exact fun _ k => k
    | exact fun _ _ => rfl
    | exact fun _ k => by simpa only [Power.size, Seal.size, Net.size, Time.size, Analog.size, Dio.size, Acq.size, Can.size, Safe.size, Integ.size, Snap.size, modifyAt_length, List.length_map] using k
    | intro _ _ _
    | intro _ _
    | intro _
    | simp only [Keeps.upd_iff]
    | simp only [Keeps.upd_iff, Power.size, Seal.size, Net.size, Time.size, Analog.size, Dio.size, Acq.size, Can.size, Safe.size, Integ.size, Snap.size, modifyAt_length, List.length_map]
    | with_reducible assumption
    | split

end Sys2Proof.Machine
end

