-- ==== Sys2Proof/Tests/Slice0.lean ====
section
/-! SUPPORT. Tests: ill-formed terms that WellFormed refuses, a state and operands that meet the premises of each statement
(`test_witness_<statement>`), and small tests of single commands against values of the spec. -/

namespace Sys2Proof.Tests
open Sys2Proof.Machine

/-! The well-formedness checks refuse an ill-formed term each; their limits are those of R12, R13 and of the layouts that
WellFormed.lean cites. -/

def okOrigin : Origin := ⟨0, 0, 0, 0, none⟩
def okDatagram : Datagram := ⟨okOrigin, 0, 47100, false, false, 0, []⟩
def okBulk : Bulk := ⟨okOrigin, List.replicate 24 0⟩
def okFrame : CanFrame := { id := 0, ide := false, fdf := false, brs := false, esi := false, remote := false, dlc := 0, data := [] }
def okRec : TestRec := { kind := 1, verdict := 0, bitNo := 0, inst := 0, addr := 0, data := 0 }
/-- A letter that is well-formed as one of type 0. -/
def okLetter : Letter :=
  { org := okOrigin, version := 1, keyslot := 0, role := 0, typ := 0, seq := 0, uid := List.replicate 16 0, notBefore := 0
    notAfter := 0, pubkey := List.replicate 32 0, body := [], sig := List.replicate 64 0 }

theorem test_wf_accepts : okOrigin.wf = true ∧ okBulk.wf = true ∧ okFrame.wf = true ∧ okRec.wf = true ∧
    okLetter.wf 0 = true := by decide
theorem test_wf_origin : [({ okOrigin with port := 2 } : Origin), { okOrigin with ip := 2 ^ 32 }, { okOrigin with udp := 65536 },
    { okOrigin with tag := 2 ^ 32 }, { okOrigin with trailer := some { mac := 2 ^ 48, seq := 0, lan := 10 } },
    { okOrigin with trailer := some { mac := 0, seq := 65536, lan := 10 } },
    { okOrigin with trailer := some { mac := 0, seq := 0, lan := 16 } }].all (fun o => !o.wf) = true := by decide
set_option maxRecDepth 16000 in
theorem test_wf_letter : [{ okLetter with org := { okOrigin with port := 2 } }, { okLetter with typ := 1 },
    { okLetter with version := 65536 }, { okLetter with keyslot := 256 }, { okLetter with role := 256 },
    { okLetter with seq := 2 ^ 64 }, { okLetter with uid := [] }, { okLetter with notBefore := 2 ^ 64 },
    { okLetter with notAfter := 2 ^ 64 }, { okLetter with pubkey := [] }, { okLetter with body := [0] },
    { okLetter with body := List.replicate 1316 0 }, { okLetter with sig := [] }].all (fun l => !l.wf 0) = true := by decide
theorem test_wf_frame : [{ okFrame with id := 2048 }, { okFrame with ide := true, id := 2 ^ 29 }, { okFrame with dlc := 16 },
    { okFrame with brs := true }, { okFrame with fdf := true, remote := true }, { okFrame with dlc := 1 },
    { okFrame with fdf := true, dlc := 9 }].all (fun f => !f.wf) = true := by decide
theorem test_wf_record : [{ okRec with kind := 0 }, { okRec with kind := 6 }, { okRec with verdict := 3 },
    { okRec with bitNo := 256 }, { okRec with inst := 65536 }, { okRec with addr := 2 ^ 32 },
    { okRec with data := 2 ^ 32 }].all (fun r => !r.wf) = true := by decide
theorem test_wf_commands_1 : ([
    .currentLimitCycle 4 false,
    .bootPost false false [{ okRec with kind := 0 }],
    .testPost [{ okRec with kind := 0 }],
    .letterReceive { okOrigin with port := 2 } [] 0 0,
    .refusalRunClose 0 2,
    .start okLetter,
    .run okLetter,
    .hold okLetter,
    .resume okLetter,
    .abort okLetter,
    .paramset okLetter 0,
    .snappolicy okLetter,
    .cellmode okLetter,
    .move okLetter,
    .home okLetter,
    .calibrate okLetter,
    .clearlog okLetter,
    .storeBegin okLetter,
    .storeData okLetter,
    .storeFinish okLetter,
    .reload okLetter false,
    .clearsafe okLetter,
    .sleep okLetter,
    .timeRestep okLetter,
    .regwrite okLetter,
    .safeauth okLetter,
    .lifecycle okLetter,
    .keyset okLetter false,
    .keyrevoke okLetter,
    .bist okLetter,
    .bistComplete false false [{ okRec with kind := 0 }] 0,
    .fuse okLetter,
    .pwrstage okLetter,
    .read { okOrigin with port := 2 } [] 0,
    .ycpDiscard { okDatagram with org := { okOrigin with port := 2 } } 0,
    .duplicateDiscard { okOrigin with port := 2 } false 0,
    .traceRead { okBulk with payload := [] } 0,
    .traceConsume { okBulk with payload := [] } 0,
    .lapRead { okBulk with payload := [] } 0,
    .lapConsume { okBulk with payload := [] } 0,
    .snapRead { okBulk with payload := [] } 0,
    .snapReq { okOrigin with port := 2 } [] 0 0,
    .evrSeek (some { okBulk with payload := [] }) 0,
    .evrSeek (some { okBulk with payload := [] }) 0,
    .evrFreeze (some { okBulk with payload := [] }),
    .evrFreeze (some { okBulk with payload := [] }),
    .evrUnfreeze (some { okBulk with payload := [] }),
    .evrUnfreeze (some { okBulk with payload := [] })] : List Instr).all (fun i => !i.wf) = true := by decide
theorem test_wf_commands_2 : ([
    .hostHeartbeat { okOrigin with port := 2 } [] 0,
    .deviceHeartbeat 2 0 0,
    .pathLost 2 0,
    .standbyVerify { okOrigin with port := 2 } [] 0,
    .portStart 2 false false 0,
    .mdioPoll 2 false,
    .arpRefresh 2,
    .arpRequest { okOrigin with port := 2 } 0 0,
    .icmpEcho { okOrigin with port := 2 } 0 [] 0,
    .rxLockLoss 2 false 0,
    .safetyFrameSend 8 0 0 0,
    .safetyFrameReceive 2 [] 0,
    .safetyWatchdog 8 0,
    .ptpSync 4 0 0 false 0 0 0 0,
    .ptpFollowUp 4 0 0 0 0 0,
    .ptpAnnounce 4 0 0 0 0 0,
    .ptpDelayResp 4 0 0 0 0,
    .ptpDelayReq 4 0 0 0 0,
    .ptpPdelay 4 0 0 0 0 0 0 0,
    .ptpPdelay 0 0 3 0 0 0 0 0,
    .ptpMasterSend 3 [],
    .ptpMasterSend 0 [],
    .tpoArm 4 0,
    .tpoPulse 4 0,
    .tpoPulseEnd 4 0,
    .tciEdge 4 false false 0,
    .startTimerFire 32,
    .adcStart 16 0 0,
    .adcConversionDone 16 0 0,
    .adcSelfTest 16 0 0,
    .dioInputTransition 64 false false 0 0,
    .debounceAccept 64 0 0,
    .periodEdge 64 false false 0 0,
    .periodTimeout 64 0 0,
    .captureEdge 64 false false 0 0,
    .encoderTransition 21 false false 0,
    .encoderIndex 21 false 0,
    .pwmPeriodStart 64 0,
    .pwmEdge 64 0 0,
    .pwmEdge 0 3 0,
    .pulseRise 64 0,
    .pulseFall 64 0,
    .ilkEdge 8 false false 0,
    .servoPeriodStart 8,
    .strideReply 8 0 [] 0 0 0 0,
    .strideReply 0 4 [] 0 0 0 0,
    .strideAnnounce 8 [] 0 0,
    .strideFrameDiscard 8 0 0,
    .replySlotClose 8 0 0] : List Instr).all (fun i => !i.wf) = true := by decide
theorem test_wf_commands_3 : ([
    .replySlotClose 0 4 0,
    .canFrameReceive 4 okFrame 0 0 0,
    .canFrameReceive 0 { okFrame with dlc := 16 } 0 0 0,
    .canRxTimeout 4 0,
    .canRxTimeout 0 128,
    .canFrameSent 4 0 0 0,
    .canAckError 4 false 0 0 0,
    .canBusError 4 0 false 0 none 0 0,
    .canArbitrationLost 4 0 0,
    .busOffRecovery 4 0,
    .septedAnnounce 4 0 (List.replicate 20 0) 0,
    .septedAnnounce 0 128 (List.replicate 20 0) 0,
    .septedAnnounce 0 0 [] 0,
    .septedHeartbeat 4 0 (List.replicate 4 0) 0,
    .septedHeartbeat 0 128 (List.replicate 4 0) 0,
    .septedHeartbeat 0 0 [] 0,
    .septedLeave 4 0 (List.replicate 1 0) 0,
    .septedLeave 0 128 (List.replicate 1 0) 0,
    .septedLeave 0 0 [] 0,
    .nodeAbsenceTimeout 4 0 0,
    .nodeAbsenceTimeout 0 64 0,
    .stepExit 8 0,
    .triggerConditionMet 8 0 0,
    .triggerConditionMet 0 4 0,
    .timerCondition 8 0 0,
    .timerCondition 0 4 0,
    .stepTimeout 8 0,
    .stepEnter 8,
    .bankBuildComplete 8 0 false false 0,
    .bankBuildComplete 0 2 false false 0,
    .abortmaxExceeded 8,
    .nodeLostReaction 8,
    .traceIntervalClose 8,
    .traceFrameWrite 8,
    .triggerOccurrence 32 0 0,
    .triggerOccurrence 0 65536 0,
    .forcedTrigger 32 0,
    .lapComplete 32,
    .lapRearm 32 0,
    .lapHeaderWritten 32,
    .chkStart 8 0 0 0,
    .chkStart 0 4 0 0,
    .chkStart 0 0 4 0,
    .chkAbort 8 0 0,
    .chkScanDone 8 none 0,
    .laneTestPeriod 8,
    .laneTestSegmentDone 8 false 0,
    .laneTestYield 8] : List Instr).all (fun i => !i.wf) = true := by decide
theorem test_wf_commands_4 : ([
    .islandCycle 2 0 0 default 0,
    .islandCycle 0 65536 0 default 0,
    .islandCycle 0 0 4 default 0,
    .islandCycle 0 0 3 ⟨5, 1, 0xFF, 4, 0, 0⟩ 0,
    .discrepancyLockout 16 0,
    .demandDelayExpiry 16 0,
    .readbackMismatch 8 false 0,
    .testPulseStart 8 0,
    .testPulseEnd 8 false 0,
    .holdingTestDue 8,
    .holdingTestOverdue 8,
    .holdingTestStart 8,
    .holdingTestStepEnd 8,
    .adr 256 0 0,
    .adr 0 65536 0,
    .wrl 65536 0,
    .wrh 65536 0,
    .irqack 65536 0,
    .pbaWr 65536 0,
    .pbdWr 65536 0,
    .tickLoRead 3 0,
    .sigValRead 3 0 0,
    .sigValRead 0 8192 0,
    .timeNsRead 3 0,
    .btickLoRead 3 0,
    .tciNsRead 3 0 0,
    .tciNsRead 0 4 0,
    .loRegisterRead 3 0 0,
    .evrWinFetch 3,
    .evrWinAdvance 3,
    .registerWrite 3 false 0 0 0,
    .rxLockReturn 2 false false 0,
    .codeGroupError 2 false 0,
    .arpReply { okOrigin with port := 2 } 0,
    .receivedFrameDiscard 2 false 0,
    .canBusIntegrated 4] : List Instr).all (fun i => !i.wf) = true := by decide

/-! States and operands that meet the premises of the statements. -/

theorem test_witness_StepRunsFrontCommand :
    ({ State.reset with pending := [.powerGood, .railRetry] } : State).pending = .powerGood :: [.railRetry] := by decide
theorem test_witness_StepIdlesWithoutCommands : State.reset.pending = [] := by decide
theorem test_witness_StepKeepsWellFormed :
    State.reset.wf = true ∧ ∃ t, step { State.reset with pending := [.railRetry] } = .next t :=
  ⟨by decide, _, rfl⟩
theorem test_witness_WellFormedCommandsComplete : (Instr.currentLimitCycle 3 true).wf = true := by decide
theorem test_witness_StopsOnlyOnAbsentInstances :
    exec (.currentLimitCycle 4 true) State.reset = .fault .noSuchInstance ∧
      (Instr.currentLimitCycle 4 true).wf = false := ⟨rfl, by decide⟩

/-- A device in KEEP, with EN high and VIN valid or not. -/
def inKeepState (en vin ovin wake : Bool) : State :=
  { State.reset with power := { State.reset.power with
      phase := .keep, en := en, vin := vin, ovin := ovin, wakeNeeded := wake } }
theorem test_witness_PowerDownEntersKeep : State.reset.power.phase ≠ .keep := by decide
theorem test_witness_ColdResetCauses :
    State.reset.powered = true ∧ State.reset.wf = true ∧ State.reset.power.limit.getD 3 0 < 63 := by decide
theorem test_witness_ColdResetCauses_limit :
    let s : State := { State.reset with power := { State.reset.power with limit := [0, 63, 0, 0] } }
    s.powered = true ∧ s.wf = true ∧ 63 ≤ s.power.limit.getD 1 0 := by decide
theorem test_witness_RailSequencingStarts :
    (inKeepState false true false false).power.phase = .keep ∧ (inKeepState true false true false).power.ovin = true ∧
      (inKeepState true false true false).wf = true := by decide
theorem test_witness_RailSequencingStarts_wake :
    (inKeepState true true false true).power.wakeNeeded = true ∧
      (inKeepState true true false true).wf = true := by decide
theorem test_witness_RailSequencingStarts_waits :
    ({ State.reset with power := { State.reset.power with phase := .railWait } } : State).power.phase = .railWait ∧
      ({ State.reset with power := { State.reset.power with phase := .thermalHold } } : State).power.phase =
        .thermalHold := by decide
theorem test_witness_BootBegins :
    let s : State := { State.reset with power := { State.reset.power with phase := .sequencing } }
    s.room 1 ∧ s.power.phase = .sequencing ∧ s.power.resetN = true := by
  refine ⟨?_, by decide, by decide⟩
  unfold State.room
  decide
theorem test_witness_BootBegins_held :
    let s : State := { State.reset with power := { State.reset.power with phase := .resetHeld, resetN := false } }
    s.power.phase = .resetHeld ∧ s.power.pgood = true ∧ s.power.resetN = false := by decide
theorem test_witness_AonDomain :
    State.reset.dev ≠ stKEEP ∧ State.reset.power.rcRecorded = false ∧ State.reset.powered = true ∧
      State.reset.window? 0x1001 0 = none ∧ State.reset.evr.queue.length + 1 < 256 := by decide
theorem test_witness_AonDomain_keep :
    (({ State.reset with regs := [] } : State).setReg R.PWR_STATE 0).dev = stKEEP := by decide

theorem test_witness_PostLeadsToLoad :
    State.reset.dev = stBOOT ∧ State.reset.power.phase = .on ∧ postHolds true true [⟨1, 1, 0xFF, 0xA100, 0, 0⟩] = false ∧
      postHolds true true [⟨1, 1, 0xFF, 0x4000, 0, 0⟩] = true := by decide
theorem test_witness_PostLeadsToLoad_test :
    (State.reset.setReg R.PWR_STATE 3).dev = stTEST ∧ (State.reset.setReg R.PWR_STATE 3).integ.bist = none := by decide
theorem test_witness_BistCompletes :
    let s : State := { State.reset with integ := { bist := some 3 } }
    s.integ.bist = some 3 ∧ s.evr.queue.length + 1 < 256 := by decide

/-- A device in RUN, with its latest warm restart released at EDGE count `r`, if there has been one. -/
def inRunState (r : Option Nat) : State :=
  { State.reset with regs := [(R.PWR_STATE, stRUN)], warm := { released := r }, edgeBase := 1000000000 }
/-- A device in RUN whose warm restart with T0 at EDGE count 0 stands at `p`. -/
def restartingState (p : WarmPhase) : State := { inRunState none with warm := { phase := p }, edgeBase := 5 }
/-- A device in RUN whose warm restart has resumed state and restores; PWR.HOLDCFG.MODE asks for safe values or not. -/
def restoringState (safeval : Bool) : State :=
  { restartingState .restoring with
      regs := (R.PWR_STATE, stRUN) :: (if safeval then [(R.PWR_HOLDCFG, 0x10064)] else []), ckpts := [⟨7, {}, []⟩] }
theorem test_witness_WarmRestartBegins :
    (inRunState (some 0)).dev = stRUN ∧ (inRunState (some 0)).warm.phase = .none ∧
      0 + 1000 * edgesPerMs ≤ (inRunState (some 0)).edgeBase + 0 ∧ (inRunState none).evr.queue.length + 1 < 256 := by
  decide
theorem test_witness_RepeatedWarmRestartHalts :
    (restartingState .restoring).dev = stRUN ∧ (restartingState .restoring).warm.phase ≠ .none ∧
      (restartingState .restoring).warm.t0 < (restartingState .restoring).edgeBase := by decide
theorem test_witness_RepeatedWarmRestartHalts_guard :
    (inRunState (some 1000000000)).warm.phase = .none ∧
      (inRunState (some 1000000000)).edgeBase + 399999999 < 1000000000 + 1000 * edgesPerMs := by decide
theorem test_witness_RestorationEnds_noResume :
    (restoringState true).wf = true ∧ (restoringState true).warm.phase = .restoring ∧
      (restoringState true).resumeSlot [] false none = .inl 1 := by decide
theorem test_witness_RestorationEnds_timeout :
    (restoringState false).wf = true ∧ (restoringState false).warm.t0 + (restoringState false).fldOf R.PWR_HOLDCFG 9 0 *
      edgesPerMs ≤ (restoringState false).edgeBase + 40000000 := by decide

/-- A device in device state `d`, otherwise as after reset. -/
def inDevState (d : Nat) : State := { State.reset with regs := [(R.PWR_STATE, BitVec.ofNat 32 d)] }
theorem test_witness_LoadChoosesImage :
    (inDevState stLOAD).dev = stLOAD ∧ (inDevState stLOAD).evr.queue.length + 8 < 256 := by decide
theorem test_witness_BoundaryAdvancesTime :
    (inDevState stRUN).dev = stRUN ∧ (inDevState stHALT).dev = stHALT ∧ (inDevState stRUN).letters.waiting = [] ∧
      (inDevState stRUN).letters.half = none ∧ (inDevState stRUN).warm.phase = .none := by decide
theorem test_witness_BoundaryAdvancesTime_begun :
    ({ inDevState stRUN with letters := { half := some ⟨true, false, [], []⟩ } } : State).letters.half ≠ none := by decide
theorem test_witness_SlotsCommitInWriterOrder :
    (inDevState stSAFE).dev = stSAFE ∧ (inDevState stSAFE).letters.waiting = [] ∧ (inDevState stSAFE).letters.half = none ∧
      (inDevState stSAFE).warm.phase = .none := by decide

/-- A device in RUN whose port 0 runs, holds the baton and has a host address that resolves. -/
def netState : State :=
  { State.reset with
    regs := [(R.PWR_STATE, stRUN), (R.NET_CTRL 0, 0x80000000), (R.NET_HOSTIP 0, 0x0A000001), (R.NET_STAT 0, 0x18),
      (R.NET_CTRL 1, 0x80000000), (R.BATON_STAT, 0x10)],
    net := { ports := [{ started := true }, {}] }, evr := {} }
def fromHost (p : Nat) : Origin := { port := p, ip := 0x0A000001, udp := 47100, tag := 7, trailer := none }
def oneLetter : Letter := letterOf (fromHost 0) (List.replicate 152 0)
theorem test_witness_LetterArrival :
    (fromHost 0).port < 2 ∧ netState.portRuns 0 = true ∧ netState.isDup (fromHost 0) true = false ∧
      (fromHost 0).port = netState.holder ∧ netState.evr.queue.length + 4 < 256 ∧ netState.net.held = [] := by decide
theorem test_witness_LetterVerification :
    let s : State := { netState with letters := { queue := [⟨fromHost 0, [], 0, false⟩] } }
    s.letters.queue = [⟨fromHost 0, [], 0, false⟩] ∧ s.evr.queue.length + 4 < 256 := by decide
theorem test_witness_CounterWriteFinishes :
    let s : State := { netState with letters := { writing := [⟨oneLetter, .pass, false⟩] } }
    s.letters.writing = [⟨oneLetter, .pass, false⟩] ∧ oneLetter.keyslot < 4 ∧ s.wf = true ∧ s.integ.envmNext = none ∧
      s.evr.queue.length + 4 < 256 := by decide
theorem test_witness_CounterWriteFinishes_overtaken :
    let s : State := { netState with
      letters := { writing := [⟨oneLetter, .pass, false⟩] }, integ := { envmNext := some 2 },
      evr := { queue := [⟨0, 1, noSource, 0x1003, 0, 0, 1, 3, 0, 0, 0, 0⟩] } }
    s.integ.envmNext = some 2 ∧ s.envmPending 2 = true := by decide
theorem test_witness_RunsAndWaitsEnd :
    ({ runs := [⟨7, 0, 0x101, 1, 5, 2⟩] } : Seal).runs.find? (fun r => r.code == 7 && r.port == 0) =
      some ⟨7, 0, 0x101, 1, 5, 2⟩ := by decide
theorem test_witness_RunsAndWaitsEnd_skew :
    let s : State := { netState with letters := { awaiting := [⟨oneLetter, 0, none⟩] } }
    s.letters.awaiting = [⟨oneLetter, 0, none⟩] ∧ s.standbyAlive = true ∧ s.resultFor oneLetter = none ∧
      0 + s.skew ≤ s.edgeBase + 8000000 := by decide

/-- A TLV record of a body (R127), its value a multiple of 4 bytes long. -/
def tlv (tag : Nat) (v : List Byte) : List Byte := leBytes 2 tag ++ leBytes 2 v.length ++ v
def tlv4 (tag v : Nat) : List Byte := tlv tag (leBytes 4 v)
def letterWith (body : List Byte) : Letter := { oneLetter with body := body }
/-- An image with recipe 3 alone: one step, no abort sequence. -/
def recipeImage : Image := { recs := [(secRECIPES, ⟨3, 0, 0, List.replicate 64 0xFF⟩)] }
/-- A DEPLOYED device in device state `d` whose lane 0 is in lane state `st`, with that image. -/
def laneState (d st : Nat) : State :=
  { State.reset with
    regs := [(R.PWR_STATE, BitVec.ofNat 32 d), (R.SEAL_LIFE, 2)], image := recipeImage,
    arch := { lanes := { state := st, recipe := 3 } :: List.replicate 7 {} } }
/-- `s` at a boundary that has begun, whose letters commit next (R134). -/
def begun (s : State) : State := { s with letters := { s.letters with half := some ⟨true, false, [], []⟩ } }
theorem begun_commits {s : State} {l : Letter} (h : (begun s).lettersCommit = true ∧ (begun s).commitFail l = none) :
    CommitsAt (begun s) (begun s) l := ⟨rfl, h⟩
theorem test_witness_RunStartsLanes :
    (begun (laneState stRUN lnIDLE)).wf = true ∧ CommitsAt (begun (laneState stRUN lnIDLE)) (begun (laneState stRUN lnIDLE))
      { letterWith (tlv4 1 0 ++ tlv4 2 3) with typ := ltRUN } := ⟨by decide, begun_commits (by decide)⟩
theorem test_witness_HoldAndResumeLanes :
    CommitsAt (begun (laneState stRUN lnRUN)) (begun (laneState stRUN lnRUN)) { letterWith (tlv4 1 1) with typ := ltHOLD } ∧
      CommitsAt (begun (laneState stRUN lnHOLD)) (begun (laneState stRUN lnHOLD))
        { letterWith (tlv4 1 1) with typ := ltRESUME } := ⟨begun_commits (by decide), begun_commits (by decide)⟩
theorem test_witness_AbortAndParamset_abort :
    CommitsAt (begun (laneState stRUN lnRUN)) (begun (laneState stRUN lnRUN)) { letterWith (tlv4 1 1) with typ := ltABORT } :=
  begun_commits (by decide)
/-- Lane 0 in RUN in a recipe with one parameter. -/
def withParam : State :=
  { laneState stRUN lnRUN with image := { recipeImage with params := [(0, ⟨3, 0, 1, 0, 9, 0⟩)] } }
theorem test_witness_AbortAndParamset_paramset :
    CommitsAt (begun withParam) (begun withParam)
      { letterWith (tlv4 1 0 ++ tlv 3 (leBytes 4 0 ++ leBytes 4 5)) with typ := ltPARAMSET } := begun_commits (by decide)

/-- A DEPLOYED device in device state `d` (R36). -/
def deployed (d : Nat) : State := { State.reset with regs := [(R.PWR_STATE, BitVec.ofNat 32 d), (R.SEAL_LIFE, 2)] }
theorem test_witness_DeviceStateLetters_start :
    CommitsAt (begun (deployed stREADY)) (begun (deployed stREADY)) { letterWith [] with typ := ltSTART } ∧
      (deployed stREADY).reg R.DEV_FAILED = 0 := ⟨begun_commits (by decide), by decide⟩
theorem test_witness_DeviceStateLetters_clearsafe :
    CommitsAt (begun (deployed stSAFE)) (begun (deployed stSAFE)) { letterWith [] with typ := ltCLEARSAFE } :=
  begun_commits (by decide)
theorem test_witness_DeviceStateLetters_reload :
    CommitsAt (begun (deployed stHALT)) (begun (deployed stHALT)) { letterWith [] with typ := ltRELOAD } ∧
      (begun (deployed stHALT)).dev = stHALT := ⟨begun_commits (by decide), by decide⟩
theorem test_witness_DeviceStateLetters_reloadRun :
    let s := begun (deployed stRUN)
    CommitsAt s s { letterWith [] with typ := ltRELOAD } ∧ s.dev ≠ stHALT ∧ s.warm.phase = .none ∧ s.warm.released = none ∧
      s.evr.queue.length + 3 < 256 :=
  ⟨begun_commits (by decide), by decide, by decide, by decide, by decide⟩
theorem test_witness_DeviceStateLetters_sleep :
    CommitsAt (begun (deployed stREADY)) (begun (deployed stREADY)) { letterWith [] with typ := ltSLEEP } :=
  begun_commits (by decide)
/-- A DEPLOYED device in RUN with cell 1 configured. -/
def withCell : State := { State.reset with
    regs := [(R.PWR_STATE, stRUN), (R.CFG_STATUS, 2), (R.SEAL_LIFE, 2)], image := { recs := [(secCELLS, ⟨1, 0, 0, List.replicate 64 0⟩)] } }
theorem test_witness_CellmodeAndSnappolicy_cellmode :
    (begun withCell).wf = true ∧ CommitsAt (begun withCell) (begun withCell)
      { letterWith (tlv4 1 1 ++ tlv4 2 1) with typ := ltCELLMODE } := ⟨by decide, begun_commits (by decide)⟩
theorem test_witness_CellmodeAndSnappolicy_snappolicy :
    CommitsAt (begun (deployed stREADY)) (begun (deployed stREADY)) { letterWith (tlv4 1 0 ++ tlv4 2 0) with typ := ltSNAPPOLICY } :=
  begun_commits (by decide)
def withAxis : State := { deployed stRUN with arch := { axes := { st := axIDLE } :: List.replicate 63 {} } }
theorem test_witness_MoveAndHome :
    (begun withAxis).wf = true ∧
      CommitsAt (begun withAxis) (begun withAxis) { letterWith (tlv4 1 0 ++ tlv4 3 8) with typ := ltMOVE } ∧
      CommitsAt (begun withAxis) (begun withAxis) { letterWith (tlv4 1 0) with typ := ltHOME } :=
  ⟨by decide, begun_commits (by decide), begun_commits (by decide)⟩
theorem test_witness_RepeatedWarmRestartHalts_reload :
    let s := begun { deployed stRUN with warm := { phase := .firstTick }, edgeBase := 5 }
    let g := begun { deployed stRUN with warm := { released := some 0 }, edgeBase := 5 }
    s.openBoundary.lettersCommit = true ∧ s.openBoundary.dev ≠ stHALT ∧ s.openBoundary.warm.phase ≠ .none ∧
      s.openBoundary.warm.t0 < s.openBoundary.now ∧
      s.openBoundary.commitFail { letterWith [] with typ := ltRELOAD } = none ∧
      g.openBoundary.lettersCommit = true ∧ g.openBoundary.dev ≠ stHALT ∧ g.openBoundary.warm.phase = .none ∧
      g.openBoundary.warm.released = some 0 ∧ g.openBoundary.now < 0 + 1000 * edgesPerMs ∧
      g.openBoundary.commitFail { letterWith [] with typ := ltRELOAD } = none := by decide

theorem test_witness_Calibration_letter :
    CommitsAt (begun (deployed stREADY)) (begun (deployed stREADY))
      { letterWith (tlv4 1 1 ++ tlv 2 (leBytes 4 0 ++ leBytes 4 0x37A3D70A)) with typ := ltCALIBRATE } :=
  begun_commits (by decide)
/-- A device in READY with one calibration item that waits for ENVM, the port having taken `next`. -/
def calWriting (failed : Bool) (next : Option Nat) : State :=
  { deployed stREADY with
    ana := { writes := [⟨1, 5, [(R.ADC_CALOFS 0 0, 0)], failed, false⟩] }, integ := { envmNext := next } }
theorem test_witness_Calibration_write (b : Bool) (n : Option Nat) (h : n = none ∨ n = some 5 ∨ n = some 3) :
    (calWriting b n).ana.writes = [⟨1, 5, [(R.ADC_CALOFS 0 0, 0)], b, false⟩] ∧ (calWriting b n).evr.queue.length + 1 < 256 ∧
      (calWriting b n).wf = true ∧ (deployed stREADY).ana.writes = [] ∧
      ∀ m, (calWriting b n).integ.envmNext = some m → m = 5 ∨ (calWriting b n).envmPending m = false := by
  rcases h with rfl | rfl | rfl <;> cases b <;>
    exact ⟨by decide, by decide, by decide, by decide, fun m e => by cases e <;> decide⟩
/-- A device in READY with an open series for slot 1 that stands at 256. -/
def storing : State := begun { deployed stREADY with letters := { series := some (1, 256) } }
theorem test_witness_StoreAndClearlog_begin :
    storing.wf = true ∧ CommitsAt storing storing { letterWith (tlv4 1 1 ++ tlv4 2 0) with typ := ltSTORE } :=
  ⟨by decide, rfl, by decide⟩
set_option maxRecDepth 8000 in
theorem test_witness_StoreAndClearlog_data :
    CommitsAt storing storing
      { letterWith (tlv4 1 0x101 ++ tlv4 2 256 ++ tlv 3 (List.replicate 256 7)) with typ := ltSTORE } := ⟨rfl, by decide⟩
set_option maxRecDepth 8000 in
theorem test_witness_StoreAndClearlog_finish :
    CommitsAt storing storing
      { letterWith (tlv4 1 0x201 ++ tlv4 2 0 ++ tlv 3 (List.replicate 256 7)) with typ := ltSTORE } := ⟨rfl, by decide⟩
/-- A device in READY whose main log holds one record, of SEQ 3. -/
def logged : State := begun { deployed stREADY with
    evr := { main := [(0, ⟨0, 1, noSource, 0x1003, 0, 0, 1, 3, 0, 0, 0, 0⟩)] } }
theorem test_witness_StoreAndClearlog_clearlog :
    logged.wf = true ∧ CommitsAt logged logged { letterWith (tlv4 1 3) with typ := ltCLEARLOG } ∧
      logged.evr.queue.length + 2 < 256 := ⟨by decide, ⟨rfl, by decide⟩, by decide⟩
/-- A device in READY whose time unit runs, as a slave or as the master. -/
def timed (master : Bool) : State := begun { State.reset with
    regs := [(R.PWR_STATE, stREADY), (R.SEAL_LIFE, 2), (R.TIME_CTRL, if master then 0xC0000000 else 0x80000000)] }
theorem test_witness_RestepRegwritePwrstage_step :
    CommitsAt (timed false) (timed false) { letterWith [] with typ := ltTIMERESTEP } := ⟨rfl, by decide⟩
theorem test_witness_RestepRegwritePwrstage_set :
    CommitsAt (timed true) (timed true)
      { letterWith (tlv 1 (leBytes 8 9 ++ leBytes 4 7) ++ tlv4 2 5) with typ := ltTIMERESTEP } := ⟨rfl, by decide⟩
theorem test_witness_RestepRegwritePwrstage_regwrite :
    let l : Letter := { letterWith (tlv 1 (leBytes 4 R.PWR_RSTCAUSE ++ leBytes 4 1)) with typ := ltREGWRITE }
    CommitsAt (begun (deployed stREADY)) (begun (deployed stREADY)) l ∧ ∃ x, tagIn (bodyGroup l) 1 = some x :=
  ⟨begun_commits (by decide), Option.isSome_iff_exists.mp (by decide)⟩
/-- A PROVISIONED device in READY. -/
def provisioned : State := { deployed stREADY with regs := [(R.PWR_STATE, stREADY), (R.SEAL_LIFE, 1)] }
theorem test_witness_RestepRegwritePwrstage_pwrstage :
    CommitsAt (begun provisioned) (begun provisioned) { letterWith (tlv4 1 0x003B0104) with typ := ltPWRSTAGE } :=
  begun_commits (by decide)
set_option maxRecDepth 8000 in
theorem test_witness_SafeauthLifecycleAndKeys_safeauth :
    CommitsAt (begun (deployed stREADY)) (begun (deployed stREADY))
      { letterWith (tlv 1 (List.replicate 64 1) ++ tlv 3 (List.replicate 8 0x41)) with typ := ltSAFEAUTH } ∧
      (begun (deployed stREADY)).evr.queue.length + 2 < 256 := ⟨begun_commits (by decide), by decide⟩
theorem test_witness_SafeauthLifecycleAndKeys_lifecycle :
    CommitsAt (begun (deployed stREADY)) (begun (deployed stREADY)) { letterWith (tlv4 1 3) with typ := ltLIFECYCLE } ∧
      CommitsAt (begun (deployed stREADY)) (begun (deployed stREADY)) { letterWith (tlv4 1 4) with typ := ltLIFECYCLE } :=
  ⟨begun_commits (by decide), begun_commits (by decide)⟩
theorem test_witness_SafeauthLifecycleAndKeys_keyset :
    CommitsAt (begun (deployed stREADY)) (begun (deployed stREADY))
      { letterWith (tlv4 1 2 ++ tlv4 2 15 ++ tlv 3 (List.replicate 32 9)) with typ := ltKEYSET } := begun_commits (by decide)
/-- A DEPLOYED device in READY with two programmed keys. -/
def twoKeys : State := { deployed stREADY with letters := { keys := [⟨[], 8, true, false⟩, ⟨[], 8, true, false⟩, {}, {}] } }
theorem test_witness_SafeauthLifecycleAndKeys_keyrevoke :
    CommitsAt (begun twoKeys) (begun twoKeys) { letterWith (tlv4 1 0) with typ := ltKEYREVOKE } := begun_commits (by decide)
/-- A RETURNED device in READY. -/
def returned : State := { State.reset with regs := [(R.PWR_STATE, stREADY), (R.SEAL_LIFE, 3)] }
theorem test_witness_BistAndFuse :
    CommitsAt (begun returned) (begun returned) { letterWith (tlv4 1 3) with typ := ltBIST } ∧
      CommitsAt (begun returned) (begun returned)
        { letterWith (tlv 1 (leBytes 4 0x9000 ++ leBytes 4 0)) with typ := ltFUSE } ∧
      (begun returned).hasIsland = true ∧ (begun returned).istate ≠ islFAULT :=
  ⟨begun_commits (by decide), begun_commits (by decide), by decide, by decide⟩

theorem test_witness_EventCreation :
    netState.evr.queue.length < 256 ∧ ({ lost := some ⟨2, 5, 6⟩ } : Evr).lost = some ⟨2, 5, 6⟩ ∧
      ({ queue := List.replicate 256 ⟨0, 1, 0, 0x1003, 0, 0, 1, 3, 0, 0, 0, 0⟩ } : Evr).queue.length = 256 :=
  ⟨by decide, rfl, List.length_replicate⟩
/-- netState with NOTIFY on for every severity. -/
def notifying : State := { netState with
    regs := [(R.PWR_STATE, stRUN), (R.NET_CTRL 0, 0x80000000), (R.NET_HOSTIP 0, 0x0A000001), (R.NET_STAT 0, 0x18), (R.EVR_CFG, 0x80000000)] }
theorem test_witness_EventCreation_notify :
    notifying.bitOf R.EVR_CFG 31 = true ∧ notifying.fldOf R.EVR_CFG 2 0 ≤ sevOf 0x1003 ∧ notifying.portRuns 0 = true ∧
      notifying.hostDest 0 = some (0x0A000001, 0) ∧ notifying.bitOf (R.NET_STAT 0) 4 = true := by decide
theorem test_witness_WindowsAndLogWrites_window :
    let s : State := { State.reset with evr := { windows := [⟨0xC102, 3, 4, 3, 3, 0, 0, 0⟩] } }
    s.window? 0xC102 3 = some ⟨0xC102, 3, 4, 3, 3, 0, 0, 0⟩ ∧ s.window? 0xC102 2 = none ∧
      s.evr.queue.length + 1 < 256 := by decide
theorem test_witness_WindowsAndLogWrites_write :
    State.reset.evr.frozen = false ∧ State.reset.evr.degraded = false ∧ State.reset.evr.bypass = [] ∧
      (State.reset.evr.queue.head?.any (fun r => !isSafetyCode r.code)) = true ∧ State.reset.evr.retry = none ∧
      State.reset.evr.consecFail < 2 ∧ ({ consecFail := 2 } : Evr).consecFail ≥ 2 := by decide
theorem test_witness_LogCursorsAndFreeze : (netState.accept (fromHost 0) false).2 = true := by decide

theorem test_witness_RegisterReads :
    State.reset.wf = true ∧ State.reset.regPresent R.SNAP_NEWEST_LO = true ∧
      State.reset.regPresent (R.AXIS_SP_LO 63) = true ∧ (netState.accept (fromHost 0) false).2 = true ∧
      readOk [] = false ∧ readOk (leBytes 4 0x10 ++ leBytes 2 1 ++ leBytes 2 0) = true := by decide
theorem test_witness_RegisterWrites_bad :
    badAddr 2 = true ∧ State.reset.window? 1 0 = none ∧ State.reset.evr.queue.length + 1 < 256 ∧
      ({ State.reset with evr := { windows := [⟨1, 0, 0, 255, 0, 0, 0, 0⟩] } } : State).window? 1 0 ≠ none := by decide
theorem test_witness_RegisterWrites_letter :
    1 ≤ (deployed stRUN).life ∧ (deployed stRUN).life ≤ 3 ∧ badAddr R.PWR_RSTCAUSE = false ∧
      (deployed stRUN).regPresent R.PWR_RSTCAUSE = true ∧ (regRow? R.PWR_RSTCAUSE).isSome = true ∧
      R.PWR_RSTCAUSE ∉ [R.EVR_CURSOR, R.EVR_FRZCTL, R.BATON_CTRL, R.ILK_CLR] ++ (List.range 8).map R.CHK_CTRL ++
        (List.range 4).map R.TPO_CTRL := by decide
theorem test_witness_RegisterWrites_maintenance :
    (returned.atEdge 3).maintServed = true ∧ returned.life = 3 ∧ ((deployed stRUN).atEdge 3).maintServed = true ∧
      (deployed stRUN).life = 2 ∧ returned.regPresent R.ILK_CLR = true ∧ returned.regPresent (R.TPO_CTRL 3) = true ∧
      returned.regPresent (R.CHK_CTRL 7) = true := by decide
theorem test_witness_RegisterWrites_absent :
    badAddr (R.ADC_CTRL 15) = false ∧ ({ returned with part := .gw4810 } : State).regPresent (R.ADC_CTRL 15) = false ∧
      returned.life = 3 := by decide

theorem test_witness_MaintenanceFrames :
    ((deployed stRUN).atEdge 3).maintServed = true ∧ ((deployed stKEEP).atEdge 3).maintServed = false := by decide
theorem test_witness_PostboxFrames :
    (deployed stRUN).life = 2 ∧ returned.life = 3 ∧ (returned.atEdge 0).maintServed = true ∧
      ((deployed stRUN).atEdge 0).maintServed = true ∧ State.reset.powered = true ∧
      (inRunState none).dev = stRUN ∧ (inRunState none).warm.phase = .none ∧ (inRunState none).warm.released = none := by
  decide

/-- netState with both paths ALIVE, their latest heartbeats at EDGE count 0, and port 0 with the baton. -/
def bothAlive : State := { netState with
    regs := [(R.PWR_STATE, stRUN), (R.BATON_STAT, 0x14), (R.NET_CTRL 0, 0x80000000), (R.NET_CTRL 1, 0x80000000)],
    net := { ports := [{ started := true }, { started := true }] } }
theorem test_witness_PortsAndLanes :
    netState.portEnabled 1 = true ∧ (netState.port 1).started = false ∧ netState.wf = true ∧
      (State.reset.portEnabled 0) = false := by decide
theorem test_witness_PortsAndLanes_arp :
    netState.portRuns 0 = true ∧ ({ netState with regs := netState.regs ++ [(R.NET_GATEWAY 0, 5)] } : State).nextHop 0 =
      some 0x0A000001 := by decide
theorem test_witness_HeartbeatsAndBaton_good :
    hostHeartbeatOk 0 (List.replicate 32 0) = true ∧ netState.portRuns 0 = true ∧ netState.wf = true ∧
      (netState.reg (R.NET_HOSTIP 0)).toNat = (fromHost 0).ip ∧ hostHeartbeatOk 0 [] = false := by decide
theorem test_witness_HeartbeatsAndBaton_moves :
    let s : State := { bothAlive with regs := [(R.PWR_STATE, stRUN), (R.BATON_STAT, 0x29)] }
    s.hasBaton = true ∧ s.holder = 1 - 0 ∧ s.path s.holder = pathLOST ∧ s.path 0 = pathLOST := by decide
theorem test_witness_HeartbeatsAndBaton_device :
    netState.portRuns 0 = true ∧ (netState.hostDest 0).isSome = true ∧ netState.bitOf (R.NET_STAT 0) 4 = true := by decide
theorem test_witness_HeartbeatsAndBaton_lost :
    bothAlive.path 0 = pathALIVE ∧ bothAlive.path 1 = pathALIVE ∧ bothAlive.hasBaton = true ∧ bothAlive.holder = 0 ∧
      (bothAlive.port 0).tl + bothAlive.fldOf R.BATON_CFG 7 0 * bothAlive.hbint ≤ bothAlive.edgeBase + 4000000000 ∧
      bothAlive.evr.queue.length + 2 < 256 ∧ bothAlive.net.held.length + bothAlive.queueDepth ≤ 64 ∧
      bothAlive.warm.phase = .none := by decide
theorem test_witness_HeartbeatsAndBaton_both :
    let s : State := { bothAlive with regs := [(R.PWR_STATE, stRUN), (R.BATON_STAT, 0x04)] }
    s.path 0 = pathALIVE ∧ s.path 1 ≠ pathALIVE := by decide
theorem test_witness_HeartbeatsAndBaton_reaction :
    let s : Nat → State := fun a => { bothAlive with
        regs := [(R.PWR_STATE, stRUN), (R.BATON_CFG, BitVec.ofNat 32 (a * 256))],
        net := { bothAlive.net with reactDue := true } }
    (s 1).net.reactDue = true ∧ (s 1).dev = stRUN ∧ (s 1).fldOf R.BATON_CFG 9 8 = 1 ∧ (s 2).fldOf R.BATON_CFG 9 8 = 2 := by
  decide
theorem test_witness_StandbyCopies :
    (bothAlive.accept (fromHost 1) true).2 = true ∧ (bothAlive.accept (fromHost 1) true).1.hasBaton = true ∧
      (fromHost 1).port ≠ (bothAlive.accept (fromHost 1) true).1.holder := by decide
theorem test_witness_StandbyCopies_timeout :
    let h : Held := ⟨⟨fromHost 1, [], 0, false⟩, 0, 0, 0, false, true⟩
    let s : State := { bothAlive with net := { bothAlive.net with held := [h] } }
    s.net.held.filter (fun h => decide (h.at_ + s.skew ≤ s.edgeBase + 8000000) && h.frameSince) = [h] ∧
      s.window? 0x5005 1 = none := by decide

/-- bothAlive as the variant that duplicates frames. -/
def duplicating : State := { bothAlive with part := .gw4840 }
theorem test_witness_FramesOnPorts :
    netState.portRuns 0 = true ∧ (0 : Nat) = netState.holder ∧ netState.nextHop 1 = none ∧
      (netState.accept (fromHost 0) false).2 = true ∧ duplicating.duplicates = true := by decide
theorem test_witness_FramesOnPorts_duplicate :
    let d : DupEntry := ⟨5, 6, 0, 0⟩
    let s : State := { netState with net := { netState.net with dups := [d] } }
    s.portRuns 0 = true ∧ d ∈ s.net.dups ∧ s.edgeBase + 160000000 ≤ d.time + 400 * edgesPerMs := by decide
theorem test_witness_FramesOnPorts_hop :
    NeedsHop netState 0 0x0A000001 ∧ netState.wf = true ∧ netState.nextHop 0 ≠ some 5 ∧ netState.ptpUdp = false ∧
      (netState.reg (R.NET_IPADDR 0)).toNat = 0 := by
  refine ⟨.inl (by decide), by decide, by decide, by decide, by decide⟩
theorem test_witness_FramesOnPorts_datagram :
    let g : Datagram := ⟨fromHost 0, 0, 47100, false, false, 36, [1, 2, 0, 0, 0, 0, 0, 0]⟩
    g.org.port = 0 ∧ (netState.reg (R.NET_IPADDR 0)).toNat = g.dest ∧ g.options = false ∧ g.fragment = false ∧
      g.length ≤ 1500 ∧ 8 ≤ g.data.length ∧ uAt g.data 0 1 = 1 ∧ uAt g.data 1 1 ∈ [1, 2, 5, 8, 9] ∧
      uAt g.data 2 2 + 8 = g.data.length := by decide
theorem test_witness_FramesOnPorts_trailer :
    (netState.accept { fromHost 0 with trailer := some ⟨6, 0xA, 5⟩ } false).2 = true := by decide

theorem test_witness_TraceAndLapRequests :
    (netState.accept (fromHost 0) false).2 = true ∧ (netState.accept (fromHost 0) false).1.wf = true := by decide
theorem test_witness_PhotoFinishAndReadout_ready :
    let s : State := { State.reset with snap := { busy := some ⟨1, 4, [fromHost 0]⟩ }, tick := 5 }
    s.snap.busy = some ⟨1, 4, [fromHost 0]⟩ ∧ 4 < s.tick ∧ s.wf = true ∧ netState.portRuns 0 = true := by decide
theorem test_witness_PhotoFinishAndReadout_early :
    let s : State := { State.reset with snap := { busy := some ⟨1, 4, [fromHost 0]⟩ }, tick := 4 }
    ∃ x, s.snap.busy = some x ∧ s.tick ≤ x.epoch := ⟨_, rfl, by decide⟩
theorem test_witness_PhotoFinishAndReadout_serve :
    let q : Readout := ⟨⟨fromHost 0, []⟩, 0, 2000, 0, false, 0⟩
    let s : State := { netState with acq := { reqs := [[q], []] } }
    s.readouts 0 = [q] ∧ s.acq.lastPort = 1 - 0 ∧ s.wf = true ∧ s.requestLost q = false := by decide

/-- A device in RUN whose port 0 exchanges PTP messages with peer 0; `m` adds bits to TIME.CTRL, `st` is TIME.STAT. -/
def ptpState (m st : Word) : State := { netState with
    regs := [(R.PWR_STATE, stRUN), (R.NET_CTRL 0, 0x80000000), (R.TIME_CTRL, 0x80000000 ||| m), (R.TIME_STAT, st),
      (R.TIME_PEERMAC_HI 0, 0x80000000)] }
theorem test_witness_PtpMessages :
    (ptpState 0 0).ptpOn = true ∧ (ptpState 0 0).peerOn 0 = true ∧ (ptpState 0 0).peerOn 1 = false ∧
      State.reset.ptpOn = false ∧ (ptpState 0 0).slaveTakes 0 ((ptpState 0 0).fldOf R.TIME_CTRL 23 16) = true := by decide
theorem test_witness_PtpMessages_master :
    (ptpState 0x40000000 1).ptpMaster = true ∧ (ptpState 0x40000000 1).timeValid = true ∧
      (ptpState 0x40000000 1).ptpOn = true ∧ (ptpState 0x8000000 0).ptpP2P = true ∧ (ptpState 0x10000000 0).peerReady 0 = true ∧
      (ptpState 0 0).peerReady 0 = false ∧
      (ptpState 0 0).ptpMaster = false ∧
      (ptpState 0 0).evr.queue.length + 1 < 256 := by decide

theorem test_witness_PulsesAndCaptures :
    netState.wf = true ∧ netState.dev = stRUN ∧ (netState.setReg (R.TPO_STAT 2) 1).bitOf (R.TPO_STAT 2) 0 = true ∧
      (State.reset.bitOf R.TIME_STAT 0) = false ∧ (netState.setReg R.TIME_STAT 1).bitOf R.TIME_STAT 0 = true := by decide
theorem test_witness_PulsesAndCaptures_tci :
    let s : State := { netState with regs := [(R.PWR_STATE, stRUN), (R.TIME_TCICFG, 0x204)],
                                     time := { tci := [none, none, some 5, none] } }
    s.bitOf R.TIME_TCICFG 2 = true ∧ fld (s.reg R.TIME_TCICFG) 13 12 = 0 ∧
      s.time.tci.getD 2 none = some 5 ∧ s.edgeBase + 6 < 5 + 8 ∧ 5 + 8 ≤ s.edgeBase + 13 := by decide
theorem test_witness_PulsesAndCaptures_arm :
    let s := (State.reset.setReg (R.TPO_WIDTH 1) 10).setReg (R.TPO_PERIOD 1) 1000
    s.wf = true ∧ (s.reg (R.TPO_WIDTH 1)).toNat = 10 ∧ (s.reg (R.TPO_PERIOD 1)).toNat = 1000 := by decide

/-- `s` with registers set. -/
def withRegs (s : State) (l : List (Nat × Word)) : State := l.foldl (fun s x => s.setReg x.1 x.2) s
/-- A device in RUN with core 3 enabled for two entries, started by timer 5, with `k` as its state. -/
def adcState (k : AdcCore) : State := { withRegs (inRunState none) [(R.ANA_TMRRATE 5, 1), (R.ANA_TMROFS 5, 0x80000000),
      (R.ADC_CTRL 3, 0x202), (R.ADC_START 3, 0x41400000), (R.ADC_RES 3 0, 0x80000007)] with
    ana := { cores := [{}, {}, {}, k] ++ List.replicate 12 {} } }
theorem test_witness_AdcCores :
    (adcState {}).adcOn 3 = true ∧ (adcState {}).wf = true ∧ ((adcState {}).core 3).idle ≤ (adcState {}).edgeBase ∧
      (adcState { idle := 2000000000 }).edgeBase + 5 < ((adcState { idle := 2000000000 }).core 3).idle ∧
      (adcState {}).window? 0xC001 3 = none ∧ (adcState {}).evr.queue.length + 1 < 256 := by decide
theorem test_witness_AdcCores_timer :
    (adcState {}).bitOf (R.ANA_TMROFS 5) 31 = true ∧ (adcState {}).running = true ∧
      (adcState {}).tileUsable (5 / 4) = true ∧ rateDue ((adcState {}).reg (R.ANA_TMRRATE 5)) (adcState {}).tick = true ∧
      (adcState {}).fldOf (R.ADC_START 3) 31 30 = 1 ∧ (adcState {}).fldOf (R.ADC_START 3) 27 22 = 5 := by decide
theorem test_witness_AdcCores_conversion :
    let r : AdcRun := ⟨0, 0, 0, false, 0, 0⟩
    ((adcState { runs := [r] }).core 3).runs = [r] ∧ (adcState { runs := [r] }).adcOn 3 = true ∧
      (adcState { runs := [r] }).bitOf (R.ADC_RES 3 0) 31 = true := by decide
theorem test_witness_AdcCores_selfTest :
    let s : State := { adcState {} with integ := { adcBad := [(0, 0), (0, 0), (0, 0), (2, 1)] ++ List.replicate 12 (0, 0) } }
    s.wf = true ∧ s.adcOn 3 = true ∧ s.integ.adcBad.getD 3 (0, 0) = (2, 1) := by decide
theorem test_witness_AdcCores_deferred :
    let r : AdcRun := ⟨1000000000, 1000000000, 0, false, 0, 0⟩
    let s := adcState { event := some 1000000000, runs := [r] }
    (s.core 3).event = some (s.atEdge 0).now ∧ (s.core 3).runs.getLast? = some r ∧ r.start = s.now ∧ r.next = 0 := by decide

/-- A device in RUN with ball 5 in mode `m` and TIME0, TIME1. -/
def dioState (m t0 t1 : Nat) : State := withRegs (inRunState none)
  [(R.DIO_MODE 5, BitVec.ofNat 32 (m * 2 ^ 28 + 0x10000)), (R.DIO_TIME0 5, BitVec.ofNat 32 t0),
   (R.DIO_TIME1 5, BitVec.ofNat 32 t1), (R.DIO_RES 5, 0x80000009), (R.ENC_CFG 1, 0x80000002)]
theorem test_witness_InputsAndEncoders :
    (dioState 1 0 0).wf = true ∧ ((dioState 1 0 0).ball 5).level ≠ true ∧ (dioState 1 0 0).dioMode 5 = dioGPIOIN ∧
      (true != (dioState 1 0 0).dioInv 5) ≠ (dioState 1 0 0).bitOf (R.DIO_STAT 5) 8 ∧
      (dioState 8 0 9).dioMode 5 = dioLIMIT ∧ (dioState 5 4 0).dioMode 5 = dioPERIOD ∧ (dioState 6 4 0).dioMode 5 = dioFREQ ∧
      (dioState 7 0 0).dioMode 5 = dioCAPTURE ∧ (dioState 9 0 0).dioMode 5 = dioENC := by decide
theorem test_witness_InputsAndEncoders_chatter :
    let s : State := { dioState 8 0 9 with
      dio := { balls := List.replicate 5 {} ++ [{ window := some 1000000000, count := 1 }] ++ List.replicate 58 {} } }
    s.wf = true ∧ s.dioMode 5 = dioLIMIT ∧ (s.ball 5).window = some 1000000000 ∧ s.edgeBase + 5 < 1000000000 + s.dioT1 5 ∧
      (s.ball 5).count + 1 = s.fldOf (R.DIO_MODE 5) 23 16 + 1 ∧ s.window? 0xD001 5 = none := by decide
theorem test_witness_InputsAndEncoders_timeout :
    let s : State := { dioState 5 4 0 with
      dio := { balls := List.replicate 5 {} ++ [{ since := some 7, edge := some 7 }] ++ List.replicate 58 {} } }
    s.wf = true ∧ (s.ball 5).since = some 7 ∧ 7 + s.dioT0 5 ≤ s.edgeBase := by decide
theorem test_witness_InputsAndEncoders_encoder :
    (dioState 9 0 0).bitOf (R.ENC_CFG 1) 31 = true ∧ ((dioState 9 0 0).ball 3).level ≠ true ∧
      max ((dioState 9 0 0).ball 3).changed ((dioState 9 0 0).ball 4).changed + 2 ≤ (dioState 9 0 0).edgeBase ∧
      (dioState 9 0 0).window? 0xD101 1 = none ∧ (dioState 9 0 0).bitOf (R.ENC_CFG 1) 1 = true := by decide

/-- dioState with ball 5 as `b` and the PWM counters started at EDGE count 1000000000. -/
def ballState (m t0 t1 : Nat) (b : Ball) : State := { dioState m t0 t1 with
  dio := { balls := List.replicate 5 {} ++ [b] ++ List.replicate 58 {}, pwmBase := some 1000000000 } }
theorem test_witness_OutputsAndInterlocks_pwm :
    (ballState 3 400 0 { next := 100 }).wf = true ∧ (ballState 3 400 0 {}).dioMode 5 = dioPWM ∧
      (ballState 3 400 0 {}).pwmPhase 5 = some 0 ∧ ((ballState 3 400 0 {}).atEdge 200).pwmPhase 5 = some 200 ∧
      ((ballState 3 400 0 {}).atEdge 100).pwmPhase 5 = some (0 + 100) := by decide
theorem test_witness_OutputsAndInterlocks_pulse :
    ((ballState 4 9 2 { trig := some 1000000000 }).ball 5).trig = some 1000000000 ∧
      1000000000 + (ballState 4 9 2 {}).dioT1 5 + 4 ≤ (ballState 4 9 2 {}).edgeBase + 6 ∧
      (ballState 4 9 2 {}).edgeBase + 6 ≤ 1000000000 + (ballState 4 9 2 {}).dioT1 5 + 6 ∧
      ((ballState 4 9 2 { rose := some 1000000000 }).ball 5).rose =
        some ((ballState 4 9 2 {}).edgeBase + 9 - (ballState 4 9 2 {}).dioT0 5) := by decide
theorem test_witness_OutputsAndInterlocks_ilk :
    let s := withRegs (inRunState none) [(R.ILK_CFG, 0x040404)]
    let t : State := { s with dio := { s.dio with ilk := 4 } }
    s.ilkActive = 0 ∧ t.ilkActive = 4 ∧ s.window? 0xD201 2 = none ∧ s.evr.queue.length + 8 < 256 := by decide

/-- A GW-4840 in RUN with Stride port 2 on, one drive of address 9 on axis 3, and the port as `x`. -/
def strideState (x : StridePort) : State := { withRegs (inRunState none) [(R.CFG_STATUS, 2), (R.STRIDE_CTRL 2, 0x80010003),
    (R.STRIDE_RATE 2, 1), (R.STRIDE_DADDR 2 0, 0x00030009), (R.STRIDE_TQSLOT 2 0, 0x80000011)] with
  part := .gw4840
  image := { recs := [(secSTRIDE, ⟨2, 0, 0, []⟩)] }
  arch := { stride := [{}, {}, x] ++ List.replicate 5 {} } }
theorem test_witness_StrideLink :
    (16 * (strideState {}).fldOf (R.STRIDE_STARTOFS 2) 15 0 + 4) / 5 / max 1 (strideState {}).tickEdges ≤ (strideState {}).tick ∧
    (strideState {}).wf = true ∧ (strideState {}).strideRuns 2 = true ∧
      rateDue ((strideState {}).reg (R.STRIDE_RATE 2)) (strideState {}).tick = true ∧
      ((strideState {}).sport 2).last ≠ some (strideState {}).tick ∧ (strideState {}).strideRuns 1 = false := by decide
set_option maxRecDepth 30000 in
theorem test_witness_StrideLink_reply :
    let s := strideState { opened := some 1000000000, entries := [{ st := 1 }, {}, {}, {}] }
    let y : List Byte := [3, 9, 0] ++ List.replicate 25 0
    let b := y ++ leBytes 2 (crc16ibm y)
    let w := strideWB (s.ndrv 2)
    let ago := fun n => 25 * (s.edgeBase + (w + 1000) * 2 / 5 + 3000 + 100 - 1000000000) - 25 * n
    0 < s.ndrv 2 ∧ b.length = 28 + 2 ∧ b.drop 28 = leBytes 2 (crc16ibm (b.take 28)) ∧ uAt b 0 1 = 3 ∧
      uAt b 1 1 = s.strideAddr 2 0 ∧ uAt b 2 1 = (s.sport 2).seq ∧ (s.strideEntry 2 0).got = false ∧
      (s.strideEntry 2 0).closed = false ∧ (s.strideEntry 2 0).st = 1 ∧ (s.sport 2).probe = none ∧ 10 * w ≤ ago 3000 ∧
      10 * (w + 1000) ≤ ago 3100 ∧ ago 3100 ≤ 10 * (w + 1500) ∧ ago 100 ≤ 10 * (w + 13000) := by decide
set_option maxRecDepth 30000 in
theorem test_witness_StrideLink_announce :
    let s := strideState { opened := some 1000000000, probe := some 0 }
    let y : List Byte := [4, 9] ++ List.replicate 18 0
    let b := y ++ leBytes 2 (crc16ibm y)
    let a := strideWB (s.ndrv 2) + 5000 + 12000 * s.ndrv 2
    let ago := fun n => 25 * (s.edgeBase + a * 2 / 5 + 2300 - 1000000000) - 25 * n
    (s.sport 2).probe = some 0 ∧ b.length = 20 + 2 ∧ b.drop 20 = leBytes 2 (crc16ibm (b.take 20)) ∧ uAt b 0 1 = 4 ∧
      uAt b 1 1 = s.strideAddr 2 0 ∧ wAt b 4 = s.reg (R.STRIDE_DVEND 2 0) ∧ wAt b 8 = s.reg (R.STRIDE_DTYPE 2 0) ∧
      s.bitOf (R.STRIDE_DADDR 2 0) 31 = false ∧ 10 * a ≤ ago 2300 ∧ ago 2300 ≤ 10 * (a + 500) ∧ ago 0 ≤ 10 * (a + 12000) := by
  decide
theorem test_witness_StrideLink_close :
    let s := strideState { opened := some 1000000000, entries := [{ st := 2, miss := 2 }, {}, {}, {}] }
    10 * (strideWB (s.ndrv 2) + 13000) ≤ 25 * (s.edgeBase + 12000 - 1000000000) ∧ (s.strideEntry 2 0).closed = false ∧
      s.fldOf (R.STRIDE_CTRL 2) 7 0 ≤ (s.strideEntry 2 0).miss + 1 := by decide

/-- A device in RUN with CAN2 on, Septed if `sep`, its state register `st`, controller `x`, transmit object 7 (single shot)
and receive object 5 for identifier 0x123. -/
def canState' (sep : Bool) (st : Word) (x : CanCtl) : State := { withRegs (inRunState none) [(R.CFG_STATUS, 2), (R.CAN_STAT 2, st),
    (R.CAN_CTRL 2, if sep then 0xC00003E8 else 0x80000000), (R.OBJ_CFG 2 5, 0x80000000), (R.OBJ_ID 2 5, 0x123),
    (R.OBJ_MASK 2 5, 0x1FFFFFFF), (R.OBJ_LIMITS 2 5, 0xFF000003), (R.OBJ_CFG 2 7, 0xC4000000), (R.OBJ_LIMITS 2 7, 0x02000000)] with
  image := { recs := [(secCAN, ⟨2, 0, 0, []⟩), (secCAN, ⟨261, 1, 0, leBytes 4 0x80000000⟩), (secCAN, ⟨263, 1, 0, leBytes 4 0xC4000000⟩)] }
  can := { ctl := [{}, {}, x, {}] } }
/-- `s` with object 7 of CAN2 pending since before its edges began. -/
def requesting (s : State) : State :=
  { s with can := { s.can with objs := [(263, { last := some [1], pend := some ⟨5, [([1], 5)]⟩ })] } }
theorem test_witness_CanControllers_receive :
    let s := canState' false 0 { recv := 130 }
    s.wf = true ∧ s.canUp 2 = true ∧ 127 < (s.ctl 2).recv ∧ (canState' false 3 {}).canUp 2 = false ∧
      s.canMatch 2 { id := 0x124, ide := false, remote := false, fdf := false, brs := false, esi := false, dlc := 0, data := [] } = none ∧
      s.canMatch 2 { id := 0x123, ide := false, remote := false, fdf := false, brs := false, esi := false, dlc := 0, data := [] } = some 5 ∧
      (s.canTurn 2 5).2 = 5 := by decide
theorem test_witness_CanControllers_timeout :
    let s := canState' false 0 {}
    s.fldOf (R.OBJ_LIMITS 2 5) 23 0 = 3 ∧ s.running = true ∧ s.bitOf (R.OBJ_STAT 2 5) 7 = false ∧
      max s.can.runAt (((s.canObj 2 5).accepted).getD 0) + 3 * s.tickEdges ≤ s.edgeBase ∧ 5 ∈ s.canObjs 2 false ∧
      s.window? 0xA005 2 = none ∧ s.evr.queue.length + 1 < 256 := by decide
theorem test_witness_CanControllers_send :
    let s := requesting (canState' false 0 { tec := 8 })
    let u := canState' true 0 { solicit := [(9, 4)] }
    s.wf = true ∧ (s.atEdge 300).canSending 2 ((s.atEdge 300).now - 200) = some (.object 7 [1]) ∧
      s.bitOf (R.OBJ_CFG 2 7) 26 = true ∧
      ¬ s.fldOf (R.OBJ_LIMITS 2 7) 31 24 ≤ (s.reg (R.OBJ_ATTEMPTS 2 7)).toNat + 1 ∧
      (u.atEdge 300).canSending 2 ((u.atEdge 300).now - 200) = some (.solicit 9) ∧
      (u.atEdge 300).canSending 1 ((u.atEdge 300).now - 200) = none := by decide
theorem test_witness_CanControllers_join :
    (canState' true 2 {}).canLive 2 = true ∧ (canState' true 2 {}).canState 2 = canBUSOFF ∧
      (canState' true 2 {}).septed 2 = true ∧ (canState' true 3 {}).canLive 2 = true ∧
      (canState' true 3 {}).canState 2 = canOFFBUS := by decide

/-- canState' with Septed, census entry 4 of CAN2 bound to node 9 with status bits `st`, and entry 6 holding node 12. -/
def septedState (st : Word) : State := { withRegs (canState' true 0 {}) [(R.CEN_STAT 2 4, 0x00090004 ||| st),
    (R.CEN_STAT 2 6, 0x000C0001), (R.OBJ_NODE 2 5, 0x80000004), (R.OBJ_CFG 2 5, 0x80000100)] with
  image := { recs := [(secNODES, ⟨132, 0, 0, [9, 0, 0, 0] ++ leBytes 4 7 ++ List.replicate 28 0⟩), (secCAN, ⟨2, 0, 0, []⟩), (secCAN, ⟨261, 1, 0, leBytes 4 0x80000100⟩)] }
  can := { left := [(2, 4)], ctl := [{}, {}, {}, {}] } }
def announced (vendor : Nat) : List Byte := [1, 0, 0, 0] ++ leBytes 4 vendor ++ List.replicate 12 0
theorem test_witness_SeptedNodes_announce :
    (septedState 0).wf = true ∧ (septedState 0).canUp 2 = true ∧ (septedState 0).septed 2 = true ∧
      (announced 7).length = 20 ∧ uAt (announced 7) 0 1 = 1 ∧ (septedState 0).cenBoundOf 2 9 = some 4 ∧
      (∃ r, (septedState 0).image.rec? secNODES (64 * 2 + 4) 0 = some r ∧ nodeMatches r (announced 7) = true ∧
        nodeMatches r (announced 8) = false) := by
  refine ⟨by decide, by decide, by decide, by decide, by decide, by decide, _, rfl, by decide, by decide⟩
theorem test_witness_SeptedNodes_unbound :
    (septedState 0).cenBoundOf 2 12 = none ∧ (septedState 0).cenHolder 2 12 = some 6 ∧
      (septedState 0).cenSame 2 6 (announced 0) = true ∧ (septedState 0).cenSame 2 6 (announced 8) = false ∧
      (septedState 0).cenBoundOf 2 1 = none ∧ (septedState 0).cenHolder 2 1 = none ∧
      ((List.range 64).find? (fun e => !(septedState 0).cenBound 2 e && (septedState 0).cenState 2 e == 0)) = some 0 ∧
      (septedState 0).window? 0xA009 2 = none ∧ (septedState 0).evr.queue.length + 12 < 256 := by decide
theorem test_witness_SeptedNodes_absence :
    (septedState 1).canLive 2 = true ∧ (septedState 1).canState 2 ≠ canOFFBUS ∧ (septedState 1).cenState 2 4 = 1 ∧
      tabGet (fun _ => 0) (septedState 1).can.seen (64 * 2 + 4) + (septedState 1).fldOf (R.CAN_CTRL 2) 15 0 * edgesPerMs ≤
        (septedState 1).edgeBase + edgesPerMs := by decide
theorem test_witness_SeptedNodes_stale :
    (septedState 2).running = true ∧ (2, 4) ∈ (septedState 2).can.left ∧ 5 ∈ (septedState 2).canObjs 2 false ∧
      (septedState 2).bitOf (R.OBJ_NODE 2 5) 31 = true ∧ (septedState 2).fldOf (R.OBJ_NODE 2 5) 5 0 = 4 ∧
      (septedState 2).fldOf (R.OBJ_CFG 2 5) 11 8 = 1 := by decide

/-- A step with timeout `dur` us to `tgt` and actions `acts`. -/
def stepWith (dur tgt : Nat) (acts : List Byte) : List Byte :=
  [0, 0, BitVec.ofNat 8 (acts.length / 12), 0] ++ leBytes 4 dur ++ leBytes 2 tgt ++ leBytes 2 0xFFFF ++ List.replicate 68 0 ++ acts
/-- A recipe with ABORTMAX 5 us, the reaction `m` to a node's loss and two steps, the second with one action on slot 9. -/
def twoSteps (m : Nat) : List Byte :=
  leBytes 2 2 ++ leBytes 2 0xFFFF ++ [0, BitVec.ofNat 8 m, 0, 0] ++ List.replicate 16 0xFF ++ leBytes 4 5 ++ List.replicate 4 0 ++
    stepWith 10 1 [] ++ stepWith 20 0xFFF0 (leBytes 2 9 ++ leBytes 2 0 ++ leBytes 4 0x3F800000 ++ leBytes 4 0)
/-- A device in RUN whose lane 0 is as `l` in that recipe. -/
def exitState (m : Nat) (l : Lane) : State := { inRunState none with
  image := { recs := [(secRECIPES, ⟨3, 0, 0, twoSteps m⟩)] }
  tick := 5
  arch := { lanes := l :: List.replicate 7 {} } }
/-- Lane 0 in step 0, entered 10 us ago in tick 4. -/
def visiting : Lane := {
  state := lnRUN, recipe := 3, te := 999996000, ke := 4, duration := 10, operA := [0, 0, 0, 0]
  operB := [0, 0, 0, 0], banks := [⟨1, 999996000, 999996000, none, none, none, none⟩] }
theorem test_witness_LaneSteps_commit :
    let s := exitState 0 visiting
    s.wf = true ∧ s.laneOn 0 = true ∧ (s.lane 0).stopAt = none ∧ (s.lane 0).runs = true ∧ s.pastAbortMax 0 = false ∧ ¬ s.tick ≤ (s.lane 0).ke ∧
      s.timersDue 0 &&& 16 = 16 ∧ s.winner 0 16 = some (5, 1) ∧ s.laneArmed 0 = true ∧
      (s.lane 0).banks.any (fun b => b.target == 1 && s.bankReady 0 b) = true ∧ s.targetStep? 0 1 = some 1 ∧
      (∀ x ∈ s.laneDues 0, ¬ x.1 < s.now) := by decide
theorem test_witness_LaneSteps_otherwise :
    let early := exitState 0 { visiting with ke := 5 }
    let hold := exitState 0 { visiting with holdPend := true }
    let late := exitState 0 { visiting with banks := [] }
    early.tick ≤ (early.lane 0).ke ∧ early.winner 0 16 = some (5, 1) ∧ (hold.lane 0).holdPend = true ∧
      hold.winner 0 16 = some (5, 1) ∧ (late.lane 0).banks.any (fun b => b.target == 1 && late.bankReady 0 b) = false ∧
      (∃ x ∈ (late.atEdge 10).laneDues 0, x.1 < (late.atEdge 10).now) := by decide
theorem test_witness_LaneSteps_boundary :
    let s := exitState 0 { visiting with exit := some ⟨5, 1⟩ }
    let d := exitState 0 { visiting with exit := some ⟨5, 0xFFF0⟩ }
    let a := exitState 0 { visiting with state := lnABORTING, abortTe := 999990000 }
    let n := exitState 2 { visiting with lostNode := true }
    s.laneOn 0 = true ∧ (s.lane 0).stopAt = none ∧ (s.lane 0).exit = some ⟨5, 1⟩ ∧ s.targetStep? 0 1 = some 1 ∧ d.targetStep? 0 0xFFF0 = none ∧
      recAbortMax (a.laneRec 0) = 5 ∧ (a.lane 0).abortTe + 5 * edgesPerUs < a.now ∧ a.evr.queue.length + 3 < 256 ∧
      (n.lane 0).lostNode = true ∧ recNodelost (n.laneRec 0) = 2 ∧
      (s.lane 0).banks[0]? = some ⟨1, 999996000, 999996000, none, none, none, none⟩ ∧ 999996000 ≤ s.now := by decide

/-- A device in RUN that records, with engine `g` for 3 frames with 1 before the trigger, its class FAULT or not, its status
`st`, the trace of tile 0 as `x` and its ring of mode `mode`. -/
def acqState (fault : Bool) (st : Word) (g : Engine) (x : TraceX) (mode : Nat) : State := { withRegs (inRunState none)
    [(R.CFG_STATUS, 2), (R.CAP_STAT 0, st), (R.ACQ_TWPOS_LO 0, 4080), (R.ACQ_TRPOS_LO 0, 16), (R.ACQ_TSTAT 0, BitVec.ofNat 32 (1 + 2 * mode))] with
  image := {
    recs := [(secCAPTURE, ⟨0, 0, 0, [BitVec.ofNat 8 fault.toNat, 0, 1, 0] ++ leBytes 4 3 ++ leBytes 4 1 ++ leBytes 4 1 ++
      leBytes 4 100 ++ List.replicate 44 0 ++ [1, 0, 2, 0] ++ List.replicate 124 0⟩)]
    dram := [(0, ⟨1, 0, 0, mode, 4, 1⟩), (0, ⟨2, 0, 0, 0, 8, 1⟩)] }
  acq := { recording := true, engines := g :: List.replicate 31 {}, traces := x :: List.replicate 7 {} } }
def fullQueue : TraceX := { closed := [⟨0, 9, []⟩], queue := [⟨0, 8, List.replicate 16 0⟩], ring := [(0, 48), (48, 32)] }
theorem test_witness_TracesAndLaps_ring :
    let s := acqState false 1 {} fullQueue 0
    let t := acqState false 1 {} fullQueue 1
    s.wf = true ∧ (s.traceX 0).closed = [⟨0, 9, []⟩] ∧ (s.traceX 0).queue = [⟨0, 8, List.replicate 16 0⟩] ∧
      s.ringStop 0 = false ∧ dropFor (s.ringAt 0).2 (s.wpos 0) 32 (s.traceX 0).ring = 1 ∧ t.ringStop 0 = true ∧
      ¬ t.wpos 0 + 32 + 16 ≤ t.rpos 0 + (t.ringAt 0).2 ∧ s.window? 0xE202 0 = none ∧ s.evr.queue.length + 1 < 256 := by
  decide
def lapNow (after : List Frame) (cycle : Nat) : Lap := ⟨0, false, 1, 2, cycle, 0, 0, 0, true, 0, [], none, after, false, false, true, 0⟩
theorem test_witness_TracesAndLaps_complete :
    let s := acqState true 2 { lap := some (lapNow [⟨[0], false, 0, 0, 0⟩] 5) } {} 0
    s.wf = true ∧ (s.cap? 0).isSome = true ∧ (s.cap? 0).map (·.len) = some 3 ∧ (s.cap? 0).map (·.pre) = some 1 ∧
      (s.cap? 0).map (·.fault) = some true ∧ (s.eng 0).lap = some (lapNow [⟨[0], false, 0, 0, 0⟩] 5) := by decide
theorem test_witness_TracesAndLaps_header :
    let s := acqState false 3 { done := [lapNow [] 5] } {} 0
    (s.cap? 0).isSome = true ∧ (s.eng 0).done = [lapNow [] 5] ∧ (s.image.part? 2 0 0).isSome = true ∧ s.records = true ∧
      s.engState 0 = engREARM := by decide
theorem test_witness_TracesAndLaps_trigger :
    let s := acqState false 1 { armedAt := 5 } {} 0
    s.records = true ∧ s.engState 0 = engARMED ∧ (s.eng 0).armedAt + 100 * edgesPerUs ≤ s.now ∧
      (s.cap? 0).map (·.timeout) = some 100 ∧ (s.cap? 0).map (fun c => (c.conds.map (·.typ)).getD 0 0) = some 1 ∧
      (s.condSt 0 0).st = false ∧ (s.eng 0).armedAt ≠ s.now := by decide
theorem test_witness_TracesAndLaps_missed :
    let s := acqState false 2 { lap := some (lapNow [] 5) } {} 0
    let u := acqState false 2 { lap := some (lapNow [] 1000000000) } {} 0
    s.engState 0 = engCAPTURING ∧ (s.eng 0).occAt ≠ some s.now ∧ (lapNow [] 1000000000).cycle = u.now := by decide

/-- A device in RUN with channel 2 set to `len` bytes of DRAM from 16 on, a scan `x` of it, and lane test `n` of tile 0. -/
def chkState (len : Nat) (x : Option ChkScan) (n : Option Nat) : State := { withRegs (inRunState none)
    [(R.CHK_ADDR 2, 16), (R.CHK_LEN 2, BitVec.ofNat 32 len)] with
  integ := { scans := [none, none, x, none, none, none, none, none], laneTest := n :: List.replicate 7 none } }
theorem test_witness_ScansAndLaneTests_scan :
    let s := chkState 64 none none
    let x : ChkScan := ⟨1, 1, 16, 64, false⟩
    s.wf = true ∧ (s.scan? 2) = none ∧ (s.reg (R.CHK_ADDR 2)).toNat % 4 = 0 ∧ (s.reg (R.CHK_LEN 2)).toNat = 64 ∧
      16 + 64 ≤ s.chkSize 1 ∧ (chkState 63 none none).reg (R.CHK_LEN 2) = 63 ∧
      (chkState 64 (some x) none).scan? 2 = some x ∧ (chkState 64 (some { x with dirty := true }) none).scan? 2 = some ⟨1, 1, 16, 64, true⟩ := by decide
theorem test_witness_ScansAndLaneTests_lane :
    (chkState 0 none (some 63)).laneTests 0 = true ∧ (chkState 0 none (some 63)).integ.laneTest.getD 0 none = some 63 ∧
      (chkState 0 none none).integ.laneTest.getD 0 none = none ∧ (chkState 0 none none).nrec < 64 ∧
      (chkState 0 none none).dev = stRUN ∧ (chkState 0 none none).evr.queue.length + 1 < 256 := by decide

/-- A device in RUN with the island in state `st` and as `q`. -/
def islState (st : Nat) (q : Safe) : State := { withRegs (inRunState none) [(R.SAFE_STAT, BitVec.ofNat 32 st), (R.PWR_OPSEC, 4000),
    (R.NET_CTRL 0, 0x80000000), (R.NET_CTRL 1, 0x80000000)] with
  safe := q
  net := { ports := [{ started := true }, { started := true }] }
  arch := { axes := { st := axIDLE } :: List.replicate 63 {} } }
/-- The body of a SAFETY record: input 0 EQUIV with FILT 1 and DISC 1, equation 0 as AND of input 0 that acts on channel 0
after 1 ms, channel 0 a BRAKE of axis 0 with TPI 10 and HTINT 1, connection 0 sending and receiving with WDT 2. -/
def islBody : List Byte :=
  List.replicate 16 0 ++ [1, 1, 1, 0, 0, 0, 0, 0] ++ List.replicate 120 0 ++
    ([1, 1, 0, 0, 1, 0, 1, 0, 0xFF, 0xFF, 0, 0] ++ List.replicate 20 0) ++ List.replicate 480 0 ++
    ([2, 10, 50, 0, 10, 0, 0, 0, 10, 0, 0, 0, 1, 0, 0, 0] ++ List.replicate 16 0) ++ List.replicate 224 0 ++
    List.replicate 64 0 ++ ([3, 0, 0, 0, 1, 0, 0, 10] ++ List.replicate 8 0 ++ [1, 0, 2, 0] ++ List.replicate 12 0) ++
    List.replicate 228 0
def upIsland : Safe := { cfg := islBody }
set_option maxRecDepth 8000 in
theorem test_witness_SafetyIsland_cycle :
    (islState islRUN upIsland).wf = true ∧ (islState islRUN upIsland).hasIsland = true ∧
      (islState islRUN upIsland).istate = islRUN ∧ (islState islFAULT upIsland).istate = islFAULT ∧
      (islState islUNCONF { upIsland with again := true }).istate = islUNCONF ∧
      1 ≤ (islState islRUN { upIsland with differ := 1 }).safe.differ ∧ upIsland.chans = [{}, {}] ∧
      (islState islRUN upIsland).evr.queue.length + 40 < 256 := by decide
set_option maxRecDepth 8000 in
theorem test_witness_SafetyIsland_timers :
    let i : IslIn := { comb := some 1, dis := some 0 }
    let o : IslEq := { dem := true, rose := some 0, due := [400000] }
    let s := islState islRUN { upIsland with chans := [{ ins := i :: List.replicate 15 {}, eqs := o :: List.replicate 15 {} }, {}] }
    (s.isl 0).ins.getD 0 {} = i ∧ inDisc s.safe.cfg 0 * edgesPerMs < s.now - 0 ∧
      (o.next (eqLatch s.safe.cfg 0) (eqDelay s.safe.cfg 0) s.now o.dem o.rst.isSome).acts = true ∧
      eqChans s.safe.cfg 0 = 1 := by decide
set_option maxRecDepth 8000 in
theorem test_witness_SafetyIsland_pulse :
    let s := islState islRUN upIsland
    let t := islState islRUN { upIsland with pulses := { phase := 2, n := 1 } :: List.replicate 7 {} }
    s.istate = islRUN ∧ chKind s.safe.cfg 0 ≠ 0 ∧ s.safe.cfault.testBit 0 = false ∧ (s.safe.pulses.getD 0 {}).phase = 0 ∧
      true ≠ s.energised 0 ∧ (s.hold 0).step = 0 ∧ s.chanDemand 0 = false ∧
      (s.safe.pulses.getD 0 {}).last + chTpi s.safe.cfg 0 * edgesPerMs ≤ s.now ∧ (t.safe.pulses.getD 0 {}).phase = 2 ∧
      (t.safe.pulses.getD 0 {}).drop = false := by decide
set_option maxRecDepth 8000 in
theorem test_witness_SafetyIsland_brake :
    let s := islState islRUN { upIsland with due := 1 }
    let t := fun n => islState islRUN { upIsland with holds := { step := n } :: List.replicate 7 {} }
    chTests s.safe.cfg 0 = true ∧ (chHtint s.safe.cfg 0 + chHtgrace s.safe.cfg 0) * 3600 ≤ (s.reg R.PWR_OPSEC).toNat -
        (s.reg (R.SAFE_HTLAST 0)).toNat ∧ s.safe.overdue.testBit 0 = false ∧ s.safe.due.testBit 0 = true ∧
      (s.axis (chAxis s.safe.cfg 0)).st = axIDLE ∧ s.dev = stRUN ∧ s.warm.phase = .none ∧ ((t 1).hold 0).step = 1 ∧
      ((t 2).hold 0).step = 2 ∧ ((t 3).hold 0).step = 3 ∧ ((t 4).hold 0).step = 4 := by decide
def dataFrame (bits : Nat) : List Byte :=
  let h := leBytes 2 0x4453 ++ [1, 0] ++ leBytes 4 5 ++ leBytes 4 bits ++ leBytes 4 (2 ^ 32 - 1 - bits) ++ leBytes 8 0
  h ++ leBytes 4 (crc32c h) ++ leBytes 4 (crc32iso h)
set_option maxRecDepth 8000 in
theorem test_witness_SafetyIsland_data :
    let q : IslConn := { copies := [(1, 5, dataFrame 7)] }
    let s := islState islRUN { upIsland with conns := q :: List.replicate 7 {} }
    s.running = true ∧ s.runningPorts ≠ [] ∧ s.safe.cfg ≠ [] ∧ cnTx s.safe.cfg 0 = true ∧ cnRx s.safe.cfg 0 = true ∧ s.portRuns 0 = true ∧
      (s.conn 0).st ≠ 2 ∧ (s.conn 0).since + cnWdt s.safe.cfg 0 * edgesPerMs ≤ s.now ∧
      (q.copies.find? (fun y => y.1 != 0 && y.2.1 == 5)) = some (1, 5, dataFrame 7) ∧
      s.safetyValid 0 0 (dataFrame 7) = true ∧ s.safetyValid 0 0 (dataFrame 8) = true := by decide


/-! Values that the spec states. -/

/-- The ASCII bytes 1 to 9. -/
def digits : List Byte := [0x31, 0x32, 0x33, 0x34, 0x35, 0x36, 0x37, 0x38, 0x39]
set_option maxRecDepth 30000 in
/-- R616, R90, R596: the check values. -/
theorem test_crc32iso : crc32iso digits = 0xCBF43926 := by decide
set_option maxRecDepth 30000 in
theorem test_crc32c : crc32c digits = 0xE3069283 := by decide
set_option maxRecDepth 30000 in
theorem test_crc16 : crc16ibm digits = 0x29B1 := by decide
set_option maxRecDepth 30000 in
theorem test_crc64 : crc64ecma digits = 0x6C40DF5F0B497347 := by decide
set_option maxRecDepth 30000 in
theorem test_crc8 : crc8 digits = 0xF4 := by decide
/-- R665: CTX is recessive from VIO33 on, and undriven in KEEP. -/
theorem test_ctx : State.reset.ballLevel (.ctx 1) = .high ∧ (deployed stKEEP).ballLevel (.ctx 1) = .highZ := by decide
set_option maxRecDepth 30000 in
/-- R697: 1.0, the limits, the infinities and NaN in Q4.12. -/
theorem test_q412 : [0x3F800000, 0x41000000, 0xC1000000, 0x7F800000, 0xFF800000, 0x7FC00000].map q412 =
    [0x1000, 0x7FFF, 0x8000, 0x7FFF, 0x8000, 0] := by decide
set_option maxRecDepth 30000 in
/-- R233: the last write of a ramp is v1, a linear ramp from 0 to 8 in 4 writes stands at 2 after the first, and an SCURVE is
half way at its midpoint. -/
theorem test_ramp : let r : Ramp := ⟨0, false, 0, 0x41000000, true, 4, 0⟩
    [r.value 1, r.value 2, ({ r with scurve := true } : Ramp).value 2, r.value 4] =
      [0x40000000, 0x40800000, 0x40800000, 0x41000000] := by decide
set_option maxRecDepth 30000 in
/-- The example of R369: with an offset of 40.0 and 1.9531673e-5 V per code, code 100,040 reads 1.953167 V. -/
theorem test_calibrated : fwithin (fmul (fsub (fOfInt 100040) 0x42200000) 0x37A3D7F3) 0x3FFA015C 0x3FFA0165 = true := by decide
set_option maxRecDepth 30000 in
/-- The example of R675: 2 ms of soft start, ILIM 9, FSW 17 is the word 0x0039_0011, which PWRSTAGE admits. -/
theorem test_pwrstage : ((letterTags ltPWRSTAGE).1.map (fun t => t.ok [0x11, 0x00, 0x39, 0x00])) = [true] := by decide
/-- The example of R551: the lap header's time. -/
theorem test_extend : extendTime 5150000 1500012345 (some 26215) 5000000 1717986918 400000000 10000 = 1717986919900012345 := by
  decide
end Sys2Proof.Tests
end

section
/-! SUPPORT. Events and replies among what joined the holding queue and what was sent, and the state that recording events
leaves alone (R510, R515, R601). -/

namespace Sys2Proof.Machine

/-- What stands behind the first `n` elements of a list stands there too once elements join its tail. -/
theorem mem_drop_of_prefix {α : Type} {l m : List α} {x : α} {n : Nat} (g : l <+: m) (h : x ∈ l.drop n) : x ∈ m.drop n := by
  obtain ⟨k, rfl⟩ := g
  rw [List.drop_append]
  exact List.mem_append_left _ h

theorem NewEvent.mono {s t u : State} {c x : Nat} {p q r w : Word} (h : NewEvent s t c x p q r w)
    (g : t.evr.queue <+: u.evr.queue) : NewEvent s u c x p q r w := by
  obtain ⟨e, he, hr⟩ := h
  exact ⟨e, mem_drop_of_prefix g he, hr⟩

/-- A record created behind those of `s` is new since `s`, while the holding queue has room. -/
theorem State.createOne_new {s t : State} (c x : Nat) (p q r w : Word) (hx : x < 256) (hs : s.evr.queue <+: t.evr.queue)
    (ht : t.evr.queue.length < 256) : NewEvent s (t.createOne c x p q r w) c x p q r w := by
  obtain ⟨l, hl⟩ := hs
  refine ⟨t.stamp c x p q r w, ?_, rfl, Nat.mod_eq_of_lt hx, rfl, rfl, rfl, rfl⟩
  rw [State.createOne_queue _ _ _ _ _ _ _ ht, ← hl, List.append_assoc, List.drop_left]
  exact List.mem_append_right _ (List.mem_singleton_self _)

/-- With room in the holding queue, the event recorded joins it (R601). -/
theorem State.raise_new (s : State) (c x : Nat) (p q r w : Word) (hx : x < 256) (h : s.room 1) :
    NewEvent s (s.raise c x p q r w) c x p q r w := by
  have h' : s.evr.queue.length + 1 < 256 := h
  have hlt : s.evr.queue.length < 256 := Nat.lt_of_succ_lt h'
  unfold State.raise
  split
  · exact State.createOne_new _ _ _ _ _ _ hx List.prefix_rfl hlt
  · split
    · exact State.createOne_new _ _ _ _ _ _ hx List.prefix_rfl hlt
    · have hlost : ({ s with evr := { s.evr with lost := none } } : State).evr.queue.length < 256 := hlt
      refine State.createOne_new _ _ _ _ _ _ hx ?_ ?_ <;> rw [State.createOne_queue _ _ _ _ _ _ _ hlost]
      · exact List.prefix_append _ _
      · rw [List.length_append]
        exact h'

theorem Replied.mono {s t u : State} {o : Origin} {m : Nat} {b : List Byte} (h : Replied s t o m b)
    (g : t.out <+: u.out) : Replied s u o m b := by
  obtain ⟨x, hx⟩ := h
  exact ⟨x, mem_drop_of_prefix g hx⟩

theorem Replied.since {r s t : State} {o : Origin} {m : Nat} {b : List Byte} (h : Replied s t o m b)
    (g : r.out <+: s.out) : Replied r t o m b := by
  obtain ⟨x, hx⟩ := h
  exact ⟨x, List.drop_subset_drop_left _ g.length_le hx⟩

theorem State.portRuns_lt {s : State} {p : Nat} (h : s.portRuns p = true) : p < 2 := by
  simp only [State.portRuns, Bool.and_eq_true, decide_eq_true_eq] at h
  obtain ⟨⟨⟨⟨⟨hp, -⟩, -⟩, -⟩, -⟩, -⟩ := h
  exact hp

/-- A reply on a port that runs goes out on that port, and on the other one too where the device duplicates (R141,
R515). -/
theorem State.reply_replied (s : State) (o : Origin) (m : Nat) (b : List Byte) (h : s.portRuns o.port = true) :
    Replied s (s.reply o m b) o m b := by
  unfold State.reply Replied
  split
  · have hp : o.port = 0 ∨ o.port = 1 := by have := State.portRuns_lt h; omega
    exact ⟨some s.net.prpSeq, by rcases hp with hp | hp <;> simp [State.emitOn, State.emit, State.bump, State.bumpBy, hp]⟩
  · exact ⟨none, by simp [State.emitOn, State.emit, State.bump, State.bumpBy]⟩

section
variable {l : List Nat} {s t : State} (h : AlsoEvents l s t)
include h

theorem AlsoEvents.reg {a : Nat} (hl : a ∉ l) (he : a ∉ eventRegs) : t.reg a = s.reg a := h.2.1 a hl he
theorem AlsoEvents.queue : s.evr.queue <+: t.evr.queue := h.2.2.1
theorem AlsoEvents.sent : s.out <+: t.out := h.2.2.2
theorem AlsoEvents.part : t.part = s.part := by rw [h.1]
theorem AlsoEvents.warm : t.warm = s.warm := by rw [h.1]
theorem AlsoEvents.ports : t.net.ports = s.net.ports := by rw [h.1]
theorem AlsoEvents.time : t.time = s.time := by rw [h.1]
theorem AlsoEvents.tick : t.tick = s.tick := by rw [h.1]
theorem AlsoEvents.now : t.now = s.now := by rw [h.1]; rfl

end

/-- The registers that decide whether a port runs (R510). -/
def portRegs : List Nat := [R.DEV_FAILED, R.DEV_FAILED2, R.PWR_STATE, R.NET_CTRL 0, R.NET_CTRL 1]

theorem portRegs_not_eventRegs : ∀ a ∈ portRegs, a ∉ eventRegs := by decide

/-- Where none of those registers changes, recording events neither starts nor stops a port. -/
theorem AlsoEvents.portRuns {l : List Nat} {s t : State} (h : AlsoEvents l s t) (hl : ∀ a ∈ portRegs, a ∉ l) (p : Nat) :
    t.portRuns p = s.portRuns p := by
  have hr : ∀ a ∈ portRegs, t.reg a = s.reg a := fun a ha => h.reg (hl a ha) (portRegs_not_eventRegs a ha)
  by_cases hp : p < 2
  · have hc : t.reg (R.NET_CTRL p) = s.reg (R.NET_CTRL p) := by
      obtain rfl | rfl : p = 0 ∨ p = 1 := by omega
      · exact hr _ (by decide)
      · exact hr _ (by decide)
    have hf : t.usableBit = s.usableBit := by
      funext i
      simp only [State.usableBit, State.presentBit, State.failedBit, State.bitOf, hr R.DEV_FAILED (by decide),
        hr R.DEV_FAILED2 (by decide), h.part]
    simp only [State.portRuns, State.bitOf, State.dev, State.fldOf, State.port, hf, hc, h.ports, h.warm,
      hr R.PWR_STATE (by decide)]
  · simp only [State.portRuns, decide_eq_false hp, Bool.false_and]

end Sys2Proof.Machine
end

section
/-! SUPPORT. A letter that commits: its counts, record and reply come before its effect (R135, R142, R145). -/

namespace Sys2Proof.Machine

/-- `s` once the commit of `l` is counted and recorded, before its reply. -/
def State.recorded (s : State) (l : Letter) : State :=
  let s := (s.bump R.SEAL_COMMITCNT).noteLast (letterId l) 0
  if ltCALIBRATE ≤ l.typ then
    s.raise 0x3002 noSource (BitVec.ofNat 32 l.typ) (BitVec.ofNat 32 l.keyslot) (BitVec.ofNat 32 l.seq) 0
  else s

/-- `s` once the commit of `l` is counted, recorded and answered: the state on which the letter's effect acts. -/
def State.committed (s : State) (l : Letter) : State :=
  let t := s.recorded l
  if t.letterReplied l.typ then t.letterReply l.org 0 0 (letterId l) else t

theorem State.letterCommit_eq (s : State) (v : CommitEnv) (l : Letter) :
    s.letterCommit v l = (s.committed l).letterEffect v l := rfl

theorem CommitsAt.letterCmd {b s : State} {l : Letter} {typ : Nat} (h : CommitsAt b s { l with typ := typ })
    (v : CommitEnv) :
    b.letterCmd typ v l = .next ((s.committed { l with typ := typ }).letterEffect v { l with typ := typ }) := by
  obtain ⟨rfl, hc, hf⟩ := h
  simp only [State.letterCmd, hc, if_true, State.letterAtCommit, hf, State.letterCommit_eq]

theorem State.recorded_frame (s : State) (l : Letter) : AlsoEvents commitRegs s (s.recorded l) := by
  have h : AlsoEvents commitRegs s ((s.bump R.SEAL_COMMITCNT).noteLast (letterId l) 0) :=
    ((AlsoEvents.refl _ s).setReg _ (by decide)).setReg _ (by decide)
  exact .ite (h.raise _ _ _ _ _ _) h

theorem State.committed_after_recorded (s : State) (l : Letter) : AlsoEvents [] (s.recorded l) (s.committed l) :=
  .ite ((AlsoEvents.refl _ _).reply _ _ _) (.refl _ _)

/-- A commit changes the letters' counts and what events and frames change, until its effect. -/
theorem State.committed_frame (s : State) (l : Letter) : AlsoEvents commitRegs s (s.committed l) :=
  (s.recorded_frame l).trans ((s.committed_after_recorded l).mono (fun _ h => absurd h List.not_mem_nil))

theorem commitRegs_not_eventRegs : ∀ a ∈ commitRegs, a ∉ eventRegs := by decide

theorem State.committed_reg (s : State) (l : Letter) {a : Nat} (ha : a ∈ commitRegs) :
    (s.committed l).reg a = ((s.bump R.SEAL_COMMITCNT).noteLast (letterId l) 0).reg a := by
  have he := commitRegs_not_eventRegs a ha
  have hr : AlsoEvents [] ((s.bump R.SEAL_COMMITCNT).noteLast (letterId l) 0) (s.recorded l) :=
    .ite ((AlsoEvents.refl _ _).raise _ _ _ _ _ _) (.refl _ _)
  exact ((s.committed_after_recorded l).reg List.not_mem_nil he).trans (hr.reg List.not_mem_nil he)

theorem portRegs_not_commitRegs : ∀ a ∈ portRegs, a ∉ commitRegs := by decide

/-- The counts of a commit do not decide whether its letter is answered. -/
theorem State.recorded_letterReplied (s : State) (l : Letter) (typ : Nat) :
    (s.recorded l).letterReplied typ = s.letterReplied typ := by
  have h := s.recorded_frame l
  have hst : (s.recorded l).reg R.PWR_STATE = s.reg R.PWR_STATE := h.reg (by decide) (by decide)
  simp only [State.letterReplied, State.dev, State.fldOf, State.repeatCause, hst, h.warm, h.now]

theorem State.recorded_new (s : State) (l : Letter) (ht : ltCALIBRATE ≤ l.typ) (hr : s.room 1) :
    NewEvent s (s.recorded l) 0x3002 noSource (BitVec.ofNat 32 l.typ) (BitVec.ofNat 32 l.keyslot)
      (BitVec.ofNat 32 l.seq) 0 := by
  unfold State.recorded
  rw [if_pos ht]
  exact State.raise_new ((s.bump R.SEAL_COMMITCNT).noteLast (letterId l) 0) _ _ _ _ _ _ (by decide) hr

/-- What precedes a letter's effect makes the commit complete (R135, R142, R145). -/
theorem State.committed_committed (s : State) (l : Letter) : Committed s (s.committed l) l := by
  have hrec := s.recorded_frame l
  have hafter := s.committed_after_recorded l
  refine ⟨?_, ?_, fun hl hp => ?_, fun ht hr => (s.recorded_new l ht hr).mono hafter.queue⟩
  · rw [s.committed_reg l (by decide)]
    simp [State.noteLast, R.SEAL_COMMITCNT, R.SEAL_LAST]
  · rw [s.committed_reg l (by decide)]
    simp [State.noteLast, letterId]
  · have hreply : s.committed l = (s.recorded l).letterReply l.org 0 0 (letterId l) := by
      simp only [State.committed, s.recorded_letterReplied, hl, if_true]
    have hport : (s.recorded l).portRuns l.org.port = true := by
      rw [hrec.portRuns portRegs_not_commitRegs, hp]
    have hpay : replyPayload (s.recorded l) 0 0 (letterId l) = replyPayload s 0 0 (letterId l) := by
      simp only [replyPayload, hrec.tick]
    rw [hreply, ← hpay]
    exact (State.reply_replied _ _ _ _ hport).since hrec.sent

/-- A commit stands through an effect that spares the letters' counts and takes back no record and no frame. -/
theorem Committed.mono {s t u : State} {l : Letter} (h : Committed s t l)
    (hr : ∀ a ∈ commitRegs, u.reg a = t.reg a) (hq : t.evr.queue <+: u.evr.queue) (ho : t.out <+: u.out) :
    Committed s u l := by
  obtain ⟨hcnt, hlast, hreply, hev⟩ := h
  exact ⟨(hr _ (by decide)).trans hcnt, (hr _ (by decide)).trans hlast, fun a b => (hreply a b).mono ho,
    fun a b => (hev a b).mono hq⟩

end Sys2Proof.Machine
end

section
/-! SUPPORT. Steps of the time counter (R541, R545, R548, R555). -/

namespace Sys2Proof.Machine

/-! Bits of a register after a write of one. -/

theorem bit_setFld_one (w : Word) {i : Nat} (hi : i < 32) : bit (setFld w i i 1) i = true := by
  have hm : (1 % 2 ^ (i + 1 - i)) * 2 ^ i = 2 ^ i := by
    rw [Nat.add_sub_cancel_left, Nat.pow_one, Nat.mod_eq_of_lt Nat.one_lt_two, Nat.one_mul]
  simp only [bit, setFld, hm, BitVec.getLsbD_or, BitVec.getLsbD_ofNat, hi, Nat.testBit_two_pow_self, decide_true,
    Bool.and_self, Bool.or_true]

theorem State.bitOf_timeFlag (s : State) {i : Nat} (hi : i < 32) : (s.timeFlag i true).bitOf R.TIME_STAT i = true := by
  simp only [State.bitOf, State.timeFlag, State.reg_putFld, if_true]
  exact bit_setFld_one _ hi

/-! The counter. -/

theorem counterSpan_pos : (0 : Int) < (counterSpan : Nat) := by decide

theorem Time.unitsAt_lt (t : Time) (e : Nat) : t.unitsAt e < counterSpan := by
  have := Int.emod_lt_of_pos ((t.acc : Int) + ((e : Int) - t.base) * (10000000000000 + t.rq)) counterSpan_pos
  have := Int.emod_nonneg ((t.acc : Int) + ((e : Int) - t.base) * (10000000000000 + t.rq)) (Int.ne_of_gt counterSpan_pos)
  unfold Time.unitsAt
  omega

/-- At its base the counter reads what it holds. -/
theorem Time.unitsAt_base {t : Time} (h : t.acc < counterSpan) : t.unitsAt t.base = t.acc := by
  unfold Time.unitsAt
  rw [Int.sub_self, Int.zero_mul, Int.add_zero, Int.emod_eq_of_lt (Int.natCast_nonneg _) (by exact_mod_cast h),
    Int.toNat_natCast]

theorem State.rebase_nsAt (s : State) : s.rebase.nsAt s.now = s.nsAt s.now :=
  congrArg (· / unitsPerNs) (Time.unitsAt_base (t := s.rebase.time) (s.time.unitsAt_lt s.now))

/-- The counter moved by `d` ns, its base at the present moment. -/
def State.moveCounter (s : State) (d : Int) : State :=
  s.rebase.modTime (fun t => { t with acc := (((t.acc : Int) + d * unitsPerNs) % (counterSpan : Int)).toNat })

@[simp] theorem State.moveCounter_reg (s : State) (d : Int) (a : Nat) : (s.moveCounter d).reg a = s.reg a := rfl

/-- Whole ns of a counter moved by whole ns: the fraction of a ns stays (log 22). -/
theorem counter_ns_add (x d : Int) :
    (x + d * unitsPerNs) % (counterSpan : Nat) / unitsPerNs = (x / unitsPerNs + d) % (2 ^ 48 * nsPerSec : Nat) := by
  have hs : (counterSpan : Int) = (unitsPerNs : Int) * (2 ^ 48 * nsPerSec : Nat) := by decide
  have hu : (0 : Int) < unitsPerNs := by decide
  rw [hs, Int.emod_def, Int.mul_assoc, Int.sub_mul_ediv_left _ _ (Int.ne_of_gt hu), ← Int.ediv_ediv_of_nonneg (Int.le_of_lt hu),
    Int.add_mul_ediv_right _ _ (Int.ne_of_gt hu), Int.emod_def]

theorem State.moveCounter_nsAt (s : State) (d : Int) :
    ((s.moveCounter d).nsAt s.now : Int) = ((s.nsAt s.now : Int) + d) % (2 ^ 48 * nsPerSec : Nat) := by
  have hlt : (s.moveCounter d).time.acc < counterSpan := by
    have := Int.emod_lt_of_pos ((s.time.unitsAt s.now : Int) + d * unitsPerNs) counterSpan_pos
    have := Int.emod_nonneg ((s.time.unitsAt s.now : Int) + d * unitsPerNs) (Int.ne_of_gt counterSpan_pos)
    show (((s.time.unitsAt s.now : Int) + d * unitsPerNs) % (counterSpan : Int)).toNat < counterSpan
    omega
  have hacc : (s.moveCounter d).time.unitsAt s.now =
      (((s.time.unitsAt s.now : Int) + d * unitsPerNs) % (counterSpan : Int)).toNat := Time.unitsAt_base hlt
  have := Int.emod_nonneg ((s.time.unitsAt s.now : Int) + d * unitsPerNs) (Int.ne_of_gt counterSpan_pos)
  simp only [State.nsAt, hacc, Int.natCast_ediv, Int.toNat_of_nonneg this, counter_ns_add]

/-! Armed pulse generators after a step. -/

/-- The control and status registers of the pulse generators. -/
def tpoRegs : List Nat := (List.range 4).flatMap (fun n => [R.TPO_CTRL n, R.TPO_STAT n])

theorem tpoRegs_mem {n : Nat} (hn : n < 4) : R.TPO_CTRL n ∈ tpoRegs ∧ R.TPO_STAT n ∈ tpoRegs := by
  constructor <;> exact List.mem_flatMap.2 ⟨n, List.mem_range.2 hn, by simp⟩

/-- `t` is `s` but for the pulse generators and their registers. -/
def TpoOnly (s t : State) : Prop := OnlyRegs tpoRegs { s with time := { s.time with tpo := t.time.tpo } } t

theorem TpoOnly.refl (s : State) : TpoOnly s s := OnlyRegs.refl _ s

theorem TpoOnly.trans {s t u : State} (h : TpoOnly s t) (g : TpoOnly t u) : TpoOnly s u :=
  ⟨by rw [g.1, h.1], fun a ha => (g.2 a ha).trans (h.2 a ha)⟩

theorem TpoOnly.onlyRegs {s t u : State} (h : TpoOnly s t) (g : OnlyRegs tpoRegs t u) : TpoOnly s u :=
  h.trans ⟨by rw [g.1], g.2⟩

theorem TpoOnly.modTpo {s t : State} (n : Nat) (f : Tpo → Tpo) (h : TpoOnly s t) : TpoOnly s (t.modTpo n f) :=
  h.trans ⟨rfl, fun _ _ => rfl⟩

theorem TpoOnly.disarm {s t : State} {n : Nat} (hn : n < 4) (h : TpoOnly s t) : TpoOnly s (t.disarm n) :=
  h.onlyRegs (((OnlyRegs.refl _ t).clrReg _ (tpoRegs_mem hn).1).clrReg _ (tpoRegs_mem hn).2)

theorem TpoOnly.ite {s t u : State} {p : Prop} [Decidable p] (h : TpoOnly s t) (g : TpoOnly s u) :
    TpoOnly s (if p then t else u) := by
  split
  · exact h
  · exact g

theorem TpoOnly.tpoAfterStep {s t : State} (d : Int) {n : Nat} (hn : n < 4) (h : TpoOnly s t) :
    TpoOnly s (t.tpoAfterStep d n) := by
  have hnext := h.modTpo n (fun g => { g with next := (t.tpo n).firstAfter (t.nsAt t.now) })
  have hmiss := TpoOnly.ite (p := (!(t.tpo n).periodic && (t.tpo n).firstAfter (t.nsAt t.now) != 0 ||
      (decide (0 < d) && decide ((t.tpo n).at (t.tpo n).next ≤ t.nsAt t.now))) = true)
    (hnext.onlyRegs ((OnlyRegs.refl _ _).orReg 2 (tpoRegs_mem hn).2)) hnext
  exact .ite h (.ite (hmiss.disarm hn) hmiss)

/-- What a step does to the four generators. -/
def State.tpoStepped (s : State) (d : Int) : State := forUpTo 4 (fun n s => s.tpoAfterStep d n) s

theorem State.tpoStepped_only (s : State) (d : Int) : TpoOnly s (s.tpoStepped d) :=
  ((((TpoOnly.refl s).tpoAfterStep d (by decide)).tpoAfterStep d (by decide)).tpoAfterStep d (by decide)).tpoAfterStep d
    (by decide)

theorem TpoOnly.nsAt {s t : State} (h : TpoOnly s t) (e : Nat) : t.nsAt e = s.nsAt e := by
  rw [h.1]
  rfl

theorem TpoOnly.now {s t : State} (h : TpoOnly s t) : t.now = s.now := by
  rw [h.1]
  rfl

/-! Events beside a change of the time unit. -/

/-- `t` is `s` but for the time unit, registers of `l`, and what recording events does. -/
def AlsoTime (l : List Nat) (s t : State) : Prop := AlsoEvents l { s with time := t.time } t

theorem AlsoEvents.withTime {l : List Nat} {s t : State} (x : Time) (h : AlsoEvents l s t) :
    AlsoEvents l { s with time := x } { t with time := x } :=
  ⟨by rw [h.1], h.2⟩

theorem AlsoTime.of_alsoEvents {l : List Nat} {s t : State} (h : AlsoEvents l s t) : AlsoTime l s t := h.withTime t.time

theorem AlsoTime.trans {l : List Nat} {s t u : State} (h : AlsoTime l s t) (g : AlsoTime l t u) : AlsoTime l s u :=
  (AlsoEvents.withTime u.time h).trans g

theorem AlsoTime.mono {l k : List Nat} {s t : State} (hl : ∀ a ∈ l, a ∈ k) (h : AlsoTime l s t) : AlsoTime k s t :=
  AlsoEvents.mono hl h

theorem AlsoTime.of_tpoOnly {l : List Nat} {s t : State} (hl : ∀ a ∈ tpoRegs, a ∈ l) (h : TpoOnly s t) : AlsoTime l s t :=
  AlsoEvents.mono hl (.of_onlyRegs ⟨by rw [h.1], h.2⟩)

theorem AlsoTime.modTime (l : List Nat) (s : State) (f : Time → Time) : AlsoTime l s (s.modTime f) := .refl _ _

theorem AlsoTime.reg {l : List Nat} {s t : State} (h : AlsoTime l s t) {a : Nat} (hl : a ∉ l) (he : a ∉ eventRegs) :
    t.reg a = s.reg a := AlsoEvents.reg h hl he

theorem AlsoTime.queue {l : List Nat} {s t : State} (h : AlsoTime l s t) : s.evr.queue <+: t.evr.queue :=
  AlsoEvents.queue (s := { s with time := t.time }) h

theorem AlsoTime.sent {l : List Nat} {s t : State} (h : AlsoTime l s t) : s.out <+: t.out :=
  AlsoEvents.sent (s := { s with time := t.time }) h

theorem AlsoTime.now {l : List Nat} {s t : State} (h : AlsoTime l s t) : t.now = s.now := by
  rw [h.1]
  rfl

/-! A step. -/

/-- The registers that a step of the counter changes, beside those of events. -/
def stepRegs : List Nat := R.TIME_STAT :: R.TIME_STEPS :: tpoRegs

/-- A step before its events: the counter moves, the time is valid, and the step is counted (R545). -/
def State.stepCounted (s : State) (d : Int) : State := ((s.moveCounter d).timeFlag 0 true).bump R.TIME_STEPS

/-- A step with its events EV_TIME_STEP and EV_TIME_MARK, before the pulse generators follow it. -/
def State.stepMarked (s : State) (d : Int) : State :=
  let s := s.stepCounted d
  let w := words64 d
  (s.raise 0x4001 noSource w.1 w.2 (BitVec.ofNat 32 (s.secAt s.now)) s.tickLo).timeMark

theorem State.timeStep_eq (s : State) (d : Int) : s.timeStep d = (s.stepMarked d).tpoStepped d := rfl

theorem State.stepMarked_events (s : State) (d : Int) : AlsoEvents [] (s.stepCounted d) (s.stepMarked d) :=
  ((AlsoEvents.refl _ _).raise _ _ _ _ _ _).raise _ _ _ _ _ _

theorem State.stepCounted_frame (s : State) (d : Int) : AlsoTime stepRegs s (s.stepCounted d) := by
  have hmove : AlsoTime stepRegs s (s.moveCounter d) := .refl _ _
  exact hmove.trans (.of_alsoEvents (((AlsoEvents.refl _ _).setReg _ (by decide)).setReg _ (by decide)))

/-- A step changes the time unit, its STAT and STEPS, and the pulse generators; all else that changes is its events. -/
theorem State.timeStep_frame (s : State) (d : Int) : AlsoTime stepRegs s (s.timeStep d) := by
  have hmark : AlsoTime stepRegs (s.stepCounted d) (s.stepMarked d) :=
    .of_alsoEvents ((s.stepMarked_events d).mono (fun _ h => absurd h List.not_mem_nil))
  have htpo : AlsoTime stepRegs (s.stepMarked d) (s.timeStep d) :=
    .of_tpoOnly (fun _ h => List.mem_cons_of_mem _ (List.mem_cons_of_mem _ h)) ((s.stepMarked d).tpoStepped_only d)
  exact ((s.stepCounted_frame d).trans hmark).trans htpo

theorem State.timeStep_reg (s : State) (d : Int) {a : Nat} (ht : a ∉ tpoRegs) (he : a ∉ eventRegs) :
    (s.timeStep d).reg a = (s.stepCounted d).reg a :=
  (((s.stepMarked d).tpoStepped_only d).2 a ht).trans ((s.stepMarked_events d).reg List.not_mem_nil he)

/-- A step is counted and makes the time valid (R545). -/
theorem State.timeStep_counted (s : State) (d : Int) :
    (s.timeStep d).reg R.TIME_STEPS = satAdd (s.reg R.TIME_STEPS) 1 ∧ (s.timeStep d).timeValid = true := by
  constructor
  · rw [s.timeStep_reg d (by decide) (by decide)]
    simp [State.stepCounted, State.timeFlag, R.TIME_STEPS, R.TIME_STAT]
  · simp only [State.timeValid, State.bitOf, s.timeStep_reg d (a := R.TIME_STAT) (by decide) (by decide)]
    have hne : R.TIME_STAT ≠ R.TIME_STEPS := by decide
    rw [State.stepCounted, State.reg_bump, if_neg hne]
    exact (s.moveCounter d).bitOf_timeFlag (by decide)

/-- A step moves the counter by its whole ns, modulo the span of SEC (R541, R545). -/
theorem State.timeStep_nsAt (s : State) (d : Int) :
    ((s.timeStep d).nsAt s.now : Int) = ((s.nsAt s.now : Int) + d) % (2 ^ 48 * nsPerSec : Nat) := by
  have hev : (s.stepMarked d).nsAt s.now = (s.stepCounted d).nsAt s.now := by
    simp only [State.nsAt, (s.stepMarked_events d).time]
  rw [s.timeStep_eq, ((s.stepMarked d).tpoStepped_only d).nsAt, hev]
  exact s.moveCounter_nsAt d

/-! The counter set by a letter (R548). -/

theorem State.timeSet_frame (s : State) (sec ns : Nat) : AlsoTime stepRegs s (s.timeSet sec ns) :=
  (AlsoTime.modTime _ s _).trans (s.rebase.timeStep_frame _)

/-- The counter set to a time within its span shows it at once. -/
theorem State.timeSet_nsAt (s : State) {sec ns : Nat} (hs : sec < 2 ^ 48) (hn : ns < nsPerSec) :
    (s.timeSet sec ns).nsAt s.now = sec * nsPerSec + ns := by
  have hset : s.timeSet sec ns = s.rebase.timeStep (((sec * nsPerSec + ns : Nat) : Int) - (s.rebase.nsAt s.now : Nat)) := rfl
  have hnow : s.rebase.now = s.now := rfl
  have hb : sec * nsPerSec + ns < 2 ^ 48 * nsPerSec := by
    simp only [nsPerSec] at hn ⊢
    omega
  have hd : ∀ x y : Int, x + (y - x) = y := fun x y => by omega
  apply Int.natCast_inj.1
  rw [hset, ← hnow, State.timeStep_nsAt, hnow, hd, ← Int.natCast_emod, Nat.mod_eq_of_lt hb]

end Sys2Proof.Machine
end

section
/-! SUPPORT. What the tag table of a letter's type says of the records that its body's groups hold (R127). -/

namespace Sys2Proof.Machine

/-- A group holds only records that a place of the tag table admits. -/
theorem takeGroup_ok (stop : Nat) (sps : List TagSpec) (ts : List Tlv) :
    ∀ x ∈ (takeGroup stop sps ts).1, ∃ sp ∈ sps, sp.tag = x.tag ∧ sp.ok x.val = true := by
  induction sps generalizing ts with
  | nil => simp [takeGroup]
  | cons sp r ih =>
    have lift : ∀ us, ∀ x ∈ (takeGroup stop r us).1, ∃ q ∈ sp :: r, q.tag = x.tag ∧ q.ok x.val = true := fun us x hx => by
      obtain ⟨q, hq, h⟩ := ih us x hx
      exact ⟨q, List.mem_cons_of_mem _ hq, h⟩
    cases ts with
    | nil =>
      simp only [takeGroup]
      split
      · simp
      · exact lift []
    | cons t ts =>
      simp only [takeGroup]
      split
      · next htag =>
        split
        · next hok => exact List.forall_mem_cons.2 ⟨⟨sp, List.mem_cons_self, htag.symm, hok⟩, lift ts⟩
        · simp
      · split
        · simp
        · exact lift (t :: ts)

theorem takeGroups_mem {stop n : Nat} {sp : List TagSpec} {ts g : List Tlv} (h : g ∈ (takeGroups stop sp n ts).1) :
    ∃ us, g = (takeGroup stop sp us).1 := by
  induction n generalizing ts with
  | zero => cases ts <;> simp [takeGroups] at h
  | succ n ih =>
    cases ts with
    | nil => simp [takeGroups] at h
    | cons t ts =>
      simp only [takeGroups] at h
      split at h
      · exact ⟨_, List.mem_singleton.1 h⟩
      · split at h
        · simp at h
        · rcases List.mem_cons.1 h with h | h
          · exact ⟨_, h⟩
          · exact ih h

/-- A tag of a letter's first group has the LEN and range of its place in the table of the letter's type. -/
theorem tagIn_bodyGroup_ok {l : Letter} {n : Nat} {x : Tlv} (h : tagIn (bodyGroup l) n = some x) :
    ∃ sp ∈ (letterTags l.typ).1, sp.tag = n ∧ sp.ok x.val = true := by
  have hx : x ∈ bodyGroup l := List.mem_of_find?_eq_some h
  have ht : x.tag = n := by simpa using List.find?_some h
  have hg : bodyGroup l ∈ (letterBody l).1 := by
    unfold bodyGroup at hx ⊢
    cases hb : (letterBody l).1 with
    | nil => simp [hb] at hx
    | cons g r => exact List.mem_cons_self
  unfold letterBody at hg
  dsimp only at hg
  split at hg
  · simp at hg
  · obtain ⟨us, hus⟩ := takeGroups_mem hg
    rw [hus] at hx
    rw [← ht]
    exact takeGroup_ok _ _ _ _ hx

end Sys2Proof.Machine
end

section
/-! Committed TIME_RESTEP, REGWRITE and PWRSTAGE letters (R48, R139, R548). -/

namespace Sys2Proof.Machine

/-- The counter after a TIME_RESTEP letter whose first group is `g`: set where tag 1 gives its time. -/
def State.restepped (s : State) (g : List Tlv) : State :=
  match tagIn g 1 with
  | some x => s.timeSet (uAt x.val 0 8) (uAt x.val 8 4)
  | none => s

/-- TIME.UTCOFS after the letter: set where tag 2 gives it. -/
def State.utcSet (s : State) (g : List Tlv) : State :=
  match tagIn g 2 with
  | some x => s.setReg R.TIME_UTCOFS (BitVec.ofNat 32 x.u)
  | none => s

theorem State.doTimeRestep_of_empty {s : State} {l : Letter} (h : bodyGroup l = []) :
    s.doTimeRestep l = s.timeFlag 5 true := by
  simp only [State.doTimeRestep, h, if_true]

theorem State.doTimeRestep_of_tags {s : State} {l : Letter} (h : bodyGroup l ≠ []) :
    s.doTimeRestep l = (s.restepped (bodyGroup l)).utcSet (bodyGroup l) := by
  simp only [State.doTimeRestep, if_neg h]
  rfl

theorem State.utcSet_frame (s : State) (g : List Tlv) : OnlyRegs [R.TIME_UTCOFS] s (s.utcSet g) := by
  unfold State.utcSet
  split
  · exact (OnlyRegs.refl _ s).setReg _ (by decide)
  · exact .refl _ s

theorem State.restepped_frame (s : State) (g : List Tlv) : AlsoTime stepRegs s (s.restepped g) := by
  unfold State.restepped
  split
  · exact s.timeSet_frame _ _
  · exact .refl _ s

theorem State.utcSet_time (s : State) (g : List Tlv) : (s.utcSet g).time = s.time := by rw [(s.utcSet_frame g).1]

theorem State.utcSet_other (s : State) (g : List Tlv) {a : Nat} (ha : a ≠ R.TIME_UTCOFS) : (s.utcSet g).reg a = s.reg a :=
  (s.utcSet_frame g).2 a (by simpa using ha)

theorem State.restepped_reg (s : State) (g : List Tlv) {a : Nat} (ha : a ∉ stepRegs) (he : a ∉ eventRegs) :
    (s.restepped g).reg a = s.reg a := (s.restepped_frame g).reg ha he

theorem State.doTimeRestep_frame (s : State) (l : Letter) : AlsoTime (R.TIME_UTCOFS :: stepRegs) s (s.doTimeRestep l) := by
  by_cases h : bodyGroup l = []
  · rw [State.doTimeRestep_of_empty h]
    exact .of_alsoEvents ((AlsoEvents.refl _ s).setReg _ (by decide))
  · rw [State.doTimeRestep_of_tags h]
    have hset := (s.restepped (bodyGroup l)).utcSet_frame (bodyGroup l)
    refine ((s.restepped_frame (bodyGroup l)).mono fun _ ha => List.mem_cons_of_mem _ ha).trans (.of_alsoEvents ?_)
    exact (AlsoEvents.of_onlyRegs hset).mono fun _ ha => List.mem_cons.2 (.inl (List.mem_singleton.1 ha))

/-- TIME.UTCOFS takes the value of tag 2 (R548). -/
theorem State.doTimeRestep_utcofs (s : State) {l : Letter} {x : Tlv} (h2 : tagIn (bodyGroup l) 2 = some x) :
    (s.doTimeRestep l).reg R.TIME_UTCOFS = BitVec.ofNat 32 x.u := by
  have hne : bodyGroup l ≠ [] := fun e => by simp [e, tagIn] at h2
  simp only [State.doTimeRestep_of_tags hne, State.utcSet, h2, State.reg_setReg, if_true]

/-- Without tag 2 the letter leaves TIME.UTCOFS as it is. -/
theorem State.doTimeRestep_utcofs_unset (s : State) {l : Letter} (h2 : tagIn (bodyGroup l) 2 = none) :
    (s.doTimeRestep l).reg R.TIME_UTCOFS = s.reg R.TIME_UTCOFS := by
  by_cases h : bodyGroup l = []
  · simp [State.doTimeRestep_of_empty h, State.timeFlag, R.TIME_UTCOFS, R.TIME_STAT]
  · simp only [State.doTimeRestep_of_tags h, State.utcSet, h2]
    exact s.restepped_reg _ (by decide) (by decide)

/-- Without tag 1 the letter leaves the counter as it is. -/
theorem State.doTimeRestep_unset (s : State) {l : Letter} (h1 : tagIn (bodyGroup l) 1 = none) :
    (s.doTimeRestep l).time = s.time ∧ (s.doTimeRestep l).reg R.TIME_STEPS = s.reg R.TIME_STEPS := by
  by_cases h : bodyGroup l = []
  · rw [State.doTimeRestep_of_empty h]
    exact ⟨rfl, by simp [State.timeFlag, R.TIME_STEPS, R.TIME_STAT]⟩
  · rw [State.doTimeRestep_of_tags h, State.utcSet_time, State.utcSet_other _ _ (by decide)]
    simp only [State.restepped, h1, and_self]

/-- The time that tag 1 of a TIME_RESTEP letter gives lies within the counter's span (R548). -/
theorem restepTag_ok {l : Letter} {x : Tlv} (hl : l.typ = ltTIMERESTEP) (h : tagIn (bodyGroup l) 1 = some x) :
    uAt x.val 0 8 < 2 ^ 48 ∧ uAt x.val 8 4 < nsPerSec := by
  obtain ⟨sp, hsp, htag, hok⟩ := tagIn_bodyGroup_ok h
  have htable : (letterTags ltTIMERESTEP).1 =
    [⟨1, false, fun v => v.length == 12 && decide (uAt v 0 8 < 2 ^ 48) && decide (uAt v 8 4 < nsPerSec)⟩,
      ⟨2, false, is4 (fun v => decide (-1000 ≤ signedOf 32 v) && decide (signedOf 32 v ≤ 1000))⟩] := rfl
  rw [hl, htable] at hsp
  simp only [List.mem_cons, List.not_mem_nil, or_false] at hsp
  rcases hsp with rfl | rfl
  · simp only [Bool.and_eq_true, decide_eq_true_eq] at hok
    obtain ⟨⟨-, hsec⟩, hns⟩ := hok
    exact ⟨hsec, hns⟩
  · simp at htag

/-- With tag 1 the counter shows the time given, which counts as a step and makes the time valid (R548). -/
theorem State.doTimeRestep_set (s : State) {l : Letter} {x : Tlv} (hl : l.typ = ltTIMERESTEP)
    (h1 : tagIn (bodyGroup l) 1 = some x) :
    (s.doTimeRestep l).nsAt s.now = uAt x.val 0 8 * nsPerSec + uAt x.val 8 4 ∧ (s.doTimeRestep l).timeValid = true ∧
      (s.doTimeRestep l).reg R.TIME_STEPS = satAdd (s.reg R.TIME_STEPS) 1 := by
  obtain ⟨hsec, hns⟩ := restepTag_ok hl h1
  have hne : bodyGroup l ≠ [] := fun e => by simp [e, tagIn] at h1
  have hset : s.restepped (bodyGroup l) = s.timeSet (uAt x.val 0 8) (uAt x.val 8 4) := by simp only [State.restepped, h1]
  obtain ⟨hsteps, hvalid⟩ := s.rebase.timeStep_counted
    (((uAt x.val 0 8 * nsPerSec + uAt x.val 8 4 : Nat) : Int) - (s.rebase.nsAt s.rebase.now : Nat))
  rw [State.doTimeRestep_of_tags hne, hset]
  refine ⟨?_, ?_, ?_⟩
  · rw [State.nsAt, State.utcSet_time]
    exact s.timeSet_nsAt hsec hns
  · rw [State.timeValid, State.bitOf, State.utcSet_other _ _ (by decide)]
    exact hvalid
  · rw [State.utcSet_other _ _ (by decide)]
    exact hsteps

/-- What TIME_RESTEP changes spares the letters' counts. -/
theorem commitRegs_not_restepRegs : ∀ a ∈ commitRegs, a ∉ R.TIME_UTCOFS :: stepRegs := by decide

/-- The command of a TIME_RESTEP letter that commits makes the letter's effect, and the commit stands in what that leaves. -/
theorem timeRestep_commits {b s : State} {l : Letter} (h : CommitsAt b s { l with typ := ltTIMERESTEP }) :
    let m : Letter := { l with typ := ltTIMERESTEP }
    exec (.timeRestep l) b = .next ((s.committed m).doTimeRestep m) ∧ Committed s ((s.committed m).doTimeRestep m) m := by
  intro m
  have hframe := (s.committed m).doTimeRestep_frame m
  exact ⟨h.letterCmd _, (s.committed_committed m).mono
    (fun a ha => hframe.reg (commitRegs_not_restepRegs a ha) (commitRegs_not_eventRegs a ha)) hframe.queue hframe.sent⟩

/-- Settles O33: what precedes a letter's effect completes its commit (`committed_committed`), and the effect of each of the
three types acts on that state. -/
theorem restepRegwritePwrstage : Obligations.RestepRegwritePwrstage := by
  unfold Obligations.RestepRegwritePwrstage
  intro b s l
  refine ⟨fun h => ?_, fun x h hx => ?_, fun h => ?_⟩
  · obtain ⟨hexec, hcommit⟩ := timeRestep_commits h
    generalize hm : ({ l with typ := ltTIMERESTEP } : Letter) = m at *
    have hu := s.committed_frame m
    have hframe := (s.committed m).doTimeRestep_frame m
    have hsteps : (s.committed m).reg R.TIME_STEPS = s.reg R.TIME_STEPS := hu.reg (by decide) (by decide)
    have hutc : (s.committed m).reg R.TIME_UTCOFS = s.reg R.TIME_UTCOFS := hu.reg (by decide) (by decide)
    refine ⟨_, hexec, hcommit, ?_, fun he => ?_, ?_, ?_⟩
    · exact ((AlsoTime.of_alsoEvents hu).mono (by decide)).trans (hframe.mono (by decide))
    · rw [State.doTimeRestep_of_empty he]
      exact State.bitOf_timeFlag _ (by decide)
    · split
      · next x hx =>
        rw [hframe.now, ← hsteps]
        exact (s.committed m).doTimeRestep_set (hm ▸ rfl) hx
      · next hx =>
        rw [← hsteps, ← hu.time]
        exact (s.committed m).doTimeRestep_unset hx
    · split
      · next x hx => exact (s.committed m).doTimeRestep_utcofs hx
      · next hx => exact ((s.committed m).doTimeRestep_utcofs_unset hx).trans hutc
  · refine ⟨_, h.letterCmd _, _, s.committed_committed _, s.committed_frame _, ?_⟩
    simp only [State.letterEffect, State.doRegwrite, hx]
    rfl
  · have hu := s.committed_frame { l with typ := ltPWRSTAGE }
    refine ⟨_, h.letterCmd _, (s.committed_committed _).mono (fun _ _ => rfl) List.prefix_rfl List.prefix_rfl, ?_, hu.2⟩
    simp only [State.letterEffect, State.doPwrstage]
    rw [hu.1]
    rfl

end Sys2Proof.Machine
end

section
/-! SUPPORT. Bad accesses and writes of registers (R8, R10, R31, R121, R607, R691). -/

namespace Sys2Proof.Machine

/-! Bad accesses. -/

theorem State.raiseLimited_none {s : State} {k c : Nat} (x : Nat) (p q r w : Word) (h : s.window? c k = none) :
    s.raiseLimited k c x p q r w =
      let t := s.raise c x p q r w
      { t with evr := { t.evr with windows := t.evr.windows ++ [⟨c, k, 0, x, 0, 0, 0, 0⟩] } } := by
  simp only [State.raiseLimited, h]

theorem State.raiseLimited_some {s : State} {k c : Nat} (x : Nat) (p q r w : Word) (h : s.window? c k ≠ none) :
    s.raiseLimited k c x p q r w = s := by
  obtain ⟨v, hv⟩ := Option.ne_none_iff_exists'.1 h
  simp only [State.raiseLimited, hv]

/-- A limited event leaves its window open (R708). -/
theorem State.raiseLimited_opens {s : State} {k c : Nat} (x : Nat) (p q r w : Word) (h : s.window? c k = none) :
    ((s.raiseLimited k c x p q r w).window? c k).isSome = true := by
  rw [State.raiseLimited_none _ _ _ _ _ h]
  simp [State.window?]

theorem State.badAccess_accessed (s : State) (a : Nat) : BadAccessed a s (s.badAccess a) := by
  refine ⟨State.raiseLimited_some _ _ _ _ _, fun h => ⟨?_, State.raiseLimited_opens _ _ _ _ _ h, fun hr => ?_⟩⟩
  · exact (AlsoEvents.refl [] s).raiseLimited _ _ _ _ _ _ _
  · unfold State.badAccess
    rw [State.raiseLimited_none _ _ _ _ _ h]
    exact s.raise_last _ _ _ _ _ _ (by decide) hr

theorem State.readReg_bad {s : State} {p a : Nat} (h : badAddr a = true) : (s.readReg p a).2 = 0 := by
  simp only [State.readReg, h, if_true]

/-! Writes at a register. -/

theorem State.writeReg_bad {s : State} {p : Nat} {sl : Bool} {a : Nat} {w : Word} (h : badAddr a = true) :
    s.writeReg p sl a w = s.badAccess a := by
  simp only [State.writeReg, h, if_true]

theorem State.writeReg_absent {s : State} {p : Nat} {sl : Bool} {a : Nat} {w : Word} (h : badAddr a = false)
    (hp : s.regPresent a = false) : s.writeReg p sl a w = s := by
  unfold State.writeReg
  rw [if_neg (by simp [h])]
  split
  · rfl
  · rw [if_neg (by simp [hp])]

theorem State.writeReg_present {s : State} {p : Nat} {sl : Bool} {a : Nat} {w : Word} {r : RegRow} (h : badAddr a = false)
    (hp : s.regPresent a = true) (hr : regRow? a = some r) : s.writeReg p sl a w = s.writePresent p sl r a w := by
  simp only [State.writeReg, h, hr, hp, if_true, Bool.false_eq_true, if_false]

/-- Below the tiles every address without a register is a bad one (R31). -/
theorem regRow?_of_shared {a : Nat} (h : badAddr a = false) (ha : a < 0x1000000) : ∃ r, regRow? a = some r := by
  have hq : quietHole a = false := by
    simp only [quietHole, decide_eq_false (Nat.not_le.2 ha), Bool.false_and]
  simp only [badAddr, hq, Bool.not_false, Bool.and_true, Bool.or_eq_false_iff] at h
  exact Option.isSome_iff_exists.1 (by simpa using h.2)

/-- The registers whose write acts as a command of its own. -/
def commandRegs : List Nat :=
  [R.EVR_CURSOR, R.EVR_FRZCTL, R.BATON_CTRL, R.ILK_CLR] ++ (List.range 8).map R.CHK_CTRL ++ (List.range 4).map R.TPO_CTRL

section
variable (s : State) (p : Nat) (sl : Bool) (r : RegRow) (w : Word)

theorem State.writePresent_cursor : s.writePresent p sl r R.EVR_CURSOR w = s.writeCursor p w := rfl

theorem State.writePresent_freeze : s.writePresent p sl r R.EVR_FRZCTL w = s.writeFrz w := rfl

theorem State.writePresent_baton :
    s.writePresent p sl r R.BATON_CTRL w = if sl && bit w 0 then s.batonMove else s := rfl

theorem State.writePresent_ilk : s.writePresent p sl r R.ILK_CLR w = s.ilkClear w := rfl

theorem State.writePresent_chk {c : Nat} (hc : c < 8) : s.writePresent p sl r (R.CHK_CTRL c) w = s.writeChk c w := by
  have hi : (R.CHK_CTRL c - 0x90100) / 32 = c := by simp only [R.CHK_CTRL]; omega
  have hr : 0x90100 ≤ R.CHK_CTRL c ∧ R.CHK_CTRL c < 0x90200 ∧ R.CHK_CTRL c % 32 = 0 := by simp only [R.CHK_CTRL]; omega
  obtain ⟨hcur, hfrz, hbat, hilk⟩ : R.CHK_CTRL c ≠ R.EVR_CURSOR ∧ R.CHK_CTRL c ≠ R.EVR_FRZCTL ∧ R.CHK_CTRL c ≠ R.BATON_CTRL ∧
      R.CHK_CTRL c ≠ R.ILK_CLR := by
    simp only [R.CHK_CTRL, R.EVR_CURSOR, R.EVR_FRZCTL, R.BATON_CTRL, R.ILK_CLR]; omega
  unfold State.writePresent
  rw [if_neg hcur, if_neg hfrz, if_neg hbat, if_neg hilk, if_pos hr, hi]

theorem State.writePresent_tpo {n : Nat} (hn : n < 4) :
    s.writePresent p sl r (R.TPO_CTRL n) w = if sl then s.writeTpoCtrl n w else s := by
  have hi : (R.TPO_CTRL n - 0x30200) / 32 = n := by simp only [R.TPO_CTRL]; omega
  have hr : 0x30200 ≤ R.TPO_CTRL n ∧ R.TPO_CTRL n < 0x30280 ∧ R.TPO_CTRL n % 32 = 0 := by simp only [R.TPO_CTRL]; omega
  obtain ⟨hcur, hfrz, hbat, hilk, hchk⟩ : R.TPO_CTRL n ≠ R.EVR_CURSOR ∧ R.TPO_CTRL n ≠ R.EVR_FRZCTL ∧
      R.TPO_CTRL n ≠ R.BATON_CTRL ∧ R.TPO_CTRL n ≠ R.ILK_CLR ∧ ¬(0x90100 ≤ R.TPO_CTRL n ∧ R.TPO_CTRL n < 0x90200 ∧ R.TPO_CTRL n % 32 = 0) := by
    simp only [R.TPO_CTRL, R.EVR_CURSOR, R.EVR_FRZCTL, R.BATON_CTRL, R.ILK_CLR]; omega
  unfold State.writePresent
  rw [if_neg hcur, if_neg hfrz, if_neg hbat, if_neg hilk, if_neg hchk, if_pos hr, hi]

/-- Any other register takes a write by the access codes of its row alone (R10). -/
theorem State.writePresent_masked {a : Nat} (h : a ∉ commandRegs) : s.writePresent p sl r a w = s.writeMasked r sl a w := by
  simp only [commandRegs, List.mem_append, List.mem_cons, List.not_mem_nil, or_false, List.mem_map, List.mem_range, not_or,
    not_exists, not_and] at h
  obtain ⟨⟨⟨hcur, hfrz, hbat, hilk⟩, hchk⟩, htpo⟩ := h
  have hchk' : ¬(0x90100 ≤ a ∧ a < 0x90200 ∧ a % 32 = 0) := fun k =>
    hchk ((a - 0x90100) / 32) (by omega) (by simp only [R.CHK_CTRL]; omega)
  have htpo' : ¬(0x30200 ≤ a ∧ a < 0x30280 ∧ a % 32 = 0) := fun k =>
    htpo ((a - 0x30200) / 32) (by omega) (by simp only [R.TPO_CTRL]; omega)
  unfold State.writePresent
  rw [if_neg hcur, if_neg hfrz, if_neg hbat, if_neg hilk, if_neg hchk', if_neg htpo']

end

/-- What a write does to bit `i` of its register by the access codes of R10: the bits of `m` take the written ones, and those of
`c` are cleared where 1 is written. -/
theorem bit_masked (v w m c : Word) {i : Nat} (hi : i < 32) :
    bit (((v &&& ~~~m) ||| (w &&& m)) &&& ~~~(w &&& c)) i =
      ((if bit m i then bit w i else bit v i) && !(bit w i && bit c i)) := by
  simp only [bit, BitVec.getLsbD_and, BitVec.getLsbD_or, BitVec.getLsbD_not, hi, decide_true, Bool.true_and]
  by_cases hb : m.getLsbD i = true <;> simp [hb]

/-- The access codes decide, bit by bit, what a write changes (R10). -/
theorem State.writeMasked_bits (s : State) (r : RegRow) (sl : Bool) (a : Nat) (w : Word) {i : Nat} (hi : i < 32) :
    (s.writeMasked r sl a w).bitOf a i =
      ((if bit r.rw i || (sl && bit (s.sealMask r) i) then bit w i else s.bitOf a i) && !(bit w i && bit r.w1c i)) := by
  have hm : bit (r.rw ||| (if sl then s.sealMask r else 0)) i = (bit r.rw i || (sl && bit (s.sealMask r) i)) := by
    cases sl <;> simp [bit]
  simp only [State.bitOf, State.writeMasked, State.reg_modReg, if_true, bit_masked _ _ _ _ hi, hm]

theorem State.writeMasked_only (s : State) (r : RegRow) (sl : Bool) (a : Nat) (w : Word) :
    OnlyRegs [a] s (s.writeMasked r sl a w) := by
  unfold State.writeMasked
  exact (OnlyRegs.refl _ s).modReg _ (List.mem_singleton_self a)

/-! The event cursor and the freeze. -/

theorem State.setCursor_eq (s : State) (p : Nat) (w : Word) : s.setCursor p w =
    { s with evr := if p < 2 then { s.evr with netCursor := w } else { s.evr with maintCursor := w } } := by
  unfold State.setCursor
  split <;> rfl

/-- A write of EVR.CURSOR moves the cursor of its access port within the log's positions (R605, R615). -/
theorem State.writeCursor_eq (s : State) (p : Nat) (w : Word) :
    s.writeCursor p w = if fld w 15 0 < (if bit w 31 then 4096 else 60000) then
      { s with evr := if p < 2 then { s.evr with netCursor := w &&& 0x8000FFFF } else
        { s.evr with maintCursor := w &&& 0x8000FFFF } } else s := by
  have hlog : posInLog (bit w 31) (fld w 15 0) = decide (fld w 15 0 < (if bit w 31 then 4096 else 60000)) := by
    cases h : bit w 31 <;> rfl
  simp only [State.writeCursor, hlog, decide_eq_true_eq, State.setCursor_eq]

/-- A write of EVR.FRZCTL freezes or unfreezes the log where it asks for one of the two (R608). -/
theorem State.writeFrz_eq (s : State) (w : Word) :
    s.writeFrz w = if bit w 0 = bit w 1 then s else { s with evr := { s.evr with frozen := bit w 0 } } := by
  unfold State.writeFrz
  cases bit w 0 <;> cases bit w 1 <;> rfl

end Sys2Proof.Machine
end

section
/-! The command REGISTER_WRITE: its two write paths, and the writes by no path (R10, R121, R139, R607, R691). -/

namespace Sys2Proof.Machine

/-- A letter's write by port A or B, in the lifecycle states that permit it (R121, R139). -/
def State.LetterPath (s : State) (p : Nat) (sl : Bool) : Prop := p < 2 ∧ sl = true ∧ 1 ≤ s.life ∧ s.life ≤ 3

/-- A write of the maintenance port while it is served (R686, R691). -/
def State.MaintPath (s : State) (p : Nat) (sl : Bool) : Prop := p = 2 ∧ sl = false ∧ s.maintServed = true

/-- What the lifecycle lets the maintenance port write: every register in PROVISIONED and RETURNED, and the cursor and the
freeze always (R607, R691). -/
def State.MaintMay (s : State) (a : Nat) : Prop := s.life = 1 ∨ s.life = 3 ∨ a = R.EVR_CURSOR ∨ a = R.EVR_FRZCTL

/-- The two write paths of R10. -/
def State.WritePath (s : State) (p : Nat) (sl : Bool) (a : Nat) : Prop :=
  s.LetterPath p sl ∨ (s.MaintPath p sl ∧ s.MaintMay a)

theorem State.maintWrite_gate (s : State) (a : Nat) :
    (s.maintWrites || a == R.EVR_CURSOR || a == R.EVR_FRZCTL) = true ↔ s.MaintMay a := by
  simp only [State.maintWrites, State.MaintMay, Bool.or_eq_true, beq_iff_eq, or_assoc]

theorem State.maintWrite_allowed {s : State} {a : Nat} (w : Word) (h : s.MaintMay a) :
    s.maintWrite a w = if badAddr a then (s.writeReg 2 false a w).nextBad else s.writeReg 2 false a w := by
  unfold State.maintWrite
  rw [if_pos ((s.maintWrite_gate a).2 h)]

theorem State.maintWrite_refused {s : State} {a : Nat} (w : Word) (h : ¬s.MaintMay a) : s.maintWrite a w = s.nextWref := by
  unfold State.maintWrite
  rw [if_neg (fun k => h ((s.maintWrite_gate a).1 k))]

/-- The effect of REGISTER_WRITE at its moment. -/
def State.registerWritten (s : State) (p : Nat) (sl : Bool) (a : Nat) (w : Word) : State :=
  if p = 2 then (if !sl && s.maintServed then s.maintWrite a w else s)
  else if sl && decide (1 ≤ s.life) && decide (s.life ≤ 3) then s.writeReg p true a w
  else s

theorem registerWrite_next {p : Nat} (hp : p < 3) (sl : Bool) (a : Nat) (w : Word) (e : Nat) (s : State) :
    exec (.registerWrite p sl a w e) s = .next ((s.atEdge e).registerWritten p sl a w) := by
  change answer (decide (p < 3)) ((s.atEdge e).registerWritten p sl a w) = _
  rw [decide_eq_true hp]
  rfl

theorem tpoArm_next {n : Nat} (hn : n < 4) (w : Word) (s : State) : exec (.tpoArm n w) s = .next (s.writeTpoCtrl n w) := by
  change answer (decide (n < 4)) (s.writeTpoCtrl n w) = _
  rw [decide_eq_true hn]
  rfl

section
variable {s : State} {p : Nat} {sl : Bool} (a : Nat) (w : Word)

theorem State.registerWritten_letter (h : s.LetterPath p sl) : s.registerWritten p sl a w = s.writeReg p sl a w := by
  obtain ⟨hp, rfl, h1, h3⟩ := h
  have hne : p ≠ 2 := by omega
  simp only [State.registerWritten, if_neg hne, h1, h3, decide_true, Bool.and_self, if_true]

theorem State.registerWritten_maint (h : s.MaintPath p sl) : s.registerWritten p sl a w = s.maintWrite a w := by
  obtain ⟨rfl, rfl, hm⟩ := h
  simp only [State.registerWritten, hm, Bool.not_false, Bool.and_self, if_true]

theorem State.registerWritten_none (hp : p < 3) (hl : ¬s.LetterPath p sl) (hm : ¬s.MaintPath p sl) :
    s.registerWritten p sl a w = s := by
  by_cases h2 : p = 2
  · have hc : ¬(!sl && s.maintServed) = true := fun k => hm ⟨h2, by simpa using k⟩
    rw [State.registerWritten, if_pos h2, if_neg hc]
  · have hc : ¬(sl && decide (1 ≤ s.life) && decide (s.life ≤ 3)) = true := fun k =>
      hl ⟨by omega, by simpa [and_assoc] using k⟩
    rw [State.registerWritten, if_neg h2, if_neg hc]

/-- A write by no path of R10 has no effect, but that the maintenance port reports its refusal (R691). -/
theorem State.registerWritten_refused (hp : p < 3) (h : ¬s.WritePath p sl a) :
    (s.MaintPath p sl → s.registerWritten p sl a w = s.nextWref) ∧
      (¬s.MaintPath p sl → s.registerWritten p sl a w = s) := by
  obtain ⟨hl, hmay⟩ := not_or.1 h
  refine ⟨fun hm => ?_, State.registerWritten_none a w hp hl⟩
  rw [State.registerWritten_maint a w hm, State.maintWrite_refused w (fun k => hmay ⟨hm, k⟩)]

/-- A write by a path is a register write; the maintenance port reports a bad address (R10, R31, R691). -/
theorem State.registerWritten_path (h : s.WritePath p sl a) : s.registerWritten p sl a w =
    if p = 2 ∧ badAddr a = true then (s.writeReg p sl a w).nextBad else s.writeReg p sl a w := by
  rcases h with h | ⟨hm, hmay⟩
  · have hne : p ≠ 2 := fun e => absurd h.1 (by omega)
    rw [State.registerWritten_letter a w h, if_neg (fun k => hne k.1)]
  · obtain ⟨rfl, rfl, -⟩ := id hm
    simp only [State.registerWritten_maint a w hm, State.maintWrite_allowed w hmay, true_and]

theorem State.registerWritten_good (h : s.WritePath p sl a) (hb : badAddr a = false) :
    s.registerWritten p sl a w = s.writeReg p sl a w := by
  rw [State.registerWritten_path a w h, if_neg (by simp [hb])]

/-- A write to a bad address is a bad access (R8, R31). -/
theorem State.registerWritten_bad (h : s.WritePath p sl a) (hb : badAddr a = true) : ∃ v, BadAccessed a s v ∧
    s.registerWritten p sl a w = if p = 2 then { v with maint := { v.maint with nextBad := true } } else v := by
  refine ⟨s.badAccess a, s.badAccess_accessed a, ?_⟩
  simp only [State.registerWritten_path a w h, State.writeReg_bad hb, hb, and_true]
  rfl

end

/-- Below the tiles a write of a register that is there acts on its row (R31). -/
theorem State.writeReg_shared {s : State} {a : Nat} (p : Nat) (sl : Bool) (w : Word) (hb : badAddr a = false)
    (hp : s.regPresent a = true) (ha : a < 0x1000000) : ∃ r, s.writeReg p sl a w = s.writePresent p sl r a w := by
  obtain ⟨r, hr⟩ := regRow?_of_shared hb ha
  exact ⟨r, State.writeReg_present hb hp hr⟩

/-- A write of a register without a command of its own changes its RW fields, and SEAL fields in a sealed letter, to the
written bits, and clears the W1C bits that are written 1 (R10). -/
theorem State.writeReg_masked {s : State} {a : Nat} {r : RegRow} (p : Nat) (sl : Bool) (w : Word) (hb : badAddr a = false)
    (hp : s.regPresent a = true) (hr : regRow? a = some r) (hc : a ∉ commandRegs) :
    OnlyRegs [a] s (s.writeReg p sl a w) ∧ ∀ i, i < 32 →
      let takes := bit r.rw i || (sl && bit (s.sealMask r) i)
      (takes = true → bit r.w1c i = false → (s.writeReg p sl a w).bitOf a i = bit w i) ∧
      (takes = false → bit r.w1c i = true → (s.writeReg p sl a w).bitOf a i = (s.bitOf a i && !bit w i)) ∧
      (takes = false → bit r.w1c i = false → (s.writeReg p sl a w).bitOf a i = s.bitOf a i) := by
  rw [State.writeReg_present hb hp hr, State.writePresent_masked _ _ _ _ _ hc]
  refine ⟨s.writeMasked_only r sl a w, fun i hi => ?_⟩
  have hbits := s.writeMasked_bits r sl a w hi
  refine ⟨fun ht hw => ?_, fun ht hw => ?_, fun ht hw => ?_⟩
  · rw [hbits, if_pos ht, hw, Bool.and_false, Bool.not_false, Bool.and_true]
  · rw [hbits, if_neg (ne_true_of_eq_false ht), hw, Bool.and_true]
  · rw [hbits, if_neg (ne_true_of_eq_false ht), hw, Bool.and_false, Bool.not_false, Bool.and_true]

/-- Settles O40: a write by a path is one at its row of the register map, and the registers whose write is a command of its
own stand apart from those that the access codes of R10 alone decide. -/
theorem registerWrites : Obligations.RegisterWrites := by
  unfold Obligations.RegisterWrites
  refine ⟨fun s a aligned e => ⟨_, rfl, ?_⟩, fun s p a h => State.readReg_bad h, fun s p sl a w e hp => ?_⟩
  · by_cases h : badAddr a = true ∨ aligned = false
    · rw [if_pos h, if_pos (by simpa [or_comm] using h)]
      exact State.badAccess_accessed _ a
    · rw [if_neg h, if_neg (by simpa [and_comm] using h)]
  intro u letter maint path sets
  have hpath : path ↔ u.WritePath p sl a := Iff.rfl
  refine ⟨_, registerWrite_next hp sl a w e s, fun hn => ?_, fun h => u.registerWritten_bad a w (hpath.1 h),
    fun h hb ha => ?_, fun h hb ha => ?_⟩
  · obtain ⟨hm, hno⟩ := State.registerWritten_refused (s := u) a w hp hn
    split
    · next k => exact hm k
    · next k => exact hno k
  · exact (State.registerWritten_good a w (hpath.1 h) hb).trans (State.writeReg_absent hb ha)
  have hpres : u.regPresent a = true := ha
  have hshared : a < 0x1000000 → ∃ r, u.registerWritten p sl a w = u.writePresent p sl r a w := fun k => by
    rw [State.registerWritten_good a w (hpath.1 h) hb]
    exact State.writeReg_shared p sl w hb hpres k
  refine ⟨fun r hr hc => ?_, ?_, ?_, ?_, ?_, ?_, ?_⟩
  · rw [State.registerWritten_good a w (hpath.1 h) hb]
    exact State.writeReg_masked p sl w hb hpres hr hc
  · rintro rfl
    obtain ⟨r, hr⟩ := hshared (by decide)
    rw [hr, State.writePresent_cursor, State.writeCursor_eq]
  · rintro rfl
    obtain ⟨r, hr⟩ := hshared (by decide)
    rw [hr, State.writePresent_freeze, State.writeFrz_eq]
  · rintro rfl
    obtain ⟨r, hr⟩ := hshared (by decide)
    rw [hr, State.writePresent_baton]
    split
    · rfl
    · rfl
  · rintro rfl
    obtain ⟨r, hr⟩ := hshared (by decide)
    rw [hr, State.writePresent_ilk]
    rfl
  · rintro n hn rfl
    obtain ⟨r, hr⟩ := hshared (by simp only [R.TPO_CTRL]; omega)
    rw [hr, State.writePresent_tpo _ _ _ _ _ hn]
    cases sl
    · rfl
    · exact tpoArm_next hn w u
  · rintro c hc rfl
    obtain ⟨r, hr⟩ := hshared (by simp only [R.CHK_CTRL]; omega)
    rw [hr, State.writePresent_chk _ _ _ _ _ hc]

end Sys2Proof.Machine
end

section
/-! SUPPORT. Tables after a run of writes and after entries are taken out by key, and the flash's bytes after a slot is erased
or programmed (R84, R140). -/

namespace Sys2Proof.Machine

/-- Entries taken out by their keys read as the default. -/
theorem tabGet_filter_key {α : Type} (d : Nat → α) (p : Nat → Bool) (t : Tab α) (k : Nat) :
    tabGet d (t.filter (fun x => p x.1)) k = if p k then tabGet d t k else d k := by
  induction t with
  | nil => simp [tabGet]
  | cons x r ih =>
    obtain ⟨a, v⟩ := x
    by_cases hak : a = k
    · subst hak
      cases hp : p a <;> simp [hp, tabGet, ih]
    · cases hp : p a <;> simp [hp, tabGet, hak, ih]

/-- The elements of `b`, numbered from `n`, written at the keys `a` + their numbers. -/
theorem tabGet_setMany_zipIdx {α : Type} [DecidableEq α] (d : Nat → α) (z : α) (a k : Nat) (b : List α) (n : Nat) (t : Tab α) :
    tabGet d (tabSetMany d t ((b.zipIdx n).map (fun x => (a + x.2, x.1)))) k =
      if a + n ≤ k ∧ k < a + n + b.length then b.getD (k - (a + n)) z else tabGet d t k := by
  induction b generalizing n t with
  | nil =>
    rw [if_neg (by simp only [List.length_nil]; omega)]
    rfl
  | cons x b ih =>
    simp only [List.zipIdx_cons, List.map_cons, tabSetMany, ih, List.length_cons]
    by_cases hk : k = a + n
    · subst hk
      rw [if_neg (by omega), if_pos (by omega), tabGet_set, Nat.sub_self]
      rfl
    · rw [tabGet_set_ne _ _ _ hk]
      by_cases hin : a + (n + 1) ≤ k ∧ k < a + (n + 1) + b.length
      · rw [if_pos hin, if_pos (by omega), show k - (a + n) = k - (a + (n + 1)) + 1 by omega, List.getD_cons_succ]
      · rw [if_neg hin, if_neg (by omega)]

/-- Byte `a` of the flash; an erased one reads 0xFF (log 7). -/
def State.flashByte (s : State) (a : Nat) : Byte := tabGet (fun _ => 0xFF) s.flash.bytes a

theorem State.flashByte_flashErase (s : State) (slot a : Nat) :
    (s.flashErase slot).flashByte a =
      if s.slotBase slot ≤ a ∧ a < s.slotBase slot + s.slotSize then 0xFF else s.flashByte a := by
  have h := tabGet_filter_key (fun _ => (0xFF : Byte))
    (fun k => decide (k < s.slotBase slot) || decide (s.slotBase slot + s.slotSize ≤ k)) s.flash.bytes a
  refine h.trans ?_
  by_cases hin : s.slotBase slot ≤ a ∧ a < s.slotBase slot + s.slotSize
  · rw [if_pos hin, if_neg (by simp; omega)]
  · rw [if_neg hin, if_pos (by simp; omega)]
    rfl

theorem State.flashByte_flashProgram (s : State) (base : Nat) (b : List Byte) (a : Nat) :
    (s.flashProgram base b).flashByte a =
      if base ≤ a ∧ a < base + b.length then b.getD (a - base) 0 else s.flashByte a :=
  tabGet_setMany_zipIdx _ 0 base a b 0 s.flash.bytes

end Sys2Proof.Machine
end

section
/-! SUPPORT. Records that follow one another into the holding queue (R601). -/

namespace Sys2Proof.Machine

/-- While the holding queue has room, a record created there loses none. -/
theorem State.createOne_lost (s : State) (c x : Nat) (p q r w : Word) (h : s.evr.queue.length < 256) :
    (s.createOne c x p q r w).evr.lost = s.evr.lost := by
  have e : ¬ 256 ≤ s.takeSeq.evr.queue.length := Nat.not_le.2 h
  simp only [State.createOne, State.announce_evr, State.enqueue, if_neg e, ge_iff_le]
  rfl

/-- With room in the holding queue, an event recorded leaves no loss to report. -/
theorem State.raise_reports (s : State) (c x : Nat) (p q r w : Word) (h : s.room 1) :
    (s.raise c x p q r w).evr.lost = none := by
  have h' : s.evr.queue.length + 1 < 256 := h
  have hlt : s.evr.queue.length < 256 := Nat.lt_of_succ_lt h'
  unfold State.raise
  split
  · next hn => rw [State.createOne_lost _ _ _ _ _ _ _ hlt, hn]
  · have hfree : ({ s with evr := { s.evr with lost := none } } : State).evr.queue.length < 256 := hlt
    rw [if_neg (Nat.not_le.2 hlt), State.createOne_lost, State.createOne_lost _ _ _ _ _ _ _ hfree]
    rw [State.createOne_queue _ _ _ _ _ _ _ hfree, List.length_append]
    exact h'

/-- With no loss to report, one free place in the holding queue is enough for an event to be its last record. -/
theorem State.raise_last_of_reported (s : State) (c x : Nat) (p q r w : Word) (hx : x < 256) (hl : s.evr.lost = none)
    (hq : s.evr.queue.length < 256) : LastEvent (s.raise c x p q r w) c x p q r w := by
  refine ⟨s.stamp c x p q r w, ?_, rfl, Nat.mod_eq_of_lt hx, rfl, rfl, rfl, rfl⟩
  simp only [State.raise, hl]
  rw [State.createOne_queue _ _ _ _ _ _ _ hq, List.getLast?_concat]

theorem State.committed_evr (s : State) (l : Letter) : (s.committed l).evr = (s.recorded l).evr := by
  dsimp only [State.committed]
  split
  · exact State.reply_evr _ _ _ _
  · rfl

/-- After a commit that is recorded, with room for two events, a place for one more is free and no loss waits. -/
theorem State.committed_leavesRoom (s : State) {l : Letter} (ht : ltCALIBRATE ≤ l.typ) (h : s.room 2) :
    (s.committed l).evr.lost = none ∧ (s.committed l).evr.queue.length < 256 := by
  have h' : s.evr.queue.length + 2 < 256 := h
  rw [State.committed_evr, State.recorded, if_pos ht]
  exact ⟨State.raise_reports _ _ _ _ _ _ _ (Nat.lt_of_succ_lt h'), Nat.lt_of_le_of_lt (State.raise_length _ _ _ _ _ _ _) h'⟩

theorem AlsoEvents.evr {l : List Nat} {s t : State} (h : AlsoEvents l s t) :
    t.evr = { s.evr with queue := t.evr.queue, lost := t.evr.lost, windows := t.evr.windows } := congrArg State.evr h.1

end Sys2Proof.Machine
end

section
/-! Committed STORE and CLEARLOG letters (R84, R140, R609). -/

namespace Sys2Proof.Machine

/-- `s` with flash bytes `f` and the STORE series `q`. -/
def State.stored (s : State) (f : Tab Byte) (q : Option (Nat × Nat)) : State :=
  { s with flash := { s.flash with bytes := f }, letters := { s.letters with series := q } }

/-- The bytes that a STORE body's group carries. -/
def storeData (g : List Tlv) : List Byte :=
  match tagIn g 3 with
  | some x => x.val
  | none => []

theorem State.doStore_begin (s : State) {l : Letter} (h : storeOp (bodyGroup l) = 0) :
    s.doStore l = s.stored (s.flashErase (tagNat (bodyGroup l) 1 % 256)).flash.bytes
      (some (tagNat (bodyGroup l) 1 % 256, 256)) := by
  simp only [State.doStore, h, if_true]
  rfl

theorem State.doStore_data (s : State) {l : Letter} (h : storeOp (bodyGroup l) = 1) :
    s.doStore l = s.stored
      (s.flashProgram (s.slotBase (tagNat (bodyGroup l) 1 % 256) + tagNat (bodyGroup l) 2) (storeData (bodyGroup l))).flash.bytes
      (some (tagNat (bodyGroup l) 1 % 256, tagNat (bodyGroup l) 2 + (storeData (bodyGroup l)).length)) := by
  simp only [State.doStore, h, if_true, if_neg (show ¬ (1 = 0) by decide)]
  rfl

theorem State.doStore_finish (s : State) {l : Letter} (h : storeOp (bodyGroup l) = 2) :
    s.doStore l = s.stored
      (s.flashProgram (s.slotBase (tagNat (bodyGroup l) 1 % 256)) (storeData (bodyGroup l))).flash.bytes none := by
  simp only [State.doStore, h, if_neg (show ¬ (2 = 0) by decide), if_neg (show ¬ (2 = 1) by decide)]
  rfl

theorem AlsoEvents.flash {l : List Nat} {s t : State} (h : AlsoEvents l s t) : t.flash = s.flash := by rw [h.1]

/-- Flash bytes and a series stored beside recorded events. -/
theorem AlsoEvents.stored {l : List Nat} {s t : State} (h : AlsoEvents l s t) (f : Tab Byte) (q : Option (Nat × Nat)) :
    AlsoEvents l (s.stored f q) (t.stored f q) := by
  refine ⟨?_, h.2⟩
  rw [h.1]
  rfl

/-- The letter that the command of a STORE letter with operation `op` commits. -/
def storeLetter (l : Letter) (op : Nat) : Letter := { l with typ := ltSTORE, body := l.body.set 5 (BitVec.ofNat 8 op) }

/-- A STORE letter that commits: beside its commit, only the flash bytes `f` and the series `q` that its effect stores
change. -/
theorem store_commits {b s : State} {l : Letter} {op : Nat} {f : Tab Byte} {q : Option (Nat × Nat)}
    (h : CommitsAt b s (storeLetter l op))
    (heff : (s.committed (storeLetter l op)).doStore (storeLetter l op) = (s.committed (storeLetter l op)).stored f q) :
    let t := (s.committed (storeLetter l op)).stored f q
    b.storeCmd op l = .next t ∧ Committed s t (storeLetter l op) ∧ AlsoEvents commitRegs (s.stored f q) t :=
  ⟨(CommitsAt.letterCmd (l := { l with body := l.body.set 5 (BitVec.ofNat 8 op) }) h _).trans (congrArg _ heff),
    (s.committed_committed _).mono (fun _ _ => rfl) List.prefix_rfl List.prefix_rfl, (s.committed_frame _).stored f q⟩

theorem AlsoEvents.flashByte {l : List Nat} {s t : State} (h : AlsoEvents l s t) (a : Nat) : t.flashByte a = s.flashByte a := by
  simp only [State.flashByte, h.flash]

theorem AlsoEvents.slotSize {l : List Nat} {s t : State} (h : AlsoEvents l s t) : t.slotSize = s.slotSize := by
  simp only [State.slotSize, h.flash]

theorem AlsoEvents.slotBase {l : List Nat} {s t : State} (h : AlsoEvents l s t) (k : Nat) : t.slotBase k = s.slotBase k := by
  simp only [State.slotBase, h.slotSize]

/-- STORE BEGIN erases its slot and opens a series at 256 (R140). -/
theorem storeBegin_commits {b s : State} {l : Letter} (h : CommitsAt b s (storeLetter l 0))
    (hop : storeOp (bodyGroup (storeLetter l 0)) = 0) :
    let slot := tagNat (bodyGroup (storeLetter l 0)) 1 % 256
    ∃ t, exec (.storeBegin l) b = .next t ∧ Committed s t (storeLetter l 0) ∧
      AlsoEvents commitRegs (s.stored t.flash.bytes (some (slot, 256))) t ∧
      ∀ a, t.flashByte a =
        if s.slotBase slot ≤ a ∧ a < s.slotBase slot + s.slotSize then 0xFF else s.flashByte a := by
  intro slot
  have hu := s.committed_frame (storeLetter l 0)
  obtain ⟨hexec, hcommit, hframe⟩ := store_commits h (State.doStore_begin _ hop)
  refine ⟨_, hexec, hcommit, hframe, fun a => ?_⟩
  rw [← hu.slotBase, ← hu.slotSize, ← hu.flashByte]
  exact State.flashByte_flashErase _ _ _

/-- STORE DATA programs its bytes at its offset in the slot and moves the series behind them (R140). -/
theorem storeData_commits {b s : State} {l : Letter} (h : CommitsAt b s (storeLetter l 1))
    (hop : storeOp (bodyGroup (storeLetter l 1)) = 1) :
    let g := bodyGroup (storeLetter l 1)
    let base := s.slotBase (tagNat g 1 % 256) + tagNat g 2
    ∃ t, exec (.storeData l) b = .next t ∧ Committed s t (storeLetter l 1) ∧
      AlsoEvents commitRegs (s.stored t.flash.bytes (some (tagNat g 1 % 256, tagNat g 2 + (storeData g).length))) t ∧
      ∀ a, t.flashByte a =
        if base ≤ a ∧ a < base + (storeData g).length then (storeData g).getD (a - base) 0 else s.flashByte a := by
  intro g base
  have hu := s.committed_frame (storeLetter l 1)
  obtain ⟨hexec, hcommit, hframe⟩ := store_commits h (State.doStore_data _ hop)
  refine ⟨_, hexec, hcommit, hframe, fun a => ?_⟩
  have hbase : _ = base := congrArg (· + tagNat g 2) (hu.slotBase (tagNat g 1 % 256))
  rw [← hbase, ← hu.flashByte]
  exact State.flashByte_flashProgram _ _ _ _

/-- STORE FINISH programs the header at the slot's base and closes the series (R140). -/
theorem storeFinish_commits {b s : State} {l : Letter} (h : CommitsAt b s (storeLetter l 2))
    (hop : storeOp (bodyGroup (storeLetter l 2)) = 2) :
    let g := bodyGroup (storeLetter l 2)
    let base := s.slotBase (tagNat g 1 % 256)
    ∃ t, exec (.storeFinish l) b = .next t ∧ Committed s t (storeLetter l 2) ∧
      AlsoEvents commitRegs (s.stored t.flash.bytes none) t ∧
      ∀ a, t.flashByte a =
        if base ≤ a ∧ a < base + (storeData g).length then (storeData g).getD (a - base) 0 else s.flashByte a := by
  intro g base
  have hu := s.committed_frame (storeLetter l 2)
  obtain ⟨hexec, hcommit, hframe⟩ := store_commits h (State.doStore_finish _ hop)
  refine ⟨_, hexec, hcommit, hframe, fun a => ?_⟩
  have hbase : _ = base := hu.slotBase (tagNat g 1 % 256)
  rw [← hbase, ← hu.flashByte]
  exact State.flashByte_flashProgram _ _ _ _

/-- A letter that nothing refuses at its commit passes step 10 of R133. -/
theorem State.stepTen_of_commitFail {s : State} {l : Letter} (h : s.commitFail l = none) : s.stepTen l = none := by
  unfold State.commitFail at h
  split at h
  · cases h
  split at h
  · cases h
  split at h
  · cases h
  split at h
  · cases h
  exact h

theorem State.stepTen_clearlog (s : State) (l : Letter) :
    s.stepTen { l with typ := ltCLEARLOG } =
      if (s.evr.clearCount (tagNat (bodyGroup { l with typ := ltCLEARLOG }) 1)).isNone then some ⟨rfBOUNDS, 0, false⟩
      else none := by
  have hlanes : letterLanes { l with typ := ltCLEARLOG } = [] := rfl
  unfold State.stepTen
  rw [hlanes, if_neg (by simp)]
  rfl

/-- A CLEARLOG letter that nothing refuses names a record of the main log (R609). -/
theorem CommitsAt.clearCount {b s : State} {l : Letter} (h : CommitsAt b s { l with typ := ltCLEARLOG }) :
    ∃ n, s.evr.clearCount (tagNat (bodyGroup { l with typ := ltCLEARLOG }) 1) = some n := by
  obtain ⟨-, -, hf⟩ := h
  have hten := State.stepTen_of_commitFail hf
  refine Option.ne_none_iff_exists'.1 fun hnone => ?_
  rw [State.stepTen_clearlog, hnone] at hten
  cases hten

theorem AlsoEvents.clearCount {l : List Nat} {s t : State} (h : AlsoEvents l s t) (n : Nat) :
    t.evr.clearCount n = s.evr.clearCount n := by
  rw [h.evr]
  rfl

/-- Records cleared in the main log beside recorded events. -/
theorem AlsoEvents.cleared {l : List Nat} {s t : State} (h : AlsoEvents l s t) (n : Nat) :
    AlsoEvents l { s with evr := { s.evr with main := (s.evr.clear n).main } } { t with evr := t.evr.clear n } := by
  refine ⟨?_, h.2⟩
  rw [h.1]
  rfl

theorem State.doClearlog_of_count {s : State} {l : Letter} {n : Nat}
    (h : s.evr.clearCount (tagNat (bodyGroup l) 1) = some n) :
    s.doClearlog l = ({ s with evr := s.evr.clear n } : State).raise 0x6002 noSource (BitVec.ofNat 32 n)
      (BitVec.ofNat 32 l.keyslot) (BitVec.ofNat 32 l.seq) s.tickLo := by
  simp only [State.doClearlog, h]

/-- Recording an event keeps a commit. -/
theorem Committed.raise {s t : State} {l : Letter} (h : Committed s t l) (c x : Nat) (p q r w : Word) :
    Committed s (t.raise c x p q r w) l :=
  have hraise := (AlsoEvents.refl [] t).raise c x p q r w
  h.mono (fun a ha => hraise.reg List.not_mem_nil (commitRegs_not_eventRegs a ha)) hraise.queue hraise.sent

/-- The effect of a CLEARLOG letter beside its commit: the records up to the one it names are cleared, and their number is
the last event recorded (R609). -/
theorem State.committed_doClearlog {s : State} {m : Letter} {n : Nat} (ht : ltCALIBRATE ≤ m.typ) (hroom : s.room 2)
    (hn : s.evr.clearCount (tagNat (bodyGroup m) 1) = some n) :
    let t := (s.committed m).doClearlog m
    Committed s t m ∧ AlsoEvents commitRegs { s with evr := { s.evr with main := (s.evr.clear n).main } } t ∧
      LastEvent t 0x6002 noSource (BitVec.ofNat 32 n) (BitVec.ofNat 32 m.keyslot) (BitVec.ofNat 32 m.seq) s.tickLo := by
  have hu := s.committed_frame m
  have hcommit := s.committed_committed m
  obtain ⟨hlost, hspare⟩ := s.committed_leavesRoom ht hroom
  generalize s.committed m = u at *
  have hclear : Committed s { u with evr := u.evr.clear n } m :=
    hcommit.mono (fun _ _ => rfl) List.prefix_rfl List.prefix_rfl
  have htick : u.tickLo = s.tickLo := congrArg (BitVec.ofNat 32) hu.tick
  dsimp only
  rw [State.doClearlog_of_count ((hu.clearCount _).trans hn), htick]
  exact ⟨hclear.raise _ _ _ _ _ _, (hu.cleared n).raise _ _ _ _ _ _,
    State.raise_last_of_reported _ _ _ _ _ _ _ (by decide) hlost hspare⟩

/-- Settles O32: a letter's effect acts on the state that its commit leaves (`committed_committed`), where a STORE stores flash
bytes and a series alone, and where the record of a CLEARLOG is the last of those that join the holding queue. -/
theorem storeAndClearlog : Obligations.StoreAndClearlog := by
  unfold Obligations.StoreAndClearlog
  intro b s l _
  refine ⟨fun op hop => ?_, fun h hroom => ?_⟩
  · intro m g slot off data c next h hg
    obtain rfl | rfl | rfl : op = 0 ∨ op = 1 ∨ op = 2 := by omega
    · exact storeBegin_commits h hg
    · exact storeData_commits h hg
    · exact storeFinish_commits h hg
  · obtain ⟨n, hn⟩ := h.clearCount
    have hrole : ltCALIBRATE ≤ ltCLEARLOG := by decide
    obtain ⟨hcommit, hframe, hlast⟩ := State.committed_doClearlog hrole hroom hn
    exact ⟨_, n, h.letterCmd _, hcommit, hn, hframe, hlast⟩

end Sys2Proof.Machine
end
